-- ==== Sys2Proof/Word.lean ====
section
/-! DEFINITION. The word and byte types of the model (R14: little-endian bytes; R23: registers of 32 or 64 bits). -/

namespace Sys2Proof

/-- One byte of memory, of a frame or of a descriptor (R14). -/
abbrev Byte := BitVec 8

/-- A register's contents; a 32-bit register uses the low half (R23). -/
abbrev Word := BitVec 64

end Sys2Proof
end

