-- ==== Sys2Proof/Syntax.lean ====
section
/-! DEFINITION. The commands of the block: one constructor for each row of the opcode table. The operands of a command
are what its sender supplies: the instance it names, a register value, a received frame, a reading, a training
result. -/

namespace Sys2Proof

/-- Who sends a register access (R450, R533), with the requester's own number (PAGE_ERR_REQ of R529). -/
inductive Agent where
  | host (req : BitVec 16)
  | gpCore (i : Fin 16) (secure : Bool)
  | ccSecure (i : Fin 8)
  | ccNonsecure (i : Fin 8)
  | mailbox
  deriving DecidableEq, Repr

/-- A received Tipra frame after the checks that need no table (R389): header fields, message header of a START
frame as a 32-byte little-endian number (R403), and body. KIND is the row's. -/
structure Frame where
  start : Bool
  last : Bool
  retx : Bool
  live : Bool
  src : BitVec 10
  dst : BitVec 10
  session : BitVec 16
  peerSession : BitVec 16
  seq : BitVec 32
  ack : BitVec 32
  limit : BitVec 32
  sentEt : BitVec 64
  hdr : BitVec 256
  body : List Byte
  deriving DecidableEq, Repr

/-- IEEE 1588 messages that the port sends (R408). -/
inductive PtpKind where
  | sync | announce | delayReq
  deriving DecidableEq, Repr

/-- IEEE 1588 messages that a port takes in (R408). Times are in ticks of ET. The announce content is the data set
that the default best master clock algorithm compares, most significant first. -/
inductive PtpMsg where
  | announce (domain : BitVec 8) (priority1 : BitVec 8) (clockClass : BitVec 8) (accuracy : BitVec 8)
      (variance : BitVec 16) (priority2 : BitVec 8) (identity : BitVec 64) (steps : BitVec 16) (portId : BitVec 80)
  | sync (domain : BitVec 8) (twoStep : Bool) (origin : BitVec 64) (correction : BitVec 64)
  | followUp (domain : BitVec 8) (origin : BitVec 64) (correction : BitVec 64)
  | delayReq (domain : BitVec 8) (requester : BitVec 80)
  | delayResp (domain : BitVec 8) (received : BitVec 64) (correction : BitVec 64)
  | management
  deriving DecidableEq, Repr

/-- Why the host link left service (R436). -/
inductive HostCause where
  | dlDown | bmeClear | surpriseRemoval
  deriving DecidableEq, Repr

/-- Host resets that the link receives (R436). -/
inductive HostReset where
  | hotReset | linkDisable | perst | flr
  deriving DecidableEq, Repr

/-- Why an engine reset runs (R482, R494). -/
inductive EngCause where
  | request (a : Agent)
  | rung3
  deriving DecidableEq, Repr

/-- Why a cold reset runs (R484). -/
inductive ColdCause where
  | request (a : Agent)
  | powerUp
  | resetInput
  deriving DecidableEq, Repr

/-- The outcome of the training of one HBM stack (R310): for each channel the two lane repairs (127: none), the
channels that failed, the rate step, and whether the stored map was used. -/
structure TrainResult where
  repairs : List (BitVec 7 × BitVec 7)
  failed : BitVec 32
  rate : BitVec 2
  fromMap : Bool
  deriving DecidableEq, Repr

/-- What a maintenance activity found (R489, R314, R313). -/
structure ActivityResult where
  ok : Bool
  corrected : BitVec 32
  uncorrectable : List (BitVec 46)
  errors : List (BitVec 6 × BitVec 31 × BitVec 7)
  deriving DecidableEq, Repr

/-- The commands. -/
inductive Instr where

  /-- QUE_TAIL_WRITE (R52). -/
  | queTailWrite (q : Fin 1024) (v : BitVec 32) (a : Agent)
  /-- QUE_ENABLE (R54). -/
  | queEnable (q : Fin 1024) (a : Agent)
  /-- QUE_DRAIN (R83). -/
  | queDrain (q : Fin 1024) (a : Agent)
  /-- QUE_RESUME (R70). -/
  | queResume (q : Fin 1024) (a : Agent)
  /-- QRESET (R82). -/
  | qreset (q : Fin 1024) (a : Agent)
  /-- NOP (R10). -/
  | nop (q : Fin 1024)
  /-- FENCE (R62). -/
  | fence (q : Fin 1024)
  /-- STAMP (R64). -/
  | stamp (q : Fin 1024)
  /-- LOOKUP_POOL (R156). -/
  | lookupPool (q : Fin 1024)
  /-- LOOKUP_ROWS (R157). -/
  | lookupRows (q : Fin 1024)
  /-- INTERACT (R158). -/
  | interact (q : Fin 1024)
  /-- INTERACT_SAMPLE (R152). -/
  | interactSample (q : Fin 1024) (seq : BitVec 32) (sample : Nat)
  /-- GRAD_INTAKE (R207). -/
  | gradIntake (q : Fin 1024)
  /-- INTAKE_COUNT_END (R215). -/
  | intakeCountEnd (q : Fin 1024) (seq : BitVec 32)
  /-- INTAKE_COMMIT (R219). -/
  | intakeCommit (q : Fin 1024) (seq : BitVec 32)
  /-- SCATTER_UPDATE_GRAD (R248). -/
  | scatterUpdateGrad (q : Fin 1024)
  /-- SCATTER_UPDATE_DELTA (R247). -/
  | scatterUpdateDelta (q : Fin 1024)
  /-- SCATTER_UPDATE_OVERWRITE (R250). -/
  | scatterUpdateOverwrite (q : Fin 1024)
  /-- CONTRIBUTION_TAKE_IN (R245). -/
  | contributionTakeIn (q : Fin 1024) (seq : BitVec 32)
  /-- MERGE_HOLD_EXPIRY (R246). -/
  | mergeHoldExpiry (r : Fin 8)
  /-- MERGE_DRAIN (R247). -/
  | mergeDrain (r : Fin 8) (entry : Nat)
  /-- TOUCHED_LIST_APPEND (R247). -/
  | touchedListAppend (r : Fin 8)
  /-- UNIT_ADD (R252). -/
  | unitAdd (q : Fin 1024) (seq : BitVec 32)
  /-- OPTIMIZE (R255). -/
  | optimize (q : Fin 1024)
  /-- OPTIMIZE_FIRE (R253). -/
  | optimizeFire (q : Fin 1024) (seq : BitVec 32)
  /-- OPTIMIZE_ROW_UPDATE (R256). -/
  | optimizeRowUpdate (q : Fin 1024) (seq : BitVec 32)
  /-- CUSTOM_HANDLER_RETURN (R258). -/
  | customHandlerReturn (r : Fin 8) (call : Nat) (ok : Bool) (data : List Byte)
  /-- CUSTOM_HANDLER_TIMEOUT (R258). -/
  | customHandlerTimeout (r : Fin 8) (call : Nat)
  /-- REQUANT (R191). -/
  | requant (q : Fin 1024)
  /-- REQUANT_ROW (R193). -/
  | requantRow (q : Fin 1024) (seq : BitVec 32)
  /-- COPY (R425). -/
  | copy (q : Fin 1024)
  /-- COPY_INGEST (R406). -/
  | copyIngest (q : Fin 1024)
  /-- INGEST_BATCH_TAKE (R406). -/
  | ingestBatchTake (q : Fin 1024) (seq : BitVec 32)
  /-- FILL (R429). -/
  | fill (q : Fin 1024)
  /-- COPY_ENGINE_START (R424). -/
  | copyEngineStart (e : Fin 16)
  /-- CONFIRM_READ_DONE (R442). -/
  | confirmReadDone (entry : Nat) (upto : Nat)
  /-- FLUSH_READ_DONE (R433). -/
  | flushReadDone (q : Fin 1024) (seq : BitVec 32)
  /-- GO_RESPONSE (R432). -/
  | goResponse (q : Fin 1024) (seq : BitVec 32)
  /-- MIGRATE (R376). -/
  | migrate (q : Fin 1024)
  /-- MIGRATE_PAGE (R378). -/
  | migratePage (q : Fin 1024) (seq : BitVec 32)
  /-- EXCHANGE (R273). -/
  | exchange (q : Fin 1024)
  /-- CHAIN_REDUCE (R282). -/
  | chainReduce (q : Fin 1024)
  /-- INV_RANGE (R369). -/
  | invRange (q : Fin 1024)
  /-- FAULT_REPLY (R362). -/
  | faultReply (q : Fin 1024)
  /-- CANCEL (R75). -/
  | cancel (q : Fin 1024)
  /-- MAINT_SCRUB_HBM (R489). -/
  | maintScrubHbm (q : Fin 1024)
  /-- MAINT_SCRUB_LLS (R489). -/
  | maintScrubLls (q : Fin 1024)
  /-- MAINT_REFRESH (R307). -/
  | maintRefresh (q : Fin 1024)
  /-- MAINT_RETRAIN (R313). -/
  | maintRetrain (q : Fin 1024)
  /-- MAINT_SPARE_SWAP (R313). -/
  | maintSpareSwap (q : Fin 1024)
  /-- MAINT_TRAFFIC_GEN (R314). -/
  | maintTrafficGen (q : Fin 1024)
  /-- MAINT_CAPO (R319). -/
  | maintCapo (q : Fin 1024)
  /-- MAINT_COMPACT (R509). -/
  | maintCompact (q : Fin 1024)
  /-- MAINT_ACTIVITY_END (R492). -/
  | maintActivityEnd (slot : Fin 32) (res : ActivityResult)
  /-- COMPLETION_RECORD_WRITE (R63). -/
  | completionRecordWrite (q : Fin 1024) (seq : BitVec 32)
  /-- DESCRIPTOR_TIMEOUT (R81). -/
  | descriptorTimeout (q : Fin 1024) (seq : BitVec 32)
  /-- IRQ_DELAY_EXPIRY (R68). -/
  | irqDelayExpiry (q : Fin 1024)
  /-- SLICE_START (R122). -/
  | sliceStart (c : Fin 64)
  /-- SEQ_NOP (R95). -/
  | seqNop (c : Fin 64)
  /-- SEQ_END (R95). -/
  | seqEnd (c : Fin 64)
  /-- SEQ_TRAP (R95). -/
  | seqTrap (c : Fin 64)
  /-- SEQ_WAIT (R95). -/
  | seqWait (c : Fin 64)
  /-- SEQ_WAIT_EXPIRY (R95). -/
  | seqWaitExpiry (c : Fin 64)
  /-- SEQ_SKIP (R95). -/
  | seqSkip (c : Fin 64)
  /-- SEQ_LOOP (R95). -/
  | seqLoop (c : Fin 64)
  /-- SEQ_ENDL (R95). -/
  | seqEndl (c : Fin 64)
  /-- SEQ_MOVI (R95). -/
  | seqMovi (c : Fin 64)
  /-- SEQ_MOVC (R95). -/
  | seqMovc (c : Fin 64)
  /-- SEQ_ADD (R95). -/
  | seqAdd (c : Fin 64)
  /-- SEQ_SUB (R95). -/
  | seqSub (c : Fin 64)
  /-- SEQ_MUL (R95). -/
  | seqMul (c : Fin 64)
  /-- SEQ_IDX (R95). -/
  | seqIdx (c : Fin 64)
  /-- SEQ_ROW (R95). -/
  | seqRow (c : Fin 64)
  /-- SEQ_HASH (R95). -/
  | seqHash (c : Fin 64)
  /-- SEQ_BND (R95). -/
  | seqBnd (c : Fin 64)
  /-- SEQ_NEXT (R95). -/
  | seqNext (c : Fin 64)
  /-- SEQ_SEEK (R95). -/
  | seqSeek (c : Fin 64)
  /-- SEQ_LD (R95). -/
  | seqLd (c : Fin 64)
  /-- SEQ_EMIT (R96). -/
  | seqEmit (c : Fin 64)
  /-- SEQ_CLOSE (R95). -/
  | seqClose (c : Fin 64)
  /-- POOL_PHASE_END (R101). -/
  | poolPhaseEnd (c : Fin 64)
  /-- ROW_ITEM_CONSUME (R124). -/
  | rowItemConsume (c : Fin 64)
  /-- BAG_DELIVER (R136). -/
  | bagDeliver (c : Fin 64)
  /-- STREAM_ERROR_EFFECT (R104). -/
  | streamErrorEffect (c : Fin 64)
  /-- PAGE_WALK (R344). -/
  | pageWalk (die : Fin 2) (asid : BitVec 16) (va : BitVec 52)
  /-- BATCH_WINDOW_EXPIRY (R360). -/
  | batchWindowExpiry (die : Fin 2)
  /-- TRN_BATCH_FLUSH (R382). -/
  | trnBatchFlush (die : Fin 2) (a : Agent)
  /-- FAULT_BATCH_WRITE (R361). -/
  | faultBatchWrite (die : Fin 2)
  /-- RESIDENT_EPOCH_END (R148). -/
  | residentEpochEnd (slot : Fin 8)
  /-- RESIDENT_LOAD (R147). -/
  | residentLoad (slot : Fin 8) (v : BitVec 64) (a : Agent)
  /-- RESIDENT_LOAD_DONE (R163). -/
  | residentLoadDone (slot : Fin 8)
  /-- ACM_RELEASE (R162). -/
  | acmRelease (c : Fin 64) (tile : Fin 128) (a : Agent)
  /-- QNT_LOAD_START (R180). -/
  | qntLoadStart (a : Agent)
  /-- QNT_LOAD_ABORT (R181). -/
  | qntLoadAbort (a : Agent)
  /-- QNT_LOAD_RUN (R181). -/
  | qntLoadRun
  /-- QNT_LOAD_END (R183). -/
  | qntLoadEnd
  /-- BATCH_CLOSE_TIMER (R284). -/
  | batchCloseTimer (r : Fin 8)
  /-- DATA_FRAME_SEND (R399). -/
  | dataFrameSend (p : Fin 8)
  /-- ACK (R395). -/
  | ack (p : Fin 8) (f : Frame)
  /-- NAK (R396). -/
  | nak (p : Fin 8) (f : Frame)
  /-- IDLE (R395). -/
  | idle (p : Fin 8) (f : Frame)
  /-- HELLO (R393). -/
  | hello (p : Fin 8) (f : Frame)
  /-- HELLO_ACK (R393). -/
  | helloAck (p : Fin 8) (f : Frame)
  /-- BYE (R412). -/
  | bye (p : Fin 8) (f : Frame)
  /-- BATCH (R286). -/
  | batch (p : Fin 8) (f : Frame)
  /-- UNIT (R285). -/
  | unit (p : Fin 8) (f : Frame)
  /-- CHAIN (R276). -/
  | chain (p : Fin 8) (f : Frame)
  /-- CHAIN_DONE (R279). -/
  | chainDone (p : Fin 8) (f : Frame)
  /-- CHAIN_FAIL (R292). -/
  | chainFail (p : Fin 8) (f : Frame)
  /-- REFUSE (R291). -/
  | refuse (p : Fin 8) (f : Frame)
  /-- READ_REQ (R404). -/
  | readReq (p : Fin 8) (f : Frame)
  /-- READ_RESP (R404). -/
  | readResp (p : Fin 8) (f : Frame)
  /-- WRITE (R404). -/
  | write (p : Fin 8) (f : Frame)
  /-- WRITE_ACK (R404). -/
  | writeAck (p : Fin 8) (f : Frame)
  /-- INGEST (R405). -/
  | ingest (p : Fin 8) (f : Frame)
  /-- PTP_MESSAGE (R408). -/
  | ptpMessage (p : Fin 8) (msg : PtpMsg)
  /-- REORDER_DEADLINE (R286). -/
  | reorderDeadline (r : Fin 8)
  /-- RELEASED_ITEM_APPLY (R287). -/
  | releasedItemApply (r : Fin 8)
  /-- SPILL_RESEND (R291). -/
  | spillResend (n : BitVec 10)
  /-- ACK_TIMER (R395). -/
  | ackTimer (n : BitVec 10)
  /-- IDLE_TIMER (R395). -/
  | idleTimer (n : BitVec 10)
  /-- NAK_REPEAT_TIMER (R396). -/
  | nakRepeatTimer (n : BitVec 10)
  /-- RTO_EXPIRY (R396). -/
  | rtoExpiry (n : BitVec 10)
  /-- HELLO_TIMER (R393). -/
  | helloTimer (n : BitVec 10)
  /-- PEER_SILENCE_TIMEOUT (R412). -/
  | peerSilenceTimeout (n : BitVec 10)
  /-- PORT_DOWN_TIMEOUT (R411). -/
  | portDownTimeout (p : Fin 8)
  /-- DETACH_TIMEOUT (R414). -/
  | detachTimeout (n : BitVec 10)
  /-- MODULE_INSERT (R411). -/
  | moduleInsert (p : Fin 8)
  /-- MODULE_READY (R411). -/
  | moduleReady (p : Fin 8)
  /-- LINK_LOCK (R411). -/
  | linkLock (p : Fin 8)
  /-- LINK_LOSS (R411). -/
  | linkLoss (p : Fin 8) (removed : Bool)
  /-- TXP_ENABLE (R411). -/
  | txpEnable (p : Fin 8) (on : Bool) (a : Agent)
  /-- ATTACH (R393). -/
  | attach (n : BitVec 10) (a : Agent)
  /-- DETACH (R414). -/
  | detach (n : BitVec 10) (a : Agent)
  /-- MRG_SPILL_SKIP (R294). -/
  | mrgSpillSkip (r : Fin 8) (a : Agent)
  /-- SEC_KEY_INSTALL (R464). -/
  | secKeyInstall (a : Agent)
  /-- SEC_KEY_REMOVE (R465). -/
  | secKeyRemove (a : Agent)
  /-- SYNC_LOSS_TIMEOUT (R39). -/
  | syncLossTimeout
  /-- SLEW_END (R40). -/
  | slewEnd
  /-- LEAF_RELOAD (R34). -/
  | leafReload
  /-- TREE_CALIBRATION (R34). -/
  | treeCalibration (skew : BitVec 16)
  /-- TIM_SET (R541). -/
  | timSet (a : Agent)
  /-- TIM_NOW_READ (R542). -/
  | timNowRead (a : Agent)
  /-- DL_DOWN (R436). -/
  | dlDown (cause : HostCause)
  /-- DL_UP (R437). -/
  | dlUp
  /-- LINK_RECOVERY (R436). -/
  | linkRecovery
  /-- HELD_TIMEOUT (R436). -/
  | heldTimeout
  /-- HOST_RESET_RECEIVED (R436). -/
  | hostResetReceived (cause : HostReset)
  /-- HLK_RESUME (R440). -/
  | hlkResume (a : Agent)
  /-- HOST_SNOOP (R421). -/
  | hostSnoop (addr : BitVec 64)
  /-- CACHE_ENABLE (R421). -/
  | cacheEnable (on : Bool)
  /-- JOURNAL_CLEAR_SEL (R447). -/
  | journalClearSel (a : Agent)
  /-- JOURNAL_CLEAR_ALL (R447). -/
  | journalClearAll (a : Agent)
  /-- HBM_TEMP_READING (R306). -/
  | hbmTempReading (stack : Fin 16) (t : BitVec 8)
  /-- CAP_TEMP_READING (R309). -/
  | capTempReading (port : Fin 16) (t : BitVec 8)
  /-- HBM_TRAINING_DONE (R310). -/
  | hbmTrainingDone (stack : Fin 16) (res : TrainResult)
  /-- CAPO_WINDOW (R318). -/
  | capoWindow
  /-- LLS_PART_WRITE (R324). -/
  | llsPartWrite (r : Fin 8) (v : BitVec 32) (a : Agent)
  /-- LLS_PIN_ENABLE (R327). -/
  | llsPinEnable (r : Fin 8) (n : Fin 16) (a : Agent)
  /-- LLS_PIN_RELEASE (R327). -/
  | llsPinRelease (r : Fin 8) (n : Fin 16) (a : Agent)
  /-- PIN_FILL_DONE (R327). -/
  | pinFillDone (r : Fin 8) (n : Fin 16)
  /-- PIN_RELEASE_DONE (R327). -/
  | pinReleaseDone (r : Fin 8) (n : Fin 16)
  /-- UE_DETECT (R493). -/
  | ueDetect (addr : BitVec 46) (lls : Bool) (scrub : Bool)
  /-- HEAT_EPOCH (R374). -/
  | heatEpoch (die : Fin 2)
  /-- MR_ENABLE (R456). -/
  | mrEnable (i : Fin 256) (v : BitVec 64) (a : Agent)
  /-- MR_DISABLE (R462). -/
  | mrDisable (i : Fin 256) (a : Agent)
  /-- MR_DRAIN_END (R462). -/
  | mrDrainEnd (i : Fin 256)
  /-- REGION_WIPE_END (R463). -/
  | regionWipeEnd (i : Fin 256)
  /-- LC_TRANSITION (R467). -/
  | lcTransition (target : BitVec 2) (confirm : BitVec 8) (a : Agent)
  /-- PAGE_WORLD_WRITE (R454). -/
  | pageWorldWrite (page : Fin 8192) (secure : Bool) (a : Agent)
  /-- PAGE_WORLD_LOCK (R452). -/
  | pageWorldLock (page : Fin 8192) (a : Agent)
  /-- FUNCTION_RESET (R481). -/
  | functionReset (page : Fin 8192) (a : Agent)
  /-- PAGE_ENABLE (R531). -/
  | pageEnable (page : Fin 8192) (on : Bool) (a : Agent)
  /-- PAGE_FENCE (R27). -/
  | pageFence (page : Fin 8192) (a : Agent)
  /-- PAGE_READMIT (R495). -/
  | pageReadmit (page : Fin 8192) (a : Agent)
  /-- LOGIC_ERROR_FENCE (R26). -/
  | logicErrorFence (page : Fin 8192)
  /-- PAGE_IRQ_STAT_CLEAR (R534). -/
  | pageIrqStatClear (page : Fin 8192) (v : BitVec 32) (a : Agent)
  /-- PAGE_IRQ_EN_WRITE (R534). -/
  | pageIrqEnWrite (page : Fin 8192) (v : BitVec 32) (a : Agent)
  /-- PAGE_IRQ_FORCE (R529). -/
  | pageIrqForce (page : Fin 8192) (v : BitVec 32) (a : Agent)
  /-- COUNTER_CLEAR (R161). -/
  | counterClear (page : Fin 8192) (a : Agent)
  /-- PEAK_CLEAR (R333). -/
  | peakClear (page : Fin 8192) (a : Agent)
  /-- REGISTER_WRITE (R23). -/
  | registerWrite (off : BitVec 25) (size : BitVec 2) (data : BitVec 64) (a : Agent)
  /-- POWER_STATE_REQUEST (R478). -/
  | powerStateRequest (req : BitVec 3) (a : Agent)
  /-- POWER_STATE_ENTRY (R478). -/
  | powerStateEntry
  /-- POWER_REQUEST_ABANDON (R478). -/
  | powerRequestAbandon
  /-- POWER_STATE_EXIT (R478). -/
  | powerStateExit
  /-- ENG_RESET (R482). -/
  | engReset (cause : EngCause)
  /-- QUIESCE_BUDGET_EXPIRY (R483). -/
  | quiesceBudgetExpiry
  /-- COLD_RESET (R484). -/
  | coldReset (cause : ColdCause)
  /-- POWER_GOOD_LOSS (R477). -/
  | powerGoodLoss
  /-- VDDC_SETTLED (R476). -/
  | vddcSettled (die : Fin 2) (mv : BitVec 10)
  /-- PWR_READY (R482). -/
  | pwrReady (a : Agent)
  /-- WATCHDOG_EXPIRY (R548). -/
  | watchdogExpiry (k : Fin 8)
  /-- HEARTBEAT_WRITE (R546). -/
  | heartbeatWrite (k : Fin 8) (v : BitVec 32) (a : Agent)
  /-- BRIDGE_LANE_FAIL (R550). -/
  | bridgeLaneFail (die : Fin 2)
  /-- EVR_SW_WRITE (R513). -/
  | evrSwWrite (code : BitVec 16) (sev : BitVec 3) (a : Agent)
  /-- RECORD_FLASH_WRITE (R501). -/
  | recordFlashWrite
  /-- RECORDER_COMPACT_AUTO (R509). -/
  | recorderCompactAuto
  /-- COMPACTION_END (R509). -/
  | compactionEnd
  /-- DIRECTORY_CHECKPOINT (R500). -/
  | directoryCheckpoint
  /-- OP_SECONDS_TICK (R500). -/
  | opSecondsTick
  /-- TRACE_RING_WRITE (R519). -/
  | traceRingWrite
  /-- OPCODE_NOT_DEFINED (R10). -/
  | opcodeNotDefined (q : Fin 1024)
  /-- EAPOL_FRAME (R386). -/
  | eapolFrame (p : Fin 8) (body : List Byte)
  /-- PAUSE_FRAME (R384). -/
  | pauseFrame (p : Fin 8)
  /-- FRAME_CHECK_FAIL (R391). -/
  | frameCheckFail (p : Fin 8) (bytes : Nat)
  /-- PTP_MESSAGE_INTERVAL (R408). -/
  | ptpMessageInterval (p : Fin 8) (kind : PtpKind)
  /-- ANNOUNCE_RECEIPT_TIMEOUT (R409). -/
  | announceReceiptTimeout (p : Fin 8)
  /-- CAPACITY_TRAINING_DONE (R331). -/
  | capacityTrainingDone (port : Fin 16) (ok : Bool) (sizeGib : BitVec 8)
  /-- CLIENT_PORT_WRITE (R3). -/
  | clientPortWrite (port : Fin 16) (addr : BitVec 56) (data : List Byte) (secure : Bool)
  /-- CLIENT_PORT_BEAT_ACCEPT (R44). -/
  | clientPortBeatAccept (port : Fin 16)
  /-- ROW_DATA_ARRIVAL (R108). -/
  | rowDataArrival (c : Fin 64) (item : Nat)
  /-- DIE_TEMP_READING (R521). -/
  | dieTempReading (die : Fin 2) (t : BitVec 8)
  /-- UNCORRECTABLE_CORE_ERROR (R547). -/
  | uncorrectableCoreError (k : Fin 8)
  /-- D3HOT_TRANSITION (R419). -/
  | d3hotTransition (toD3 : Bool)
  deriving DecidableEq, Repr

end Sys2Proof
end

