-- ==== Sys2Proof/Decode.lean ====
section
/-! DEFINITION. The command that a word of the opcode table spells. No row of the table gives bits: the commands are
register accesses, frames, readings and events, and none is a word of an instruction memory. -/

namespace Sys2Proof

/-- The command spelled by a word of `nbits` bits: none, because no row of the table gives bits. -/
def decodeTableWord (_nbits _w : Nat) : Option Instr := none

end Sys2Proof
end

