-- ==== Sys2Proof/Config.lean ====
section
/-! DEFINITION. The free values: what the spec leaves open where the engine goes on. -/

namespace Sys2Proof.Config

/-- A free value: nothing constrains it. Each use applies it to the counter `free` of the state, which the use
advances (log entry 3). -/
opaque freeBits : Nat → BitVec 64

/-- The address space under which a home applies released items and serves visits, by the world of the work: the spec
names none (log entry 20). -/
opaque homeAsid : Bool → BitVec 16

/-- The set of a line in its slice: the spec gives the ways of the CACHE use and no index (R323; log entry 30). -/
opaque llsSet : Nat → Nat

/-- The set of a translation in an L2, by ASID, granule and size code: R352 gives 16 ways and no index (log entry 17). -/
opaque l2Set : Nat → Nat → Nat → Nat

/-- The set of an access counter, by ASID and granule: R374 gives 8 ways and no index (log entry 18). -/
opaque heatSet : Nat → Nat → Nat

/-- The 32 lanes of a beat of the traffic generator, by pattern, seed and beat, where R336 does not fix them: PRBS, and
patterns that are not used (log entry 155). -/
opaque tgBeat : Nat → Nat → Nat → BitVec 32

/-- The lane of a WALK's first beat (R336; log entry 155). -/
opaque tgLane : Nat

end Sys2Proof.Config
end

