-- ==== Sys2Proof/Machine/Map.lean ====
section
/-! DEFINITION. Sparse maps in one canonical form: keys strictly rising, no entry that holds the default. Registers,
memories, codebooks and the other sparse stores of the state are such lists, so equal contents are equal data. -/

namespace Sys2Proof.Machine

/-- A sparse map from Nat, as a list of pairs. -/
abbrev SMap (α : Type) := List (Nat × α)

/-- The value at a key; `d` where no entry stands. -/
def SMap.get {α : Type} (d : α) : SMap α → Nat → α
  | [], _ => d
  | (k, v) :: m, a => if k = a then v else SMap.get d m a

/-- Put an entry in its place. -/
def SMap.insert {α : Type} : SMap α → Nat → α → SMap α
  | [], a, v => [(a, v)]
  | (k, w) :: m, a, v =>
    if k = a then (a, v) :: m
    else if a < k then (a, v) :: (k, w) :: m
    else (k, w) :: SMap.insert m a v

/-- Drop an entry. -/
def SMap.remove {α : Type} : SMap α → Nat → SMap α
  | [], _ => []
  | (k, w) :: m, a => if k = a then SMap.remove m a else (k, w) :: SMap.remove m a

/-- Write an entry; a value equal to the default removes it. -/
def SMap.set {α : Type} [DecidableEq α] (d : α) (m : SMap α) (a : Nat) (v : α) : SMap α :=
  if v = d then SMap.remove m a else SMap.insert m a v

/-- Drop the entries whose keys lie in `[lo, hi)`. -/
def SMap.clear {α : Type} (m : SMap α) (lo hi : Nat) : SMap α :=
  m.filter fun e => !(lo ≤ e.1 && e.1 < hi)

/-- The canonical form: keys above `lb`, strictly rising, and no default value. -/
def SMap.wfFrom {α : Type} [DecidableEq α] (d : α) : Nat → SMap α → Bool
  | _, [] => true
  | lb, (k, v) :: m => decide (lb ≤ k) && decide (v ≠ d) && SMap.wfFrom d (k + 1) m

/-- The canonical form of a whole map. -/
def SMap.wf {α : Type} [DecidableEq α] (d : α) (m : SMap α) : Bool := SMap.wfFrom d 0 m

end Sys2Proof.Machine
end

