-- ==== Sys2Proof/Machine/RegMap.lean ====
section
/-! DEFINITION. The register map of the engine's window (R525 to R529 and the register tables of
every chapter): one name for each register, with its page block, page range, offset, count, stride, width and the
access code, reset value and ladder place of every field that is not reserved (R18 to R22).
Fields whose Reset column reads "fuse" or "meas." stand with 0 (DESIGN CHOICE, log entries 4 and 5). -/

namespace Sys2Proof.Machine

/-- Access codes of R18. -/
inductive AccCode where
  | ro | rw | rwl | w1c | w1s | wo
  deriving DecidableEq, Repr

/-- Kept-through places of R21 that the register tables use, shallowest first. -/
inductive Kept where
  | none | e1 | e3 | er | e4 | lc
  deriving DecidableEq, Repr

/-- One field of a register: lowest bit, width, access code (R18), reset value (R20), ladder place (R21). -/
structure Field where
  lo : Nat
  len : Nat
  acc : AccCode
  reset : Nat
  kept : Kept
  deriving DecidableEq, Repr

/-- Where a register lies: block type (R526; 0 for the common layout of R528), first and last page, offset of
its first instance in the page, number of instances and their distance, and whether it is 64 bits wide. -/
structure RegInfo where
  blk : Nat
  first : Nat
  last : Nat
  off : Nat
  count : Nat
  stride : Nat
  wide : Bool
  fields : List Field
  deriving DecidableEq, Repr

/-- The registers, one name for each row of the register maps. -/
inductive RegName where
  | queRingBase
  | queCplBase
  | queRingCfg
  | queCplCfg
  | queTail
  | queHead
  | queCplTail
  | queCplHead
  | queState
  | queLimit
  | queErr
  | queErrSeq
  | seqEmitted
  | seqDelivered
  | seqWastedBytes
  | seqWastedRows
  | seqRestarts
  | seqFaultHolds
  | seqShare
  | seqPhase
  | seqStatus
  | seqOwner
  | seqOwnerSeq
  | seqErr
  | seqRpCtl
  | seqRpIxc
  | seqRpEmits
  | seqRpA
  | seqRpLoop
  | gclRows
  | gclBytes
  | gclBags
  | gclBusy
  | gclFetch
  | gclEmpty
  | gclNonfinite
  | gclStallRow
  | gclStallXlate
  | gclStallFault
  | gclStallAcc
  | gclStallScale
  | gclStallRemote
  | gclStallCredit
  | gclStallCapo
  | gclStallMaint
  | gclClock
  | gclCtrCtl
  | gclResCfg
  | gclResEpoch
  | acmHazards
  | acmOwnerRefused
  | acmSatEvents
  | acmOwnSel
  | acmOwn
  | acmRelease
  | acmOwnedCount
  | acmSat
  | intSamples
  | intPairs
  | intPairsInt
  | intBusy
  | intWaitIn
  | intWaitOut
  | intNonfinite
  | intStatus
  | qntConv
  | qntClamp
  | qntFp8Ovf
  | qntNfRows
  | qntLoadHolds
  | qntCtrCtl
  | qntTabdir
  | qntTabcnt
  | qntStats
  | qntLoadAddr
  | qntLoadCtl
  | qntLoadCount
  | qntLoadCmd
  | qntLoadStat
  | qntLoadEt
  | optGiElems
  | optGiSat
  | optGiUnder
  | optGiNf
  | optGiRepairs
  | optGscHeld
  | optGscFlagged
  | optGscRepaired
  | optGscOld
  | optGscXunder
  | optGsc
  | mrgTaken
  | mrgMerged
  | mrgDrains
  | mrgRemote
  | mrgStallFull
  | mrgStallTlist
  | mrgSuperseded
  | mrgStale
  | mrgCfg
  | mrgOcc
  | mrgCtrCtl
  | optRows
  | optSkipNf
  | optFrozen
  | optDup
  | optCustomTo
  | optCustom
  | optArmed
  | optFired
  | optUrec
  | optHpdir
  | optHpcnt
  | optStash
  | optSite
  | mrgRxLate
  | mrgRxDup
  | mrgRoCfg
  | mrgRoUsed
  | mrgSpillPtr
  | mrgSpillSkip
  | mrgTxBatches
  | mrgRxBatches
  | mrgServedBags
  | mrgUnitsTx
  | mrgUnitsRx
  | mrgEarly
  | mrgSpilled
  | mrgResent
  | mrgMisrouted
  | mrgChainFail
  | mrgReplyDiscard
  | mrgShdir
  | mrgShcnt
  | mrgServe
  | mrgRmt
  | mrgSpillCfg
  | mrgCtrCtl8
  | hbcRdBytes
  | hbcWrBytes
  | hbcCe
  | hbcUe
  | hbcConflicts
  | hbcThrottleUs
  | hbcTurns
  | hbcState
  | hbcTemp
  | hbcRefCtl
  | hbcChFail
  | hbcRepair
  | hbcTgMask
  | hbcTgCfg
  | hbcTgCount
  | hbcTgSel
  | hbcTgErrs
  | hbcTgFirst
  | ctpRdBytes
  | ctpWrBytes
  | ctpCe
  | ctpUe
  | ctpState
  | ctpTemp
  | llsHits
  | llsMisses
  | llsFillBytes
  | llsWbBytes
  | llsAtomics
  | llsHoldWaits
  | llsCe
  | llsCtrCtl
  | llsPart
  | llsAlloc
  | llsPinBase
  | llsPinLen
  | llsPinCtl
  | rgnMeshBytes
  | rgnBridgeBytes
  | rgnCapoHolds
  | rgnCapo
  | rgnCapoAct
  | trnL1Hits
  | trnL1Misses
  | trnL1Removed
  | trnL1Faults
  | trnL1CtrCtl
  | trnL2Hits
  | trnL2Misses
  | trnWalks
  | trnFaults
  | trnJoins
  | trnBatches
  | trnFatal
  | trnRefaults
  | trnReplyLate
  | trnStuck
  | trnFqBase
  | trnFqCfg
  | trnFqTail
  | trnFqHead
  | trnBatchCfg
  | trnBatchState
  | trnCtrCtl
  | trnAsid
  | migCounted
  | migMovedBytes
  | migHot
  | migEvict
  | migRingDrop
  | migMovedPages
  | migCfg
  | migRingBase
  | migRingCfg
  | migRingTail
  | migRingHead
  | migCtrCtl
  | txpTxBytes
  | txpRxBytes
  | txpFecCorr
  | txpRetx
  | txpRxDiscard
  | txpGaps
  | txpGapFrames
  | txpCreditViol
  | txpStampBad
  | txpWithheldUs
  | txpRetainWaitUs
  | txpFecUncorr
  | txpPauseRx
  | txpState
  | txpMarks
  | txpRetxCfg
  | txpTimers
  | txpRunout
  | txpRetainBase
  | txpRetainCfg
  | txpRetainUsed
  | txpMacAddr
  | txpIp6
  | txpPtpCfg
  | txpPtpState
  | txpPtpMpd
  | txpOwdCfg
  | txpOwdMin
  | txpOwdMean
  | txpOwdMax
  | txpMacsec
  | txpModule
  | txpAttaches
  | txpLosses
  | txpPeers
  | txpUdp
  | txpPeerCmd
  | txpPeerStat
  | txpPtpClock
  | txpCtrCtl
  | cpeBytes
  | cpeDescs
  | cpeConfirms
  | cpeStatus
  | cpeSeq
  | cpeDone
  | cpeJrnWaits
  | cpeJrnMarked
  | cpeJrn
  | cpeJrnCfg
  | cpeJrnStat
  | cpeJrnSel
  | cpeJrnCtl
  | cpeJrnData
  | hlkTxBytes
  | hlkRxBytes
  | hlkRecoveries
  | hlkDowns
  | hlkLosses
  | hlkReplayed
  | hlkState
  | hlkCfg
  | hlkCtl
  | hlkLossEt
  | hlkHostq
  | hlkIrqDest
  | glbHostloss
  | secViolCount
  | secWipes
  | secLcState
  | secLcCmd
  | secWipeStat
  | secWipeStartEt
  | secWipeEndEt
  | secViolAddr
  | secViolInfo
  | secViolEt
  | secKeyCtl
  | secKeyCmd
  | secKeyPn
  | secKeySci
  | secKeySsci
  | secKey
  | secSalt
  | secMrBase
  | secMrLimit
  | pwrDrainLost
  | pwrWbLost
  | pwrEngResets
  | pwrCtl
  | pwrState
  | pwrCfg
  | pwrAvs
  | pwrResetEt
  | mntGrants
  | mntRefused
  | mntAborted
  | mntTempSteps
  | mntUe
  | mntSlot
  | mntUeAddr
  | mntUeInfo
  | evrRecords
  | evrDropped
  | evrFiltered
  | evrLeft
  | evrCompacts
  | evrCtl
  | evrCfg
  | evrState
  | evrNewest
  | evrNewestSlot
  | evrOpsec
  | evrPcycles
  | evrRdSel
  | evrSwCtl
  | evrRdData
  | evrSwData
  | trcRecords
  | trcLost
  | trcWraps
  | trcCtl
  | trcRingBase
  | trcRingCfg
  | trcRingTail
  | trcRingHead
  | trcTemp
  | trcFCtl
  | trcFInst
  | trcFQueue
  | trcFLo
  | trcFHi
  | pageId
  | pageCap
  | pageWorld
  | pageState
  | pageCtrl
  | pageStat
  | pageIrqStat
  | pageIrqEn
  | pageIrqForce
  | pageErrInfo
  | pageErrAddr
  | pageErrData
  | pageErrEt
  | pageErrReq
  | glbUnmapped
  | glbNode
  | glbChip
  | glbIrqSum
  | glbCapSum
  | glbDeviceId
  | timSteps
  | timSlews
  | timLocks
  | timHoldovers
  | timNow
  | timState
  | timCtl
  | timSet
  | timOffset
  | timBound
  | timRateFrac
  | timRateInt
  | timCal
  | queDispatched
  | queCompleted
  | queStops
  | queTimeouts
  | queInflight
  | queCtrCtl
  | queStopped
  | ccxWdogExp
  | ccxState
  | ccxFwVer
  | ccxHeartbeat
  | ccxWdog
  | queClassWeight
  | brgBytes
  | brgWait
  | brgRetries
  | brgLaneRepairs
  | brgState
  deriving DecidableEq, Repr

/-- The row of the register map for each name; the rule of the map stands beside it. -/
def RegName.info : RegName → RegInfo
  | .queRingBase => ⟨3, 1, 64, 0x80, 16, 256, true, [⟨12, 52, .rw, 0, .e3⟩]⟩  -- R84
  | .queCplBase => ⟨3, 1, 64, 0x88, 16, 256, true, [⟨12, 52, .rw, 0, .e3⟩]⟩  -- R84
  | .queRingCfg => ⟨3, 1, 64, 0x90, 16, 256, false, [⟨0, 4, .rw, 0, .e3⟩, ⟨4, 3, .rw, 0, .e3⟩, ⟨7, 1, .rw, 0, .e3⟩, ⟨16, 16, .rw, 0, .e3⟩]⟩  -- R84
  | .queCplCfg => ⟨3, 1, 64, 0x94, 16, 256, false, [⟨0, 4, .rw, 0, .e3⟩, ⟨7, 1, .rw, 0, .e3⟩, ⟨8, 8, .rw, 0, .e3⟩, ⟨16, 16, .rw, 0, .e3⟩]⟩  -- R84
  | .queTail => ⟨3, 1, 64, 0x98, 16, 256, false, [⟨0, 32, .rw, 0, .e3⟩]⟩  -- R84
  | .queHead => ⟨3, 1, 64, 0x9C, 16, 256, false, [⟨0, 32, .ro, 0, .e3⟩]⟩  -- R84
  | .queCplTail => ⟨3, 1, 64, 0xA0, 16, 256, false, [⟨0, 32, .ro, 0, .e3⟩]⟩  -- R84
  | .queCplHead => ⟨3, 1, 64, 0xA4, 16, 256, false, [⟨0, 32, .rw, 0, .e3⟩]⟩  -- R84
  | .queState => ⟨3, 1, 64, 0xA8, 16, 256, false, [⟨0, 3, .ro, 0, .e3⟩, ⟨8, 1, .rw, 0, .e3⟩, ⟨9, 1, .w1s, 0, .e3⟩, ⟨10, 1, .w1s, 0, .e3⟩, ⟨16, 6, .ro, 0, .e3⟩, ⟨24, 3, .ro, 0, .e3⟩]⟩  -- R84
  | .queLimit => ⟨3, 1, 64, 0xAC, 16, 256, false, [⟨0, 24, .rw, 100000, .e3⟩]⟩  -- R84
  | .queErr => ⟨3, 1, 64, 0xB0, 16, 256, false, [⟨0, 8, .ro, 0, .e3⟩, ⟨8, 8, .ro, 0, .e3⟩]⟩  -- R84
  | .queErrSeq => ⟨3, 1, 64, 0xB4, 16, 256, false, [⟨0, 32, .ro, 0, .e3⟩]⟩  -- R84
  | .seqEmitted => ⟨4, 0, 63, 0x40, 1, 0, true, [⟨0, 64, .ro, 0, .e3⟩]⟩  -- R114
  | .seqDelivered => ⟨4, 0, 63, 0x48, 1, 0, true, [⟨0, 64, .ro, 0, .e3⟩]⟩  -- R114
  | .seqWastedBytes => ⟨4, 0, 63, 0x50, 1, 0, true, [⟨0, 64, .ro, 0, .e3⟩]⟩  -- R114
  | .seqWastedRows => ⟨4, 0, 63, 0x58, 1, 0, true, [⟨0, 64, .ro, 0, .e3⟩]⟩  -- R114
  | .seqRestarts => ⟨4, 0, 63, 0x60, 1, 0, false, [⟨0, 32, .ro, 0, .e3⟩]⟩  -- R114
  | .seqFaultHolds => ⟨4, 0, 63, 0x64, 1, 0, false, [⟨0, 32, .ro, 0, .e3⟩]⟩  -- R114
  | .seqShare => ⟨4, 0, 63, 0x100, 1, 0, false, [⟨0, 5, .rw, 12, .e3⟩, ⟨5, 5, .rw, 2, .e3⟩, ⟨10, 5, .rw, 2, .e3⟩]⟩  -- R114
  | .seqPhase => ⟨4, 0, 63, 0x104, 1, 0, false, [⟨0, 13, .rw, 4096, .e3⟩]⟩  -- R114
  | .seqStatus => ⟨4, 0, 63, 0x108, 1, 0, false, [⟨0, 3, .ro, 0, .none⟩, ⟨16, 16, .ro, 0, .none⟩]⟩  -- R114
  | .seqOwner => ⟨4, 0, 63, 0x10C, 1, 0, false, [⟨0, 10, .ro, 0, .e1⟩, ⟨16, 16, .ro, 0, .e1⟩]⟩  -- R114
  | .seqOwnerSeq => ⟨4, 0, 63, 0x110, 1, 0, false, [⟨0, 32, .ro, 0, .e1⟩]⟩  -- R114
  | .seqErr => ⟨4, 0, 63, 0x114, 1, 0, false, [⟨0, 16, .ro, 0, .e3⟩, ⟨16, 6, .ro, 0, .e3⟩, ⟨22, 3, .ro, 0, .e3⟩]⟩  -- R114
  | .seqRpCtl => ⟨4, 0, 63, 0x118, 1, 0, false, [⟨0, 7, .ro, 0, .e1⟩, ⟨8, 21, .ro, 0, .e1⟩]⟩  -- R114
  | .seqRpIxc => ⟨4, 0, 63, 0x120, 1, 0, true, [⟨0, 64, .ro, 0, .e1⟩]⟩  -- R114
  | .seqRpEmits => ⟨4, 0, 63, 0x128, 1, 0, true, [⟨0, 64, .ro, 0, .e1⟩]⟩  -- R114
  | .seqRpA => ⟨4, 0, 63, 0x130, 8, 8, true, [⟨0, 64, .ro, 0, .e1⟩]⟩  -- R114
  | .seqRpLoop => ⟨4, 0, 63, 0x170, 6, 4, false, [⟨0, 32, .ro, 0, .e1⟩]⟩  -- R114
  | .gclRows => ⟨5, 0, 63, 0x40, 1, 0, true, [⟨0, 64, .ro, 0, .e3⟩]⟩  -- R160
  | .gclBytes => ⟨5, 0, 63, 0x48, 1, 0, true, [⟨0, 64, .ro, 0, .e3⟩]⟩  -- R160
  | .gclBags => ⟨5, 0, 63, 0x50, 1, 0, true, [⟨0, 64, .ro, 0, .e3⟩]⟩  -- R160
  | .gclBusy => ⟨5, 0, 63, 0x58, 1, 0, true, [⟨0, 64, .ro, 0, .e3⟩]⟩  -- R160
  | .gclFetch => ⟨5, 0, 63, 0x60, 1, 0, true, [⟨0, 64, .ro, 0, .e3⟩]⟩  -- R160
  | .gclEmpty => ⟨5, 0, 63, 0x68, 1, 0, false, [⟨0, 32, .ro, 0, .e3⟩]⟩  -- R160
  | .gclNonfinite => ⟨5, 0, 63, 0x6C, 1, 0, false, [⟨0, 32, .ro, 0, .e3⟩]⟩  -- R160
  | .gclStallRow => ⟨5, 0, 63, 0x100, 1, 0, true, [⟨0, 64, .ro, 0, .e3⟩]⟩  -- R160
  | .gclStallXlate => ⟨5, 0, 63, 0x108, 1, 0, true, [⟨0, 64, .ro, 0, .e3⟩]⟩  -- R160
  | .gclStallFault => ⟨5, 0, 63, 0x110, 1, 0, true, [⟨0, 64, .ro, 0, .e3⟩]⟩  -- R160
  | .gclStallAcc => ⟨5, 0, 63, 0x118, 1, 0, true, [⟨0, 64, .ro, 0, .e3⟩]⟩  -- R160
  | .gclStallScale => ⟨5, 0, 63, 0x120, 1, 0, true, [⟨0, 64, .ro, 0, .e3⟩]⟩  -- R160
  | .gclStallRemote => ⟨5, 0, 63, 0x128, 1, 0, true, [⟨0, 64, .ro, 0, .e3⟩]⟩  -- R160
  | .gclStallCredit => ⟨5, 0, 63, 0x130, 1, 0, true, [⟨0, 64, .ro, 0, .e3⟩]⟩  -- R160
  | .gclStallCapo => ⟨5, 0, 63, 0x138, 1, 0, true, [⟨0, 64, .ro, 0, .e3⟩]⟩  -- R160
  | .gclStallMaint => ⟨5, 0, 63, 0x140, 1, 0, true, [⟨0, 64, .ro, 0, .e3⟩]⟩  -- R160
  | .gclClock => ⟨5, 0, 63, 0x148, 1, 0, false, [⟨0, 3, .rw, 6, .e3⟩]⟩  -- R160
  | .gclCtrCtl => ⟨5, 0, 63, 0x14C, 1, 0, false, [⟨0, 1, .w1s, 0, .e3⟩, ⟨1, 1, .rw, 0, .e3⟩]⟩  -- R160
  | .gclResCfg => ⟨5, 64, 64, 0x100, 8, 8, true, [⟨0, 16, .rw, 0, .e3⟩, ⟨16, 1, .rw, 0, .e3⟩, ⟨17, 3, .ro, 0, .e3⟩, ⟨24, 14, .ro, 0, .e3⟩]⟩  -- R160
  | .gclResEpoch => ⟨5, 64, 64, 0x140, 1, 0, true, [⟨0, 64, .ro, 0, .e3⟩]⟩  -- R160
  | .acmHazards => ⟨6, 0, 63, 0x40, 1, 0, false, [⟨0, 32, .ro, 0, .e3⟩]⟩  -- R160
  | .acmOwnerRefused => ⟨6, 0, 63, 0x44, 1, 0, false, [⟨0, 32, .ro, 0, .e3⟩]⟩  -- R160
  | .acmSatEvents => ⟨6, 0, 63, 0x48, 1, 0, false, [⟨0, 32, .ro, 0, .e3⟩]⟩  -- R160
  | .acmOwnSel => ⟨6, 0, 63, 0x100, 1, 0, false, [⟨0, 7, .rw, 0, .e3⟩]⟩  -- R160
  | .acmOwn => ⟨6, 0, 63, 0x104, 1, 0, false, [⟨0, 1, .ro, 0, .e1⟩, ⟨1, 1, .ro, 0, .e1⟩, ⟨2, 1, .ro, 0, .e1⟩, ⟨16, 10, .ro, 0, .e1⟩]⟩  -- R160
  | .acmRelease => ⟨6, 0, 63, 0x108, 1, 0, false, [⟨0, 7, .wo, 0, .none⟩]⟩  -- R160
  | .acmOwnedCount => ⟨6, 0, 63, 0x10C, 1, 0, false, [⟨0, 8, .ro, 0, .e1⟩]⟩  -- R160
  | .acmSat => ⟨6, 0, 63, 0x110, 4, 4, false, [⟨0, 32, .w1c, 0, .e1⟩]⟩  -- R160
  | .intSamples => ⟨26, 0, 7, 0x40, 1, 0, true, [⟨0, 64, .ro, 0, .e3⟩]⟩  -- R160
  | .intPairs => ⟨26, 0, 7, 0x48, 1, 0, true, [⟨0, 64, .ro, 0, .e3⟩]⟩  -- R160
  | .intPairsInt => ⟨26, 0, 7, 0x50, 1, 0, true, [⟨0, 64, .ro, 0, .e3⟩]⟩  -- R160
  | .intBusy => ⟨26, 0, 7, 0x58, 1, 0, true, [⟨0, 64, .ro, 0, .e3⟩]⟩  -- R160
  | .intWaitIn => ⟨26, 0, 7, 0x60, 1, 0, true, [⟨0, 64, .ro, 0, .e3⟩]⟩  -- R160
  | .intWaitOut => ⟨26, 0, 7, 0x68, 1, 0, true, [⟨0, 64, .ro, 0, .e3⟩]⟩  -- R160
  | .intNonfinite => ⟨26, 0, 7, 0x70, 1, 0, false, [⟨0, 32, .ro, 0, .e3⟩]⟩  -- R160
  | .intStatus => ⟨26, 0, 7, 0x100, 1, 0, false, [⟨0, 2, .ro, 0, .none⟩, ⟨16, 10, .ro, 0, .none⟩]⟩  -- R160
  | .qntConv => ⟨7, 0, 1, 0x40, 1, 0, true, [⟨0, 64, .ro, 0, .e3⟩]⟩  -- R195
  | .qntClamp => ⟨7, 0, 1, 0x48, 1, 0, true, [⟨0, 64, .ro, 0, .e3⟩]⟩  -- R195
  | .qntFp8Ovf => ⟨7, 0, 1, 0x50, 1, 0, true, [⟨0, 64, .ro, 0, .e3⟩]⟩  -- R195
  | .qntNfRows => ⟨7, 0, 1, 0x58, 1, 0, false, [⟨0, 32, .ro, 0, .e3⟩]⟩  -- R195
  | .qntLoadHolds => ⟨7, 0, 1, 0x5C, 1, 0, false, [⟨0, 32, .ro, 0, .e3⟩]⟩  -- R195
  | .qntCtrCtl => ⟨7, 0, 1, 0x100, 1, 0, false, [⟨0, 1, .w1s, 0, .e3⟩, ⟨1, 1, .rw, 0, .e3⟩]⟩  -- R195
  | .qntTabdir => ⟨7, 2, 2, 0x100, 1, 0, true, [⟨12, 44, .rwl, 0, .e3⟩]⟩  -- R195
  | .qntTabcnt => ⟨7, 2, 2, 0x108, 1, 0, false, [⟨0, 17, .rwl, 0, .e3⟩]⟩  -- R195
  | .qntStats => ⟨7, 2, 2, 0x110, 1, 0, true, [⟨0, 1, .rw, 0, .e3⟩, ⟨12, 44, .rw, 0, .e3⟩]⟩  -- R195
  | .qntLoadAddr => ⟨7, 2, 2, 0x118, 1, 0, true, [⟨6, 50, .rw, 0, .e3⟩]⟩  -- R195
  | .qntLoadCtl => ⟨7, 2, 2, 0x120, 1, 0, false, [⟨0, 2, .rw, 0, .e3⟩, ⟨2, 1, .rw, 0, .e3⟩, ⟨3, 2, .rw, 3, .e3⟩, ⟨5, 2, .rw, 0, .e3⟩, ⟨16, 16, .rw, 0, .e3⟩]⟩  -- R195
  | .qntLoadCount => ⟨7, 2, 2, 0x124, 1, 0, false, [⟨0, 17, .rw, 0, .e3⟩]⟩  -- R195
  | .qntLoadCmd => ⟨7, 2, 2, 0x128, 1, 0, false, [⟨0, 1, .w1s, 0, .none⟩, ⟨1, 1, .w1s, 0, .none⟩]⟩  -- R195
  | .qntLoadStat => ⟨7, 2, 2, 0x12C, 1, 0, false, [⟨0, 3, .ro, 0, .e3⟩, ⟨4, 4, .ro, 0, .e3⟩, ⟨16, 16, .ro, 0, .none⟩]⟩  -- R195
  | .qntLoadEt => ⟨7, 2, 2, 0x130, 1, 0, true, [⟨0, 64, .ro, 0, .e3⟩]⟩  -- R195
  | .optGiElems => ⟨9, 0, 7, 0x40, 1, 0, true, [⟨0, 64, .ro, 0, .e3⟩]⟩  -- R223
  | .optGiSat => ⟨9, 0, 7, 0x48, 1, 0, true, [⟨0, 64, .ro, 0, .e3⟩]⟩  -- R223
  | .optGiUnder => ⟨9, 0, 7, 0x50, 1, 0, true, [⟨0, 64, .ro, 0, .e3⟩]⟩  -- R223
  | .optGiNf => ⟨9, 0, 7, 0x58, 1, 0, false, [⟨0, 32, .ro, 0, .e3⟩]⟩  -- R223
  | .optGiRepairs => ⟨9, 0, 7, 0x5C, 1, 0, false, [⟨0, 32, .ro, 0, .e3⟩]⟩  -- R223
  | .optGscHeld => ⟨9, 8, 8, 0x40, 1, 0, false, [⟨0, 32, .ro, 0, .e3⟩]⟩  -- R223
  | .optGscFlagged => ⟨9, 8, 8, 0x44, 1, 0, false, [⟨0, 32, .ro, 0, .e3⟩]⟩  -- R223
  | .optGscRepaired => ⟨9, 8, 8, 0x48, 1, 0, false, [⟨0, 32, .ro, 0, .e3⟩]⟩  -- R223
  | .optGscOld => ⟨9, 8, 8, 0x4C, 1, 0, false, [⟨0, 32, .ro, 0, .e3⟩]⟩  -- R223
  | .optGscXunder => ⟨9, 8, 8, 0x50, 1, 0, false, [⟨0, 32, .ro, 0, .e3⟩]⟩  -- R223
  | .optGsc => ⟨9, 8, 8, 0x100, 1, 0, true, [⟨0, 1, .rwl, 0, .e3⟩, ⟨12, 44, .rwl, 0, .e3⟩]⟩  -- R223
  | .mrgTaken => ⟨8, 0, 7, 0x40, 1, 0, true, [⟨0, 64, .ro, 0, .e3⟩]⟩  -- R260
  | .mrgMerged => ⟨8, 0, 7, 0x48, 1, 0, true, [⟨0, 64, .ro, 0, .e3⟩]⟩  -- R260
  | .mrgDrains => ⟨8, 0, 7, 0x50, 1, 0, true, [⟨0, 64, .ro, 0, .e3⟩]⟩  -- R260
  | .mrgRemote => ⟨8, 0, 7, 0x58, 1, 0, true, [⟨0, 64, .ro, 0, .e3⟩]⟩  -- R260
  | .mrgStallFull => ⟨8, 0, 7, 0x60, 1, 0, true, [⟨0, 64, .ro, 0, .e3⟩]⟩  -- R260
  | .mrgStallTlist => ⟨8, 0, 7, 0x68, 1, 0, true, [⟨0, 64, .ro, 0, .e3⟩]⟩  -- R260
  | .mrgSuperseded => ⟨8, 0, 7, 0x70, 1, 0, false, [⟨0, 32, .ro, 0, .e3⟩]⟩  -- R260
  | .mrgStale => ⟨8, 0, 7, 0x74, 1, 0, false, [⟨0, 32, .ro, 0, .e3⟩]⟩  -- R260
  | .mrgCfg => ⟨8, 0, 7, 0x100, 1, 0, false, [⟨0, 12, .rw, 256, .e3⟩, ⟨12, 16, .rw, 28672, .e3⟩]⟩  -- R260
  | .mrgOcc => ⟨8, 0, 7, 0x104, 1, 0, false, [⟨0, 16, .ro, 0, .none⟩, ⟨16, 16, .ro, 0, .e3⟩]⟩  -- R260
  | .mrgCtrCtl => ⟨8, 0, 7, 0x108, 1, 0, false, [⟨0, 1, .w1s, 0, .e3⟩, ⟨1, 1, .rw, 0, .e3⟩]⟩  -- R260
  | .optRows => ⟨9, 0, 7, 0x60, 1, 0, true, [⟨0, 64, .ro, 0, .e3⟩]⟩  -- R260
  | .optSkipNf => ⟨9, 0, 7, 0x68, 1, 0, false, [⟨0, 32, .ro, 0, .e3⟩]⟩  -- R260
  | .optFrozen => ⟨9, 0, 7, 0x6C, 1, 0, false, [⟨0, 32, .ro, 0, .e3⟩]⟩  -- R260
  | .optDup => ⟨9, 0, 7, 0x70, 1, 0, false, [⟨0, 32, .ro, 0, .e3⟩]⟩  -- R260
  | .optCustomTo => ⟨9, 0, 7, 0x74, 1, 0, false, [⟨0, 32, .ro, 0, .e3⟩]⟩  -- R260
  | .optCustom => ⟨9, 0, 7, 0x100, 1, 0, false, [⟨0, 16, .rw, 100, .e3⟩, ⟨16, 1, .rw, 0, .e3⟩]⟩  -- R260
  | .optArmed => ⟨9, 8, 8, 0x54, 1, 0, false, [⟨0, 32, .ro, 0, .none⟩]⟩  -- R260
  | .optFired => ⟨9, 8, 8, 0x58, 1, 0, false, [⟨0, 32, .ro, 0, .e3⟩]⟩  -- R260
  | .optUrec => ⟨9, 8, 8, 0x108, 1, 0, true, [⟨0, 1, .rwl, 0, .e3⟩, ⟨12, 44, .rwl, 0, .e3⟩]⟩  -- R260
  | .optHpdir => ⟨9, 8, 8, 0x110, 1, 0, true, [⟨12, 44, .rwl, 0, .e3⟩]⟩  -- R260
  | .optHpcnt => ⟨9, 8, 8, 0x118, 1, 0, false, [⟨0, 12, .rwl, 0, .e3⟩]⟩  -- R260
  | .optStash => ⟨9, 8, 8, 0x11C, 1, 0, false, [⟨0, 2, .rw, 0, .e3⟩]⟩  -- R260
  | .optSite => ⟨9, 8, 8, 0x120, 1, 0, false, [⟨0, 8, .rwl, 0, .e3⟩]⟩  -- R260
  | .mrgRxLate => ⟨8, 0, 7, 0x78, 1, 0, false, [⟨0, 32, .ro, 0, .e3⟩]⟩  -- R293
  | .mrgRxDup => ⟨8, 0, 7, 0x7C, 1, 0, false, [⟨0, 32, .ro, 0, .e3⟩]⟩  -- R293
  | .mrgRoCfg => ⟨8, 0, 7, 0x10C, 1, 0, false, [⟨0, 6, .rw, 32, .e3⟩]⟩  -- R293
  | .mrgRoUsed => ⟨8, 0, 7, 0x110, 1, 0, false, [⟨0, 16, .ro, 0, .none⟩, ⟨16, 16, .ro, 0, .none⟩]⟩  -- R293
  | .mrgSpillPtr => ⟨8, 0, 7, 0x114, 1, 0, false, [⟨0, 16, .ro, 0, .er⟩, ⟨16, 16, .ro, 0, .er⟩]⟩  -- R293
  | .mrgSpillSkip => ⟨8, 0, 7, 0x118, 1, 0, false, [⟨0, 1, .w1s, 0, .none⟩]⟩  -- R293
  | .mrgTxBatches => ⟨8, 8, 8, 0x40, 1, 0, true, [⟨0, 64, .ro, 0, .e3⟩]⟩  -- R293
  | .mrgRxBatches => ⟨8, 8, 8, 0x48, 1, 0, true, [⟨0, 64, .ro, 0, .e3⟩]⟩  -- R293
  | .mrgServedBags => ⟨8, 8, 8, 0x50, 1, 0, true, [⟨0, 64, .ro, 0, .e3⟩]⟩  -- R293
  | .mrgUnitsTx => ⟨8, 8, 8, 0x58, 1, 0, false, [⟨0, 32, .ro, 0, .e3⟩]⟩  -- R293
  | .mrgUnitsRx => ⟨8, 8, 8, 0x5C, 1, 0, false, [⟨0, 32, .ro, 0, .e3⟩]⟩  -- R293
  | .mrgEarly => ⟨8, 8, 8, 0x60, 1, 0, false, [⟨0, 32, .ro, 0, .e3⟩]⟩  -- R293
  | .mrgSpilled => ⟨8, 8, 8, 0x64, 1, 0, false, [⟨0, 32, .ro, 0, .e3⟩]⟩  -- R293
  | .mrgResent => ⟨8, 8, 8, 0x68, 1, 0, false, [⟨0, 32, .ro, 0, .e3⟩]⟩  -- R293
  | .mrgMisrouted => ⟨8, 8, 8, 0x6C, 1, 0, false, [⟨0, 32, .ro, 0, .e3⟩]⟩  -- R293
  | .mrgChainFail => ⟨8, 8, 8, 0x70, 1, 0, false, [⟨0, 32, .ro, 0, .e3⟩]⟩  -- R293
  | .mrgReplyDiscard => ⟨8, 8, 8, 0x74, 1, 0, false, [⟨0, 32, .ro, 0, .e3⟩]⟩  -- R293
  | .mrgShdir => ⟨8, 8, 8, 0x100, 1, 0, true, [⟨12, 44, .rwl, 0, .e3⟩]⟩  -- R293
  | .mrgShcnt => ⟨8, 8, 8, 0x108, 1, 0, false, [⟨0, 17, .rwl, 0, .e3⟩]⟩  -- R293
  | .mrgServe => ⟨8, 8, 8, 0x10C, 1, 0, false, [⟨0, 8, .rw, 255, .e3⟩, ⟨8, 4, .rw, 8, .e3⟩]⟩  -- R293
  | .mrgRmt => ⟨8, 8, 8, 0x110, 1, 0, true, [⟨12, 44, .rwl, 0, .e3⟩]⟩  -- R293
  | .mrgSpillCfg => ⟨8, 8, 8, 0x118, 1, 0, false, [⟨0, 16, .rwl, 1024, .e3⟩]⟩  -- R293
  | .mrgCtrCtl8 => ⟨8, 8, 8, 0x11C, 1, 0, false, [⟨0, 1, .w1s, 0, .e3⟩, ⟨1, 1, .rw, 0, .e3⟩]⟩  -- R293
  | .hbcRdBytes => ⟨11, 0, 15, 0x40, 1, 0, true, [⟨0, 64, .ro, 0, .e3⟩]⟩  -- R332
  | .hbcWrBytes => ⟨11, 0, 15, 0x48, 1, 0, true, [⟨0, 64, .ro, 0, .e3⟩]⟩  -- R332
  | .hbcCe => ⟨11, 0, 15, 0x50, 1, 0, false, [⟨0, 32, .ro, 0, .e3⟩]⟩  -- R332
  | .hbcUe => ⟨11, 0, 15, 0x54, 1, 0, false, [⟨0, 32, .ro, 0, .e3⟩]⟩  -- R332
  | .hbcConflicts => ⟨11, 0, 15, 0x58, 1, 0, false, [⟨0, 32, .ro, 0, .e3⟩]⟩  -- R332
  | .hbcThrottleUs => ⟨11, 0, 15, 0x5C, 1, 0, false, [⟨0, 32, .ro, 0, .e3⟩]⟩  -- R332
  | .hbcTurns => ⟨11, 0, 15, 0x60, 1, 0, true, [⟨0, 64, .ro, 0, .e3⟩]⟩  -- R332
  | .hbcState => ⟨11, 0, 15, 0x100, 1, 0, false, [⟨0, 3, .ro, 0, .none⟩, ⟨3, 2, .ro, 0, .er⟩, ⟨5, 2, .ro, 0, .none⟩, ⟨7, 1, .ro, 0, .er⟩]⟩  -- R332
  | .hbcTemp => ⟨11, 0, 15, 0x104, 1, 0, false, [⟨0, 8, .ro, 0, .none⟩, ⟨8, 8, .ro, 0, .e3⟩, ⟨16, 1, .w1s, 0, .none⟩, ⟨24, 8, .rwl, 115, .e3⟩]⟩  -- R332
  | .hbcRefCtl => ⟨11, 0, 15, 0x108, 1, 0, false, [⟨0, 2, .rw, 0, .e3⟩, ⟨2, 1, .ro, 0, .e3⟩]⟩  -- R332
  | .hbcChFail => ⟨11, 0, 15, 0x10C, 1, 0, false, [⟨0, 32, .ro, 0, .er⟩]⟩  -- R332
  | .hbcRepair => ⟨11, 0, 15, 0x110, 32, 4, false, [⟨0, 7, .ro, 127, .e4⟩, ⟨8, 7, .ro, 127, .e4⟩, ⟨15, 1, .ro, 0, .e4⟩]⟩  -- R332
  | .hbcTgMask => ⟨11, 0, 15, 0x190, 1, 0, true, [⟨0, 64, .rw, 0, .e3⟩]⟩  -- R332
  | .hbcTgCfg => ⟨11, 0, 15, 0x198, 1, 0, false, [⟨0, 3, .rw, 0, .e3⟩, ⟨3, 2, .rw, 3, .e3⟩, ⟨5, 9, .rw, 32, .e3⟩, ⟨16, 16, .rw, 1, .e3⟩]⟩  -- R332
  | .hbcTgCount => ⟨11, 0, 15, 0x19C, 1, 0, false, [⟨0, 32, .rw, 0, .e3⟩]⟩  -- R332
  | .hbcTgSel => ⟨11, 0, 15, 0x1A0, 1, 0, false, [⟨0, 6, .rw, 0, .e3⟩]⟩  -- R332
  | .hbcTgErrs => ⟨11, 0, 15, 0x1A4, 1, 0, false, [⟨0, 32, .ro, 0, .e3⟩]⟩  -- R332
  | .hbcTgFirst => ⟨11, 0, 15, 0x1A8, 1, 0, true, [⟨0, 31, .ro, 0, .e3⟩, ⟨32, 7, .ro, 0, .e3⟩, ⟨39, 1, .ro, 0, .e3⟩]⟩  -- R332
  | .ctpRdBytes => ⟨12, 0, 15, 0x40, 1, 0, true, [⟨0, 64, .ro, 0, .e3⟩]⟩  -- R332
  | .ctpWrBytes => ⟨12, 0, 15, 0x48, 1, 0, true, [⟨0, 64, .ro, 0, .e3⟩]⟩  -- R332
  | .ctpCe => ⟨12, 0, 15, 0x50, 1, 0, false, [⟨0, 32, .ro, 0, .e3⟩]⟩  -- R332
  | .ctpUe => ⟨12, 0, 15, 0x54, 1, 0, false, [⟨0, 32, .ro, 0, .e3⟩]⟩  -- R332
  | .ctpState => ⟨12, 0, 15, 0x100, 1, 0, false, [⟨0, 3, .ro, 0, .none⟩, ⟨8, 8, .ro, 0, .er⟩, ⟨16, 2, .ro, 0, .none⟩]⟩  -- R332
  | .ctpTemp => ⟨12, 0, 15, 0x104, 1, 0, false, [⟨0, 8, .ro, 0, .none⟩, ⟨8, 8, .ro, 0, .e3⟩, ⟨16, 1, .w1s, 0, .none⟩, ⟨24, 8, .rwl, 105, .e3⟩]⟩  -- R332
  | .llsHits => ⟨10, 0, 63, 0x40, 1, 0, true, [⟨0, 64, .ro, 0, .e3⟩]⟩  -- R332
  | .llsMisses => ⟨10, 0, 63, 0x48, 1, 0, true, [⟨0, 64, .ro, 0, .e3⟩]⟩  -- R332
  | .llsFillBytes => ⟨10, 0, 63, 0x50, 1, 0, true, [⟨0, 64, .ro, 0, .e3⟩]⟩  -- R332
  | .llsWbBytes => ⟨10, 0, 63, 0x58, 1, 0, true, [⟨0, 64, .ro, 0, .e3⟩]⟩  -- R332
  | .llsAtomics => ⟨10, 0, 63, 0x60, 1, 0, true, [⟨0, 64, .ro, 0, .e3⟩]⟩  -- R332
  | .llsHoldWaits => ⟨10, 0, 63, 0x68, 1, 0, false, [⟨0, 32, .ro, 0, .e3⟩]⟩  -- R332
  | .llsCe => ⟨10, 0, 63, 0x6C, 1, 0, false, [⟨0, 32, .ro, 0, .e3⟩]⟩  -- R332
  | .llsCtrCtl => ⟨10, 0, 63, 0x100, 1, 0, false, [⟨0, 1, .w1s, 0, .e3⟩, ⟨1, 1, .rw, 0, .e3⟩]⟩  -- R332
  | .llsPart => ⟨10, 64, 71, 0x100, 1, 0, false, [⟨0, 5, .rw, 12, .e3⟩, ⟨5, 5, .rw, 0, .e3⟩, ⟨10, 5, .rw, 4, .e3⟩]⟩  -- R332
  | .llsAlloc => ⟨10, 64, 71, 0x104, 1, 0, false, [⟨0, 1, .rw, 1, .e3⟩, ⟨1, 1, .rw, 1, .e3⟩]⟩  -- R332
  | .llsPinBase => ⟨10, 64, 71, 0x110, 16, 16, true, [⟨16, 40, .rw, 0, .e3⟩]⟩  -- R332
  | .llsPinLen => ⟨10, 64, 71, 0x118, 16, 16, false, [⟨0, 24, .rw, 0, .e3⟩]⟩  -- R332
  | .llsPinCtl => ⟨10, 64, 71, 0x11C, 16, 16, false, [⟨0, 1, .rw, 0, .e3⟩, ⟨1, 3, .ro, 0, .e3⟩]⟩  -- R332
  | .rgnMeshBytes => ⟨13, 0, 7, 0x40, 1, 0, true, [⟨0, 64, .ro, 0, .e3⟩]⟩  -- R332
  | .rgnBridgeBytes => ⟨13, 0, 7, 0x48, 1, 0, true, [⟨0, 64, .ro, 0, .e3⟩]⟩  -- R332
  | .rgnCapoHolds => ⟨13, 0, 7, 0x50, 1, 0, true, [⟨0, 64, .ro, 0, .e3⟩]⟩  -- R332
  | .rgnCapo => ⟨13, 0, 7, 0x100, 29, 4, false, [⟨0, 9, .rw, 0, .e3⟩, ⟨16, 9, .rw, 256, .e3⟩]⟩  -- R332
  | .rgnCapoAct => ⟨13, 0, 7, 0x180, 29, 4, false, [⟨0, 9, .ro, 0, .e3⟩, ⟨16, 9, .ro, 256, .e3⟩]⟩  -- R332
  | .trnL1Hits => ⟨14, 0, 63, 0x40, 1, 0, true, [⟨0, 64, .ro, 0, .e3⟩]⟩  -- R381
  | .trnL1Misses => ⟨14, 0, 63, 0x48, 1, 0, true, [⟨0, 64, .ro, 0, .e3⟩]⟩  -- R381
  | .trnL1Removed => ⟨14, 0, 63, 0x50, 1, 0, false, [⟨0, 32, .ro, 0, .e3⟩]⟩  -- R381
  | .trnL1Faults => ⟨14, 0, 63, 0x54, 1, 0, false, [⟨0, 32, .ro, 0, .e3⟩]⟩  -- R381
  | .trnL1CtrCtl => ⟨14, 0, 63, 0x100, 1, 0, false, [⟨0, 1, .w1s, 0, .e3⟩, ⟨1, 1, .rw, 0, .e3⟩]⟩  -- R381
  | .trnL2Hits => ⟨14, 64, 65, 0x40, 1, 0, true, [⟨0, 64, .ro, 0, .e3⟩]⟩  -- R381
  | .trnL2Misses => ⟨14, 64, 65, 0x48, 1, 0, true, [⟨0, 64, .ro, 0, .e3⟩]⟩  -- R381
  | .trnWalks => ⟨14, 64, 65, 0x50, 1, 0, true, [⟨0, 64, .ro, 0, .e3⟩]⟩  -- R381
  | .trnFaults => ⟨14, 64, 65, 0x58, 1, 0, false, [⟨0, 32, .ro, 0, .e3⟩]⟩  -- R381
  | .trnJoins => ⟨14, 64, 65, 0x5C, 1, 0, false, [⟨0, 32, .ro, 0, .e3⟩]⟩  -- R381
  | .trnBatches => ⟨14, 64, 65, 0x60, 1, 0, false, [⟨0, 32, .ro, 0, .e3⟩]⟩  -- R381
  | .trnFatal => ⟨14, 64, 65, 0x64, 1, 0, false, [⟨0, 32, .ro, 0, .e3⟩]⟩  -- R381
  | .trnRefaults => ⟨14, 64, 65, 0x68, 1, 0, false, [⟨0, 32, .ro, 0, .e3⟩]⟩  -- R381
  | .trnReplyLate => ⟨14, 64, 65, 0x6C, 1, 0, false, [⟨0, 32, .ro, 0, .e3⟩]⟩  -- R381
  | .trnStuck => ⟨14, 64, 65, 0x70, 1, 0, false, [⟨0, 32, .ro, 0, .e3⟩]⟩  -- R381
  | .trnFqBase => ⟨14, 64, 65, 0x100, 1, 0, true, [⟨12, 52, .rwl, 0, .e3⟩]⟩  -- R381
  | .trnFqCfg => ⟨14, 64, 65, 0x108, 1, 0, false, [⟨0, 4, .rwl, 0, .e3⟩, ⟨4, 1, .rwl, 0, .e3⟩, ⟨5, 1, .rwl, 0, .e3⟩]⟩  -- R381
  | .trnFqTail => ⟨14, 64, 65, 0x10C, 1, 0, false, [⟨0, 32, .ro, 0, .e3⟩]⟩  -- R381
  | .trnFqHead => ⟨14, 64, 65, 0x110, 1, 0, false, [⟨0, 32, .rw, 0, .e3⟩]⟩  -- R381
  | .trnBatchCfg => ⟨14, 64, 65, 0x114, 1, 0, false, [⟨0, 9, .rw, 256, .e3⟩, ⟨9, 1, .w1s, 0, .e3⟩, ⟨16, 10, .rw, 20, .e3⟩]⟩  -- R381
  | .trnBatchState => ⟨14, 64, 65, 0x118, 1, 0, false, [⟨0, 9, .ro, 0, .none⟩, ⟨9, 3, .ro, 0, .none⟩, ⟨16, 16, .ro, 0, .none⟩]⟩  -- R381
  | .trnCtrCtl => ⟨14, 64, 65, 0x11C, 1, 0, false, [⟨0, 1, .w1s, 0, .e3⟩, ⟨1, 1, .rw, 0, .e3⟩]⟩  -- R381
  | .trnAsid => ⟨14, 66, 66, 0x100, 1, 0, true, [⟨0, 1, .rwl, 0, .e3⟩, ⟨12, 44, .rwl, 0, .e3⟩]⟩  -- R381
  | .migCounted => ⟨15, 0, 1, 0x40, 1, 0, true, [⟨0, 64, .ro, 0, .e3⟩]⟩  -- R381
  | .migMovedBytes => ⟨15, 0, 1, 0x48, 1, 0, true, [⟨0, 64, .ro, 0, .e3⟩]⟩  -- R381
  | .migHot => ⟨15, 0, 1, 0x50, 1, 0, false, [⟨0, 32, .ro, 0, .e3⟩]⟩  -- R381
  | .migEvict => ⟨15, 0, 1, 0x54, 1, 0, false, [⟨0, 32, .ro, 0, .e3⟩]⟩  -- R381
  | .migRingDrop => ⟨15, 0, 1, 0x58, 1, 0, false, [⟨0, 32, .ro, 0, .e3⟩]⟩  -- R381
  | .migMovedPages => ⟨15, 0, 1, 0x5C, 1, 0, false, [⟨0, 32, .ro, 0, .e3⟩]⟩  -- R381
  | .migCfg => ⟨15, 0, 1, 0x100, 1, 0, false, [⟨0, 1, .rw, 0, .e3⟩, ⟨1, 1, .rw, 0, .e3⟩, ⟨2, 1, .rw, 1, .e3⟩, ⟨8, 16, .rw, 1024, .e3⟩, ⟨24, 8, .rw, 10, .e3⟩]⟩  -- R381
  | .migRingBase => ⟨15, 0, 1, 0x108, 1, 0, true, [⟨6, 50, .rw, 0, .e3⟩]⟩  -- R381
  | .migRingCfg => ⟨15, 0, 1, 0x110, 1, 0, false, [⟨0, 4, .rw, 0, .e3⟩]⟩  -- R381
  | .migRingTail => ⟨15, 0, 1, 0x114, 1, 0, false, [⟨0, 32, .ro, 0, .e3⟩]⟩  -- R381
  | .migRingHead => ⟨15, 0, 1, 0x118, 1, 0, false, [⟨0, 32, .rw, 0, .e3⟩]⟩  -- R381
  | .migCtrCtl => ⟨15, 0, 1, 0x11C, 1, 0, false, [⟨0, 1, .w1s, 0, .e3⟩, ⟨1, 1, .rw, 0, .e3⟩]⟩  -- R381
  | .txpTxBytes => ⟨16, 0, 7, 0x40, 1, 0, true, [⟨0, 64, .ro, 0, .e3⟩]⟩  -- R415
  | .txpRxBytes => ⟨16, 0, 7, 0x48, 1, 0, true, [⟨0, 64, .ro, 0, .e3⟩]⟩  -- R415
  | .txpFecCorr => ⟨16, 0, 7, 0x50, 1, 0, true, [⟨0, 64, .ro, 0, .e3⟩]⟩  -- R415
  | .txpRetx => ⟨16, 0, 7, 0x58, 1, 0, false, [⟨0, 32, .ro, 0, .e3⟩]⟩  -- R415
  | .txpRxDiscard => ⟨16, 0, 7, 0x5C, 1, 0, false, [⟨0, 32, .ro, 0, .e3⟩]⟩  -- R415
  | .txpGaps => ⟨16, 0, 7, 0x60, 1, 0, false, [⟨0, 32, .ro, 0, .e3⟩]⟩  -- R415
  | .txpGapFrames => ⟨16, 0, 7, 0x64, 1, 0, false, [⟨0, 32, .ro, 0, .e3⟩]⟩  -- R415
  | .txpCreditViol => ⟨16, 0, 7, 0x68, 1, 0, false, [⟨0, 32, .ro, 0, .e3⟩]⟩  -- R415
  | .txpStampBad => ⟨16, 0, 7, 0x6C, 1, 0, false, [⟨0, 32, .ro, 0, .e3⟩]⟩  -- R415
  | .txpWithheldUs => ⟨16, 0, 7, 0x70, 1, 0, false, [⟨0, 32, .ro, 0, .e3⟩]⟩  -- R415
  | .txpRetainWaitUs => ⟨16, 0, 7, 0x74, 1, 0, false, [⟨0, 32, .ro, 0, .e3⟩]⟩  -- R415
  | .txpFecUncorr => ⟨16, 0, 7, 0x78, 1, 0, false, [⟨0, 32, .ro, 0, .e3⟩]⟩  -- R415
  | .txpPauseRx => ⟨16, 0, 7, 0x7C, 1, 0, false, [⟨0, 32, .ro, 0, .e3⟩]⟩  -- R415
  | .txpState => ⟨16, 0, 7, 0x100, 1, 0, false, [⟨0, 3, .ro, 0, .none⟩, ⟨3, 1, .rw, 0, .e3⟩]⟩  -- R415
  | .txpMarks => ⟨16, 0, 7, 0x104, 1, 0, false, [⟨0, 6, .rw, 16, .e3⟩, ⟨8, 6, .rw, 8, .e3⟩, ⟨16, 7, .rw, 32, .e3⟩]⟩  -- R415
  | .txpRetxCfg => ⟨16, 0, 7, 0x108, 1, 0, false, [⟨0, 16, .rw, 200, .e3⟩, ⟨16, 8, .rw, 16, .e3⟩]⟩  -- R415
  | .txpTimers => ⟨16, 0, 7, 0x10C, 1, 0, false, [⟨0, 8, .rw, 10, .e3⟩, ⟨8, 8, .rw, 50, .e3⟩, ⟨16, 8, .rw, 5, .e3⟩, ⟨24, 8, .rw, 10, .e3⟩]⟩  -- R415
  | .txpRunout => ⟨16, 0, 7, 0x110, 1, 0, false, [⟨0, 15, .ro, 0, .none⟩, ⟨15, 1, .ro, 0, .none⟩, ⟨16, 15, .ro, 0, .e3⟩]⟩  -- R415
  | .txpRetainBase => ⟨16, 0, 7, 0x118, 1, 0, true, [⟨16, 40, .rw, 0, .e3⟩]⟩  -- R415
  | .txpRetainCfg => ⟨16, 0, 7, 0x120, 1, 0, false, [⟨0, 12, .rw, 0, .e3⟩]⟩  -- R415
  | .txpRetainUsed => ⟨16, 0, 7, 0x124, 1, 0, false, [⟨0, 32, .ro, 0, .none⟩]⟩  -- R415
  | .txpMacAddr => ⟨16, 0, 7, 0x128, 1, 0, true, [⟨0, 48, .rw, 0, .e3⟩]⟩  -- R415
  | .txpIp6 => ⟨16, 0, 7, 0x130, 4, 4, false, [⟨0, 32, .rw, 0, .e3⟩]⟩  -- R415
  | .txpPtpCfg => ⟨16, 0, 7, 0x140, 1, 0, false, [⟨0, 1, .rw, 0, .e3⟩, ⟨16, 16, .rw, 0, .e3⟩]⟩  -- R415
  | .txpPtpState => ⟨16, 0, 7, 0x144, 1, 0, false, [⟨0, 4, .ro, 0, .none⟩]⟩  -- R415
  | .txpPtpMpd => ⟨16, 0, 7, 0x148, 1, 0, false, [⟨0, 32, .ro, 0, .none⟩]⟩  -- R415
  | .txpOwdCfg => ⟨16, 0, 7, 0x14C, 1, 0, false, [⟨0, 10, .rw, 0, .e3⟩, ⟨16, 4, .rw, 10, .e3⟩]⟩  -- R415
  | .txpOwdMin => ⟨16, 0, 7, 0x150, 1, 0, false, [⟨0, 32, .ro, 0, .none⟩]⟩  -- R415
  | .txpOwdMean => ⟨16, 0, 7, 0x154, 1, 0, false, [⟨0, 32, .ro, 0, .none⟩]⟩  -- R415
  | .txpOwdMax => ⟨16, 0, 7, 0x158, 1, 0, false, [⟨0, 32, .ro, 0, .none⟩]⟩  -- R415
  | .txpMacsec => ⟨16, 0, 7, 0x15C, 1, 0, false, [⟨0, 2, .ro, 0, .none⟩, ⟨2, 1, .ro, 0, .none⟩, ⟨3, 1, .w1c, 0, .none⟩, ⟨4, 4, .ro, 0, .none⟩]⟩  -- R415
  | .txpModule => ⟨16, 0, 7, 0x160, 1, 0, false, [⟨0, 1, .ro, 0, .none⟩, ⟨1, 1, .ro, 0, .none⟩, ⟨2, 8, .ro, 0, .none⟩, ⟨10, 1, .ro, 0, .none⟩]⟩  -- R415
  | .txpAttaches => ⟨16, 8, 8, 0x40, 1, 0, false, [⟨0, 32, .ro, 0, .e3⟩]⟩  -- R415
  | .txpLosses => ⟨16, 8, 8, 0x44, 1, 0, false, [⟨0, 32, .ro, 0, .e3⟩]⟩  -- R415
  | .txpPeers => ⟨16, 8, 8, 0x100, 1, 0, true, [⟨0, 1, .rwl, 0, .e3⟩, ⟨16, 40, .rwl, 0, .e3⟩]⟩  -- R415
  | .txpUdp => ⟨16, 8, 8, 0x108, 1, 0, false, [⟨0, 16, .rwl, 47584, .e3⟩]⟩  -- R415
  | .txpPeerCmd => ⟨16, 8, 8, 0x10C, 1, 0, false, [⟨0, 10, .rw, 0, .e3⟩, ⟨12, 2, .rw, 0, .e3⟩, ⟨31, 1, .w1s, 0, .none⟩]⟩  -- R415
  | .txpPeerStat => ⟨16, 8, 8, 0x110, 1, 0, false, [⟨0, 3, .ro, 0, .none⟩, ⟨16, 16, .ro, 0, .none⟩]⟩  -- R415
  | .txpPtpClock => ⟨16, 8, 8, 0x114, 1, 0, false, [⟨0, 8, .rw, 0, .e3⟩, ⟨8, 8, .rw, 128, .e3⟩, ⟨16, 8, .rw, 128, .e3⟩, ⟨24, 1, .rw, 0, .e3⟩, ⟨25, 3, .ro, 0, .none⟩, ⟨28, 1, .ro, 0, .none⟩]⟩  -- R415
  | .txpCtrCtl => ⟨16, 8, 8, 0x118, 1, 0, false, [⟨0, 1, .w1s, 0, .e3⟩, ⟨1, 1, .rw, 0, .e3⟩]⟩  -- R415
  | .cpeBytes => ⟨17, 0, 15, 0x40, 1, 0, true, [⟨0, 64, .ro, 0, .e3⟩]⟩  -- R446
  | .cpeDescs => ⟨17, 0, 15, 0x48, 1, 0, false, [⟨0, 32, .ro, 0, .e3⟩]⟩  -- R446
  | .cpeConfirms => ⟨17, 0, 15, 0x4C, 1, 0, false, [⟨0, 32, .ro, 0, .e3⟩]⟩  -- R446
  | .cpeStatus => ⟨17, 0, 15, 0x100, 1, 0, false, [⟨0, 2, .ro, 0, .none⟩, ⟨8, 8, .ro, 0, .none⟩, ⟨16, 10, .ro, 0, .none⟩]⟩  -- R446
  | .cpeSeq => ⟨17, 0, 15, 0x104, 1, 0, false, [⟨0, 32, .ro, 0, .none⟩]⟩  -- R446
  | .cpeDone => ⟨17, 0, 15, 0x108, 1, 0, true, [⟨0, 64, .ro, 0, .none⟩]⟩  -- R446
  | .cpeJrnWaits => ⟨17, 16, 16, 0x40, 1, 0, false, [⟨0, 32, .ro, 0, .e3⟩]⟩  -- R446
  | .cpeJrnMarked => ⟨17, 16, 16, 0x44, 1, 0, false, [⟨0, 32, .ro, 0, .e3⟩]⟩  -- R446
  | .cpeJrn => ⟨17, 16, 16, 0x100, 1, 0, true, [⟨0, 1, .rwl, 0, .e3⟩, ⟨12, 44, .rwl, 0, .e3⟩]⟩  -- R446
  | .cpeJrnCfg => ⟨17, 16, 16, 0x108, 1, 0, false, [⟨0, 16, .rwl, 8192, .e3⟩, ⟨16, 12, .rwl, 1024, .e3⟩]⟩  -- R446
  | .cpeJrnStat => ⟨17, 16, 16, 0x10C, 1, 0, false, [⟨0, 16, .ro, 0, .e3⟩, ⟨16, 16, .ro, 0, .e3⟩]⟩  -- R446
  | .cpeJrnSel => ⟨17, 16, 16, 0x110, 1, 0, false, [⟨0, 16, .rw, 0, .e3⟩]⟩  -- R446
  | .cpeJrnCtl => ⟨17, 16, 16, 0x114, 1, 0, false, [⟨0, 1, .w1s, 0, .none⟩, ⟨1, 1, .w1s, 0, .none⟩]⟩  -- R446
  | .cpeJrnData => ⟨17, 16, 16, 0x140, 16, 4, false, [⟨0, 32, .ro, 0, .none⟩]⟩  -- R446
  | .hlkTxBytes => ⟨18, 0, 0, 0x40, 1, 0, true, [⟨0, 64, .ro, 0, .e3⟩]⟩  -- R446
  | .hlkRxBytes => ⟨18, 0, 0, 0x48, 1, 0, true, [⟨0, 64, .ro, 0, .e3⟩]⟩  -- R446
  | .hlkRecoveries => ⟨18, 0, 0, 0x50, 1, 0, false, [⟨0, 32, .ro, 0, .e3⟩]⟩  -- R446
  | .hlkDowns => ⟨18, 0, 0, 0x54, 1, 0, false, [⟨0, 32, .ro, 0, .e3⟩]⟩  -- R446
  | .hlkLosses => ⟨18, 0, 0, 0x58, 1, 0, false, [⟨0, 32, .ro, 0, .e3⟩]⟩  -- R446
  | .hlkReplayed => ⟨18, 0, 0, 0x5C, 1, 0, false, [⟨0, 32, .ro, 0, .e3⟩]⟩  -- R446
  | .hlkState => ⟨18, 0, 0, 0x100, 1, 0, false, [⟨0, 3, .ro, 0, .none⟩, ⟨3, 4, .ro, 0, .e3⟩, ⟨7, 1, .ro, 0, .none⟩]⟩  -- R446
  | .hlkCfg => ⟨18, 0, 0, 0x104, 1, 0, false, [⟨0, 10, .rw, 50, .e3⟩]⟩  -- R446
  | .hlkCtl => ⟨18, 0, 0, 0x108, 1, 0, false, [⟨0, 1, .w1s, 0, .none⟩]⟩  -- R446
  | .hlkLossEt => ⟨18, 0, 0, 0x110, 1, 0, true, [⟨0, 64, .ro, 0, .e3⟩]⟩  -- R446
  | .hlkHostq => ⟨18, 0, 0, 0x118, 1, 0, true, [⟨0, 64, .rwl, 18446744073709551615, .e3⟩]⟩  -- R446
  | .hlkIrqDest => ⟨18, 0, 0, 0x120, 1, 0, true, [⟨0, 64, .rw, 18446744073709551615, .e3⟩]⟩  -- R446
  | .glbHostloss => ⟨1, 0, 0, 0x180, 1, 0, false, [⟨0, 1, .rw, 0, .e3⟩]⟩  -- R446
  | .secViolCount => ⟨19, 0, 0, 0x40, 1, 0, false, [⟨0, 32, .ro, 0, .e3⟩]⟩  -- R471
  | .secWipes => ⟨19, 0, 0, 0x44, 1, 0, false, [⟨0, 32, .ro, 0, .e3⟩]⟩  -- R471
  | .secLcState => ⟨19, 0, 0, 0x100, 1, 0, false, [⟨0, 2, .ro, 0, .lc⟩, ⟨2, 1, .ro, 0, .none⟩]⟩  -- R471
  | .secLcCmd => ⟨19, 0, 0, 0x104, 1, 0, false, [⟨0, 2, .wo, 0, .none⟩, ⟨8, 8, .wo, 0, .none⟩, ⟨31, 1, .w1s, 0, .none⟩]⟩  -- R471
  | .secWipeStat => ⟨19, 0, 0, 0x108, 1, 0, false, [⟨0, 3, .ro, 0, .e3⟩, ⟨3, 1, .ro, 0, .none⟩, ⟨8, 8, .ro, 0, .e3⟩]⟩  -- R471
  | .secWipeStartEt => ⟨19, 0, 0, 0x110, 1, 0, true, [⟨0, 64, .ro, 0, .e3⟩]⟩  -- R471
  | .secWipeEndEt => ⟨19, 0, 0, 0x118, 1, 0, true, [⟨0, 64, .ro, 0, .e3⟩]⟩  -- R471
  | .secViolAddr => ⟨19, 0, 0, 0x120, 1, 0, true, [⟨0, 56, .ro, 0, .e3⟩]⟩  -- R471
  | .secViolInfo => ⟨19, 0, 0, 0x128, 1, 0, false, [⟨0, 2, .ro, 0, .e3⟩, ⟨2, 1, .ro, 0, .e3⟩, ⟨3, 2, .ro, 0, .e3⟩, ⟨5, 1, .ro, 0, .e3⟩, ⟨6, 1, .w1c, 0, .e3⟩, ⟨8, 8, .ro, 0, .e3⟩, ⟨16, 10, .ro, 0, .e3⟩]⟩  -- R471
  | .secViolEt => ⟨19, 0, 0, 0x130, 1, 0, true, [⟨0, 64, .ro, 0, .e3⟩]⟩  -- R471
  | .secKeyCtl => ⟨19, 0, 0, 0x140, 1, 0, false, [⟨0, 3, .rw, 0, .none⟩, ⟨3, 1, .rw, 0, .none⟩, ⟨4, 2, .rw, 0, .none⟩, ⟨6, 1, .rw, 1, .none⟩]⟩  -- R471
  | .secKeyCmd => ⟨19, 0, 0, 0x144, 1, 0, false, [⟨0, 1, .w1s, 0, .none⟩, ⟨1, 1, .w1s, 0, .none⟩, ⟨2, 1, .ro, 0, .none⟩, ⟨3, 1, .ro, 0, .none⟩]⟩  -- R471
  | .secKeyPn => ⟨19, 0, 0, 0x148, 1, 0, true, [⟨0, 64, .rw, 1, .none⟩]⟩  -- R471
  | .secKeySci => ⟨19, 0, 0, 0x150, 1, 0, true, [⟨0, 64, .rw, 0, .none⟩]⟩  -- R471
  | .secKeySsci => ⟨19, 0, 0, 0x158, 1, 0, false, [⟨0, 32, .wo, 0, .none⟩]⟩  -- R471
  | .secKey => ⟨19, 0, 0, 0x160, 8, 4, false, [⟨0, 32, .wo, 0, .none⟩]⟩  -- R471
  | .secSalt => ⟨19, 0, 0, 0x180, 3, 4, false, [⟨0, 32, .wo, 0, .none⟩]⟩  -- R471
  | .secMrBase => ⟨19, 1, 2, 0x100, 128, 16, true, [⟨0, 1, .rw, 0, .er⟩, ⟨1, 1, .rw, 0, .er⟩, ⟨2, 1, .rw, 0, .er⟩, ⟨3, 1, .rw, 0, .er⟩, ⟨4, 1, .rw, 0, .er⟩, ⟨16, 30, .rw, 0, .er⟩]⟩  -- R471
  | .secMrLimit => ⟨19, 1, 2, 0x108, 128, 16, true, [⟨0, 3, .ro, 0, .er⟩, ⟨16, 30, .rw, 0, .er⟩]⟩  -- R471
  | .pwrDrainLost => ⟨20, 0, 0, 0x40, 1, 0, false, [⟨0, 32, .ro, 0, .er⟩]⟩  -- R496
  | .pwrWbLost => ⟨20, 0, 0, 0x44, 1, 0, false, [⟨0, 32, .ro, 0, .er⟩]⟩  -- R496
  | .pwrEngResets => ⟨20, 0, 0, 0x48, 1, 0, false, [⟨0, 32, .ro, 0, .er⟩]⟩  -- R496
  | .pwrCtl => ⟨20, 0, 0, 0x100, 1, 0, false, [⟨0, 3, .rw, 0, .none⟩, ⟨8, 1, .w1s, 0, .none⟩, ⟨9, 1, .w1s, 0, .none⟩]⟩  -- R496
  | .pwrState => ⟨20, 0, 0, 0x104, 1, 0, false, [⟨0, 3, .ro, 0, .none⟩, ⟨3, 1, .ro, 0, .none⟩, ⟨4, 1, .rw, 0, .none⟩, ⟨5, 3, .ro, 0, .er⟩, ⟨8, 4, .ro, 0, .er⟩]⟩  -- R496
  | .pwrCfg => ⟨20, 0, 0, 0x108, 1, 0, false, [⟨0, 16, .rwl, 1000, .e3⟩, ⟨16, 8, .rw, 10, .e3⟩, ⟨24, 4, .rw, 10, .e3⟩, ⟨28, 3, .rw, 4, .e3⟩, ⟨31, 1, .rwl, 0, .e3⟩]⟩  -- R496
  | .pwrAvs => ⟨20, 0, 0, 0x10C, 1, 0, false, [⟨0, 10, .ro, 0, .none⟩, ⟨16, 10, .ro, 0, .none⟩]⟩  -- R496
  | .pwrResetEt => ⟨20, 0, 0, 0x110, 1, 0, true, [⟨0, 64, .ro, 0, .er⟩]⟩  -- R496
  | .mntGrants => ⟨22, 0, 0, 0x40, 1, 0, false, [⟨0, 32, .ro, 0, .e3⟩]⟩  -- R496
  | .mntRefused => ⟨22, 0, 0, 0x44, 1, 0, false, [⟨0, 32, .ro, 0, .e3⟩]⟩  -- R496
  | .mntAborted => ⟨22, 0, 0, 0x48, 1, 0, false, [⟨0, 32, .ro, 0, .e3⟩]⟩  -- R496
  | .mntTempSteps => ⟨22, 0, 0, 0x4C, 1, 0, false, [⟨0, 32, .ro, 0, .e3⟩]⟩  -- R496
  | .mntUe => ⟨22, 0, 0, 0x50, 1, 0, false, [⟨0, 32, .ro, 0, .e3⟩]⟩  -- R496
  | .mntSlot => ⟨22, 0, 0, 0x100, 32, 4, false, [⟨0, 4, .ro, 0, .none⟩, ⟨4, 5, .ro, 0, .none⟩, ⟨9, 5, .ro, 0, .none⟩, ⟨14, 2, .ro, 0, .none⟩, ⟨16, 10, .ro, 0, .none⟩]⟩  -- R496
  | .mntUeAddr => ⟨22, 0, 0, 0x180, 1, 0, true, [⟨0, 56, .ro, 0, .e3⟩]⟩  -- R496
  | .mntUeInfo => ⟨22, 0, 0, 0x188, 1, 0, false, [⟨0, 2, .ro, 0, .e3⟩, ⟨2, 1, .w1c, 0, .e3⟩, ⟨3, 1, .ro, 0, .e3⟩, ⟨16, 16, .ro, 0, .none⟩]⟩  -- R496
  | .evrRecords => ⟨21, 0, 0, 0x40, 1, 0, true, [⟨0, 64, .ro, 0, .e3⟩]⟩  -- R522
  | .evrDropped => ⟨21, 0, 0, 0x48, 1, 0, false, [⟨0, 32, .ro, 0, .e3⟩]⟩  -- R522
  | .evrFiltered => ⟨21, 0, 0, 0x4C, 1, 0, false, [⟨0, 32, .ro, 0, .e3⟩]⟩  -- R522
  | .evrLeft => ⟨21, 0, 0, 0x50, 1, 0, false, [⟨0, 32, .ro, 0, .e3⟩]⟩  -- R522
  | .evrCompacts => ⟨21, 0, 0, 0x54, 1, 0, false, [⟨0, 32, .ro, 0, .e3⟩]⟩  -- R522
  | .evrCtl => ⟨21, 0, 0, 0x100, 1, 0, false, [⟨0, 1, .rw, 0, .e3⟩, ⟨1, 1, .rw, 0, .none⟩]⟩  -- R522
  | .evrCfg => ⟨21, 0, 0, 0x104, 1, 0, false, [⟨0, 3, .rw, 1, .e3⟩, ⟨4, 3, .rw, 4, .e3⟩]⟩  -- R522
  | .evrState => ⟨21, 0, 0, 0x108, 1, 0, false, [⟨0, 1, .ro, 1, .none⟩, ⟨1, 1, .ro, 1, .none⟩, ⟨2, 13, .ro, 0, .none⟩, ⟨15, 1, .ro, 0, .none⟩, ⟨16, 11, .ro, 0, .none⟩]⟩  -- R522
  | .evrNewest => ⟨21, 0, 0, 0x110, 1, 0, true, [⟨0, 40, .ro, 0, .none⟩]⟩  -- R522
  | .evrNewestSlot => ⟨21, 0, 0, 0x118, 1, 0, false, [⟨0, 22, .ro, 0, .none⟩, ⟨22, 1, .ro, 0, .none⟩]⟩  -- R522
  | .evrOpsec => ⟨21, 0, 0, 0x120, 1, 0, true, [⟨0, 40, .ro, 0, .lc⟩]⟩  -- R522
  | .evrPcycles => ⟨21, 0, 0, 0x128, 1, 0, false, [⟨0, 24, .ro, 0, .lc⟩]⟩  -- R522
  | .evrRdSel => ⟨21, 0, 0, 0x12C, 1, 0, false, [⟨0, 22, .rw, 0, .e3⟩, ⟨22, 2, .rw, 0, .e3⟩]⟩  -- R522
  | .evrSwCtl => ⟨21, 0, 0, 0x130, 1, 0, false, [⟨0, 16, .rw, 61440, .e3⟩, ⟨16, 3, .rw, 1, .e3⟩, ⟨31, 1, .w1s, 0, .none⟩]⟩  -- R522
  | .evrRdData => ⟨21, 0, 0, 0x140, 16, 4, false, [⟨0, 32, .ro, 0, .none⟩]⟩  -- R522
  | .evrSwData => ⟨21, 0, 0, 0x180, 8, 4, false, [⟨0, 32, .rw, 0, .e3⟩]⟩  -- R522
  | .trcRecords => ⟨23, 0, 0, 0x40, 1, 0, true, [⟨0, 64, .ro, 0, .e3⟩]⟩  -- R522
  | .trcLost => ⟨23, 0, 0, 0x48, 1, 0, false, [⟨0, 32, .ro, 0, .e3⟩]⟩  -- R522
  | .trcWraps => ⟨23, 0, 0, 0x4C, 1, 0, false, [⟨0, 32, .ro, 0, .e3⟩]⟩  -- R522
  | .trcCtl => ⟨23, 0, 0, 0x100, 1, 0, false, [⟨0, 1, .rw, 0, .e3⟩, ⟨1, 1, .rw, 0, .e3⟩, ⟨2, 1, .ro, 0, .none⟩]⟩  -- R522
  | .trcRingBase => ⟨23, 0, 0, 0x108, 1, 0, true, [⟨12, 44, .rw, 0, .e3⟩]⟩  -- R522
  | .trcRingCfg => ⟨23, 0, 0, 0x110, 1, 0, false, [⟨0, 4, .rw, 0, .e3⟩]⟩  -- R522
  | .trcRingTail => ⟨23, 0, 0, 0x114, 1, 0, false, [⟨0, 32, .ro, 0, .e3⟩]⟩  -- R522
  | .trcRingHead => ⟨23, 0, 0, 0x118, 1, 0, false, [⟨0, 32, .rw, 0, .e3⟩]⟩  -- R522
  | .trcTemp => ⟨23, 0, 0, 0x11C, 1, 0, false, [⟨0, 8, .ro, 0, .none⟩, ⟨8, 8, .ro, 0, .none⟩, ⟨16, 8, .ro, 0, .e3⟩, ⟨24, 8, .ro, 0, .e3⟩]⟩  -- R522
  | .trcFCtl => ⟨23, 0, 0, 0x120, 8, 32, false, [⟨0, 1, .rw, 0, .e3⟩, ⟨8, 8, .rw, 0, .e3⟩, ⟨16, 16, .rw, 0, .e3⟩]⟩  -- R522
  | .trcFInst => ⟨23, 0, 0, 0x124, 8, 32, false, [⟨0, 12, .rw, 0, .e3⟩, ⟨16, 12, .rw, 4095, .e3⟩]⟩  -- R522
  | .trcFQueue => ⟨23, 0, 0, 0x128, 8, 32, false, [⟨0, 10, .rw, 0, .e3⟩, ⟨16, 1, .rw, 1, .e3⟩]⟩  -- R522
  | .trcFLo => ⟨23, 0, 0, 0x130, 8, 32, true, [⟨0, 56, .rw, 0, .e3⟩]⟩  -- R522
  | .trcFHi => ⟨23, 0, 0, 0x138, 8, 32, true, [⟨0, 56, .rw, 72057594037927935, .e3⟩]⟩  -- R522
  | .pageId => ⟨0, 0, 0, 0x0, 1, 0, false, [⟨0, 12, .ro, 1, .lc⟩, ⟨12, 12, .ro, 0, .lc⟩, ⟨24, 8, .ro, 0, .lc⟩]⟩  -- R528
  | .pageCap => ⟨0, 0, 0, 0x4, 1, 0, false, [⟨0, 16, .ro, 0, .lc⟩]⟩  -- R528
  | .pageWorld => ⟨0, 0, 0, 0x8, 1, 0, false, [⟨0, 1, .rw, 1, .e3⟩, ⟨1, 1, .w1s, 0, .e3⟩]⟩  -- R528
  | .pageState => ⟨0, 0, 0, 0xC, 1, 0, false, [⟨0, 3, .ro, 1, .none⟩]⟩  -- R528
  | .pageCtrl => ⟨0, 0, 0, 0x10, 1, 0, false, [⟨0, 1, .rw, 1, .e3⟩, ⟨1, 1, .w1s, 0, .none⟩, ⟨2, 1, .rw, 0, .e3⟩]⟩  -- R528
  | .pageStat => ⟨0, 0, 0, 0x14, 1, 0, false, [⟨0, 1, .ro, 0, .none⟩, ⟨1, 1, .ro, 0, .e3⟩, ⟨16, 16, .ro, 0, .none⟩]⟩  -- R528
  | .pageIrqStat => ⟨0, 0, 0, 0x18, 1, 0, false, [⟨0, 32, .w1c, 0, .e3⟩]⟩  -- R528
  | .pageIrqEn => ⟨0, 0, 0, 0x1C, 1, 0, false, [⟨0, 32, .rw, 0, .e3⟩]⟩  -- R528
  | .pageIrqForce => ⟨0, 0, 0, 0x20, 1, 0, false, [⟨0, 32, .wo, 0, .none⟩]⟩  -- R528
  | .pageErrInfo => ⟨0, 0, 0, 0x24, 1, 0, false, [⟨0, 1, .w1c, 0, .e3⟩, ⟨1, 2, .ro, 0, .e3⟩, ⟨3, 1, .ro, 0, .e3⟩, ⟨4, 1, .ro, 0, .e3⟩, ⟨5, 3, .ro, 0, .e3⟩, ⟨16, 16, .ro, 0, .e3⟩]⟩  -- R528
  | .pageErrAddr => ⟨0, 0, 0, 0x28, 1, 0, false, [⟨0, 25, .ro, 0, .e3⟩, ⟨25, 2, .ro, 0, .e3⟩]⟩  -- R528
  | .pageErrData => ⟨0, 0, 0, 0x2C, 1, 0, false, [⟨0, 32, .ro, 0, .e3⟩]⟩  -- R528
  | .pageErrEt => ⟨0, 0, 0, 0x30, 1, 0, true, [⟨0, 64, .ro, 0, .e3⟩]⟩  -- R528
  | .pageErrReq => ⟨0, 0, 0, 0x38, 1, 0, false, [⟨0, 16, .ro, 0, .e3⟩]⟩  -- R528
  | .glbUnmapped => ⟨1, 0, 0, 0x40, 1, 0, false, [⟨0, 32, .ro, 0, .e3⟩]⟩  -- R536
  | .glbNode => ⟨1, 0, 0, 0x100, 1, 0, false, [⟨0, 10, .rwl, 0, .e3⟩]⟩  -- R536
  | .glbChip => ⟨1, 0, 0, 0x104, 1, 0, false, [⟨0, 8, .ro, 0, .lc⟩, ⟨8, 8, .ro, 0, .lc⟩]⟩  -- R536
  | .glbIrqSum => ⟨1, 0, 0, 0x108, 1, 0, false, [⟨1, 26, .ro, 0, .none⟩]⟩  -- R536
  | .glbCapSum => ⟨1, 0, 0, 0x10C, 1, 0, false, [⟨1, 26, .ro, 0, .none⟩]⟩  -- R536
  | .glbDeviceId => ⟨1, 0, 0, 0x110, 1, 0, true, [⟨0, 64, .ro, 0, .lc⟩]⟩  -- R536
  | .timSteps => ⟨2, 0, 0, 0x40, 1, 0, false, [⟨0, 32, .ro, 0, .er⟩]⟩  -- R539
  | .timSlews => ⟨2, 0, 0, 0x44, 1, 0, false, [⟨0, 32, .ro, 0, .er⟩]⟩  -- R539
  | .timLocks => ⟨2, 0, 0, 0x48, 1, 0, false, [⟨0, 32, .ro, 0, .er⟩]⟩  -- R539
  | .timHoldovers => ⟨2, 0, 0, 0x4C, 1, 0, false, [⟨0, 32, .ro, 0, .er⟩]⟩  -- R539
  | .timNow => ⟨2, 0, 0, 0x100, 1, 0, true, [⟨0, 64, .ro, 0, .er⟩]⟩  -- R539
  | .timState => ⟨2, 0, 0, 0x108, 1, 0, false, [⟨0, 3, .ro, 0, .er⟩]⟩  -- R539
  | .timCtl => ⟨2, 0, 0, 0x10C, 1, 0, false, [⟨0, 1, .w1s, 0, .none⟩, ⟨1, 1, .rw, 1, .e3⟩]⟩  -- R539
  | .timSet => ⟨2, 0, 0, 0x110, 1, 0, true, [⟨0, 64, .rw, 0, .e3⟩]⟩  -- R539
  | .timOffset => ⟨2, 0, 0, 0x118, 1, 0, true, [⟨0, 64, .ro, 0, .er⟩]⟩  -- R539
  | .timBound => ⟨2, 0, 0, 0x120, 1, 0, false, [⟨0, 32, .ro, 0, .er⟩]⟩  -- R539
  | .timRateFrac => ⟨2, 0, 0, 0x124, 1, 0, false, [⟨0, 32, .ro, 0, .er⟩]⟩  -- R539
  | .timRateInt => ⟨2, 0, 0, 0x128, 1, 0, false, [⟨0, 32, .ro, 4, .er⟩]⟩  -- R539
  | .timCal => ⟨2, 0, 0, 0x12C, 1, 0, false, [⟨0, 16, .ro, 0, .none⟩]⟩  -- R539
  | .queDispatched => ⟨3, 0, 0, 0x40, 1, 0, true, [⟨0, 64, .ro, 0, .e3⟩]⟩  -- R543
  | .queCompleted => ⟨3, 0, 0, 0x48, 1, 0, true, [⟨0, 64, .ro, 0, .e3⟩]⟩  -- R543
  | .queStops => ⟨3, 0, 0, 0x50, 1, 0, false, [⟨0, 32, .ro, 0, .e3⟩]⟩  -- R543
  | .queTimeouts => ⟨3, 0, 0, 0x54, 1, 0, false, [⟨0, 32, .ro, 0, .e3⟩]⟩  -- R543
  | .queInflight => ⟨3, 0, 0, 0x104, 1, 0, false, [⟨0, 13, .ro, 0, .none⟩]⟩  -- R543
  | .queCtrCtl => ⟨3, 0, 0, 0x108, 1, 0, false, [⟨0, 1, .w1s, 0, .e3⟩, ⟨1, 1, .rw, 0, .e3⟩]⟩  -- R543
  | .queStopped => ⟨3, 0, 0, 0x140, 32, 4, false, [⟨0, 32, .ro, 0, .e3⟩]⟩  -- R543
  | .ccxWdogExp => ⟨24, 0, 7, 0x40, 1, 0, false, [⟨0, 32, .ro, 0, .e3⟩]⟩  -- R545
  | .ccxState => ⟨24, 0, 7, 0x100, 1, 0, false, [⟨0, 3, .ro, 0, .none⟩, ⟨3, 1, .ro, 0, .none⟩, ⟨8, 8, .ro, 0, .none⟩]⟩  -- R545
  | .ccxFwVer => ⟨24, 0, 7, 0x104, 1, 0, false, [⟨0, 32, .ro, 0, .none⟩]⟩  -- R545
  | .ccxHeartbeat => ⟨24, 0, 7, 0x108, 1, 0, false, [⟨0, 32, .rw, 0, .none⟩]⟩  -- R545
  | .ccxWdog => ⟨24, 0, 7, 0x10C, 1, 0, false, [⟨0, 16, .rw, 0, .e3⟩]⟩  -- R545
  | .queClassWeight => ⟨3, 0, 0, 0x100, 1, 0, false, [⟨0, 28, .rw, 124076833, .e3⟩]⟩  -- R88
  | .brgBytes => ⟨25, 0, 1, 0x40, 1, 0, true, [⟨0, 64, .ro, 0, .e3⟩]⟩  -- R549
  | .brgWait => ⟨25, 0, 1, 0x48, 1, 0, true, [⟨0, 64, .ro, 0, .e3⟩]⟩  -- R549
  | .brgRetries => ⟨25, 0, 1, 0x50, 1, 0, false, [⟨0, 32, .ro, 0, .e3⟩]⟩  -- R549
  | .brgLaneRepairs => ⟨25, 0, 1, 0x54, 1, 0, false, [⟨0, 32, .ro, 0, .e3⟩]⟩  -- R549
  | .brgState => ⟨25, 0, 1, 0x100, 1, 0, false, [⟨0, 2, .ro, 0, .none⟩, ⟨8, 5, .ro, 0, .e3⟩]⟩  -- R549

/-- Register names, part 0. -/
def RegName.part0 : List RegName :=
  [.queRingBase, .queCplBase, .queRingCfg, .queCplCfg, .queTail, .queHead, .queCplTail, .queCplHead, .queState, .queLimit, .queErr, .queErrSeq, .seqEmitted, .seqDelivered, .seqWastedBytes, .seqWastedRows, .seqRestarts, .seqFaultHolds, .seqShare, .seqPhase, .seqStatus, .seqOwner, .seqOwnerSeq, .seqErr, .seqRpCtl, .seqRpIxc, .seqRpEmits, .seqRpA, .seqRpLoop, .gclRows]
/-- Register names, part 1. -/
def RegName.part1 : List RegName :=
  [.gclBytes, .gclBags, .gclBusy, .gclFetch, .gclEmpty, .gclNonfinite, .gclStallRow, .gclStallXlate, .gclStallFault, .gclStallAcc, .gclStallScale, .gclStallRemote, .gclStallCredit, .gclStallCapo, .gclStallMaint, .gclClock, .gclCtrCtl, .gclResCfg, .gclResEpoch, .acmHazards, .acmOwnerRefused, .acmSatEvents, .acmOwnSel, .acmOwn, .acmRelease, .acmOwnedCount, .acmSat, .intSamples, .intPairs, .intPairsInt]
/-- Register names, part 2. -/
def RegName.part2 : List RegName :=
  [.intBusy, .intWaitIn, .intWaitOut, .intNonfinite, .intStatus, .qntConv, .qntClamp, .qntFp8Ovf, .qntNfRows, .qntLoadHolds, .qntCtrCtl, .qntTabdir, .qntTabcnt, .qntStats, .qntLoadAddr, .qntLoadCtl, .qntLoadCount, .qntLoadCmd, .qntLoadStat, .qntLoadEt, .optGiElems, .optGiSat, .optGiUnder, .optGiNf, .optGiRepairs, .optGscHeld, .optGscFlagged, .optGscRepaired, .optGscOld, .optGscXunder]
/-- Register names, part 3. -/
def RegName.part3 : List RegName :=
  [.optGsc, .mrgTaken, .mrgMerged, .mrgDrains, .mrgRemote, .mrgStallFull, .mrgStallTlist, .mrgSuperseded, .mrgStale, .mrgCfg, .mrgOcc, .mrgCtrCtl, .optRows, .optSkipNf, .optFrozen, .optDup, .optCustomTo, .optCustom, .optArmed, .optFired, .optUrec, .optHpdir, .optHpcnt, .optStash, .optSite, .mrgRxLate, .mrgRxDup, .mrgRoCfg, .mrgRoUsed, .mrgSpillPtr]
/-- Register names, part 4. -/
def RegName.part4 : List RegName :=
  [.mrgSpillSkip, .mrgTxBatches, .mrgRxBatches, .mrgServedBags, .mrgUnitsTx, .mrgUnitsRx, .mrgEarly, .mrgSpilled, .mrgResent, .mrgMisrouted, .mrgChainFail, .mrgReplyDiscard, .mrgShdir, .mrgShcnt, .mrgServe, .mrgRmt, .mrgSpillCfg, .mrgCtrCtl8, .hbcRdBytes, .hbcWrBytes, .hbcCe, .hbcUe, .hbcConflicts, .hbcThrottleUs, .hbcTurns, .hbcState, .hbcTemp, .hbcRefCtl, .hbcChFail, .hbcRepair]
/-- Register names, part 5. -/
def RegName.part5 : List RegName :=
  [.hbcTgMask, .hbcTgCfg, .hbcTgCount, .hbcTgSel, .hbcTgErrs, .hbcTgFirst, .ctpRdBytes, .ctpWrBytes, .ctpCe, .ctpUe, .ctpState, .ctpTemp, .llsHits, .llsMisses, .llsFillBytes, .llsWbBytes, .llsAtomics, .llsHoldWaits, .llsCe, .llsCtrCtl, .llsPart, .llsAlloc, .llsPinBase, .llsPinLen, .llsPinCtl, .rgnMeshBytes, .rgnBridgeBytes, .rgnCapoHolds, .rgnCapo, .rgnCapoAct]
/-- Register names, part 6. -/
def RegName.part6 : List RegName :=
  [.trnL1Hits, .trnL1Misses, .trnL1Removed, .trnL1Faults, .trnL1CtrCtl, .trnL2Hits, .trnL2Misses, .trnWalks, .trnFaults, .trnJoins, .trnBatches, .trnFatal, .trnRefaults, .trnReplyLate, .trnStuck, .trnFqBase, .trnFqCfg, .trnFqTail, .trnFqHead, .trnBatchCfg, .trnBatchState, .trnCtrCtl, .trnAsid, .migCounted, .migMovedBytes, .migHot, .migEvict, .migRingDrop, .migMovedPages, .migCfg]
/-- Register names, part 7. -/
def RegName.part7 : List RegName :=
  [.migRingBase, .migRingCfg, .migRingTail, .migRingHead, .migCtrCtl, .txpTxBytes, .txpRxBytes, .txpFecCorr, .txpRetx, .txpRxDiscard, .txpGaps, .txpGapFrames, .txpCreditViol, .txpStampBad, .txpWithheldUs, .txpRetainWaitUs, .txpFecUncorr, .txpPauseRx, .txpState, .txpMarks, .txpRetxCfg, .txpTimers, .txpRunout, .txpRetainBase, .txpRetainCfg, .txpRetainUsed, .txpMacAddr, .txpIp6, .txpPtpCfg, .txpPtpState]
/-- Register names, part 8. -/
def RegName.part8 : List RegName :=
  [.txpPtpMpd, .txpOwdCfg, .txpOwdMin, .txpOwdMean, .txpOwdMax, .txpMacsec, .txpModule, .txpAttaches, .txpLosses, .txpPeers, .txpUdp, .txpPeerCmd, .txpPeerStat, .txpPtpClock, .txpCtrCtl, .cpeBytes, .cpeDescs, .cpeConfirms, .cpeStatus, .cpeSeq, .cpeDone, .cpeJrnWaits, .cpeJrnMarked, .cpeJrn, .cpeJrnCfg, .cpeJrnStat, .cpeJrnSel, .cpeJrnCtl, .cpeJrnData, .hlkTxBytes]
/-- Register names, part 9. -/
def RegName.part9 : List RegName :=
  [.hlkRxBytes, .hlkRecoveries, .hlkDowns, .hlkLosses, .hlkReplayed, .hlkState, .hlkCfg, .hlkCtl, .hlkLossEt, .hlkHostq, .hlkIrqDest, .glbHostloss, .secViolCount, .secWipes, .secLcState, .secLcCmd, .secWipeStat, .secWipeStartEt, .secWipeEndEt, .secViolAddr, .secViolInfo, .secViolEt, .secKeyCtl, .secKeyCmd, .secKeyPn, .secKeySci, .secKeySsci, .secKey, .secSalt, .secMrBase]
/-- Register names, part 10. -/
def RegName.part10 : List RegName :=
  [.secMrLimit, .pwrDrainLost, .pwrWbLost, .pwrEngResets, .pwrCtl, .pwrState, .pwrCfg, .pwrAvs, .pwrResetEt, .mntGrants, .mntRefused, .mntAborted, .mntTempSteps, .mntUe, .mntSlot, .mntUeAddr, .mntUeInfo, .evrRecords, .evrDropped, .evrFiltered, .evrLeft, .evrCompacts, .evrCtl, .evrCfg, .evrState, .evrNewest, .evrNewestSlot, .evrOpsec, .evrPcycles, .evrRdSel]
/-- Register names, part 11. -/
def RegName.part11 : List RegName :=
  [.evrSwCtl, .evrRdData, .evrSwData, .trcRecords, .trcLost, .trcWraps, .trcCtl, .trcRingBase, .trcRingCfg, .trcRingTail, .trcRingHead, .trcTemp, .trcFCtl, .trcFInst, .trcFQueue, .trcFLo, .trcFHi, .pageId, .pageCap, .pageWorld, .pageState, .pageCtrl, .pageStat, .pageIrqStat, .pageIrqEn, .pageIrqForce, .pageErrInfo, .pageErrAddr, .pageErrData, .pageErrEt]
/-- Register names, part 12. -/
def RegName.part12 : List RegName :=
  [.pageErrReq, .glbUnmapped, .glbNode, .glbChip, .glbIrqSum, .glbCapSum, .glbDeviceId, .timSteps, .timSlews, .timLocks, .timHoldovers, .timNow, .timState, .timCtl, .timSet, .timOffset, .timBound, .timRateFrac, .timRateInt, .timCal, .queDispatched, .queCompleted, .queStops, .queTimeouts, .queInflight, .queCtrCtl, .queStopped, .ccxWdogExp, .ccxState, .ccxFwVer]
/-- Register names, part 13. -/
def RegName.part13 : List RegName :=
  [.ccxHeartbeat, .ccxWdog, .queClassWeight, .brgBytes, .brgWait, .brgRetries, .brgLaneRepairs, .brgState]

/-- All register names, for the search of a register by its offset. -/
def RegName.all : List RegName :=
  part0 ++ part1 ++ part2 ++ part3 ++ part4 ++ part5 ++ part6 ++ part7 ++ part8 ++ part9 ++ part10 ++ part11 ++ part12 ++ part13

/-- A named field: its register, lowest bit and width. -/
structure Fld where
  reg : RegName
  lo : Nat
  len : Nat
  deriving DecidableEq, Repr

/-! The named fields, from the field tables of the chapters. -/

abbrev F.queRingBase_base : Fld := ⟨.queRingBase, 12, 52⟩
abbrev F.queCplBase_base : Fld := ⟨.queCplBase, 12, 52⟩
abbrev F.queRingCfg_size : Fld := ⟨.queRingCfg, 0, 4⟩
abbrev F.queRingCfg_class : Fld := ⟨.queRingCfg, 4, 3⟩
abbrev F.queRingCfg_loc : Fld := ⟨.queRingCfg, 7, 1⟩
abbrev F.queRingCfg_asid : Fld := ⟨.queRingCfg, 16, 16⟩
abbrev F.queCplCfg_size : Fld := ⟨.queCplCfg, 0, 4⟩
abbrev F.queCplCfg_loc : Fld := ⟨.queCplCfg, 7, 1⟩
abbrev F.queCplCfg_irq_count : Fld := ⟨.queCplCfg, 8, 8⟩
abbrev F.queCplCfg_irq_delay : Fld := ⟨.queCplCfg, 16, 16⟩
abbrev F.queTail_tail : Fld := ⟨.queTail, 0, 32⟩
abbrev F.queHead_head : Fld := ⟨.queHead, 0, 32⟩
abbrev F.queCplTail_index : Fld := ⟨.queCplTail, 0, 32⟩
abbrev F.queCplHead_index : Fld := ⟨.queCplHead, 0, 32⟩
abbrev F.queState_state : Fld := ⟨.queState, 0, 3⟩
abbrev F.queState_enable : Fld := ⟨.queState, 8, 1⟩
abbrev F.queState_resume : Fld := ⟨.queState, 9, 1⟩
abbrev F.queState_qreset : Fld := ⟨.queState, 10, 1⟩
abbrev F.queState_inflight : Fld := ⟨.queState, 16, 6⟩
abbrev F.queState_marks : Fld := ⟨.queState, 24, 3⟩
abbrev F.queLimit_limit : Fld := ⟨.queLimit, 0, 24⟩
abbrev F.queErr_status : Fld := ⟨.queErr, 0, 8⟩
abbrev F.queErr_reason : Fld := ⟨.queErr, 8, 8⟩
abbrev F.queErrSeq_seq : Fld := ⟨.queErrSeq, 0, 32⟩
abbrev F.seqEmitted_count : Fld := ⟨.seqEmitted, 0, 64⟩
abbrev F.seqDelivered_count : Fld := ⟨.seqDelivered, 0, 64⟩
abbrev F.seqWastedBytes_count : Fld := ⟨.seqWastedBytes, 0, 64⟩
abbrev F.seqWastedRows_count : Fld := ⟨.seqWastedRows, 0, 64⟩
abbrev F.seqRestarts_count : Fld := ⟨.seqRestarts, 0, 32⟩
abbrev F.seqFaultHolds_count : Fld := ⟨.seqFaultHolds, 0, 32⟩
abbrev F.seqShare_read : Fld := ⟨.seqShare, 0, 5⟩
abbrev F.seqShare_write : Fld := ⟨.seqShare, 5, 5⟩
abbrev F.seqShare_remote : Fld := ⟨.seqShare, 10, 5⟩
abbrev F.seqPhase_fill_mark : Fld := ⟨.seqPhase, 0, 13⟩
abbrev F.seqStatus_state : Fld := ⟨.seqStatus, 0, 3⟩
abbrev F.seqStatus_outstanding : Fld := ⟨.seqStatus, 16, 16⟩
abbrev F.seqOwner_queue : Fld := ⟨.seqOwner, 0, 10⟩
abbrev F.seqOwner_slice : Fld := ⟨.seqOwner, 16, 16⟩
abbrev F.seqOwnerSeq_seq : Fld := ⟨.seqOwnerSeq, 0, 32⟩
abbrev F.seqErr_code : Fld := ⟨.seqErr, 0, 16⟩
abbrev F.seqErr_pc : Fld := ⟨.seqErr, 16, 6⟩
abbrev F.seqErr_kind : Fld := ⟨.seqErr, 22, 3⟩
abbrev F.seqRpCtl_pc : Fld := ⟨.seqRpCtl, 0, 7⟩
abbrev F.seqRpCtl_closes : Fld := ⟨.seqRpCtl, 8, 21⟩
abbrev F.seqRpIxc_ixc : Fld := ⟨.seqRpIxc, 0, 64⟩
abbrev F.seqRpEmits_count : Fld := ⟨.seqRpEmits, 0, 64⟩
abbrev F.seqRpA_value : Fld := ⟨.seqRpA, 0, 64⟩
abbrev F.seqRpLoop_count : Fld := ⟨.seqRpLoop, 0, 32⟩
abbrev F.gclRows_count : Fld := ⟨.gclRows, 0, 64⟩
abbrev F.gclBytes_count : Fld := ⟨.gclBytes, 0, 64⟩
abbrev F.gclBags_count : Fld := ⟨.gclBags, 0, 64⟩
abbrev F.gclBusy_count : Fld := ⟨.gclBusy, 0, 64⟩
abbrev F.gclFetch_count : Fld := ⟨.gclFetch, 0, 64⟩
abbrev F.gclEmpty_count : Fld := ⟨.gclEmpty, 0, 32⟩
abbrev F.gclNonfinite_count : Fld := ⟨.gclNonfinite, 0, 32⟩
abbrev F.gclStallRow_count : Fld := ⟨.gclStallRow, 0, 64⟩
abbrev F.gclStallXlate_count : Fld := ⟨.gclStallXlate, 0, 64⟩
abbrev F.gclStallFault_count : Fld := ⟨.gclStallFault, 0, 64⟩
abbrev F.gclStallAcc_count : Fld := ⟨.gclStallAcc, 0, 64⟩
abbrev F.gclStallScale_count : Fld := ⟨.gclStallScale, 0, 64⟩
abbrev F.gclStallRemote_count : Fld := ⟨.gclStallRemote, 0, 64⟩
abbrev F.gclStallCredit_count : Fld := ⟨.gclStallCredit, 0, 64⟩
abbrev F.gclStallCapo_count : Fld := ⟨.gclStallCapo, 0, 64⟩
abbrev F.gclStallMaint_count : Fld := ⟨.gclStallMaint, 0, 64⟩
abbrev F.gclClock_step : Fld := ⟨.gclClock, 0, 3⟩
abbrev F.gclCtrCtl_clear : Fld := ⟨.gclCtrCtl, 0, 1⟩
abbrev F.gclCtrCtl_freeze : Fld := ⟨.gclCtrCtl, 1, 1⟩
abbrev F.gclResCfg_table : Fld := ⟨.gclResCfg, 0, 16⟩
abbrev F.gclResCfg_enable : Fld := ⟨.gclResCfg, 16, 1⟩
abbrev F.gclResCfg_state : Fld := ⟨.gclResCfg, 17, 3⟩
abbrev F.gclResCfg_part_kib : Fld := ⟨.gclResCfg, 24, 14⟩
abbrev F.gclResEpoch_count : Fld := ⟨.gclResEpoch, 0, 64⟩
abbrev F.acmHazards_count : Fld := ⟨.acmHazards, 0, 32⟩
abbrev F.acmOwnerRefused_count : Fld := ⟨.acmOwnerRefused, 0, 32⟩
abbrev F.acmSatEvents_count : Fld := ⟨.acmSatEvents, 0, 32⟩
abbrev F.acmOwnSel_tile : Fld := ⟨.acmOwnSel, 0, 7⟩
abbrev F.acmOwn_owned : Fld := ⟨.acmOwn, 0, 1⟩
abbrev F.acmOwn_keep : Fld := ⟨.acmOwn, 1, 1⟩
abbrev F.acmOwn_busy : Fld := ⟨.acmOwn, 2, 1⟩
abbrev F.acmOwn_queue : Fld := ⟨.acmOwn, 16, 10⟩
abbrev F.acmRelease_tile : Fld := ⟨.acmRelease, 0, 7⟩
abbrev F.acmOwnedCount_count : Fld := ⟨.acmOwnedCount, 0, 8⟩
abbrev F.acmSat_tile : Fld := ⟨.acmSat, 0, 32⟩
abbrev F.intSamples_count : Fld := ⟨.intSamples, 0, 64⟩
abbrev F.intPairs_count : Fld := ⟨.intPairs, 0, 64⟩
abbrev F.intPairsInt_count : Fld := ⟨.intPairsInt, 0, 64⟩
abbrev F.intBusy_count : Fld := ⟨.intBusy, 0, 64⟩
abbrev F.intWaitIn_count : Fld := ⟨.intWaitIn, 0, 64⟩
abbrev F.intWaitOut_count : Fld := ⟨.intWaitOut, 0, 64⟩
abbrev F.intNonfinite_count : Fld := ⟨.intNonfinite, 0, 32⟩
abbrev F.intStatus_state : Fld := ⟨.intStatus, 0, 2⟩
abbrev F.intStatus_queue : Fld := ⟨.intStatus, 16, 10⟩
abbrev F.qntConv_count : Fld := ⟨.qntConv, 0, 64⟩
abbrev F.qntClamp_count : Fld := ⟨.qntClamp, 0, 64⟩
abbrev F.qntFp8Ovf_count : Fld := ⟨.qntFp8Ovf, 0, 64⟩
abbrev F.qntNfRows_count : Fld := ⟨.qntNfRows, 0, 32⟩
abbrev F.qntLoadHolds_count : Fld := ⟨.qntLoadHolds, 0, 32⟩
abbrev F.qntCtrCtl_clear : Fld := ⟨.qntCtrCtl, 0, 1⟩
abbrev F.qntCtrCtl_freeze : Fld := ⟨.qntCtrCtl, 1, 1⟩
abbrev F.qntTabdir_base : Fld := ⟨.qntTabdir, 12, 44⟩
abbrev F.qntTabcnt_count : Fld := ⟨.qntTabcnt, 0, 17⟩
abbrev F.qntStats_enable : Fld := ⟨.qntStats, 0, 1⟩
abbrev F.qntStats_base : Fld := ⟨.qntStats, 12, 44⟩
abbrev F.qntLoadAddr_addr : Fld := ⟨.qntLoadAddr, 6, 50⟩
abbrev F.qntLoadCtl_kind : Fld := ⟨.qntLoadCtl, 0, 2⟩
abbrev F.qntLoadCtl_dir : Fld := ⟨.qntLoadCtl, 2, 1⟩
abbrev F.qntLoadCtl_die_mask : Fld := ⟨.qntLoadCtl, 3, 2⟩
abbrev F.qntLoadCtl_shift : Fld := ⟨.qntLoadCtl, 5, 2⟩
abbrev F.qntLoadCtl_first : Fld := ⟨.qntLoadCtl, 16, 16⟩
abbrev F.qntLoadCount_count : Fld := ⟨.qntLoadCount, 0, 17⟩
abbrev F.qntLoadCmd_start : Fld := ⟨.qntLoadCmd, 0, 1⟩
abbrev F.qntLoadCmd_abort : Fld := ⟨.qntLoadCmd, 1, 1⟩
abbrev F.qntLoadStat_state : Fld := ⟨.qntLoadStat, 0, 3⟩
abbrev F.qntLoadStat_err : Fld := ⟨.qntLoadStat, 4, 4⟩
abbrev F.qntLoadStat_users : Fld := ⟨.qntLoadStat, 16, 16⟩
abbrev F.qntLoadEt_et : Fld := ⟨.qntLoadEt, 0, 64⟩
abbrev F.optGiElems_count : Fld := ⟨.optGiElems, 0, 64⟩
abbrev F.optGiSat_count : Fld := ⟨.optGiSat, 0, 64⟩
abbrev F.optGiUnder_count : Fld := ⟨.optGiUnder, 0, 64⟩
abbrev F.optGiNf_count : Fld := ⟨.optGiNf, 0, 32⟩
abbrev F.optGiRepairs_count : Fld := ⟨.optGiRepairs, 0, 32⟩
abbrev F.optGscHeld_count : Fld := ⟨.optGscHeld, 0, 32⟩
abbrev F.optGscFlagged_count : Fld := ⟨.optGscFlagged, 0, 32⟩
abbrev F.optGscRepaired_count : Fld := ⟨.optGscRepaired, 0, 32⟩
abbrev F.optGscOld_count : Fld := ⟨.optGscOld, 0, 32⟩
abbrev F.optGscXunder_count : Fld := ⟨.optGscXunder, 0, 32⟩
abbrev F.optGsc_enable : Fld := ⟨.optGsc, 0, 1⟩
abbrev F.optGsc_base : Fld := ⟨.optGsc, 12, 44⟩
abbrev F.mrgTaken_count : Fld := ⟨.mrgTaken, 0, 64⟩
abbrev F.mrgMerged_count : Fld := ⟨.mrgMerged, 0, 64⟩
abbrev F.mrgDrains_count : Fld := ⟨.mrgDrains, 0, 64⟩
abbrev F.mrgRemote_count : Fld := ⟨.mrgRemote, 0, 64⟩
abbrev F.mrgStallFull_count : Fld := ⟨.mrgStallFull, 0, 64⟩
abbrev F.mrgStallTlist_count : Fld := ⟨.mrgStallTlist, 0, 64⟩
abbrev F.mrgSuperseded_count : Fld := ⟨.mrgSuperseded, 0, 32⟩
abbrev F.mrgStale_count : Fld := ⟨.mrgStale, 0, 32⟩
abbrev F.mrgCfg_hold : Fld := ⟨.mrgCfg, 0, 12⟩
abbrev F.mrgCfg_high_mark : Fld := ⟨.mrgCfg, 12, 16⟩
abbrev F.mrgOcc_used : Fld := ⟨.mrgOcc, 0, 16⟩
abbrev F.mrgOcc_peak : Fld := ⟨.mrgOcc, 16, 16⟩
abbrev F.mrgCtrCtl_clear : Fld := ⟨.mrgCtrCtl, 0, 1⟩
abbrev F.mrgCtrCtl_freeze : Fld := ⟨.mrgCtrCtl, 1, 1⟩
abbrev F.optRows_count : Fld := ⟨.optRows, 0, 64⟩
abbrev F.optSkipNf_count : Fld := ⟨.optSkipNf, 0, 32⟩
abbrev F.optFrozen_count : Fld := ⟨.optFrozen, 0, 32⟩
abbrev F.optDup_count : Fld := ⟨.optDup, 0, 32⟩
abbrev F.optCustomTo_count : Fld := ⟨.optCustomTo, 0, 32⟩
abbrev F.optCustom_limit : Fld := ⟨.optCustom, 0, 16⟩
abbrev F.optCustom_ready : Fld := ⟨.optCustom, 16, 1⟩
abbrev F.optArmed_count : Fld := ⟨.optArmed, 0, 32⟩
abbrev F.optFired_count : Fld := ⟨.optFired, 0, 32⟩
abbrev F.optUrec_enable : Fld := ⟨.optUrec, 0, 1⟩
abbrev F.optUrec_base : Fld := ⟨.optUrec, 12, 44⟩
abbrev F.optHpdir_base : Fld := ⟨.optHpdir, 12, 44⟩
abbrev F.optHpcnt_count : Fld := ⟨.optHpcnt, 0, 12⟩
abbrev F.optStash_layout : Fld := ⟨.optStash, 0, 2⟩
abbrev F.optSite_site : Fld := ⟨.optSite, 0, 8⟩
abbrev F.mrgRxLate_count : Fld := ⟨.mrgRxLate, 0, 32⟩
abbrev F.mrgRxDup_count : Fld := ⟨.mrgRxDup, 0, 32⟩
abbrev F.mrgRoCfg_limit : Fld := ⟨.mrgRoCfg, 0, 6⟩
abbrev F.mrgRoUsed_kib : Fld := ⟨.mrgRoUsed, 0, 16⟩
abbrev F.mrgRoUsed_items : Fld := ⟨.mrgRoUsed, 16, 16⟩
abbrev F.mrgSpillPtr_put : Fld := ⟨.mrgSpillPtr, 0, 16⟩
abbrev F.mrgSpillPtr_get : Fld := ⟨.mrgSpillPtr, 16, 16⟩
abbrev F.mrgSpillSkip_skip : Fld := ⟨.mrgSpillSkip, 0, 1⟩
abbrev F.mrgTxBatches_count : Fld := ⟨.mrgTxBatches, 0, 64⟩
abbrev F.mrgRxBatches_count : Fld := ⟨.mrgRxBatches, 0, 64⟩
abbrev F.mrgServedBags_count : Fld := ⟨.mrgServedBags, 0, 64⟩
abbrev F.mrgUnitsTx_count : Fld := ⟨.mrgUnitsTx, 0, 32⟩
abbrev F.mrgUnitsRx_count : Fld := ⟨.mrgUnitsRx, 0, 32⟩
abbrev F.mrgEarly_count : Fld := ⟨.mrgEarly, 0, 32⟩
abbrev F.mrgSpilled_count : Fld := ⟨.mrgSpilled, 0, 32⟩
abbrev F.mrgResent_count : Fld := ⟨.mrgResent, 0, 32⟩
abbrev F.mrgMisrouted_count : Fld := ⟨.mrgMisrouted, 0, 32⟩
abbrev F.mrgChainFail_count : Fld := ⟨.mrgChainFail, 0, 32⟩
abbrev F.mrgReplyDiscard_count : Fld := ⟨.mrgReplyDiscard, 0, 32⟩
abbrev F.mrgShdir_base : Fld := ⟨.mrgShdir, 12, 44⟩
abbrev F.mrgShcnt_count : Fld := ⟨.mrgShcnt, 0, 17⟩
abbrev F.mrgServe_region_mask : Fld := ⟨.mrgServe, 0, 8⟩
abbrev F.mrgServe_tiles : Fld := ⟨.mrgServe, 8, 4⟩
abbrev F.mrgRmt_base : Fld := ⟨.mrgRmt, 12, 44⟩
abbrev F.mrgSpillCfg_entries : Fld := ⟨.mrgSpillCfg, 0, 16⟩
abbrev F.mrgCtrCtl8_clear : Fld := ⟨.mrgCtrCtl8, 0, 1⟩
abbrev F.mrgCtrCtl8_freeze : Fld := ⟨.mrgCtrCtl8, 1, 1⟩
abbrev F.hbcRdBytes_count : Fld := ⟨.hbcRdBytes, 0, 64⟩
abbrev F.hbcWrBytes_count : Fld := ⟨.hbcWrBytes, 0, 64⟩
abbrev F.hbcCe_count : Fld := ⟨.hbcCe, 0, 32⟩
abbrev F.hbcUe_count : Fld := ⟨.hbcUe, 0, 32⟩
abbrev F.hbcConflicts_count : Fld := ⟨.hbcConflicts, 0, 32⟩
abbrev F.hbcThrottleUs_count : Fld := ⟨.hbcThrottleUs, 0, 32⟩
abbrev F.hbcTurns_count : Fld := ⟨.hbcTurns, 0, 64⟩
abbrev F.hbcState_state : Fld := ⟨.hbcState, 0, 3⟩
abbrev F.hbcState_rate : Fld := ⟨.hbcState, 3, 2⟩
abbrev F.hbcState_ref : Fld := ⟨.hbcState, 5, 2⟩
abbrev F.hbcState_from_map : Fld := ⟨.hbcState, 7, 1⟩
abbrev F.hbcTemp_temp : Fld := ⟨.hbcTemp, 0, 8⟩
abbrev F.hbcTemp_peak : Fld := ⟨.hbcTemp, 8, 8⟩
abbrev F.hbcTemp_peak_clear : Fld := ⟨.hbcTemp, 16, 1⟩
abbrev F.hbcTemp_crit : Fld := ⟨.hbcTemp, 24, 8⟩
abbrev F.hbcRefCtl_min : Fld := ⟨.hbcRefCtl, 0, 2⟩
abbrev F.hbcRefCtl_applied : Fld := ⟨.hbcRefCtl, 2, 1⟩
abbrev F.hbcChFail_failed : Fld := ⟨.hbcChFail, 0, 32⟩
abbrev F.hbcRepair_lane0 : Fld := ⟨.hbcRepair, 0, 7⟩
abbrev F.hbcRepair_lane1 : Fld := ⟨.hbcRepair, 8, 7⟩
abbrev F.hbcRepair_valid : Fld := ⟨.hbcRepair, 15, 1⟩
abbrev F.hbcTgMask_pc : Fld := ⟨.hbcTgMask, 0, 64⟩
abbrev F.hbcTgCfg_pattern : Fld := ⟨.hbcTgCfg, 0, 3⟩
abbrev F.hbcTgCfg_op : Fld := ⟨.hbcTgCfg, 3, 2⟩
abbrev F.hbcTgCfg_rate : Fld := ⟨.hbcTgCfg, 5, 9⟩
abbrev F.hbcTgCfg_seed : Fld := ⟨.hbcTgCfg, 16, 16⟩
abbrev F.hbcTgCount_granules : Fld := ⟨.hbcTgCount, 0, 32⟩
abbrev F.hbcTgSel_pc : Fld := ⟨.hbcTgSel, 0, 6⟩
abbrev F.hbcTgErrs_count : Fld := ⟨.hbcTgErrs, 0, 32⟩
abbrev F.hbcTgFirst_addr : Fld := ⟨.hbcTgFirst, 0, 31⟩
abbrev F.hbcTgFirst_lane : Fld := ⟨.hbcTgFirst, 32, 7⟩
abbrev F.hbcTgFirst_valid : Fld := ⟨.hbcTgFirst, 39, 1⟩
abbrev F.ctpRdBytes_count : Fld := ⟨.ctpRdBytes, 0, 64⟩
abbrev F.ctpWrBytes_count : Fld := ⟨.ctpWrBytes, 0, 64⟩
abbrev F.ctpCe_count : Fld := ⟨.ctpCe, 0, 32⟩
abbrev F.ctpUe_count : Fld := ⟨.ctpUe, 0, 32⟩
abbrev F.ctpState_state : Fld := ⟨.ctpState, 0, 3⟩
abbrev F.ctpState_size_gib : Fld := ⟨.ctpState, 8, 8⟩
abbrev F.ctpState_ref : Fld := ⟨.ctpState, 16, 2⟩
abbrev F.ctpTemp_temp : Fld := ⟨.ctpTemp, 0, 8⟩
abbrev F.ctpTemp_peak : Fld := ⟨.ctpTemp, 8, 8⟩
abbrev F.ctpTemp_peak_clear : Fld := ⟨.ctpTemp, 16, 1⟩
abbrev F.ctpTemp_crit : Fld := ⟨.ctpTemp, 24, 8⟩
abbrev F.llsHits_count : Fld := ⟨.llsHits, 0, 64⟩
abbrev F.llsMisses_count : Fld := ⟨.llsMisses, 0, 64⟩
abbrev F.llsFillBytes_count : Fld := ⟨.llsFillBytes, 0, 64⟩
abbrev F.llsWbBytes_count : Fld := ⟨.llsWbBytes, 0, 64⟩
abbrev F.llsAtomics_count : Fld := ⟨.llsAtomics, 0, 64⟩
abbrev F.llsHoldWaits_count : Fld := ⟨.llsHoldWaits, 0, 32⟩
abbrev F.llsCe_count : Fld := ⟨.llsCe, 0, 32⟩
abbrev F.llsCtrCtl_clear : Fld := ⟨.llsCtrCtl, 0, 1⟩
abbrev F.llsCtrCtl_freeze : Fld := ⟨.llsCtrCtl, 1, 1⟩
abbrev F.llsPart_cache : Fld := ⟨.llsPart, 0, 5⟩
abbrev F.llsPart_scratch : Fld := ⟨.llsPart, 5, 5⟩
abbrev F.llsPart_pinned : Fld := ⟨.llsPart, 10, 5⟩
abbrev F.llsAlloc_hbm_read : Fld := ⟨.llsAlloc, 0, 1⟩
abbrev F.llsAlloc_cap_read : Fld := ⟨.llsAlloc, 1, 1⟩
abbrev F.llsPinBase_base : Fld := ⟨.llsPinBase, 16, 40⟩
abbrev F.llsPinLen_blocks : Fld := ⟨.llsPinLen, 0, 24⟩
abbrev F.llsPinCtl_enable : Fld := ⟨.llsPinCtl, 0, 1⟩
abbrev F.llsPinCtl_state : Fld := ⟨.llsPinCtl, 1, 3⟩
abbrev F.rgnMeshBytes_count : Fld := ⟨.rgnMeshBytes, 0, 64⟩
abbrev F.rgnBridgeBytes_count : Fld := ⟨.rgnBridgeBytes, 0, 64⟩
abbrev F.rgnCapoHolds_count : Fld := ⟨.rgnCapoHolds, 0, 64⟩
abbrev F.rgnCapo_floor : Fld := ⟨.rgnCapo, 0, 9⟩
abbrev F.rgnCapo_ceil : Fld := ⟨.rgnCapo, 16, 9⟩
abbrev F.rgnCapoAct_floor : Fld := ⟨.rgnCapoAct, 0, 9⟩
abbrev F.rgnCapoAct_ceil : Fld := ⟨.rgnCapoAct, 16, 9⟩
abbrev F.trnL1Hits_count : Fld := ⟨.trnL1Hits, 0, 64⟩
abbrev F.trnL1Misses_count : Fld := ⟨.trnL1Misses, 0, 64⟩
abbrev F.trnL1Removed_count : Fld := ⟨.trnL1Removed, 0, 32⟩
abbrev F.trnL1Faults_count : Fld := ⟨.trnL1Faults, 0, 32⟩
abbrev F.trnL1CtrCtl_clear : Fld := ⟨.trnL1CtrCtl, 0, 1⟩
abbrev F.trnL1CtrCtl_freeze : Fld := ⟨.trnL1CtrCtl, 1, 1⟩
abbrev F.trnL2Hits_count : Fld := ⟨.trnL2Hits, 0, 64⟩
abbrev F.trnL2Misses_count : Fld := ⟨.trnL2Misses, 0, 64⟩
abbrev F.trnWalks_count : Fld := ⟨.trnWalks, 0, 64⟩
abbrev F.trnFaults_count : Fld := ⟨.trnFaults, 0, 32⟩
abbrev F.trnJoins_count : Fld := ⟨.trnJoins, 0, 32⟩
abbrev F.trnBatches_count : Fld := ⟨.trnBatches, 0, 32⟩
abbrev F.trnFatal_count : Fld := ⟨.trnFatal, 0, 32⟩
abbrev F.trnRefaults_count : Fld := ⟨.trnRefaults, 0, 32⟩
abbrev F.trnReplyLate_count : Fld := ⟨.trnReplyLate, 0, 32⟩
abbrev F.trnStuck_count : Fld := ⟨.trnStuck, 0, 32⟩
abbrev F.trnFqBase_base : Fld := ⟨.trnFqBase, 12, 52⟩
abbrev F.trnFqCfg_size : Fld := ⟨.trnFqCfg, 0, 4⟩
abbrev F.trnFqCfg_loc : Fld := ⟨.trnFqCfg, 4, 1⟩
abbrev F.trnFqCfg_servicer : Fld := ⟨.trnFqCfg, 5, 1⟩
abbrev F.trnFqTail_index : Fld := ⟨.trnFqTail, 0, 32⟩
abbrev F.trnFqHead_index : Fld := ⟨.trnFqHead, 0, 32⟩
abbrev F.trnBatchCfg_max : Fld := ⟨.trnBatchCfg, 0, 9⟩
abbrev F.trnBatchCfg_flush : Fld := ⟨.trnBatchCfg, 9, 1⟩
abbrev F.trnBatchCfg_window : Fld := ⟨.trnBatchCfg, 16, 10⟩
abbrev F.trnBatchState_open : Fld := ⟨.trnBatchState, 0, 9⟩
abbrev F.trnBatchState_pending : Fld := ⟨.trnBatchState, 9, 3⟩
abbrev F.trnBatchState_waiting : Fld := ⟨.trnBatchState, 16, 16⟩
abbrev F.trnCtrCtl_clear : Fld := ⟨.trnCtrCtl, 0, 1⟩
abbrev F.trnCtrCtl_freeze : Fld := ⟨.trnCtrCtl, 1, 1⟩
abbrev F.trnAsid_enable : Fld := ⟨.trnAsid, 0, 1⟩
abbrev F.trnAsid_base : Fld := ⟨.trnAsid, 12, 44⟩
abbrev F.migCounted_count : Fld := ⟨.migCounted, 0, 64⟩
abbrev F.migMovedBytes_count : Fld := ⟨.migMovedBytes, 0, 64⟩
abbrev F.migHot_count : Fld := ⟨.migHot, 0, 32⟩
abbrev F.migEvict_count : Fld := ⟨.migEvict, 0, 32⟩
abbrev F.migRingDrop_count : Fld := ⟨.migRingDrop, 0, 32⟩
abbrev F.migMovedPages_count : Fld := ⟨.migMovedPages, 0, 32⟩
abbrev F.migCfg_enable : Fld := ⟨.migCfg, 0, 1⟩
abbrev F.migCfg_tier_hbm : Fld := ⟨.migCfg, 1, 1⟩
abbrev F.migCfg_tier_cap : Fld := ⟨.migCfg, 2, 1⟩
abbrev F.migCfg_hot : Fld := ⟨.migCfg, 8, 16⟩
abbrev F.migCfg_epoch : Fld := ⟨.migCfg, 24, 8⟩
abbrev F.migRingBase_base : Fld := ⟨.migRingBase, 6, 50⟩
abbrev F.migRingCfg_size : Fld := ⟨.migRingCfg, 0, 4⟩
abbrev F.migRingTail_index : Fld := ⟨.migRingTail, 0, 32⟩
abbrev F.migRingHead_index : Fld := ⟨.migRingHead, 0, 32⟩
abbrev F.migCtrCtl_clear : Fld := ⟨.migCtrCtl, 0, 1⟩
abbrev F.migCtrCtl_freeze : Fld := ⟨.migCtrCtl, 1, 1⟩
abbrev F.txpTxBytes_count : Fld := ⟨.txpTxBytes, 0, 64⟩
abbrev F.txpRxBytes_count : Fld := ⟨.txpRxBytes, 0, 64⟩
abbrev F.txpFecCorr_count : Fld := ⟨.txpFecCorr, 0, 64⟩
abbrev F.txpRetx_count : Fld := ⟨.txpRetx, 0, 32⟩
abbrev F.txpRxDiscard_count : Fld := ⟨.txpRxDiscard, 0, 32⟩
abbrev F.txpGaps_count : Fld := ⟨.txpGaps, 0, 32⟩
abbrev F.txpGapFrames_count : Fld := ⟨.txpGapFrames, 0, 32⟩
abbrev F.txpCreditViol_count : Fld := ⟨.txpCreditViol, 0, 32⟩
abbrev F.txpStampBad_count : Fld := ⟨.txpStampBad, 0, 32⟩
abbrev F.txpWithheldUs_count : Fld := ⟨.txpWithheldUs, 0, 32⟩
abbrev F.txpRetainWaitUs_count : Fld := ⟨.txpRetainWaitUs, 0, 32⟩
abbrev F.txpFecUncorr_count : Fld := ⟨.txpFecUncorr, 0, 32⟩
abbrev F.txpPauseRx_count : Fld := ⟨.txpPauseRx, 0, 32⟩
abbrev F.txpState_state : Fld := ⟨.txpState, 0, 3⟩
abbrev F.txpState_enable : Fld := ⟨.txpState, 3, 1⟩
abbrev F.txpMarks_high_mark : Fld := ⟨.txpMarks, 0, 6⟩
abbrev F.txpMarks_low_mark : Fld := ⟨.txpMarks, 8, 6⟩
abbrev F.txpMarks_window : Fld := ⟨.txpMarks, 16, 7⟩
abbrev F.txpRetxCfg_rto_min : Fld := ⟨.txpRetxCfg, 0, 16⟩
abbrev F.txpRetxCfg_retry_max : Fld := ⟨.txpRetxCfg, 16, 8⟩
abbrev F.txpTimers_ack_us : Fld := ⟨.txpTimers, 0, 8⟩
abbrev F.txpTimers_idle_us : Fld := ⟨.txpTimers, 8, 8⟩
abbrev F.txpTimers_peer_ms : Fld := ⟨.txpTimers, 16, 8⟩
abbrev F.txpTimers_port_ms : Fld := ⟨.txpTimers, 24, 8⟩
abbrev F.txpRunout_used : Fld := ⟨.txpRunout, 0, 15⟩
abbrev F.txpRunout_withheld : Fld := ⟨.txpRunout, 15, 1⟩
abbrev F.txpRunout_peak : Fld := ⟨.txpRunout, 16, 15⟩
abbrev F.txpRetainBase_base : Fld := ⟨.txpRetainBase, 16, 40⟩
abbrev F.txpRetainCfg_size : Fld := ⟨.txpRetainCfg, 0, 12⟩
abbrev F.txpRetainUsed_kib : Fld := ⟨.txpRetainUsed, 0, 32⟩
abbrev F.txpMacAddr_addr : Fld := ⟨.txpMacAddr, 0, 48⟩
abbrev F.txpIp6_addr : Fld := ⟨.txpIp6, 0, 32⟩
abbrev F.txpPtpCfg_enable : Fld := ⟨.txpPtpCfg, 0, 1⟩
abbrev F.txpPtpCfg_asym : Fld := ⟨.txpPtpCfg, 16, 16⟩
abbrev F.txpPtpState_state : Fld := ⟨.txpPtpState, 0, 4⟩
abbrev F.txpPtpMpd_ticks : Fld := ⟨.txpPtpMpd, 0, 32⟩
abbrev F.txpOwdCfg_node : Fld := ⟨.txpOwdCfg, 0, 10⟩
abbrev F.txpOwdCfg_log_win : Fld := ⟨.txpOwdCfg, 16, 4⟩
abbrev F.txpOwdMin_ticks : Fld := ⟨.txpOwdMin, 0, 32⟩
abbrev F.txpOwdMean_ticks : Fld := ⟨.txpOwdMean, 0, 32⟩
abbrev F.txpOwdMax_ticks : Fld := ⟨.txpOwdMax, 0, 32⟩
abbrev F.txpMacsec_tx_an : Fld := ⟨.txpMacsec, 0, 2⟩
abbrev F.txpMacsec_tx_valid : Fld := ⟨.txpMacsec, 2, 1⟩
abbrev F.txpMacsec_pn_high : Fld := ⟨.txpMacsec, 3, 1⟩
abbrev F.txpMacsec_rx_valid : Fld := ⟨.txpMacsec, 4, 4⟩
abbrev F.txpModule_present : Fld := ⟨.txpModule, 0, 1⟩
abbrev F.txpModule_ready : Fld := ⟨.txpModule, 1, 1⟩
abbrev F.txpModule_lock : Fld := ⟨.txpModule, 2, 8⟩
abbrev F.txpModule_fec_lock : Fld := ⟨.txpModule, 10, 1⟩
abbrev F.txpAttaches_count : Fld := ⟨.txpAttaches, 0, 32⟩
abbrev F.txpLosses_count : Fld := ⟨.txpLosses, 0, 32⟩
abbrev F.txpPeers_enable : Fld := ⟨.txpPeers, 0, 1⟩
abbrev F.txpPeers_base : Fld := ⟨.txpPeers, 16, 40⟩
abbrev F.txpUdp_port : Fld := ⟨.txpUdp, 0, 16⟩
abbrev F.txpPeerCmd_node : Fld := ⟨.txpPeerCmd, 0, 10⟩
abbrev F.txpPeerCmd_op : Fld := ⟨.txpPeerCmd, 12, 2⟩
abbrev F.txpPeerCmd_start : Fld := ⟨.txpPeerCmd, 31, 1⟩
abbrev F.txpPeerStat_state : Fld := ⟨.txpPeerStat, 0, 3⟩
abbrev F.txpPeerStat_session : Fld := ⟨.txpPeerStat, 16, 16⟩
abbrev F.txpPtpClock_domain : Fld := ⟨.txpPtpClock, 0, 8⟩
abbrev F.txpPtpClock_priority1 : Fld := ⟨.txpPtpClock, 8, 8⟩
abbrev F.txpPtpClock_priority2 : Fld := ⟨.txpPtpClock, 16, 8⟩
abbrev F.txpPtpClock_slave_only : Fld := ⟨.txpPtpClock, 24, 1⟩
abbrev F.txpPtpClock_source : Fld := ⟨.txpPtpClock, 25, 3⟩
abbrev F.txpPtpClock_source_valid : Fld := ⟨.txpPtpClock, 28, 1⟩
abbrev F.txpCtrCtl_clear : Fld := ⟨.txpCtrCtl, 0, 1⟩
abbrev F.txpCtrCtl_freeze : Fld := ⟨.txpCtrCtl, 1, 1⟩
abbrev F.cpeBytes_count : Fld := ⟨.cpeBytes, 0, 64⟩
abbrev F.cpeDescs_count : Fld := ⟨.cpeDescs, 0, 32⟩
abbrev F.cpeConfirms_count : Fld := ⟨.cpeConfirms, 0, 32⟩
abbrev F.cpeStatus_state : Fld := ⟨.cpeStatus, 0, 2⟩
abbrev F.cpeStatus_waiting : Fld := ⟨.cpeStatus, 8, 8⟩
abbrev F.cpeStatus_queue : Fld := ⟨.cpeStatus, 16, 10⟩
abbrev F.cpeSeq_seq : Fld := ⟨.cpeSeq, 0, 32⟩
abbrev F.cpeDone_bytes : Fld := ⟨.cpeDone, 0, 64⟩
abbrev F.cpeJrnWaits_count : Fld := ⟨.cpeJrnWaits, 0, 32⟩
abbrev F.cpeJrnMarked_count : Fld := ⟨.cpeJrnMarked, 0, 32⟩
abbrev F.cpeJrn_enable : Fld := ⟨.cpeJrn, 0, 1⟩
abbrev F.cpeJrn_base : Fld := ⟨.cpeJrn, 12, 44⟩
abbrev F.cpeJrnCfg_entries : Fld := ⟨.cpeJrnCfg, 0, 16⟩
abbrev F.cpeJrnCfg_flush_kib : Fld := ⟨.cpeJrnCfg, 16, 12⟩
abbrev F.cpeJrnStat_unconfirmed : Fld := ⟨.cpeJrnStat, 0, 16⟩
abbrev F.cpeJrnStat_in_use : Fld := ⟨.cpeJrnStat, 16, 16⟩
abbrev F.cpeJrnSel_entry : Fld := ⟨.cpeJrnSel, 0, 16⟩
abbrev F.cpeJrnCtl_clear_sel : Fld := ⟨.cpeJrnCtl, 0, 1⟩
abbrev F.cpeJrnCtl_clear_all : Fld := ⟨.cpeJrnCtl, 1, 1⟩
abbrev F.cpeJrnData_data : Fld := ⟨.cpeJrnData, 0, 32⟩
abbrev F.hlkTxBytes_count : Fld := ⟨.hlkTxBytes, 0, 64⟩
abbrev F.hlkRxBytes_count : Fld := ⟨.hlkRxBytes, 0, 64⟩
abbrev F.hlkRecoveries_count : Fld := ⟨.hlkRecoveries, 0, 32⟩
abbrev F.hlkDowns_count : Fld := ⟨.hlkDowns, 0, 32⟩
abbrev F.hlkLosses_count : Fld := ⟨.hlkLosses, 0, 32⟩
abbrev F.hlkReplayed_count : Fld := ⟨.hlkReplayed, 0, 32⟩
abbrev F.hlkState_state : Fld := ⟨.hlkState, 0, 3⟩
abbrev F.hlkState_cause : Fld := ⟨.hlkState, 3, 4⟩
abbrev F.hlkState_cache_en : Fld := ⟨.hlkState, 7, 1⟩
abbrev F.hlkCfg_timeout_ms : Fld := ⟨.hlkCfg, 0, 10⟩
abbrev F.hlkCtl_resume : Fld := ⟨.hlkCtl, 0, 1⟩
abbrev F.hlkLossEt_et : Fld := ⟨.hlkLossEt, 0, 64⟩
abbrev F.hlkHostq_pages : Fld := ⟨.hlkHostq, 0, 64⟩
abbrev F.hlkIrqDest_pages : Fld := ⟨.hlkIrqDest, 0, 64⟩
abbrev F.glbHostloss_continue : Fld := ⟨.glbHostloss, 0, 1⟩
abbrev F.secViolCount_count : Fld := ⟨.secViolCount, 0, 32⟩
abbrev F.secWipes_count : Fld := ⟨.secWipes, 0, 32⟩
abbrev F.secLcState_state : Fld := ⟨.secLcState, 0, 2⟩
abbrev F.secLcState_pending : Fld := ⟨.secLcState, 2, 1⟩
abbrev F.secLcCmd_target : Fld := ⟨.secLcCmd, 0, 2⟩
abbrev F.secLcCmd_confirm : Fld := ⟨.secLcCmd, 8, 8⟩
abbrev F.secLcCmd_start : Fld := ⟨.secLcCmd, 31, 1⟩
abbrev F.secWipeStat_kind : Fld := ⟨.secWipeStat, 0, 3⟩
abbrev F.secWipeStat_busy : Fld := ⟨.secWipeStat, 3, 1⟩
abbrev F.secWipeStat_region : Fld := ⟨.secWipeStat, 8, 8⟩
abbrev F.secWipeStartEt_et : Fld := ⟨.secWipeStartEt, 0, 64⟩
abbrev F.secWipeEndEt_et : Fld := ⟨.secWipeEndEt, 0, 64⟩
abbrev F.secViolAddr_addr : Fld := ⟨.secViolAddr, 0, 56⟩
abbrev F.secViolInfo_source : Fld := ⟨.secViolInfo, 0, 2⟩
abbrev F.secViolInfo_world : Fld := ⟨.secViolInfo, 2, 1⟩
abbrev F.secViolInfo_kind : Fld := ⟨.secViolInfo, 3, 2⟩
abbrev F.secViolInfo_no_region : Fld := ⟨.secViolInfo, 5, 1⟩
abbrev F.secViolInfo_valid : Fld := ⟨.secViolInfo, 6, 1⟩
abbrev F.secViolInfo_region : Fld := ⟨.secViolInfo, 8, 8⟩
abbrev F.secViolInfo_queue : Fld := ⟨.secViolInfo, 16, 10⟩
abbrev F.secViolEt_et : Fld := ⟨.secViolEt, 0, 64⟩
abbrev F.secKeyCtl_port : Fld := ⟨.secKeyCtl, 0, 3⟩
abbrev F.secKeyCtl_dir : Fld := ⟨.secKeyCtl, 3, 1⟩
abbrev F.secKeyCtl_an : Fld := ⟨.secKeyCtl, 4, 2⟩
abbrev F.secKeyCtl_xpn : Fld := ⟨.secKeyCtl, 6, 1⟩
abbrev F.secKeyCmd_install : Fld := ⟨.secKeyCmd, 0, 1⟩
abbrev F.secKeyCmd_remove : Fld := ⟨.secKeyCmd, 1, 1⟩
abbrev F.secKeyCmd_done : Fld := ⟨.secKeyCmd, 2, 1⟩
abbrev F.secKeyCmd_err : Fld := ⟨.secKeyCmd, 3, 1⟩
abbrev F.secKeyPn_pn : Fld := ⟨.secKeyPn, 0, 64⟩
abbrev F.secKeySci_sci : Fld := ⟨.secKeySci, 0, 64⟩
abbrev F.secKeySsci_ssci : Fld := ⟨.secKeySsci, 0, 32⟩
abbrev F.secKey_key : Fld := ⟨.secKey, 0, 32⟩
abbrev F.secSalt_salt : Fld := ⟨.secSalt, 0, 32⟩
abbrev F.secMrBase_enable : Fld := ⟨.secMrBase, 0, 1⟩
abbrev F.secMrBase_world : Fld := ⟨.secMrBase, 1, 1⟩
abbrev F.secMrBase_rd : Fld := ⟨.secMrBase, 2, 1⟩
abbrev F.secMrBase_wr : Fld := ⟨.secMrBase, 3, 1⟩
abbrev F.secMrBase_at : Fld := ⟨.secMrBase, 4, 1⟩
abbrev F.secMrBase_base : Fld := ⟨.secMrBase, 16, 30⟩
abbrev F.secMrLimit_state : Fld := ⟨.secMrLimit, 0, 3⟩
abbrev F.secMrLimit_limit : Fld := ⟨.secMrLimit, 16, 30⟩
abbrev F.pwrDrainLost_count : Fld := ⟨.pwrDrainLost, 0, 32⟩
abbrev F.pwrWbLost_count : Fld := ⟨.pwrWbLost, 0, 32⟩
abbrev F.pwrEngResets_count : Fld := ⟨.pwrEngResets, 0, 32⟩
abbrev F.pwrCtl_req : Fld := ⟨.pwrCtl, 0, 3⟩
abbrev F.pwrCtl_eng_reset : Fld := ⟨.pwrCtl, 8, 1⟩
abbrev F.pwrCtl_cold_reset : Fld := ⟨.pwrCtl, 9, 1⟩
abbrev F.pwrState_state : Fld := ⟨.pwrState, 0, 3⟩
abbrev F.pwrState_busy : Fld := ⟨.pwrState, 3, 1⟩
abbrev F.pwrState_ready : Fld := ⟨.pwrState, 4, 1⟩
abbrev F.pwrState_last : Fld := ⟨.pwrState, 5, 3⟩
abbrev F.pwrState_cause : Fld := ⟨.pwrState, 8, 4⟩
abbrev F.pwrCfg_quiesce_us : Fld := ⟨.pwrCfg, 0, 16⟩
abbrev F.pwrCfg_entry_ms : Fld := ⟨.pwrCfg, 16, 8⟩
abbrev F.pwrCfg_escalate_ms : Fld := ⟨.pwrCfg, 24, 4⟩
abbrev F.pwrCfg_ready_ms : Fld := ⟨.pwrCfg, 28, 3⟩
abbrev F.pwrCfg_auto_reset : Fld := ⟨.pwrCfg, 31, 1⟩
abbrev F.pwrAvs_vddc0 : Fld := ⟨.pwrAvs, 0, 10⟩
abbrev F.pwrAvs_vddc1 : Fld := ⟨.pwrAvs, 16, 10⟩
abbrev F.pwrResetEt_et : Fld := ⟨.pwrResetEt, 0, 64⟩
abbrev F.mntGrants_count : Fld := ⟨.mntGrants, 0, 32⟩
abbrev F.mntRefused_count : Fld := ⟨.mntRefused, 0, 32⟩
abbrev F.mntAborted_count : Fld := ⟨.mntAborted, 0, 32⟩
abbrev F.mntTempSteps_count : Fld := ⟨.mntTempSteps, 0, 32⟩
abbrev F.mntUe_count : Fld := ⟨.mntUe, 0, 32⟩
abbrev F.mntSlot_activity : Fld := ⟨.mntSlot, 0, 4⟩
abbrev F.mntSlot_target : Fld := ⟨.mntSlot, 4, 5⟩
abbrev F.mntSlot_channel : Fld := ⟨.mntSlot, 9, 5⟩
abbrev F.mntSlot_state : Fld := ⟨.mntSlot, 14, 2⟩
abbrev F.mntSlot_queue : Fld := ⟨.mntSlot, 16, 10⟩
abbrev F.mntUeAddr_addr : Fld := ⟨.mntUeAddr, 0, 56⟩
abbrev F.mntUeInfo_tier : Fld := ⟨.mntUeInfo, 0, 2⟩
abbrev F.mntUeInfo_valid : Fld := ⟨.mntUeInfo, 2, 1⟩
abbrev F.mntUeInfo_scrub : Fld := ⟨.mntUeInfo, 3, 1⟩
abbrev F.mntUeInfo_waiters : Fld := ⟨.mntUeInfo, 16, 16⟩
abbrev F.evrRecords_count : Fld := ⟨.evrRecords, 0, 64⟩
abbrev F.evrDropped_count : Fld := ⟨.evrDropped, 0, 32⟩
abbrev F.evrFiltered_count : Fld := ⟨.evrFiltered, 0, 32⟩
abbrev F.evrLeft_count : Fld := ⟨.evrLeft, 0, 32⟩
abbrev F.evrCompacts_count : Fld := ⟨.evrCompacts, 0, 32⟩
abbrev F.evrCtl_test : Fld := ⟨.evrCtl, 0, 1⟩
abbrev F.evrCtl_recovery : Fld := ⟨.evrCtl, 1, 1⟩
abbrev F.evrCfg_min_sev : Fld := ⟨.evrCfg, 0, 3⟩
abbrev F.evrCfg_protect : Fld := ⟨.evrCfg, 4, 3⟩
abbrev F.evrState_mode : Fld := ⟨.evrState, 0, 1⟩
abbrev F.evrState_startup : Fld := ⟨.evrState, 1, 1⟩
abbrev F.evrState_staged : Fld := ⟨.evrState, 2, 13⟩
abbrev F.evrState_compacting : Fld := ⟨.evrState, 15, 1⟩
abbrev F.evrState_free_blocks : Fld := ⟨.evrState, 16, 11⟩
abbrev F.evrNewest_seq : Fld := ⟨.evrNewest, 0, 40⟩
abbrev F.evrNewestSlot_slot : Fld := ⟨.evrNewestSlot, 0, 22⟩
abbrev F.evrNewestSlot_seed : Fld := ⟨.evrNewestSlot, 22, 1⟩
abbrev F.evrOpsec_seconds : Fld := ⟨.evrOpsec, 0, 40⟩
abbrev F.evrPcycles_count : Fld := ⟨.evrPcycles, 0, 24⟩
abbrev F.evrRdSel_slot : Fld := ⟨.evrRdSel, 0, 22⟩
abbrev F.evrRdSel_area : Fld := ⟨.evrRdSel, 22, 2⟩
abbrev F.evrSwCtl_code : Fld := ⟨.evrSwCtl, 0, 16⟩
abbrev F.evrSwCtl_sev : Fld := ⟨.evrSwCtl, 16, 3⟩
abbrev F.evrSwCtl_write : Fld := ⟨.evrSwCtl, 31, 1⟩
abbrev F.evrRdData_data : Fld := ⟨.evrRdData, 0, 32⟩
abbrev F.evrSwData_data : Fld := ⟨.evrSwData, 0, 32⟩
abbrev F.trcRecords_count : Fld := ⟨.trcRecords, 0, 64⟩
abbrev F.trcLost_count : Fld := ⟨.trcLost, 0, 32⟩
abbrev F.trcWraps_count : Fld := ⟨.trcWraps, 0, 32⟩
abbrev F.trcCtl_enable : Fld := ⟨.trcCtl, 0, 1⟩
abbrev F.trcCtl_mode : Fld := ⟨.trcCtl, 1, 1⟩
abbrev F.trcCtl_full : Fld := ⟨.trcCtl, 2, 1⟩
abbrev F.trcRingBase_base : Fld := ⟨.trcRingBase, 12, 44⟩
abbrev F.trcRingCfg_size : Fld := ⟨.trcRingCfg, 0, 4⟩
abbrev F.trcRingTail_index : Fld := ⟨.trcRingTail, 0, 32⟩
abbrev F.trcRingHead_index : Fld := ⟨.trcRingHead, 0, 32⟩
abbrev F.trcTemp_die0 : Fld := ⟨.trcTemp, 0, 8⟩
abbrev F.trcTemp_die1 : Fld := ⟨.trcTemp, 8, 8⟩
abbrev F.trcTemp_peak0 : Fld := ⟨.trcTemp, 16, 8⟩
abbrev F.trcTemp_peak1 : Fld := ⟨.trcTemp, 24, 8⟩
abbrev F.trcFCtl_enable : Fld := ⟨.trcFCtl, 0, 1⟩
abbrev F.trcFCtl_kinds : Fld := ⟨.trcFCtl, 8, 8⟩
abbrev F.trcFCtl_ops : Fld := ⟨.trcFCtl, 16, 16⟩
abbrev F.trcFInst_first : Fld := ⟨.trcFInst, 0, 12⟩
abbrev F.trcFInst_last : Fld := ⟨.trcFInst, 16, 12⟩
abbrev F.trcFQueue_queue : Fld := ⟨.trcFQueue, 0, 10⟩
abbrev F.trcFQueue_any : Fld := ⟨.trcFQueue, 16, 1⟩
abbrev F.trcFLo_addr : Fld := ⟨.trcFLo, 0, 56⟩
abbrev F.trcFHi_addr : Fld := ⟨.trcFHi, 0, 56⟩
abbrev F.pageId_version : Fld := ⟨.pageId, 0, 12⟩
abbrev F.pageId_instance : Fld := ⟨.pageId, 12, 12⟩
abbrev F.pageId_type : Fld := ⟨.pageId, 24, 8⟩
abbrev F.pageCap_block : Fld := ⟨.pageCap, 0, 16⟩
abbrev F.pageWorld_world : Fld := ⟨.pageWorld, 0, 1⟩
abbrev F.pageWorld_lock : Fld := ⟨.pageWorld, 1, 1⟩
abbrev F.pageState_state : Fld := ⟨.pageState, 0, 3⟩
abbrev F.pageCtrl_enable : Fld := ⟨.pageCtrl, 0, 1⟩
abbrev F.pageCtrl_function_reset : Fld := ⟨.pageCtrl, 1, 1⟩
abbrev F.pageCtrl_fence : Fld := ⟨.pageCtrl, 2, 1⟩
abbrev F.pageStat_busy : Fld := ⟨.pageStat, 0, 1⟩
abbrev F.pageStat_capture : Fld := ⟨.pageStat, 1, 1⟩
abbrev F.pageStat_users : Fld := ⟨.pageStat, 16, 16⟩
abbrev F.pageIrqStat_bits : Fld := ⟨.pageIrqStat, 0, 32⟩
abbrev F.pageIrqEn_bits : Fld := ⟨.pageIrqEn, 0, 32⟩
abbrev F.pageIrqForce_bits : Fld := ⟨.pageIrqForce, 0, 32⟩
abbrev F.pageErrInfo_valid : Fld := ⟨.pageErrInfo, 0, 1⟩
abbrev F.pageErrInfo_kind : Fld := ⟨.pageErrInfo, 1, 2⟩
abbrev F.pageErrInfo_write : Fld := ⟨.pageErrInfo, 3, 1⟩
abbrev F.pageErrInfo_world : Fld := ⟨.pageErrInfo, 4, 1⟩
abbrev F.pageErrInfo_source : Fld := ⟨.pageErrInfo, 5, 3⟩
abbrev F.pageErrInfo_count : Fld := ⟨.pageErrInfo, 16, 16⟩
abbrev F.pageErrAddr_offset : Fld := ⟨.pageErrAddr, 0, 25⟩
abbrev F.pageErrAddr_size : Fld := ⟨.pageErrAddr, 25, 2⟩
abbrev F.pageErrData_data : Fld := ⟨.pageErrData, 0, 32⟩
abbrev F.pageErrEt_et : Fld := ⟨.pageErrEt, 0, 64⟩
abbrev F.pageErrReq_req : Fld := ⟨.pageErrReq, 0, 16⟩
abbrev F.glbUnmapped_count : Fld := ⟨.glbUnmapped, 0, 32⟩
abbrev F.glbNode_node : Fld := ⟨.glbNode, 0, 10⟩
abbrev F.glbChip_stepping : Fld := ⟨.glbChip, 0, 8⟩
abbrev F.glbChip_variant : Fld := ⟨.glbChip, 8, 8⟩
abbrev F.glbIrqSum_pending : Fld := ⟨.glbIrqSum, 1, 26⟩
abbrev F.glbCapSum_capture : Fld := ⟨.glbCapSum, 1, 26⟩
abbrev F.glbDeviceId_id : Fld := ⟨.glbDeviceId, 0, 64⟩
abbrev F.timSteps_count : Fld := ⟨.timSteps, 0, 32⟩
abbrev F.timSlews_count : Fld := ⟨.timSlews, 0, 32⟩
abbrev F.timLocks_count : Fld := ⟨.timLocks, 0, 32⟩
abbrev F.timHoldovers_count : Fld := ⟨.timHoldovers, 0, 32⟩
abbrev F.timNow_et : Fld := ⟨.timNow, 0, 64⟩
abbrev F.timState_state : Fld := ⟨.timState, 0, 3⟩
abbrev F.timCtl_set : Fld := ⟨.timCtl, 0, 1⟩
abbrev F.timCtl_servo : Fld := ⟨.timCtl, 1, 1⟩
abbrev F.timSet_et : Fld := ⟨.timSet, 0, 64⟩
abbrev F.timOffset_ticks : Fld := ⟨.timOffset, 0, 64⟩
abbrev F.timBound_ticks : Fld := ⟨.timBound, 0, 32⟩
abbrev F.timRateFrac_frac : Fld := ⟨.timRateFrac, 0, 32⟩
abbrev F.timRateInt_int : Fld := ⟨.timRateInt, 0, 32⟩
abbrev F.timCal_skew_max : Fld := ⟨.timCal, 0, 16⟩
abbrev F.queDispatched_count : Fld := ⟨.queDispatched, 0, 64⟩
abbrev F.queCompleted_count : Fld := ⟨.queCompleted, 0, 64⟩
abbrev F.queStops_count : Fld := ⟨.queStops, 0, 32⟩
abbrev F.queTimeouts_count : Fld := ⟨.queTimeouts, 0, 32⟩
abbrev F.queInflight_count : Fld := ⟨.queInflight, 0, 13⟩
abbrev F.queCtrCtl_clear : Fld := ⟨.queCtrCtl, 0, 1⟩
abbrev F.queCtrCtl_freeze : Fld := ⟨.queCtrCtl, 1, 1⟩
abbrev F.queStopped_queues : Fld := ⟨.queStopped, 0, 32⟩
abbrev F.ccxWdogExp_count : Fld := ⟨.ccxWdogExp, 0, 32⟩
abbrev F.ccxState_state : Fld := ⟨.ccxState, 0, 3⟩
abbrev F.ccxState_ns_run : Fld := ⟨.ccxState, 3, 1⟩
abbrev F.ccxState_boot_err : Fld := ⟨.ccxState, 8, 8⟩
abbrev F.ccxFwVer_version : Fld := ⟨.ccxFwVer, 0, 32⟩
abbrev F.ccxHeartbeat_value : Fld := ⟨.ccxHeartbeat, 0, 32⟩
abbrev F.ccxWdog_limit_ms : Fld := ⟨.ccxWdog, 0, 16⟩
abbrev F.queClassWeight_weight : Fld := ⟨.queClassWeight, 0, 28⟩
abbrev F.brgBytes_count : Fld := ⟨.brgBytes, 0, 64⟩
abbrev F.brgWait_count : Fld := ⟨.brgWait, 0, 64⟩
abbrev F.brgRetries_count : Fld := ⟨.brgRetries, 0, 32⟩
abbrev F.brgLaneRepairs_count : Fld := ⟨.brgLaneRepairs, 0, 32⟩
abbrev F.brgState_state : Fld := ⟨.brgState, 0, 2⟩
abbrev F.brgState_spares_used : Fld := ⟨.brgState, 8, 5⟩

end Sys2Proof.Machine
end

