-- ==== Sys2Proof/Machine/State.lean ====
section
/-! DEFINITION. The state of the block: registers, memories, queues, buffers, engines, and the commands that wait. -/

namespace Sys2Proof.Machine

/-- No command of the block faults: every failure the spec describes is a status, a capture or a record of the next
state, so no constructor is needed (safe: nothing is proved impossible by it). -/
inductive Fault where
  deriving DecidableEq, Repr

/-- Refusals. -/
inductive Refusal where
  /-- The command has no meaning in the model yet; raised by the dispatcher only (safe: the machine stops). -/
  | notModelled (mnemonic : String)
  deriving DecidableEq, Repr

/-! ### Time base (R34 to R42, R542) -/

/-- The time base beside its registers: the count and its 32 fractional bits, and the servo's bookkeeping. -/
structure TimeBase where
  et : Nat
  frac : Nat
  /-- What a running correction by rate has still to add, in 2^-32 ticks, signed (R38). -/
  slew : Int
  /-- The ticks the running slew removes in all, for SLEW_END. -/
  slewAll : Nat
  /-- The state when the slew began, or HOLDOVER once the source was lost during it (R40). -/
  beforeSlew : Nat
  /-- Consecutive sync intervals within, and beyond, the lock threshold (R39). -/
  near : Nat
  far : Nat
  /-- ET of the last sync message. -/
  lastSync : Nat
  /-- ET of the last leaf reload and of the last tree calibration (R34). -/
  reloadEt : Nat
  calEt : Nat
  /-- ET at which HOLDOVER began, and the bound published then (R39). -/
  holdEt : Nat
  holdBound : Nat
  /-- In HOLDOVER, what the frozen rate word adds beyond the nominal one, in 2^-32 ticks (R39). -/
  frozen : Int
  /-- The offset that each stamping island's leaf holds, in ticks, by island number, once it has been measured; and the
  bridge's part of those of die 1 (R34). -/
  leaves : SMap (Option Nat)
  bridge : Nat
  /-- The largest offset that the last loop-back measured, which TIM_CAL shows (R539). -/
  skew : Nat
  /-- Upper words of TIM_NOW latched for a requester (R542). -/
  latch : List (Agent × Nat)
  deriving DecidableEq, Repr

/-! ### Queues and descriptors (R47 to R83) -/

/-- What a queue holds beside its registers: pending marked ranges as (first, last) sequences (R76), records written
since its bit was last set and the ET of the first of them (R68), and the IRQ_DELAY that the last record written took
(R49). -/
structure QueueHidden where
  marks : List (Nat × Nat)
  unsignalled : Nat
  firstEt : Nat
  delay : Nat
  /-- A QRESET is running (R82). -/
  resetting : Bool
  deriving DecidableEq, Repr

/-- A queue with nothing pending. -/
def QueueHidden.idle : QueueHidden := ⟨[], 0, 0, 0, false⟩

/-- The dispatch arbiter: the queue served last in each class and the grants left to each of the classes 0 to 6 in
the running round (R55; log entry 8). -/
structure Arbiter where
  last : SMap Nat
  left : SMap Nat
  deriving DecidableEq, Repr

/-! ### Event recorder and trace (R499 to R520) -/

/-- A staged record: what detection fixes of it (R499). `payload` is its 32 bytes as a little-endian number. -/
structure EventRec where
  code : Nat
  sev : Nat
  et : Nat
  opSec : Nat
  cycles : Nat
  source : Nat
  payload : Nat
  seed : Bool
  etUnset : Bool
  deriving DecidableEq, Repr

/-- The recorder. Flash slots are 64-byte numbers, all ones where erased; seed slot n has key n and circulating slot n
has key 2^22 + n (R503). `head` counts the circulating slots ever written and `tail` the blocks ever erased behind the
log, so the log occupies the slots between them, modulo the store. -/
structure Recorder where
  staged : List EventRec
  flash : SMap Nat
  nextSeq : Nat
  head : Nat
  tail : Nat
  /-- Seed records ever written (R504). -/
  seeds : Nat
  /-- OP_SECONDS and POWER_CYCLES, and their last checkpoint in the directory (R500). -/
  opSec : Nat
  cycles : Nat
  ckSec : Nat
  ckCycles : Nat
  /-- A record was dropped since the last one written; drops since the last DROPPED record, and their first and last
  ET (R508). -/
  dropped : Bool
  drops : Nat
  dropFirst : Nat
  dropLast : Nat
  /-- A compaction runs (R509). -/
  compacting : Bool
  deriving DecidableEq, Repr

/-- The trace unit: its buffer of 32-byte records, the next TSEQ of each tap (kind × 64 + instance), and the records
lost since the last one written (R515, R519). -/
structure Trace where
  buffer : List Nat
  tseq : SMap Nat
  lost : Nat
  deriving DecidableEq, Repr

/-! ### Power and resets (R474 to R488) -/

/-- The power controller beside its registers. `phase` is the phase of a running reset that has stopped, 0 for none
(R482, R485); `want` the state requested and not yet entered, with the ET of the request (R478). -/
structure Power where
  phase : Nat
  /-- The life-cycle state that a running life-cycle reset enters; none for an engine reset. -/
  lcNext : Option Nat
  want : Option Nat
  wantEt : Nat
  /-- ET at which the exit of E1, E2 or E3 ends; 0 while none runs. -/
  exitEt : Nat
  /-- VDDC request of each die that the controller has not met yet (R476), and the clock steps held until then. -/
  unsettled : List Nat
  clockHeld : List (Nat × Nat)
  /-- Every power-good signal is up and the reset input is released (R477). -/
  good : Bool
  /-- ET at which an engine reset's quiesce began. -/
  quiesceEt : Nat
  /-- Fuses: life-cycle state (R466). -/
  lifeCycle : Nat
  /-- ET of the last heartbeat change of each control core (R548). -/
  beatEt : SMap Nat
  /-- A power-good signal fell in service since the last cold reset (R477). -/
  lost : Bool
  /-- The old state of a life-cycle change whose wipe has not ended (R467, R468). -/
  lcOld : Option Nat
  /-- ET at which the last reset began (R514). -/
  startEt : Nat
  /-- The training of a cold reset has not begun yet (R310). -/
  untrained : Bool
  deriving DecidableEq, Repr

/-! ### Memory system (R297 to R331, R493) -/

/-- A 64-byte line that an LLS slice holds: clean, or dirty with what its home still holds, as a number (R325). -/
structure Line where
  dirty : Bool
  home : Nat
  deriving DecidableEq, Repr

/-- A request that a regulator holds until its next window: the requester's kind and number, queue and sequence; the
regulator, as `MemSys.capo` numbers them; the bytes that the request has issued in windows that have ended; and 0 while it
waits, 1 in the window after, 2 later (R318). -/
structure CapoHold where
  kind : Nat
  inst : Nat
  q : Nat
  seq : Nat
  key : Nat
  credit : Nat
  age : Nat
  deriving DecidableEq, Repr

/-- The memory system beside its registers: lines held by the slices by line number; marked lines (R493); regions
whose HBM window is out of service (R312); bytes moved in the running capo window by region × 32 + partition × 8 +
class (R318), and by 256 + stack and 272 + capacity port (R306, R309); consecutive readings below a step, by stack and by 16 + capacity port (R306), with the step in force by temperature; the least multiplier that firmware
holds (R307); stacks and ports in critical self-refresh (R308, R309); accesses that wait under R308 or R493, as tap kind
and number, queue, sequence and line; generator results by
stack × 64 + pseudo-channel as (errors, first address, lane, valid) (R316). -/
structure MemSys where
  lines : SMap (Option Line)
  marks : List Nat
  out : List Nat
  capo : SMap Nat
  capoEt : Nat
  cool : SMap Nat
  steps : SMap Nat
  minRef : SMap Nat
  hot : List Nat
  held : List (Nat × Nat × Nat × Nat × Nat)
  tg : SMap (Nat × Nat × Nat × Nat)
  /-- A CAPO activity waits for the next window boundary, by region (R319). -/
  capoNext : List Nat
  /-- Requests that a regulator holds (R320). -/
  capoHeld : List CapoHold
  /-- Direction of the last access of each pseudo-channel, by its global number: 1 read, 2 write (R333). -/
  dirs : SMap Nat
  /-- The local range of a page that a MIGRATE holds against writes, as first byte and length (R378). -/
  moving : Option (Nat × Nat)
  deriving DecidableEq, Repr

/-! ### Address translation (R340 to R375, R551) -/

/-- Who translates (R551). -/
inductive Requester where
  | cluster (c : Nat)
  | stage (r : Nat)
  | copy (e : Nat)
  | dispatch
  deriving DecidableEq, Repr

/-- An access that waits: its requester and its descriptor; remote work and drains of several descriptors name queue
1,024. -/
structure Waiter where
  rq : Requester
  q : Nat
  seq : Nat
  deriving DecidableEq, Repr

/-- The context of an ASID in a translation buffer: buffers 0 to 63 are the L1s, 64 and 65 the L2s (R341). -/
structure AsidCtx where
  buf : Nat
  asid : Nat
  valid : Bool
  world : Nat
  root : Nat
  gen : Nat
  deriving DecidableEq, Repr

/-- A translation held by a buffer: page base, size code (0 small, 1 medium, 2 huge), and the leaf (R345, R353). -/
structure Tlb where
  buf : Nat
  asid : Nat
  gen : Nat
  va : Nat
  size : Nat
  leaf : Nat
  deriving DecidableEq, Repr

/-- One access waiting on a walk: the world and the need (bits RD, WR, AT) it came with. -/
structure WalkReq where
  w : Waiter
  world : Nat
  need : Nat
  deriving DecidableEq, Repr

/-- A walk outstanding on a die's walkers, for one 64 KiB granule (R352). -/
structure Walk where
  die : Nat
  asid : Nat
  gran : Nat
  reqs : List WalkReq
  deriving DecidableEq, Repr

/-- A fault record (R357, R359) with its waiters; `bits` holds CLUSTERS in its low 64 bits and bytes 40 to 43 above. -/
structure FaultRec where
  gran : Nat
  asid : Nat
  kind : Nat
  level : Nat
  world : Nat
  need : Nat
  gen : Nat
  raised : Nat
  pte : Nat
  bits : Nat
  merged : Nat
  waiters : List Waiter
  answered : Bool
  deriving DecidableEq, Repr

/-- A fault batch: open, closed or pending (R360, R361). -/
structure FaultBatch where
  num : Nat
  openEt : Nat
  closeEt : Nat
  cause : Nat
  recs : List FaultRec
  deriving DecidableEq, Repr

/-- The fault batcher of a die (R360): faults of `later` wait unrecorded. -/
structure Batcher where
  opened : Option FaultBatch
  closed : Option FaultBatch
  pending : List FaultBatch
  later : List FaultRec
  next : Nat
  deriving DecidableEq, Repr

/-- How a waiting access ends when its requester tries it again: a FATAL answer or a failed walk. -/
structure Answer where
  w : Waiter
  asid : Nat
  gran : Nat
  status : Nat
  reason : Nat
  deriving DecidableEq, Repr

/-- An access counter: its key, count, and whether it has written its heat record in this epoch (R374). -/
structure Heat where
  die : Nat
  asid : Nat
  gran : Nat
  count : Nat
  told : Bool
  deriving DecidableEq, Repr

/-- A non-leaf entry in the cache that the walkers of a die share (R352): the next table for the addresses of an ASID's
generation whose bits above the level's index are `va`. -/
structure Upper where
  die : Nat
  asid : Nat
  gen : Nat
  level : Nat
  va : Nat
  table : Nat
  deriving DecidableEq, Repr

/-- Translation beside its registers. -/
structure Xlat where
  ctxs : List AsidCtx
  tlbs : List Tlb
  upper : List Upper
  walks : List Walk
  b0 : Batcher
  b1 : Batcher
  answers : List Answer
  /-- Waiters released by RETRY that have not translated since (R364). -/
  retried : List (Waiter × Nat × Nat)
  heat : List Heat
  /-- ET of the last heat epoch boundary, by die. -/
  epochEt : SMap Nat
  deriving DecidableEq, Repr

/-! ### Table descriptors (R169 to R171, R263 to R266) -/

/-- A table descriptor as the descriptor that read it keeps it (R169): its 64 bytes and its shard-directory entry as
little-endian numbers, and the shard list as (NODE, LOCAL_FIRST, FIRST_ROW). -/
structure Table where
  num : Nat
  raw : Nat
  dir : Nat
  shards : List (Nat × Nat × Nat)
  deriving DecidableEq, Repr

/-! ### Clusters (R89 to R117, R118 to R150) -/

/-- A resume point (R106), which is also the sequencer's running state (R92). -/
structure Resume where
  pc : Nat
  a : List Nat
  l : List Nat
  ixc : Nat
  closes : Nat
  emits : Nat
  deriving DecidableEq, Repr

/-- An item of a stream buffer. -/
inductive ItemKind where
  | row | close | error
  deriving DecidableEq, Repr

/-- A row, a close, or an error at its stream position (R97, R104): its row, payload range in the row and husk address,
list position, the PC of its instruction, the resume point taken after it, its bytes once they have arrived (husk first),
for an error its status, reason, SEQ_ERR.KIND and CODE; and once a unit holds it for a resident table (R149), its bag in
the slice, weight and exponent. -/
structure Item where
  id : Nat
  kind : ItemKind
  row : Nat
  va : Nat
  len : Nat
  off : Nat
  husk : Option Nat
  pos : Nat
  pc : Nat
  after : Resume
  asked : Bool
  held : Bool
  got : Option (List Byte)
  paged : Option (Nat × Nat)
  status : Nat
  reason : Nat
  skind : Nat
  code : Nat
  bag : Nat
  weight : Int
  exp : Nat
  deriving DecidableEq, Repr

/-- An open bag: rows consumed, and its open accumulation run (R133): terms so far, chunk registers of the integer
path, and of the FP path. -/
structure Run where
  rows : Nat
  terms : Nat
  ints : List Int
  zchunk : Int
  fps : List Nat
  deriving DecidableEq, Repr

/-- The slice a cluster runs (R89): its descriptor, number, bags or rows, program and parameters (R90), the sequencer's
state and the committed resume point. -/
structure Slice where
  q : Nat
  seq : Nat
  num : Nat
  first : Nat
  count : Nat
  prog : List Nat
  params : List Nat
  cur : Resume
  committed : Resume
  /-- Rows emitted into the bag that is open at the sequencer. -/
  openRows : Nat
  /-- Bags open at the units, by their number in the slice; more than one only against a resident table (R149). -/
  bags : List (Nat × Run)
  /-- The sequencer executes no more: END, the end of the program, or a failed instruction. -/
  stopped : Bool
  deriving DecidableEq, Repr

/-- A cluster beside its registers: its slice, the items emitted and not handed out, the items that units have taken and
hold for a resident table (R149), the items dropped whose data has still to arrive with their stored bytes (R108), the
bytes reserved in the running fetch phase and its mark (R101), the ET a WAIT holds it until, whether it is in a fetch
phase, and whether it has begun a wait under R121 or R143. -/
structure Cluster where
  slice : Option Slice
  items : List Item
  taken : List Item
  dropped : List (Nat × Nat)
  nextId : Nat
  filled : Nat
  mark : Nat
  wait : Option Nat
  fetching : Bool
  hazard : Bool
  deriving DecidableEq, Repr

/-- The side record of a chain (R123): terms, zero-point sum, exponent, mode class (0 SUM and MEAN, 1 WSUM, 2 MAX and
MIN), path, first element of its range and its length in elements, 0 while no item has been accumulated (R126). -/
structure Side where
  count : Nat
  zsum : Int
  exp : Nat
  cls : Nat
  intPath : Bool
  col : Nat
  lanes : Nat
  sat : Bool
  deriving DecidableEq, Repr

/-- Accumulators: lanes as 64-bit words by (tile row) × 256 + lane, with tile row = tile id × 64 + row; side records by
the tile row they stand beside; owners of tiles by tile id, with KEEP (R141, R142). -/
structure Accs where
  lanes : SMap Nat
  sides : SMap (Option Side)
  owners : SMap (Option (Nat × Bool))
  deriving DecidableEq, Repr

/-- A residency slot beside its register (R147 to R150): rows of a part, the epoch, whether it empties at its next epoch
boundary, local memory as it stood when the parts were read, and the rows and bytes of a part of the load last begun. -/
structure Resident where
  part : Nat
  epoch : Nat
  emptying : Bool
  image : List Host.Cell
  next : Nat
  bytes : Nat
  deriving DecidableEq, Repr

/-- An output record held for a client port (R138): its port, source (a cluster, or 64 + the region of an interaction
stage), tag and bytes; and what its delivery adds to its descriptor's record: rows, and whether its bag is empty or it
holds a value that is not finite (R136, R137, R140). -/
structure PortRec where
  port : Nat
  src : Nat
  q : Nat
  seq : Nat
  num : Nat
  bytes : List Byte
  rows : Nat
  empty : Bool
  nf : Bool
  deriving DecidableEq, Repr

/-- What a LOOKUP_POOL or LOOKUP_ROWS has still to do: whether it has read its table, so that its slices can start; slices
started and ended by cluster, whether the program has been checked (R99), and the residency slot it runs against. -/
structure Lookup where
  ready : Bool
  started : SMap Nat
  ended : SMap Nat
  checked : Bool
  slot : Option Nat
  deriving DecidableEq, Repr

/-! ### Codebooks and scales (R173, R176, R179) -/

/-- Conversion memory beside the QNT registers: levels as 16-bit codes by (die × 1,024 + slot) × 256 + entry; scale
registers by die × 65,536 + register; and, while a load waits, the descriptors dispatched before its START. -/
structure Quant where
  levels : SMap Nat
  scales : SMap Nat
  users : List (Nat × Nat)
  deriving DecidableEq, Repr

/-! ### One-sided remote accesses and messages (R297, R403, R404) -/

/-- A remote read or write of a waiter: its address and length, the tag of its message, and what came back: status,
data, and the ET at which the answer was written here (R404). -/
structure RemoteOp where
  w : Waiter
  write : Bool
  pa : Nat
  len : Nat
  tag : Nat
  answer : Option (Nat × List Byte × Nat)
  deriving DecidableEq, Repr

/-- A batch of deltas or a unit record (R284, R285), decoded: its node (home or sender), table, KIND of R238, step, origin
ET and site, batch sequence, map tag, lane format with its scale (R277), entries as (row, lane group, FP32 lanes), and
the descriptors of this package whose contributions it carries. -/
structure Delta where
  node : Nat
  table : Nat
  kind : Nat
  unit : Bool
  step : Nat
  origin : Nat
  site : Nat
  bseq : Nat
  tag : Nat
  fmt : Nat
  scale : Int
  entries : List (Nat × Nat × List Nat)
  users : List (Nat × Nat)
  deriving DecidableEq, Repr

/-- A batch that is still open at a port (R284): its table, encoded bytes, and the ET of its first entry. -/
structure OutBatch where
  port : Nat
  tab : Table
  d : Delta
  bytes : Nat
  et : Nat
  deriving DecidableEq, Repr

/-- A batch or unit record in the reorder store of a port (R286): its table, when its window ends, whether it is released or came
late, entries applied so far, its charge, and for a unit record whether it is held because it could not be added (R553). -/
structure RoItem where
  port : Nat
  d : Delta
  tab : Table
  due : Nat
  released : Bool
  late : Bool
  next : Nat
  charge : Nat
  stuck : Bool
  deriving DecidableEq, Repr

/-- A data message handed on by a port and not yet taken (R394, R398). -/
structure InMsg where
  port : Nat
  node : Nat
  kind : Nat
  hdr : Nat
  body : List Byte
  charge : Nat
  firstSent : Nat
  lastRx : Nat
  deriving DecidableEq, Repr

/-- A data message that waits to be cut into frames (R394, R403): its node, KIND, header as a number, body, what has
been sent of the body, its batch sequence, the descriptors that its departure concerns, and whether it was posted before
a DETACH of its node. -/
structure OutMsg where
  node : Nat
  kind : Nat
  hdr : Nat
  body : List Byte
  sent : Nat
  begun : Bool
  bseq : Nat
  users : List (Nat × Nat)
  routed : Bool
  deriving DecidableEq, Repr

/-! ### Tipra ports (R384 to R418) -/

/-- A data frame as its sender retains it (R397): its message's batch sequence, or 0, and the ET it was last sent. -/
structure TxFrame where
  seq : Nat
  kind : Nat
  start : Bool
  last : Bool
  hdr : Nat
  body : List Byte
  bseq : Nat
  tag : Nat
  sentEt : Nat
  deriving DecidableEq, Repr

/-- A data frame that a port holds (R398); KIND 0 stands for a frame that a tear discarded. -/
structure RxFrame where
  seq : Nat
  kind : Nat
  start : Bool
  last : Bool
  hdr : Nat
  body : List Byte
  sentEt : Nat
  rxEt : Nat
  deriving DecidableEq, Repr

/-- A tear that is open (R400 to R402): first and last frame discarded, their number and charge, the receipt stamp of
the last. -/
structure Tear where
  first : Nat
  last : Nat
  frames : Nat
  bytes : Nat
  lastEt : Nat
  deriving DecidableEq, Repr

/-- A batch of an ingest stream (R405): its state is 0 in progress, 1 complete, 2 torn, 3 incomplete when its source was
lost while a COPY waited for it. `count` consecutive numbers stand in one torn entry. -/
structure IngestBatch where
  num : Nat
  count : Nat
  bytes : Nat
  data : List Byte
  firstSent : Nat
  lastRx : Nat
  state : Nat
  /-- The tear that tore it has closed. -/
  closed : Bool
  charge : Nat
  deriving DecidableEq, Repr

/-- A node as the transport sees it (R393 to R417). State codes are those of R417. -/
structure Peer where
  state : Nat
  cls : Nat
  port : Nat
  queue : Nat
  session : Nat
  lastSession : Nat
  peerSession : Nat
  -- sending (R394 to R399)
  nextSeq : Nat
  retained : List TxFrame
  sentUnits : Nat
  limit : Nat
  acked : Nat
  rtt : Nat
  rtoEt : Nat
  retries : Nat
  -- receiving
  expect : Nat
  seen : Nat
  kept : List RxFrame
  parts : List RxFrame
  rxUnits : Nat
  granted : Nat
  mark : Nat
  live : Option Bool
  tear : Option Tear
  unackedEt : Option Nat
  nakEt : Option Nat
  lastTxEt : Nat
  lastRxEt : Nat
  helloEt : Nat
  detachEt : Nat
  -- ingest
  batches : List IngestBatch
  lastBatch : Option Nat
  -- batches sent and not applied-acknowledged (R290), those of an ended session that its spill ring had no room for
  -- (R291), and whether a session has been up since the last cold reset (R289)
  unapplied : List Delta
  owed : List Delta
  met : Bool
  deriving DecidableEq, Repr

/-- A node never attached. -/
def Peer.none : Peer :=
  { state := 0, cls := 0, port := 0, queue := 0, session := 0, lastSession := 0, peerSession := 0, nextSeq := 0,
    retained := [], sentUnits := 0, limit := 0, acked := 0, rtt := 0, rtoEt := 0, retries := 0, expect := 0, seen := 0, kept := [],
    parts := [], rxUnits := 0, granted := 0, mark := 0, live := .none, tear := .none, unackedEt := .none,
    nakEt := .none, lastTxEt := 0, lastRxEt := 0, helloEt := 0, detachEt := 0, batches := [], lastBatch := .none,
    unapplied := [], owed := [], met := false }

/-- A frame as it leaves a port: port, node, KIND, flags, sessions, SEQ, ACK, LIMIT, SENT_ET, message header and body. -/
structure WireFrame where
  port : Nat
  node : Nat
  kind : Nat
  start : Bool
  last : Bool
  retx : Bool
  session : Nat
  peerSession : Nat
  seq : Nat
  ack : Nat
  limit : Nat
  sentEt : Nat
  hdr : Nat
  body : List Byte
  deriving DecidableEq, Repr

/-- What a port holds beside its registers: the ET at which it left UP, and the open window of one-way delays as number,
sum, least and greatest (R410). -/
structure PortHidden where
  down : Option Nat
  owdCount : Nat
  owdSum : Nat
  owdMin : Nat
  owdMax : Nat
  deriving DecidableEq, Repr

/-- A port that has not been up. -/
def PortHidden.none : PortHidden := ⟨.none, 0, 0, 0, 0⟩

/-- An installed secure association (R386, R387, R464): its port, direction, association number, cipher suite, key, salt,
identifiers and next packet number. -/
structure Assoc where
  port : Nat
  rx : Bool
  an : Nat
  xpn : Bool
  key : Nat
  salt : Nat
  ssci : Nat
  sci : Nat
  pn : Nat
  deriving DecidableEq, Repr

/-- A merge-table entry (R243): its table and GSUM table as its first contribution read them, row, KIND, lane group, and
for OVERWRITE its descriptor; the world and ASID it drains under; home node; lanes, contributions, step, and when it was
taken in; the descriptors with a contribution in it; 0 not stuck, 1 stuck, 2 stuck and to be tried again, with the status
and reason of the cause (R552); whether it waits for its append to a touched list (R247); and for an item held at its home its origin ET and site, its sender and batch sequence (R553). -/
structure Merge where
  tabs : List Table
  row : Nat
  kind : Nat
  k : Nat
  q : Nat
  seq : Nat
  world : Nat
  asid : Nat
  node : Nat
  vals : List Nat
  count : Nat
  step : Nat
  et : Nat
  users : List (Nat × Nat)
  stuck : Nat
  cause : Nat × Nat
  append : Bool
  origin : Option (Nat × Nat × Nat × Nat)
  deriving DecidableEq, Repr

/-- A CUSTOM handler that runs (R258): its number, the home region of its row, whose control core runs it, its descriptor,
row, the ET of the call, the buffer it is passed, and the local ranges that its row operation holds (R249, R326). -/
structure Call where
  id : Nat
  region : Nat
  q : Nat
  seq : Nat
  row : Nat
  et : Nat
  buffer : List Byte
  held : List (Nat × Nat)
  deriving DecidableEq, Repr

/-- Statistics of re-quantised rows (R189): the compensated pair and open run of the squared errors, elements measured,
largest error, and rows. -/
structure Stats where
  hi : Nat
  lo : Nat
  c : Nat
  n : Nat
  count : Nat
  top : Nat
  rows : Nat
  deriving DecidableEq, Repr

/-- What counting found (R212, R213): saturated, underflowed and non-finite elements, and the absolute maximum. -/
structure GradCount where
  sat : Nat
  under : Nat
  nf : Nat
  amax : Nat
  deriving DecidableEq, Repr

/-- A GRAD_INTAKE (R210): the copy of its scale-control record, the scale it measures under, what its counting pass
found, and whether its commit has begun: the header is on its way to another package (R219). -/
structure Intake where
  rec' : Nat
  e : Int
  counted : Option GradCount
  committing : Bool
  deriving DecidableEq, Repr

/-- A SCATTER_UPDATE (R239 to R248): the row of each list entry, none for padding; the bag offsets; scale and step of its
gradient block; the next list position; source vectors read; whether it takes in no more; whether its unit has been added;
and the statistics of its row operations. -/
structure Scatter where
  rows : List (Option Nat)
  offs : List Nat
  e : Int
  step : Nat
  next : Nat
  bags : Nat
  taken : Bool
  unit : Bool
  stats : Stats
  deriving DecidableEq, Repr

/-- An OPTIMIZE (R253 to R258): whether its units have come and it has fired; its mark, hyperparameter record and touched
list; entries claimed; the claimed row; the running handler call; and its statistics. -/
structure Optimize where
  ready : Bool
  fired : Bool
  mark : Nat
  hp : Nat
  tlist : Nat
  tcap : Nat
  claims : Nat
  cur : Option Nat
  call : Option Nat
  stats : Stats
  deriving DecidableEq, Repr

/-- An EXCHANGE or CHAIN_REDUCE at its requester (R273 to R283): the row of each list entry, the offsets, bags begun, bags
away with the nodes of their visits to come, and bags finished. -/
structure Exch where
  rows : List (Option Nat)
  offs : List Nat
  next : Nat
  away : List (Nat × List Nat)
  done : Nat
  deriving DecidableEq, Repr

/-- A COPY or FILL on its engine (R424 to R433): whether it runs, bytes it writes in all and has written, its journal
entry, whether it has waited for one, the kinds of its first pages (host or not), its source bytes where they do not come
from an address, writes through SHARED leaves whose GO has not come as the offsets past them, whether its FLUSH read is
out, and whether it moves no further block. -/
structure Copy where
  engine : Nat
  running : Bool
  len : Nat
  done : Nat
  jrn : Option Nat
  waited : Bool
  srcHost : Option Bool
  dstHost : Option Bool
  data : Option (List Byte)
  gos : List Nat
  flushing : Bool
  stopped : Bool
  deriving DecidableEq, Repr

/-- A confirmation read that is out (R442): its journal entry, the offset it confirms, and its engine. -/
structure Confirm where
  entry : Nat
  upto : Nat
  engine : Nat
  deriving DecidableEq, Repr

/-- A write to the host that is not known to have arrived (R431, R437, R442): the journal entry of its copy with the offset
just past it; where it lies, what stood there and what it writes; or, as page and destination, the message that it is; and
whether it went over CXL.cache. -/
structure Posted where
  mark : Option (Nat × Nat)
  addr : Nat
  old : List Byte
  new : List Byte
  msg : Option (Nat × Nat)
  cache : Bool
  deriving DecidableEq, Repr

/-- The path of writes to the host (R431, R437): those out, oldest first; those that the adapter keeps across DL_Down, which
the host has not received; the messages that arise in HELD; and whether the data link layer is down. -/
structure HostPath where
  out : List Posted
  kept : List Posted
  late : List (Nat × Nat)
  down : Bool
  deriving DecidableEq, Repr

/-- A maintenance activity started by a MAINT: its slot (R497). -/
structure Maint where
  slot : Nat
  deriving DecidableEq, Repr

/-- A page that has passed its checks and is held (R377, R378): its VA, source and destination, the address of its leaf entry
with the leaf, and its size in bytes. -/
structure PageMove where
  va : Nat
  src : Nat
  dst : Nat
  entry : Nat
  leaf : Nat
  size : Nat
  deriving DecidableEq, Repr

/-- A MIGRATE (R376 to R378): its slot, its list as (VA, destination), the next page, and that page once it is held. -/
structure Migrate where
  slot : Nat
  list : List (Nat × Nat)
  next : Nat
  move : Option PageMove
  deriving DecidableEq, Repr

/-- An INV_RANGE that waits for the accesses translated through entries that it removed (R370): its slot, the tags of the
remote accesses, and the numbers of the handler calls. -/
structure Inval where
  slot : Nat
  tags : List Nat
  calls : List Nat
  deriving DecidableEq, Repr

/-- A wipe of a memory region (R461, R491): its slot, whether it has begun, and the ET at which it did. -/
structure Wipe where
  region : Nat
  slot : Nat
  begun : Bool
  start : Nat
  deriving DecidableEq, Repr

/-! ### IEEE 1588 (R408, R409) -/

/-- An announce data set, most significant first: priority1, class, accuracy, variance, priority2, identity, steps
removed, sender. -/
structure Announce where
  p1 : Nat
  cls : Nat
  acc : Nat
  var : Nat
  p2 : Nat
  gm : Nat
  steps : Nat
  sender : Nat
  deriving DecidableEq, Repr

/-- A PTP port beside its registers: the best announce data set it holds and its ET; times of the last sync: sent,
corrected and received, and the receipt that waits for a follow-up; the ET of the last delay request; the mean path delay
is known; the last messages sent, by kind. -/
structure PtpPort where
  best : Option Announce
  annEt : Nat
  t1 : Option Int
  t2 : Nat
  open' : Option (Nat × Int)
  t3 : Option Nat
  known : Bool
  sent : SMap Nat
  deriving DecidableEq, Repr

/-- A PTP port that holds nothing. -/
def PtpPort.none : PtpPort := ⟨.none, 0, .none, 0, .none, .none, false, []⟩

/-- What a dispatched descriptor has still to do, by opcode. -/
inductive Work where
  | none
  /-- Its setup has still to run: it waits for a translation or a remote access. -/
  | start
  | cancel (marks : List (Nat × Nat × Nat)) (targets : List (Nat × Nat))
  | stamp (et : Nat)
  | lookup (l : Lookup)
  /-- INTERACT: its source entries as numbers, and samples done by region. -/
  | interact (srcs : List Nat) (done : SMap Nat)
  /-- REQUANT: rows done, and their statistics. -/
  | requant (next : Nat) (st : Stats)
  | intake (g : Intake)
  | scatter (s : Scatter)
  | optimize (o : Optimize)
  | exchange (e : Exch)
  | copy (c : Copy)
  | maint (m : Maint)
  | migrate (g : Migrate)
  | inval (i : Inval)
  deriving DecidableEq, Repr

/-- A dispatched descriptor that has not written its completion record. `raw` is its 64 or 256 bytes as one
little-endian number (R58). -/
structure Desc where
  q : Nat
  seq : Nat
  raw : Nat
  /-- ET of its dispatch and its time limit in µs, 0 for none (R81). -/
  issued : Nat
  limit : Nat
  /-- Condition met that stands highest so far (R69), with its reason. -/
  status : Nat
  reason : Nat
  flags : Nat
  rows : Nat
  bytes : Nat
  /-- The latest point of coherence of its results (R45). -/
  coh : Nat
  /-- Its status is determined and its last point of coherence is reached. -/
  ended : Bool
  /-- It stops at its next cancel point (R77, R81). -/
  stopping : Bool
  /-- Table descriptors it has read (R169, R181). -/
  tabs : List Table
  work : Work
  deriving DecidableEq, Repr

/-- Everything but the command queue and the two memories. -/
structure Dev where
  regs : SMap Word
  time : TimeBase
  queues : SMap QueueHidden
  arb : Arbiter
  descs : List Desc
  evr : Recorder
  trace : Trace
  pow : Power
  ms : MemSys
  xl : Xlat
  clusters : SMap Cluster
  accs : Accs
  residents : SMap Resident
  ports : List PortRec
  quant : Quant
  remotes : List RemoteOp
  outbox : List OutMsg
  nextTag : Nat
  peers : SMap Peer
  /-- Tipra frames sent so far, newest first. -/
  wire : List WireFrame
  /-- Merge tables by region, oldest entry first. -/
  merge : SMap (List Merge)
  /-- Regions whose intake stalls on a full merge table (R245). -/
  stalls : List Nat
  /-- Appends to touched lists that wait for room: region, table, row. -/
  appends : List (Nat × Nat × Nat)
  calls : List Call
  nextCall : Nat
  batches : List OutBatch
  reorder : List RoItem
  inbox : List InMsg
  portsHid : SMap PortHidden
  assocs : List Assoc
  /-- EAPOL frames passed to firmware, newest first: port and bytes (R386). -/
  eapol : List (Nat × List Byte)
  confirms : List Confirm
  path : HostPath
  wipes : List Wipe
  /-- ET at which the host link entered HELD (R436), and whether the function is in D3hot (R419). -/
  heldEt : Nat
  d3hot : Bool
  ptp : SMap PtpPort
  /-- PTP messages sent so far, newest first: port, kind (0 sync, 1 announce, 2 delay request, 3 delay response), ET. -/
  ptpOut : List (Nat × Nat × Nat)
  /-- Messages of page interrupts sent so far, newest first: page and destination (R534). -/
  irqs : List (Nat × Nat)
  /-- MODEL'S OWN: how many free values have been used (log entry 3). -/
  free : Nat
  deriving DecidableEq, Repr

/-- The machine: the commands that wait, first in, first out; local package memory and host memory, as sparse bytes
in canonical form; and the rest. -/
structure State where
  pending : List Instr
  mem : List Host.Cell
  host : List Host.Cell
  dev : Dev
  deriving DecidableEq, Repr

/-! ### The machine right after reset

At the end of phase 6 of the first power-up cold reset (R477, R484; log entry 13): every register field at its Reset value
but those that show what that reset has done; memory erased (R469); every memory region and every port OFF; ET restarted in
UNSET. -/

/-- A register at its place in the window (R525), with a value that is not its Reset value. -/
def State.resetReg (blk page off v : Nat) : Nat × Word := ((blk * 256 + page) * 4096 + off, BitVec.ofNat 64 v)

/-- A record staged during the reset: its code, severity, detecting page's type, payload and area (R514). -/
def State.resetEvent (code sev blk payload : Nat) (seed : Bool) : EventRec :=
  { code := code, sev := sev, et := 0, opSec := 0, cycles := 1, source := 1 + blk * 2 ^ 24, payload := payload,
    seed := seed, etUnset := true }

/-- The fields that show the reset: one wipe, of kind COLD, with WIPE_DONE (R470 to R472); the last reset COLD, caused by POWER_ON (R497,
R498); three records staged, the store erased, one power cycle (R500, R523); control cores in the secure ROM (R482). -/
def State.resetRegs : SMap Word :=
  [State.resetReg 19 0 0x018 2, State.resetReg 19 0 0x044 1, State.resetReg 19 0 0x108 2, State.resetReg 20 0 0x104 0x40,
   State.resetReg 21 0 0x108 (3 + 3 * 2 ^ 2 + 2042 * 2 ^ 16), State.resetReg 21 0 0x128 1] ++
  (List.range 8).map fun k => State.resetReg 24 k 0x100 1

/-- Records of the reset: RESET, WIPE and, for a first cold reset in BLANK, MANUFACTURE. -/
def State.resetStaged : List EventRec :=
  [State.resetEvent 0x201 2 20 2 false, State.resetEvent 0x202 2 19 2 false, State.resetEvent 0x303 5 19 0 true]

/-- Everything but the queue and the two memories. -/
def State.resetDev : Dev :=
  { regs := State.resetRegs
    time := { et := 0, frac := 0, slew := 0, slewAll := 0, beforeSlew := 0, near := 0, far := 0, lastSync := 0,
              reloadEt := 0, calEt := 0, holdEt := 0, holdBound := 0, frozen := 0, leaves := [], bridge := 0, skew := 0, latch := [] }
    queues := [], arb := ⟨[], []⟩, descs := []
    evr := { staged := State.resetStaged, flash := [], nextSeq := 0, head := 0, tail := 0, seeds := 0, opSec := 0,
             cycles := 1, ckSec := 0, ckCycles := 1, dropped := false, drops := 0, dropFirst := 0, dropLast := 0,
             compacting := false }
    trace := ⟨[], [], 0⟩
    pow := { phase := 0, lcNext := none, want := none, wantEt := 0, exitEt := 0, unsettled := [], clockHeld := [],
             good := true, quiesceEt := 0, lifeCycle := 0, beatEt := [], lost := false, lcOld := none, startEt := 0, untrained := true }
    ms := { lines := [], marks := [], out := [], capo := [], capoEt := 0, cool := [], steps := [], minRef := [], hot := [],
            held := [], tg := [], capoNext := [], capoHeld := [], dirs := [], moving := none }
    xl := { ctxs := [], tlbs := [], upper := [], walks := [], b0 := ⟨none, none, [], [], 0⟩, b1 := ⟨none, none, [], [], 0⟩,
            answers := [], retried := [], heat := [], epochEt := [] }
    clusters := [], accs := ⟨[], [], []⟩, residents := [], ports := [], quant := ⟨[], [], []⟩, remotes := [], outbox := []
    nextTag := 0, peers := [], wire := [], merge := [], stalls := [], appends := [], calls := [], nextCall := 0, batches := []
    reorder := [], inbox := [], portsHid := [], assocs := [], eapol := [], confirms := [], path := ⟨[], [], [], false⟩, wipes := []
    heldEt := 0
    d3hot := false, ptp := [], ptpOut := [], irqs := [], free := 0 }

/-- The machine right after reset: no command waits, and both memories list nothing. -/
def State.reset : State := { pending := [], mem := [], host := [], dev := State.resetDev }

end Sys2Proof.Machine
end

