-- ==== Sys2Proof/Machine/Ops.lean ====
section
/-! DEFINITION. The named operations that every family of commands uses: numbers as bits and bytes, a command as one
transaction, bytes of memory, registers by field, the clock, free values and page interrupts. -/

namespace Sys2Proof.Machine

/-! ### Bits and bytes -/

/-- The field of `len` bits from bit `lo` (R14). -/
def bits (n lo len : Nat) : Nat := n / 2 ^ lo % 2 ^ len

/-- One bit. -/
def bit (n i : Nat) : Bool := n / 2 ^ i % 2 == 1

/-- `n` with the field of `len` bits from bit `lo` replaced by `v`. -/
def setBits (n lo len v : Nat) : Nat :=
  n - bits n lo len * 2 ^ lo + v % 2 ^ len * 2 ^ lo

/-- 1 for true. -/
def b2n (b : Bool) : Nat := if b then 1 else 0

/-- A field as a two's complement number. -/
def toSigned (len n : Nat) : Int :=
  let m := n % 2 ^ len
  if m < 2 ^ (len - 1) then (m : Int) else (m : Int) - (2 ^ len : Nat)

/-- The low `len` bits of a number in two's complement. -/
def ofSigned (len : Nat) (i : Int) : Nat := (i % ((2 ^ len : Nat) : Int)).toNat

/-- The `w` little-endian bytes of a number (R14). -/
def toBytes : Nat → Nat → List Byte
  | 0, _ => []
  | w + 1, n => BitVec.ofNat 8 n :: toBytes w (n / 256)

/-- The number that little-endian bytes spell (R14). -/
def fromBytes : List Byte → Nat
  | [] => 0
  | b :: bs => b.toNat + 256 * fromBytes bs

/-- `n` rounded up to a multiple of `k`. -/
def roundUp (n k : Nat) : Nat := (n + k - 1) / k * k

/-- The bytes `[lo, lo + len)` of a number in bytes. -/
def byteField (n lo len : Nat) : Nat := bits n (8 * lo) (8 * len)

/-- Replace the element at an index. -/
def setAt {α : Type} (l : List α) (i : Nat) (v : α) : List α := l.set i v

/-- Numbers `lo` to `lo + n - 1`. -/
def range' (lo n : Nat) : List Nat := List.range' lo n

/-- The index of the first least element by a measure. -/
def argMin {α : Type} (f : α → Nat) : List α → Option α
  | [] => none
  | x :: xs => match argMin f xs with
    | none => some x
    | some y => if f x ≤ f y then some x else some y

/-! ### A command as one transaction -/

/-- Bytes to be written when the command ends: a byte of local or host memory, or zeros over a local range. -/
inductive MemOp where
  | byte (host : Bool) (a : Nat) (b : Byte)
  | zero (lo hi : Nat)
  deriving DecidableEq, Repr

/-- Why a meaning ends early: its event cannot occur (the state stays); it has to wait, and all it leaves is what it
waits for (a page walk, a fault record, a remote request); or the work fails with a status and reason (R11, R87). -/
inductive Stop where
  | skip
  | wait (reg : Dev → Dev)
  | fail (status reason : Nat)

/-- Both memories as they stand when the command begins. -/
structure Image where
  mem : List Host.Cell
  host : List Host.Cell

/-- What a running command has changed: the rest of the machine, and the bytes to be written, newest first. -/
structure Tx where
  dev : Dev
  log : List MemOp

/-- A meaning: it reads the memories of the command's start, changes a transaction, and may end early. -/
abbrev M := ReaderT Image (EStateM Stop Tx)

/-- What an unlisted byte of either memory reads as: zero (R469, R484 for local memory; log entry 7 for the host's). -/
def blankByte : Byte := 0

/-- The byte at an address. -/
def readByte (m : List Host.Cell) (a : Nat) : Byte := SMap.get blankByte m a

/-- Memory with one byte written, in canonical form. -/
def writeByte (m : List Host.Cell) (a : Nat) (b : Byte) : List Host.Cell := SMap.set blankByte m a b

/-- Memory is in canonical form. -/
def Memory.wf (m : List Host.Cell) : Bool := SMap.wf blankByte m

/-- One logged write applied to local memory. -/
def MemOp.onMem (o : MemOp) (m : List Host.Cell) : List Host.Cell :=
  match o with
  | .byte false a b => writeByte m a b
  | .byte true _ _ => m
  | .zero lo hi => SMap.clear m lo hi

/-- One logged write applied to host memory. -/
def MemOp.onHost (o : MemOp) (m : List Host.Cell) : List Host.Cell :=
  match o with
  | .byte true a b => writeByte m a b
  | _ => m

/-- The machine after a transaction: the rest as the transaction has it, and the logged writes made, oldest first. -/
def settle (s : State) (t : Tx) : State :=
  { s with dev := t.dev, mem := t.log.foldr MemOp.onMem s.mem, host := t.log.foldr MemOp.onHost s.host }

/-- Run a meaning as one indivisible step: every command answers a next state. An event that cannot occur leaves the
machine as it is (log entry 2). -/
def transact (m : M Unit) (s : State) : Host.Outcome State Fault Refusal :=
  match m ⟨s.mem, s.host⟩ ⟨s.dev, []⟩ with
  | .ok _ t => .next (settle s t)
  | .error .skip _ => .next s
  | .error (.wait reg) _ => .next { s with dev := reg s.dev }
  | .error (.fail _ _) t => .next (settle s t)

/-- The event cannot occur. -/
def skip {α : Type} : M α := throw .skip

/-- Go on only if a condition holds; otherwise the event cannot occur. -/
def need (b : Bool) : M Unit := if b then pure () else skip

/-- Wait for what `reg` registers. -/
def waitFor {α : Type} (reg : Dev → Dev) : M α := throw (.wait reg)

/-- The work fails with a status and a reason. -/
def fail {α : Type} (status reason : Nat) : M α := throw (.fail status reason)

/-- The value of an option that has to be there. -/
def have! {α : Type} : Option α → M α
  | some a => pure a
  | none => skip

/-- The rest of the machine. -/
def dev : M Dev := do return (← get).dev

/-- Change the rest of the machine. -/
def modDev (f : Dev → Dev) : M Unit := modify fun t => { t with dev := f t.dev }

/-- Do something for each element in turn. -/
def each {α : Type} : List α → (α → M Unit) → M Unit
  | [], _ => pure ()
  | x :: xs, f => do f x; each xs f

/-- Collect a result for each element in turn. -/
def collect {α β : Type} : List α → (α → M β) → M (List β)
  | [], _ => pure []
  | x :: xs, f => do
    let y ← f x
    let ys ← collect xs f
    return y :: ys

/-- Fold over a list. -/
def foldM' {α β : Type} (f : β → α → M β) : β → List α → M β
  | b, [] => pure b
  | b, x :: xs => do foldM' f (← f b x) xs

/-- Repeat while the answer is true, at most `n` times. -/
def repeatM : Nat → M Bool → M Unit
  | 0, _ => pure ()
  | n + 1, m => do if ← m then repeatM n m else pure ()

/-! ### Bytes of memory, without any check -/

/-- The newest logged value of a byte. -/
def logged (host : Bool) (a : Nat) : List MemOp → Option Byte
  | [] => none
  | .byte h x b :: l => if h == host && x == a then some b else logged host a l
  | .zero lo hi :: l => if !host && decide (lo ≤ a) && decide (a < hi) then some 0 else logged host a l

/-- Read one byte. -/
def peek (host : Bool) (a : Nat) : M Byte := do
  let i ← read
  match logged host a (← get).log with
  | some b => return b
  | none => return readByte (if host then i.host else i.mem) a

/-- Write one byte. -/
def poke (host : Bool) (a : Nat) (b : Byte) : M Unit :=
  modify fun t => { t with log := .byte host a b :: t.log }

/-- Read `n` bytes. -/
def peeks (host : Bool) (a : Nat) : Nat → M (List Byte)
  | 0 => pure []
  | n + 1 => do
    let b ← peek host a
    let bs ← peeks host (a + 1) n
    return b :: bs

/-- Write bytes. -/
def pokes (host : Bool) (a : Nat) : List Byte → M Unit
  | [] => pure ()
  | b :: bs => do poke host a b; pokes host (a + 1) bs

/-- Write host memory: the bytes are out until they are known to have arrived (R437). -/
def hostPut (mark : Option (Nat × Nat)) (cache : Bool) (a : Nat) (bs : List Byte) : M Unit := do
  let old ← peeks true a bs.length
  pokes true a bs
  modDev fun d => { d with path := { d.path with out := d.path.out ++ [⟨mark, a, old, bs, none, cache⟩] } }

/-- Zeros over a local range. -/
def wipe (lo hi : Nat) : M Unit := modify fun t => { t with log := .zero lo hi :: t.log }

/-! ### Registers -/

/-- The window offset of a register: page address, offset in the page, instance (R525). -/
def RegInfo.key (r : RegInfo) (page idx : Nat) : Nat :=
  (r.blk * 256 + page) * 4096 + r.off + idx * r.stride

/-- The reset value of a register (R20, R329 for the ceilings of class MAINT, R529 for PAGE_ID). For a register of the
common layout, `page` is type × 256 + instance. -/
def RegName.resetWord (r : RegName) (page idx : Nat) : Nat :=
  match r with
  | .pageId => 1 + page % 256 * 2 ^ 12 + page / 256 * 2 ^ 24
  | .rgnCapo => if idx % 8 = 4 then 32 * 2 ^ 16 else 256 * 2 ^ 16
  | .rgnCapoAct => if idx % 8 = 4 then 32 * 2 ^ 16 else 256 * 2 ^ 16
  | r => r.info.fields.foldl (fun n f => n + f.reset * 2 ^ f.lo) 0

/-- A register's contents. -/
def Dev.word (d : Dev) (r : RegName) (page idx : Nat) : Nat :=
  (SMap.get (BitVec.ofNat 64 (r.resetWord page idx)) d.regs (r.info.key page idx)).toNat

/-- Set a register's contents. -/
def Dev.setWord (d : Dev) (r : RegName) (page idx v : Nat) : Dev :=
  { d with regs := SMap.set (BitVec.ofNat 64 (r.resetWord page idx)) d.regs (r.info.key page idx) (BitVec.ofNat 64 v) }

/-- A field. -/
def Dev.rd (d : Dev) (f : Fld) (page : Nat) (idx : Nat := 0) : Nat := bits (d.word f.reg page idx) f.lo f.len

/-- Set a field. -/
def Dev.wr (d : Dev) (f : Fld) (page v : Nat) (idx : Nat := 0) : Dev :=
  d.setWord f.reg page idx (setBits (d.word f.reg page idx) f.lo f.len v)

/-- A field of the running machine. -/
def rd (f : Fld) (page : Nat) (idx : Nat := 0) : M Nat := do return (← dev).rd f page idx

/-- A one-bit field as a Bool. -/
def rdB (f : Fld) (page : Nat) (idx : Nat := 0) : M Bool := do return (← dev).rd f page idx == 1

/-- Set a field of the running machine. -/
def wr (f : Fld) (page v : Nat) (idx : Nat := 0) : M Unit := modDev fun d => d.wr f page v idx

/-- A queue's field (R47). -/
def Dev.qrd (d : Dev) (f : Fld) (q : Nat) : Nat := d.rd f (1 + q / 16) (q % 16)

/-- A queue's field (R47). -/
def qrd (f : Fld) (q : Nat) : M Nat := rd f (1 + q / 16) (q % 16)

/-- Set a queue's field (R47). -/
def qwr (f : Fld) (q v : Nat) : M Unit := wr f (1 + q / 16) v (q % 16)

/-- The counters of a page: the registers at 0x040 to 0x07F (R528), and the stall counters of a GCL page (R161). -/
def RegName.isCounter (r : RegName) : Bool :=
  let i := r.info
  i.blk != 0 && ((decide (0x40 ≤ i.off) && decide (i.off < 0x80)) ||
    (i.blk == 5 && decide (0x100 ≤ i.off) && decide (i.off < 0x148) && r != .gclResCfg && r != .gclResEpoch))

/-- The FREEZE field that governs the counters of a page, with its page, by block type. -/
def freezeOf (blk page : Nat) : Option (Fld × Nat) :=
  if blk = 3 then (if page = 0 then some (F.queCtrCtl_freeze, 0) else none)
  else if blk = 5 then (if page < 64 then some (F.gclCtrCtl_freeze, page) else none)
  else if blk = 7 then (if page < 2 then some (F.qntCtrCtl_freeze, page) else none)
  else if blk = 8 then (if page < 8 then some (F.mrgCtrCtl_freeze, page) else some (F.mrgCtrCtl8_freeze, 8))
  else if blk = 10 then (if page < 64 then some (F.llsCtrCtl_freeze, page) else none)
  else if blk = 14 then
    (if page < 64 then some (F.trnL1CtrCtl_freeze, page)
     else if page < 66 then some (F.trnCtrCtl_freeze, page) else none)
  else if blk = 15 then some (F.migCtrCtl_freeze, page)
  else if blk = 16 then some (F.txpCtrCtl_freeze, 8)
  else none

/-- A counter after `n` more events: it stands while its page is frozen, and wraps at its width. -/
def Dev.bump (d : Dev) (f : Fld) (page n : Nat) : Dev :=
  let frozen := match freezeOf f.reg.info.blk page with
    | some (g, p) => d.rd g p == 1
    | none => false
  if frozen then d else d.wr f page (d.rd f page + n)

/-- Count events. -/
def bump (f : Fld) (page : Nat) (n : Nat := 1) : M Unit := modDev fun d => d.bump f page n

/-- Count up to the field's highest value. -/
def bumpSat (f : Fld) (page : Nat) (n : Nat := 1) : M Unit := modDev fun d =>
  d.wr f page (min (d.rd f page + n) (2 ^ f.len - 1))

/-! ### Time and free values -/

/-- Engine time (R15). -/
def now : M Nat := do return (← dev).time.et

/-- Ticks of a microsecond and of a millisecond (R15). -/
def usTicks : Nat := 4000
def msTicks : Nat := 4000000

/-- A free value of `len` bits (log entry 3). -/
def freeValue (len : Nat) : M Nat := do
  let d ← dev
  modDev fun d => { d with free := d.free + 1 }
  return (Config.freeBits d.free).toNat % 2 ^ len

/-- Counts whose growth the spec leaves open have grown since they were last brought up to date (log entries 156 and 160). -/
def countOpen (l : List (Fld × Nat)) : M Unit := each l fun f => do bump f.1 f.2 (← freeValue 32)

/-- A free value drawn from a state, and the state after. -/
def Dev.draw (d : Dev) (n : Nat) : Nat × Dev := ((Config.freeBits d.free).toNat % n, { d with free := d.free + 1 })

/-! ### Pages and interrupts -/

/-- Block types of R526. -/
def bGLB : Nat := 1
def bTIM : Nat := 2
def bQUE : Nat := 3
def bSEQ : Nat := 4
def bGCL : Nat := 5
def bACM : Nat := 6
def bQNT : Nat := 7
def bMRG : Nat := 8
def bOPT : Nat := 9
def bLLS : Nat := 10
def bHBC : Nat := 11
def bCTP : Nat := 12
def bRGN : Nat := 13
def bTRN : Nat := 14
def bMIG : Nat := 15
def bTXP : Nat := 16
def bCPE : Nat := 17
def bHLK : Nat := 18
def bSEC : Nat := 19
def bPWR : Nat := 20
def bEVR : Nat := 21
def bMNT : Nat := 22
def bTRC : Nat := 23
def bCCX : Nat := 24
def bBRG : Nat := 25
def bINT : Nat := 26

/-- The page number, page address / 4096, of an instance of a block (R525). -/
def pg (blk inst : Nat) : Nat := blk * 256 + inst

/-- How many pages a block type has (R526). -/
def pageCount (blk : Nat) : Nat :=
  [0, 1, 1, 65, 64, 65, 64, 3, 9, 9, 72, 16, 16, 8, 67, 2, 9, 17, 1, 3, 1, 1, 1, 1, 8, 2, 8].getD blk 0

/-- The page exists (R526). -/
def populated (page : Nat) : Bool := decide (page % 256 < pageCount (page / 256))

/-- Every populated page. -/
def allPages : List Nat :=
  ((List.range 27).map fun b => (List.range (pageCount b)).map fun i => pg b i).flatten

/-- The world of a page (R452): 1 secure. -/
def Dev.pageWorld (d : Dev) (page : Nat) : Nat := d.rd F.pageWorld_world page

/-- The world of a page. -/
def pageWorld (page : Nat) : M Nat := do return (← dev).pageWorld page

/-- The region of a page of a cluster, slice, stack, port or region (R6), where the block has one. -/
def regionOf (page : Nat) : Option Nat :=
  let b := page / 256
  let i := page % 256
  if b = bSEQ ∨ b = bACM then some (i / 8)
  else if b = bGCL then (if i < 64 then some (i / 8) else none)
  else if b = bLLS then (if i < 64 then some (i / 8) else some (i - 64))
  else if b = bTRN then (if i < 64 then some (i / 8) else none)
  else if b = bHBC ∨ b = bCTP then some (i / 2)
  else if b = bRGN ∨ b = bINT then some i
  else if b = bMRG ∨ b = bOPT ∨ b = bTXP then (if i < 8 then some i else none)
  else none

/-- Where a page's interrupt bit goes (R423, R534, R548): 0 to 7 control cores; 16 + v MSI-X vector v; 8 the
processor's interrupt controller. Bit 0 of the HLK page goes to control core 0 and to vector 66; this is its vector. -/
def Dev.irqDest (d : Dev) (page b : Nat) : Nat :=
  let t := page / 256
  let i := page % 256
  if t = bQUE ∧ 1 ≤ i then
    (if bit (d.word .hlkIrqDest 0 0) (i - 1) then 16 + (i - 1) else 8)
  else if t = bTRN ∧ 64 ≤ i ∧ i < 66 then
    (if b = 0 ∧ d.rd F.trnFqCfg_servicer i = 1 then 16 + i else 4 * (i - 64))
  else if t = bHLK then (if b = 0 then 16 + 66 else 0)
  else if t = bCCX then (if i = 0 then 4 else 0)
  else match regionOf page with
    | some r => r
    | none => if (t = bQNT ∧ i < 2) ∨ t = bMIG ∨ t = bBRG then 4 * i else 0

/-- The destinations a page's bits can go to, each once. -/
def Dev.irqDests (d : Dev) (page : Nat) : List Nat :=
  ((List.range 16).map fun b => d.irqDest page b).eraseDups ++ (if page / 256 = bHLK then [0] else [])

/-- The bits of a word that go to a destination; bit 0 of the HLK page goes to both of its destinations. -/
def Dev.irqBitsTo (d : Dev) (page dest w : Nat) : Nat :=
  (List.range 32).foldl (fun n b =>
    if bit w b && (d.irqDest page b == dest || (page / 256 == bHLK && dest == 0 && b == 0))
    then n + 2 ^ b else n) 0

/-- A message to a destination leaves: one to the host only while its link is in service or HELD, which replays it, and
its function is in D0 (R419, R437, R438). -/
def Dev.messageLeaves (d : Dev) (dest : Nat) : Bool :=
  decide (dest < 16) || (!d.d3hot && (d.rd F.hlkState_state 0 == 1 || d.rd F.hlkState_state 0 == 2))

/-- Messages of a page leave for their destinations; those to the host that arise in HELD wait for its link (R437, R438). -/
def Dev.sendIrqs (d : Dev) (page : Nat) (ts : List Nat) : Dev :=
  let held := d.rd F.hlkState_state 0 == 2
  let msgs (l : List Nat) := l.map fun t => (page, t)
  { d with
    irqs := (msgs (ts.filter fun t => !(held && decide (16 ≤ t)))).reverse ++ d.irqs
    path := { d.path with
      out := if held then d.path.out
        else d.path.out ++ (msgs (ts.filter fun t => decide (16 ≤ t))).map fun m => ⟨none, 0, [], [], some m, false⟩
      late := if held then d.path.late ++ msgs (ts.filter fun t => decide (16 ≤ t)) else d.path.late } }

/-- Set the status and enable words of a page, sending a message to each destination whose AND goes from zero to
non-zero, or stays non-zero after a W1C write (`again`) (R534). -/
def Dev.setIrq (d : Dev) (page stat en : Nat) (again : Bool) : Dev :=
  let stat0 := d.word .pageIrqStat page 0
  let en0 := d.word .pageIrqEn page 0
  let d := (d.setWord .pageIrqStat page 0 stat).setWord .pageIrqEn page 0 en
  let sent := (d.irqDests page).eraseDups.filter fun t =>
    let a0 := Nat.land (d.irqBitsTo page t stat0) en0
    let a1 := Nat.land (d.irqBitsTo page t stat) en
    a1 != 0 && (a0 == 0 || again) && d.messageLeaves t
  d.sendIrqs page sent

/-- Set a bit of a page's PAGE_IRQ_STAT. -/
def raise (page b : Nat) : M Unit := modDev fun d =>
  d.setIrq page (Nat.lor (d.word .pageIrqStat page 0) (2 ^ b)) (d.word .pageIrqEn page 0) false

end Sys2Proof.Machine
end

