-- ==== Sys2Proof/Machine/Float.lean ====
section
/-! DEFINITION. Binary floating point on codes: decoding (R165), rounding to nearest with ties to even (R184), the
canonical NaN (R166), FP8 saturation (R167), and the FP32 operations that the engine's procedures use (rne32, R128).
A value between rounding steps is an exact dyadic number. -/

namespace Sys2Proof.Machine

/-- Exponent and fraction widths, bias, code of the largest finite magnitude, whether an infinity follows it, and the
canonical NaN of a format (R165, R166). -/
structure Fp where
  ebits : Nat
  mbits : Nat
  bias : Nat
  maxCode : Nat
  hasInf : Bool
  nan : Nat
  deriving DecidableEq, Repr

def fp32 : Fp := ⟨8, 23, 127, 0x7F7FFFFF, true, 0x7FC00000⟩
def bf16 : Fp := ⟨8, 7, 127, 0x7F7F, true, 0x7FC0⟩
def fp16 : Fp := ⟨5, 10, 15, 0x7BFF, true, 0x7E00⟩
def fpE4M3 : Fp := ⟨4, 3, 7, 0x7E, false, 0x7F⟩
def fpE5M2 : Fp := ⟨5, 2, 15, 0x7B, true, 0x7E⟩

/-- A value: a NaN, an infinity, or a signed dyadic number `mant × 2^exp` (zero keeps its sign). -/
inductive Val where
  | nan
  | inf (neg : Bool)
  | fin (neg : Bool) (mant : Nat) (exp : Int)
  deriving DecidableEq, Repr

/-- Bits of a format in all. -/
def Fp.width (f : Fp) : Nat := 1 + f.ebits + f.mbits

/-- The value of a code (R165). -/
def Fp.decode (f : Fp) (c : Nat) : Val :=
  let neg := bit c (f.ebits + f.mbits)
  let mag := c % 2 ^ (f.ebits + f.mbits)
  let e := mag / 2 ^ f.mbits
  let m := mag % 2 ^ f.mbits
  if f.maxCode < mag then
    if f.hasInf && mag == f.maxCode + 1 then .inf neg else .nan
  else if e = 0 then .fin neg m (1 - (f.bias : Int) - f.mbits)
  else .fin neg (2 ^ f.mbits + m) ((e : Int) - f.bias - f.mbits)

/-- The sign bit of a format. -/
def Fp.sign (f : Fp) (neg : Bool) : Nat := if neg then 2 ^ (f.ebits + f.mbits) else 0

/-- A shifted right by `k` bits, rounded to nearest with ties to even; `sticky` says that something below is lost. -/
def shiftRne (m k : Nat) (sticky : Bool) : Nat :=
  let q := m / 2 ^ k
  let r := m % 2 ^ k
  let half := 2 ^ (k - 1)
  if half < r || (r == half && (sticky || q % 2 == 1)) then q + 1 else q

/-- The magnitude code of `m × 2^e`, rounded with the exponent range unbounded above (R184): a code above `maxCode`
says overflow. With `sticky`, `m` has at least two bits more than the format. -/
def Fp.roundMag (f : Fp) (m : Nat) (e : Int) (sticky : Bool) : Nat :=
  if m = 0 then 0
  else
    let emin : Int := 1 - (f.bias : Int) - f.mbits
    let top : Int := e + m.log2
    let q : Int := if top - f.mbits < emin then emin else top - f.mbits
    let sig := if q ≤ e then m * 2 ^ (e - q).toNat else shiftRne m (q - e).toNat sticky
    (q - emin).toNat * 2 ^ f.mbits + sig

/-- The code of a value in a format, as IEEE 754-2019 rounds, with the canonical NaN; whether it overflowed or was an
infinity. -/
def Fp.encode (f : Fp) (v : Val) (sticky : Bool := false) : Nat × Bool :=
  match v with
  | .nan => (f.nan, false)
  | .inf neg => (if f.hasInf then f.sign neg + f.maxCode + 1 else f.nan, true)
  | .fin neg m e =>
    let c := f.roundMag m e sticky
    if f.maxCode < c then (if f.hasInf then f.sign neg + f.maxCode + 1 else f.nan, true) else (f.sign neg + c, false)

/-- Conversion into FP8 under a saturation mode (R167). -/
def Fp.encodeSat (f : Fp) (sat : Bool) (v : Val) : Nat × Bool :=
  match f.encode v with
  | (c, false) => (c, false)
  | (c, true) =>
    let neg := match v with
      | .inf n => n
      | .fin n _ _ => n
      | .nan => false
    (if sat then f.sign neg + f.maxCode else c, true)

/-! ### FP32 on codes -/

/-- An FP32 number by its code. -/
abbrev F32 := Nat

/-- The value of an FP32 code. -/
def F32.val (a : F32) : Val := fp32.decode a

/-- Rounding to FP32 (rne32). -/
def rne32 (v : Val) : F32 := (fp32.encode v).1

/-- An integer as an exact value. -/
def Val.ofInt (i : Int) : Val := .fin (decide (i < 0)) i.natAbs 0

/-- The FP32 of an integer, rounded once. -/
def f32OfInt (i : Int) : F32 := rne32 (.ofInt i)

/-- The FP32 number is finite. -/
def f32Finite (a : F32) : Bool := a % 2 ^ 31 < 0x7F800000

/-- The FP32 number is a NaN. -/
def f32Nan (a : F32) : Bool := decide (0x7F800000 < a % 2 ^ 31)

/-- Zero of either sign. -/
def f32Zero (a : F32) : Bool := a % 2 ^ 31 == 0

def f32One : F32 := 0x3F800000
def f32Two : F32 := 0x40000000

/-- Exact negation and magnitude. -/
def f32Neg (a : F32) : F32 := if bit a 31 then a - 2 ^ 31 else a + 2 ^ 31
def f32Abs (a : F32) : F32 := a % 2 ^ 31

/-- A dyadic number as an integer over 2^e. -/
def Val.scaled (neg : Bool) (m : Nat) (x e : Int) : Int :=
  let n : Int := ((m * 2 ^ (x - e).toNat : Nat) : Int)
  if neg then -n else n

/-- The exact sum of two values. -/
def Val.add (a b : Val) : Val :=
  match a, b with
  | .nan, _ => .nan
  | _, .nan => .nan
  | .inf x, .inf y => if x = y then .inf x else .nan
  | .inf x, _ => .inf x
  | _, .inf y => .inf y
  | .fin s m e, .fin t n f =>
    let g := if e < f then e else f
    let i := Val.scaled s m e g + Val.scaled t n f g
    if i = 0 then .fin (s && t && decide (m = 0) && decide (n = 0)) 0 g else .fin (decide (i < 0)) i.natAbs g

/-- The exact product of two values. -/
def Val.mul (a b : Val) : Val :=
  match a, b with
  | .nan, _ => .nan
  | _, .nan => .nan
  | .inf x, .inf y => .inf (x != y)
  | .inf x, .fin t n _ => if n = 0 then .nan else .inf (x != t)
  | .fin s m _, .inf y => if m = 0 then .nan else .inf (s != y)
  | .fin s m e, .fin t n f => .fin (s != t) (m * n) (e + f)

/-- Negation. -/
def Val.neg (a : Val) : Val :=
  match a with
  | .nan => .nan
  | .inf x => .inf (!x)
  | .fin s m e => .fin (!s) m e

/-- FP32 sum, difference and product, each rounded once. -/
def f32Add (a b : F32) : F32 := rne32 (a.val.add b.val)
def f32Sub (a b : F32) : F32 := rne32 (a.val.add b.val.neg)
def f32Mul (a b : F32) : F32 := rne32 (a.val.mul b.val)

/-- The quotient of two values as FP32, rounded once. -/
def divVal (a b : Val) : F32 :=
  match a, b with
  | .nan, _ => fp32.nan
  | _, .nan => fp32.nan
  | .inf _, .inf _ => fp32.nan
  | .inf s, .fin t _ _ => fp32.sign (s != t) + 0x7F800000
  | .fin s _ _, .inf t => fp32.sign (s != t)
  | .fin s m e, .fin t n f =>
    if n = 0 then (if m = 0 then fp32.nan else fp32.sign (s != t) + 0x7F800000)
    else
      let k := 40 + n.log2
      let q := m * 2 ^ k / n
      let r := m * 2 ^ k % n
      (fp32.encode (.fin (s != t) q (e - f - k)) (r != 0)).1

/-- FP32 quotient, rounded once. -/
def f32Div (a b : F32) : F32 := divVal a.val b.val

/-- The integer square root, by bits from `k` down. -/
def isqrtFrom (n : Nat) : Nat → Nat → Nat
  | 0, r => r
  | k + 1, r =>
    let t := r + 2 ^ k
    isqrtFrom n k (if t * t ≤ n then t else r)

/-- FP32 square root, rounded once; of a number below zero, NaN. -/
def f32Sqrt (a : F32) : F32 :=
  match a.val with
  | .nan => fp32.nan
  | .inf true => fp32.nan
  | .inf false => 0x7F800000
  | .fin s m e =>
    if m = 0 then fp32.sign s
    else if s then fp32.nan
    else
      let (m, e) := if e % 2 = 0 then (m, e) else (2 * m, e - 1)
      let n := m * 2 ^ 80
      let r := isqrtFrom n 60 0
      (fp32.encode (.fin false r (e / 2 - 40)) (r * r != n)).1

/-- Order of two values that are no NaN: −1, 0 or 1. -/
def Val.cmp (a b : Val) : Int :=
  match a, b with
  | .inf x, .inf y => if x = y then 0 else if x then -1 else 1
  | .inf x, _ => if x then -1 else 1
  | _, .inf y => if y then 1 else -1
  | .fin s m e, .fin t n f =>
    let g := if e < f then e else f
    let d := Val.scaled s m e g - Val.scaled t n f g
    if d < 0 then -1 else if 0 < d then 1 else 0
  | _, _ => 0

/-- `a < b`, false where either is a NaN. -/
def f32Lt (a b : F32) : Bool := !f32Nan a && !f32Nan b && a.val.cmp b.val == -1

/-- The larger and smaller of two numbers. -/
def f32Max (a b : F32) : F32 := if f32Lt a b then b else a
def f32Min (a b : F32) : F32 := if f32Lt b a then b else a

/-- A power of two as a value. -/
def Val.pow2 (e : Int) : Val := .fin false 1 e

/-- The nearest integer to a finite value, ties away from zero (R184). -/
def Val.roundAway (neg : Bool) (m : Nat) (e : Int) : Int :=
  let n : Nat := if 0 ≤ e then m * 2 ^ e.toNat else (2 * m + 2 ^ (-e).toNat) / (2 * 2 ^ (-e).toNat)
  if neg then -(n : Int) else n

/-- The smallest BF16 value at or above a finite FP32 number above zero (R186). -/
def bf16Up (r : F32) : Nat :=
  if r % 2 ^ 16 = 0 then r / 2 ^ 16 else r / 2 ^ 16 + 1

/-- A BF16 number widened to FP32. -/
def bf16To32 (b : Nat) : F32 := b % 2 ^ 16 * 2 ^ 16

/-- Exact widening of a code of any format into FP32. -/
def Fp.widen (f : Fp) (c : Nat) : F32 := rne32 (f.decode c)

/-! ### The compensated pair (R133) -/

/-- The promotion of a term into a compensated pair (hi, lo). -/
def promote (p : F32 × F32) (c : F32) : F32 × F32 :=
  let (hi, lo) := p
  let s := f32Add hi c
  if !f32Finite s then (s, 0)
  else
    let bp := f32Sub s hi
    let err := f32Add (f32Sub hi (f32Sub s bp)) (f32Sub c bp)
    let t2 := f32Add lo err
    let hi' := f32Add s t2
    (hi', f32Sub t2 (f32Sub hi' s))

/-- Terms summed in runs of `n` under the FP-path rule (R133). -/
def sumRuns (n : Nat) (ts : List F32) : F32 × F32 :=
  let r := ts.foldl (fun (st : (F32 × F32) × F32 × Nat) t =>
    let c := f32Add st.2.1 t
    if st.2.2 + 1 = n then (promote st.1 c, 0, 0) else (st.1, c, st.2.2 + 1)) ((0, 0), 0, 0)
  if r.2.2 = 0 then r.1 else promote r.1 r.2.1

end Sys2Proof.Machine
end

