-- ==== Sys2Proof/Machine/Events.lean ====
section
/-! DEFINITION. Detection of events for the recorder (R499, R502, R508, R514) and of transactions for the trace unit
(R515 to R519). -/

namespace Sys2Proof.Machine

/-- PAGE_ID of a page (R529). -/
def pageIdOf (page : Nat) : Nat := RegName.resetWord .pageId page 0

/-- Codes whose records go to the seed area (R514). -/
def seedCode (code : Nat) : Bool := code == 0x301 || code == 0x302 || code == 0x303

/-- The registers that show the recorder (R506, R523). -/
def Dev.syncRecorder (d : Dev) : Dev :=
  let r := d.evr
  let guarded := d.rd F.evrState_startup 0 == 1 || d.rd F.evrCtl_test 0 == 1 || d.rd F.evrCtl_recovery 0 == 1
  let d := d.wr F.evrState_mode 0 (b2n guarded)
  let d := d.wr F.evrState_staged 0 r.staged.length
  let d := d.wr F.evrState_compacting 0 (b2n r.compacting)
  let d := d.wr F.evrState_free_blocks 0 (2042 - ((r.head + 2047) / 2048 - r.tail))
  let d := d.wr F.evrOpsec_seconds 0 r.opSec
  d.wr F.evrPcycles_count 0 r.cycles

/-- One dropped record (R508). -/
def Recorder.drop (r : Recorder) (et : Nat) : Recorder :=
  { r with dropped := true, drops := r.drops + 1,
           dropFirst := if r.drops = 0 then et else r.dropFirst, dropLast := et }

/-- The index of the newest staged record of lower severity than `sev`. -/
def lowerStaged (sev : Nat) (l : List EventRec) : Option Nat :=
  ((List.range l.length).filter fun i => match l[i]? with
    | some e => decide (e.sev < sev)
    | none => false).getLast?

/-- Put a record into staging, or drop one (R508). The buffer holds 4,096 records, one of its slots reserved for a DROPPED
record. -/
def Dev.stage (d : Dev) (e : EventRec) : Dev :=
  if e.sev < d.rd F.evrCfg_min_sev 0 then d.bump F.evrFiltered_count 0 1
  else if d.evr.staged.length < 4095 then
    { d with evr := { d.evr with staged := d.evr.staged ++ [e] } }.syncRecorder
  else
    let d := d.bump F.evrDropped_count 0 1
    match lowerStaged e.sev d.evr.staged with
    | some i => { d with evr := { d.evr.drop e.et with staged := d.evr.staged.eraseIdx i ++ [e] } }
    | none => { d with evr := d.evr.drop e.et }

/-- A record of an event, as the detecting page sees it now (R499, R514). -/
def Dev.event (d : Dev) (code sev page payload : Nat) : Dev :=
  d.stage { code := code, sev := sev, et := d.time.et, opSec := d.evr.opSec, cycles := d.evr.cycles,
            source := pageIdOf page, payload := payload, seed := seedCode code,
            etUnset := d.rd F.timState_state 0 == 0 }

/-- A record of an event. -/
def record (code sev page payload : Nat) : M Unit := modDev fun d => d.event code sev page payload

/-- A payload from (byte offset, value) pairs. -/
def payloadOf (l : List (Nat × Nat)) : Nat := l.foldl (fun n p => n + p.2 * 256 ^ p.1) 0

/-! ### Trace -/

/-- A filter takes a record (R518). -/
def Dev.filterTakes (d : Dev) (n kind inst op q addr : Nat) : Bool :=
  d.rd F.trcFCtl_enable 0 n == 1 &&
  bit (d.rd F.trcFCtl_kinds 0 n) kind &&
  decide (d.rd F.trcFInst_first 0 n ≤ inst) && decide (inst ≤ d.rd F.trcFInst_last 0 n) &&
  bit (d.rd F.trcFCtl_ops 0 n) op &&
  (d.rd F.trcFQueue_any 0 n == 1 || d.rd F.trcFQueue_queue 0 n == q) &&
  (!(decide (op ≤ 3) || op == 8) ||
    (decide (d.rd F.trcFLo_addr 0 n ≤ addr) && decide (addr ≤ d.rd F.trcFHi_addr 0 n)))

/-- A trace record (R516). -/
def traceRec (et inst kind tseq op world q dseq len addr : Nat) : Nat :=
  et % 2 ^ 64 + inst % 2 ^ 12 * 2 ^ 64 + kind % 16 * 2 ^ 76 + tseq % 2 ^ 16 * 2 ^ 80 + op % 16 * 2 ^ 96 +
  world % 2 * 2 ^ 100 + q % 2 ^ 10 * 2 ^ 112 + dseq % 2 ^ 32 * 2 ^ 128 + len % 2 ^ 32 * 2 ^ 160 + addr % 2 ^ 64 * 2 ^ 192

/-- A transaction passes a tap (R515, R518, R519): `queue` is 1,024 where no descriptor is served. -/
def Dev.traced (d : Dev) (kind inst op world q dseq len addr : Nat) : Dev :=
  if d.rd F.trcCtl_enable 0 == 1 && world == d.pageWorld (pg bTRC 0) &&
     (List.range 8).any (fun n => d.filterTakes n kind inst op q addr) then
    let key := kind * 64 + inst
    let n := SMap.get 0 d.trace.tseq key
    let t : Trace := { d.trace with tseq := SMap.set 0 d.trace.tseq key ((n + 1) % 2 ^ 16) }
    if t.buffer.length < 32768 then
      { d with trace := { t with buffer := t.buffer ++
          [traceRec d.time.et inst kind n op world (if q < 1024 then q else 0) dseq len addr] } }
    else { d with trace := { t with lost := t.lost + 1 } }.bump F.trcLost_count 0 1
  else d

/-- A transaction passes a tap. -/
def tap (kind inst op world q dseq len addr : Nat) : M Unit :=
  modDev fun d => d.traced kind inst op world q dseq len addr

end Sys2Proof.Machine
end

