-- ==== Sys2Proof/Machine/Regs.lean ====
section
/-! DEFINITION. Register accesses: who makes them, the page's error capture (R532, R533), the check of worlds (R453,
R459), and the conditions under which a page takes a write (R479, R512, R527, R535). -/

namespace Sys2Proof.Machine

/-- The world of a register access (R450): 1 secure. -/
def worldOf (a : Agent) : Nat :=
  match a with
  | .host _ => 0
  | .gpCore _ s => b2n s
  | .ccSecure _ => 1
  | .ccNonsecure _ => 0
  | .mailbox => 1

/-- PAGE_ERR_INFO.SOURCE of an access (R533). -/
def agentSource (a : Agent) : Nat :=
  match a with
  | .host _ => 0
  | .gpCore _ _ => 1
  | .ccSecure _ => 2
  | .ccNonsecure _ => 3
  | .mailbox => 4

/-- PAGE_ERR_REQ.REQ of an access (R529). -/
def agentReq (a : Agent) : Nat :=
  match a with
  | .host r => r.toNat
  | .gpCore i _ => i.val
  | .ccSecure i => i.val
  | .ccNonsecure i => i.val
  | .mailbox => 0

/-- Kinds of captured events (R533). -/
def kIGNORED : Nat := 0
def kLOCKED : Nat := 1
def kSIZE : Nat := 2
def kREFUSED : Nat := 3

/-- An event enters a page's error capture (R532): the first fills it, later ones are counted. `off` is the offset
in the window, `size` the base-2 logarithm of the access size. -/
def Dev.captured (d : Dev) (page kind : Nat) (isWrite : Bool) (world source req off size data : Nat) : Dev :=
  if d.rd F.pageErrInfo_valid page = 1 then
    d.wr F.pageErrInfo_count page (min (d.rd F.pageErrInfo_count page + 1) 65535)
  else
    let d := d.setWord .pageErrInfo page 0
      (1 + kind * 2 + b2n isWrite * 8 + world * 16 + source * 32 + 1 * 2 ^ 16)
    let d := d.setWord .pageErrAddr page 0 (off % 2 ^ 25 + size * 2 ^ 25)
    let d := d.setWord .pageErrData page 0 (data % 2 ^ 32)
    let d := d.setWord .pageErrEt page 0 d.time.et
    let d := d.setWord .pageErrReq page 0 req
    d.wr F.pageStat_capture page 1

/-- A register write as its page sees it: page number, offset in the page, base-2 logarithm of the size, data, sender. -/
structure RegAcc where
  page : Nat
  off : Nat
  size : Nat
  data : Nat
  agent : Agent
  deriving DecidableEq, Repr

/-- Capture a write in its page. -/
def RegAcc.capture (w : RegAcc) (kind : Nat) : M Unit := modDev fun d =>
  d.captured w.page kind true (worldOf w.agent) (agentSource w.agent) (agentReq w.agent)
    (w.page * 4096 + w.off) w.size w.data

/-- A write that a rule ignores (R533, IGNORED). -/
def RegAcc.ignore (w : RegAcc) : M Unit := w.capture kIGNORED

/-- A command that its checks refuse (R533, REFUSED). -/
def RegAcc.refuse (w : RegAcc) : M Unit := w.capture kREFUSED

/-- A refusal that the engine itself finds (R533: SOURCE ENGINE, no data). -/
def captureEngine (page kind off : Nat) : M Unit := modDev fun d =>
  d.captured page kind false (d.pageWorld page) 5 0 (page * 4096 + off) 2 0

/-- A failure of the world checks (R459): counted, captured once, and recorded with the page that made the access. -/
def violation (source world kind : Nat) (region : Option Nat) (queue addr srcPage : Nat) : M Unit := do
  bump F.secViolCount_count 0
  let info := source + world * 4 + kind * 8 + b2n region.isNone * 32 + 64 + (region.getD 0) * 256 +
    (if source = 0 then queue * 2 ^ 16 else 0)
  if (← rd F.secViolInfo_valid 0) = 0 then
    wr F.secViolAddr_addr 0 addr
    modDev fun d => d.setWord .secViolInfo 0 0 info
    wr F.secViolEt_et 0 (← now)
    raise (pg bSEC 0) 0
  record 0x601 4 srcPage (addr + info * 2 ^ 64)

/-- Pages served in E3 and in phases 4 to 6 of an engine reset (R479, R535). -/
def servedInSleep (page : Nat) : Bool :=
  let t := page / 256
  t == bGLB || t == bTIM || t == bPWR || t == bEVR || t == bSEC || t == bHLK

/-- Registers are not reached as usual: E3 or E4, or a reset between its phase 4 and the end of its phase 6 (R479,
R535). -/
def Dev.asleep (d : Dev) : Bool :=
  d.rd F.pwrState_state 0 == 3 || d.rd F.pwrState_state 0 == 4 || decide (4 ≤ d.pow.phase)

/-- The checks before a write reaches its register: true if it goes on. What stops it is recorded as the spec says:
a mailbox write to another page (R512), an unpopulated page (R527), a page that sleeps (R479, R535), another world
(R453), a busy page (R535). Offsets 0x008 to 0x00B are PAGE_WORLD, which a secure access of either page world reaches
(R452, R453). -/
def RegAcc.passes (w : RegAcc) : M Bool := do
  let t := w.page / 256
  let world := worldOf w.agent
  if w.agent == .mailbox && !(t == bEVR || t == bTIM || t == bPWR || t == bTRC) then return false
  if (← rd F.pwrState_state 0) = 4 then return false
  if (← dev).asleep && !servedInSleep w.page then return false
  if !populated w.page then
    bump F.glbUnmapped_count 0
    modDev fun d => d.captured (pg bGLB 0) kIGNORED true world (agentSource w.agent) (agentReq w.agent)
      (w.page * 4096 + w.off) w.size w.data
    return false
  let pw ← pageWorld w.page
  let ok := if 8 ≤ w.off ∧ w.off < 12 then world == 1 else world == pw
  if !ok then
    violation 1 world 1 none 0 (w.page * 4096 + w.off) w.page
    return false
  if decide (0x40 ≤ w.off) && (← rdB F.pageStat_busy w.page) then
    w.ignore
    return false
  return true

/-- A write of a register that has a row of its own: the effect, if the write reaches the register. -/
def RegAcc.run (w : RegAcc) (effect : M Unit) : M Unit := do
  if ← w.passes then effect else pure ()

/-- The write of a whole 32-bit register by its name. -/
def regAcc (r : RegName) (page idx data : Nat) (a : Agent) : RegAcc :=
  let i := r.info
  ⟨i.blk * 256 + page, i.off + idx * i.stride, if i.wide then 3 else 2, data, a⟩

/-- The write of a register of a queue (R47). -/
def queAcc (r : RegName) (q data : Nat) (a : Agent) : RegAcc := regAcc r (1 + q / 16) (q % 16) data a

end Sys2Proof.Machine
end

