-- ==== Sys2Proof/Machine/Phys.lean ====
section
/-! DEFINITION. Local physical memory: the address map (R298, R299), homes and owning slices (R301, R302, R322, R330), the
check of memory regions (R457), the lines of the last-level store (R325), marked lines (R493), capo regulators (R317,
R318), and reads, writes and updates under them. -/

namespace Sys2Proof.Machine

/-! ### Status and reason codes (R11, R87) -/

def sOK : Nat := 0
def sOK_FLAGGED : Nat := 1
def sCANCELLED : Nat := 2
def sSCALE_MISS_HELD : Nat := 3
def sFAULT_FATAL : Nat := 4
def sWORLD_VIOLATION : Nat := 5
def sBOUNDS : Nat := 6
def sLINK_LOST : Nat := 7
def sHOST_LOST : Nat := 8
def sMAINT_CONFLICT : Nat := 9
def sACC_OWNER : Nat := 10
def sMALFORMED : Nat := 11
def sTIMEOUT : Nat := 12
def sRUNOUT_GAP : Nat := 13
def sPARTIAL_STALE : Nat := 14
def rNONE : Nat := 0
def rOPCODE : Nat := 1
def rRESERVED_SET : Nat := 2
def rFORMAT : Nat := 3
def rLONG : Nat := 4
def rOPERAND : Nat := 5
def rCANCEL_SCOPE : Nat := 6
def rWORLD : Nat := 16
def rBOUNDS_ADDR : Nat := 17
def rBOUNDS_STRIDE : Nat := 18
def rTILE_OWNER : Nat := 19
def rFAULT : Nat := 20

/-- BOUNDS, reason BOUNDS_ADDR (R299). -/
def failBounds {α : Type} : M α := fail sBOUNDS rBOUNDS_ADDR

/-- The reason that goes with a status found at a peer (R87). -/
def reasonOf (st : Nat) : Nat :=
  if st = sBOUNDS then rBOUNDS_ADDR else if st = sWORLD_VIOLATION then rWORLD else if st = sFAULT_FATAL then rFAULT else rNONE

/-! ### The map -/

/-- Where a local address lies (R298): HBM or capacity tier of a region with the offset in its window, scratchpad of a
slice with the offset, the register window, or a hole. -/
inductive Home where
  | hbm (r o : Nat)
  | cap (r o : Nat)
  | scratch (s o : Nat)
  | regs
  | hole
  deriving DecidableEq, Repr

/-- The window of a local address PA[45:0] (R298). -/
def homeOf (a : Nat) : Home :=
  if a < 0x020000000000 then .hbm (a / 2 ^ 38) (a % 2 ^ 38)
  else if a < 0x040000000000 then .hole
  else if a < 0x080000000000 then .cap ((a - 0x040000000000) / 2 ^ 39) ((a - 0x040000000000) % 2 ^ 39)
  else if a < 0x080200000000 then .scratch ((a - 0x080000000000) / 2 ^ 27) ((a - 0x080000000000) % 2 ^ 27)
  else if a < 0x0FFFFE000000 then .hole
  else if a < 0x100000000000 then .regs
  else .hole

/-- Both capacity ports of a region are READY (R299, R331). -/
def Dev.capReady (d : Dev) (r : Nat) : Bool := [2 * r, 2 * r + 1].all fun p => d.rd F.ctpState_state p == 2

/-- The address is populated (R298, R299, R331): where a descriptor may go. -/
def Dev.populatedAt (d : Dev) (a : Nat) : Bool :=
  match homeOf a with
  | .hbm _ o => decide (o < 144 * 2 ^ 30)
  | .cap r o => decide (o < 384 * 2 ^ 30) && d.capReady r
  | .scratch s o => decide (o < d.rd F.llsPart_scratch (64 + s / 8) * (6 * 2 ^ 20))
  | .regs => false
  | .hole => false

/-- Every byte of a range is populated; a range that leaves its window is not. -/
def Dev.populatedRange (d : Dev) (a len : Nat) : Bool :=
  len == 0 || (d.populatedAt a && d.populatedAt (a + len - 1) &&
    (match homeOf a, homeOf (a + len - 1) with
     | .hbm r _, .hbm r' _ => r == r'
     | .cap r _, .cap r' _ => r == r'
     | .scratch s _, .scratch s' _ => s == s'
     | _, _ => false))

/-- Every block of 64 KiB of a range is populated; the range may cross windows. -/
def Dev.populatedAll (d : Dev) (a len : Nat) : Bool :=
  len == 0 || (d.populatedAt a && d.populatedAt (a + len - 1) &&
    (List.range ((a + len - 1) / 65536 - a / 65536)).all fun i => d.populatedAt ((a / 65536 + i + 1) * 65536))

/-- The home region of a local byte (R302). -/
def homeRegion (a : Nat) : Nat :=
  match homeOf a with
  | .hbm r _ => r
  | .cap r _ => r
  | .scratch s _ => s / 8
  | _ => 0

/-- The die of a region (R26). -/
def dieOfRegion (r : Nat) : Nat := r / 4

/-- The owning slice of a byte (R322). -/
def owningSlice (a : Nat) : Nat :=
  match homeOf a with
  | .hbm r o => r * 8 + Nat.xor (Nat.xor (o / 65536) (o / 65536 / 8)) (o / 65536 / 64) % 8
  | .cap r o => r * 8 + Nat.xor (Nat.xor (o / 65536) (o / 65536 / 8)) (o / 65536 / 64) % 8
  | .scratch s _ => s
  | _ => 0

/-- The stack, channel, pseudo-channel within the channel, and address within it, of a byte at offset `o` of region
`r`'s HBM window (R301). -/
def hbmPlace (r o : Nat) : Nat × Nat × Nat × Nat :=
  let g := o / 512
  let p := Nat.xor (Nat.xor g (g / 128)) (g / 16384) % 128
  (2 * r + p % 2, p / 2 % 32, p / 64, g / 128 * 512 + o % 512)

/-- The port, channel and address of a byte at offset `o` of region `r`'s capacity window (R330). -/
def capPlace (r o : Nat) : Nat × Nat × Nat :=
  let g := o / 512
  let p := Nat.xor (Nat.xor g (g / 8)) (g / 4096) % 8
  (2 * r + p % 2, p / 2, g / 8 * 512 + o % 512)

/-- The lines of 64 bytes that a range touches. -/
def linesOf (a len : Nat) : List Nat :=
  if len = 0 then [] else range' (a / 64) ((a + len - 1) / 64 - a / 64 + 1)

/-- The blocks of 64 KiB that a range touches. -/
def blocksOf (a len : Nat) : List Nat :=
  if len = 0 then [] else range' (a / 65536) ((a + len - 1) / 65536 - a / 65536 + 1)

/-! ### Who makes an access -/

/-- An access's source: tap kind and number (R515; kind 8 passes no tap), capo class (R317), world, descriptor (queue
1,024 for none), the page that SOURCE of a violation names (R459) and SEC_VIOL_INFO.SOURCE (R472). -/
structure Who where
  tapKind : Nat
  inst : Nat
  cls : Nat
  world : Nat
  q : Nat
  seq : Nat
  page : Nat
  vsrc : Nat
  deriving DecidableEq, Repr

/-- What an access needs of a region (R348, R457): RD, WR, or RD, WR and AT, or WR and AT for an engine-record atomic. -/
inductive Need where
  | rd | wr | at | record
  deriving DecidableEq, Repr

/-- The rights of a region cover a need: bits RD, WR, AT. -/
def Need.allowed (n : Need) (rd wr at' : Bool) : Bool :=
  match n with
  | .rd => rd
  | .wr => wr
  | .at => rd && wr && at'
  | .record => wr && at'

/-- SEC_VIOL_INFO.KIND of a need (R472). -/
def Need.kind (n : Need) : Nat :=
  match n with
  | .rd => 0
  | .wr => 1
  | .at => 2
  | .record => 2

/-- Page and slot of a memory region (R455). -/
def mrPage (i : Nat) : Nat := 1 + i / 128

/-- A field of a memory region. -/
def Dev.mr (d : Dev) (f : Fld) (i : Nat) : Nat := d.rd f (mrPage i) (i % 128)

/-- The region that holds a 64 KiB block: in state WIPING, ACTIVE or DRAINING (R472); they do not overlap (R456). -/
def Dev.regionHolding (d : Dev) (block : Nat) : Option Nat :=
  (List.range 256).find? fun i =>
    let st := d.mr F.secMrLimit_state i
    decide (1 ≤ st) && decide (st ≤ 3) && decide (d.mr F.secMrBase_base i ≤ block) &&
      decide (block ≤ d.mr F.secMrLimit_limit i)

/-- A block passes the region check (R457). An access that waits and passed the check before its region's disable is in
flight: DRAINING does not fail it (R462). -/
def Dev.blockPasses (d : Dev) (world : Nat) (n : Need) (block : Nat) (inFlight : Bool := false) : Bool :=
  match d.regionHolding block with
  | none => false
  | some i => (d.mr F.secMrLimit_state i == 2 || (inFlight && d.mr F.secMrLimit_state i == 3)) && d.mr F.secMrBase_world i == world &&
      n.allowed (d.mr F.secMrBase_rd i == 1) (d.mr F.secMrBase_wr i == 1) (d.mr F.secMrBase_at i == 1)

/-- An access of a range waits under R308, R326 or R493: it has been checked already. -/
def Dev.waitsAt (d : Dev) (w : Who) (a len : Nat) : Bool :=
  d.ms.held.any fun e => e.1 == w.tapKind && e.2.1 == w.inst && e.2.2.1 == w.q && e.2.2.2.1 == w.seq &&
    (linesOf a len).contains e.2.2.2.2

/-- The check of memory regions block by block (R457); a failure is recorded (R459). -/
def regionCheck (w : Who) (n : Need) (a len : Nat) : M Unit := do
  let d ← dev
  let inFlight := d.waitsAt w a len
  match (blocksOf a len).find? fun b => !d.blockPasses w.world n b inFlight with
  | none => pure ()
  | some b => do
    violation w.vsrc w.world n.kind (d.regionHolding b) w.q (max a (b * 65536)) w.page
    fail sWORLD_VIOLATION rWORLD

/-- The map and region checks of a local access (R299, R457). -/
def localCheck (w : Who) (n : Need) (a len : Nat) : M Unit := do
  if (← dev).populatedAll a len then regionCheck w n a len else failBounds

/-! ### What makes an access wait -/

/-- A region is fenced, by itself (R27). -/
def Dev.regionFenced (d : Dev) (r : Nat) : Bool :=
  let st := d.rd F.pageState_state (pg bRGN r)
  st == 3 || st == 4

/-- The stacks or ports behind an address are not trained yet or in self-refresh (R308, R309, R334). -/
def Dev.inSelfRefresh (d : Dev) (a : Nat) : Bool :=
  match homeOf a with
  | .hbm r _ => [2 * r, 2 * r + 1].any fun s =>
      let st := d.rd F.hbcState_state s
      st == 0 || st == 1 || st == 3
  | .cap r o => d.rd F.ctpState_state (capPlace r o).1 == 3
  | _ => false

/-- A maintenance activity holds the HBM channel of an address (R313). -/
def Dev.channelHeld (d : Dev) (a : Nat) : Bool :=
  match homeOf a with
  | .hbm r o =>
    let (st, ch, _, _) := hbmPlace r o
    (List.range 32).any fun n =>
      let act := d.rd F.mntSlot_activity 0 n
      (act == 4 || act == 5) && d.rd F.mntSlot_state 0 n != 0 &&
        d.rd F.mntSlot_target 0 n == st && d.rd F.mntSlot_channel 0 n == ch
  | _ => false

/-- A line is marked, or its window is out of service (R312, R493). -/
def Dev.lineMarked (d : Dev) (line : Nat) : Bool :=
  d.ms.marks.contains line ||
    (match homeOf (line * 64) with
     | .hbm r _ => d.ms.out.contains r
     | _ => false)

/-- The row operation of a running CUSTOM handler holds a byte of a range, in granules of 16 bytes (R258, R326). -/
def Dev.rowHeld (d : Dev) (a len : Nat) : Bool :=
  d.calls.any fun c => c.held.any fun h => decide (h.1 / 16 * 16 < a + len) && decide (a < roundUp (h.1 + h.2) 16)

/-- The range is in an HBM window out of service (R312). -/
def Dev.outOfService (d : Dev) (a : Nat) : Bool :=
  match homeOf a with
  | .hbm r _ => d.ms.out.contains r
  | _ => false

/-- An access to a range has to wait: a fenced region (R27), self-refresh (R308, R309), a held channel (R313), a row
operation (R326), or for a read a marked line (R493). -/
def Dev.mustWait (d : Dev) (isRead : Bool) (a len : Nat) : Bool :=
  len != 0 &&
  (d.regionFenced (homeRegion a) || d.regionFenced (homeRegion (a + len - 1)) ||
   d.inSelfRefresh a || d.inSelfRefresh (a + len - 1) || d.channelHeld a || d.channelHeld (a + len - 1) ||
   d.rowHeld a len || (isRead && (linesOf a len).any d.lineMarked))

/-- A MIGRATE holds a byte of a range against writes, atomics and row operations (R378). -/
def Dev.moveHeld (d : Dev) (a len : Nat) : Bool :=
  match d.ms.moving with
  | some m => decide (m.1 < a + len) && decide (a < m.1 + m.2)
  | none => false

/-- The lines of a range that keep an access waiting under R308, R326 or R493. -/
def Dev.heldLines (d : Dev) (isRead : Bool) (a len : Nat) : List Nat :=
  (linesOf a len).filter fun n => d.inSelfRefresh (n * 64) || d.rowHeld (max a (n * 64)) (min (a + len) (n * 64 + 64) - max a (n * 64)) ||
    (isRead && d.lineMarked n)

/-- Show how many accesses wait on marked lines (R497). -/
def Dev.syncHeld (d : Dev) : Dev :=
  d.wr F.mntUeInfo_waiters 0 (min 65535 (d.ms.held.filter fun e => d.lineMarked e.2.2.2.2).length)

/-- Keep of the waiting accesses those that a test selects. -/
def Dev.keepHeld (d : Dev) (p : Nat × Nat × Nat × Nat × Nat → Bool) : Dev :=
  { d with ms := { d.ms with held := d.ms.held.filter p } }.syncHeld

/-- Accesses whose lines no longer keep them waiting do not wait. -/
def Dev.releaseHeld (d : Dev) : Dev := d.keepHeld fun e =>
  d.inSelfRefresh (e.2.2.2.2 * 64) || d.rowHeld (e.2.2.2.2 * 64) 64 || d.lineMarked e.2.2.2.2

/-- A range can be accessed now; an access that R308, R326 or R493 keeps waiting is noted, and one that a row operation
keeps waiting counts in LLS_HOLD_WAITS (R326). -/
def clear! (w : Who) (isRead : Bool) (a len : Nat) : M Unit := do
  let d ← dev
  if d.mustWait isRead a len then
    match d.heldLines isRead a len with
    | [] => skip
    | n :: _ => do
      let e := (w.tapKind, w.inst, w.q, w.seq, n)
      if d.ms.held.contains e then skip
      else waitFor fun d =>
        let d := { d with ms := { d.ms with held := e :: d.ms.held } }.syncHeld
        if d.rowHeld a len then d.bump F.llsHoldWaits_count (owningSlice (n * 64)) 1 else d

/-- A range can be read and written now: an atomic or a row operation also waits while its page moves (R251, R378). -/
def clearUpdate (w : Who) (a len : Nat) : M Unit := do
  clear! w true a len
  need !(← dev).moveHeld a len

/-! ### Capo (R317, R318) -/

/-- The peak of a partition in bytes per µs (R317). -/
def capoPeak (p : Nat) : Nat := [5120000, 200000, 9830000, 100000].getD p 0

/-- The partition behind an address. -/
def partitionOf (a : Nat) : Nat :=
  match homeOf a with
  | .hbm _ _ => 0
  | .cap _ _ => 1
  | _ => 2

/-- The bytes a class may move in a window (R318). -/
def Dev.capoLimit (d : Dev) (r p c : Nat) : Nat :=
  (d.rd F.rgnCapoAct_ceil r (8 * p + c) * capoPeak p + 255) / 256

/-- The regulator of a class of a partition of a region. -/
def capoKey (r p c : Nat) : Nat := r * 32 + p * 8 + c

/-- Keep of the requests that a regulator holds those that a test selects. -/
def Dev.keepCapo (d : Dev) (p : CapoHold → Bool) : Dev :=
  { d with ms := { d.ms with capoHeld := d.ms.capoHeld.filter p } }

/-- Change the requests that a regulator holds. -/
def Dev.mapCapo (d : Dev) (f : CapoHold → CapoHold) : Dev :=
  { d with ms := { d.ms with capoHeld := d.ms.capoHeld.map f } }

/-- The bytes that a regulator has counted in the running window. -/
def Dev.capoMoved (d : Dev) (key : Nat) : Nat := SMap.get 0 d.ms.capo key

/-- Count bytes at a regulator. -/
def Dev.capoCount (d : Dev) (key n : Nat) : Dev :=
  { d with ms := { d.ms with capo := SMap.set 0 d.ms.capo key (d.capoMoved key + n) } }

/-- A held request is this requester's at this regulator. -/
def CapoHold.isOf (e : CapoHold) (w : Who) (key : Nat) : Bool :=
  e.kind == w.tapKind && e.inst == w.inst && e.q == w.q && e.seq == w.seq && e.key == key

/-- What a held request has issued already. -/
def Dev.capoCredit (d : Dev) (w : Who) (key : Nat) : Nat :=
  match d.ms.capoHeld.find? fun e => e.isOf w key with
  | some e => e.credit
  | none => 0

/-- A requester is held at a regulator with the bytes it has issued so far. -/
def Dev.capoHold (d : Dev) (w : Who) (key credit : Nat) : Dev :=
  let held := d.ms.capoHeld.filter fun e => !e.isOf w key
  { d with ms := { d.ms with capoHeld := ⟨w.tapKind, w.inst, w.q, w.seq, key, credit, 0⟩ :: held } }

/-- A request of `len` bytes passes a regulator: what it has issued in earlier windows is not counted again. -/
def Dev.capoPass (d : Dev) (w : Who) (key len : Nat) : Dev :=
  let left := d.capoCredit w key - len
  let spend (e : CapoHold) : CapoHold := if e.isOf w key then { e with credit := left, age := 2 } else e
  ((d.capoCount key (len - d.capoCredit w key)).mapCapo spend).keepCapo fun e => !e.isOf w key || e.credit != 0

/-- Count a request at a regulator that moves at most `limit` bytes in a window. What does not fit waits for the next
window, after taking what is left of this one; with `yields` it takes nothing (log entry 14). -/
def regulate (w : Who) (key limit : Nat) (yields : Bool) (len : Nat) : M Unit := do
  let d ← dev
  if !yields && decide (d.capoMoved key + (len - d.capoCredit w key) ≤ limit) then modDev fun d => d.capoPass w key len
  else waitFor fun d =>
    let take := if yields then 0 else limit - d.capoMoved key
    (d.capoCount key take).capoHold w key (d.capoCredit w key + take)

/-- A class has moved less than its FLOOR share in the window (R318). -/
def Dev.capoUnder (d : Dev) (r p c : Nat) : Bool :=
  decide (d.capoMoved (capoKey r p c) * 256 < d.rd F.rgnCapoAct_floor r (8 * p + c) * capoPeak p)

/-- A class gives way (R318): it has moved its FLOOR share, and a request of another class that has not, and is below its
ceiling, has been held since the last window. -/
def Dev.capoYields (d : Dev) (r p c : Nat) : Bool :=
  !d.capoUnder r p c && (List.range 5).any fun c' =>
    c' != c && d.capoUnder r p c' && decide (d.capoMoved (capoKey r p c') < d.capoLimit r p c') &&
      d.ms.capoHeld.any fun e => e.key == capoKey r p c' && e.age == 1

/-- A request of a class issues at the regulator of a partition (R317, R318). Ring, table and record accesses that are in no
class of R317 carry class 5 and are not regulated. -/
def capoIssue (w : Who) (r p c len : Nat) : M Unit := if 5 ≤ c then pure () else do
  let d ← dev
  regulate w (capoKey r p c) (d.capoLimit r p c) (d.capoYields r p c) len

/-- The part of a maintenance activity's bytes that falls in the running window: the class's ceiling bounds it, and a
ceiling of 0 holds the activity (R317 to R319; log entry 14). -/
def maintShare (q seq r p bytes : Nat) : M Unit := do
  let d ← dev
  let limit := d.capoLimit r p 4
  if limit = 0 then waitFor fun d => d.capoHold ⟨8, 0, 4, 0, q, seq, 0, 0⟩ (capoKey r p 4) 0
  else modDev fun d => d.capoCount (capoKey r p 4) (min bytes (limit - d.capoMoved (capoKey r p 4)))

/-! ### Traffic counters and taps -/

/-- The region of an access's source, where it has one. -/
def Who.region (w : Who) : Option Nat :=
  if w.tapKind = 1 then some (w.inst / 8)
  else if w.tapKind = 5 ∨ w.tapKind = 7 then some w.inst
  else none

/-- Mesh and bridge bytes of a transfer from one region to another (R304, R339, R549; log entry 15). -/
def carry (src dst len : Nat) : M Unit := do
  if src ≠ dst then
    bump F.rgnMeshBytes_count src len
    bump F.rgnMeshBytes_count dst len
    if dieOfRegion src ≠ dieOfRegion dst then
      bump F.rgnBridgeBytes_count src len
      bump F.brgBytes_count (dieOfRegion src) len

/-- The pieces of a range in its granules of 512 bytes: first byte and length. -/
def granulePieces (a len : Nat) : List (Nat × Nat) :=
  if len = 0 then [] else
  (range' (a / 512) ((a + len - 1) / 512 - a / 512 + 1)).map fun g =>
    (max a (g * 512), min (a + len) (g * 512 + 512) - max a (g * 512))

/-- A pseudo-channel, by its global number, reads (1) or writes (2); a change of direction counts in HBC_TURNS (R305,
R333). -/
def Dev.turnTo (d : Dev) (pc dir : Nat) : Dev :=
  let last := SMap.get 0 d.ms.dirs pc
  let d := if last ≠ 0 ∧ last ≠ dir then d.bump F.hbcTurns_count (pc / 64) 1 else d
  { d with ms := { d.ms with dirs := SMap.set 0 d.ms.dirs pc dir } }

/-- The controller behind an address: its stack, or 16 + its capacity port. -/
def controllerOf (a : Nat) : Option Nat :=
  match homeOf a with
  | .hbm r o => some (hbmPlace r o).1
  | .cap r o => some (16 + (capPlace r o).1)
  | _ => none

/-- The most that a controller in THROTTLE moves in a window: a quarter of its peak, which a stack's rate scales (R305,
R306, R309). -/
def Dev.throttle (d : Dev) (k : Nat) : Option Nat :=
  if k < 16 then
    (if d.rd F.hbcState_ref k = 3 then some ([640000, 512000, 409600].getD (d.rd F.hbcState_rate k) 0) else none)
  else (if k < 32 ∧ d.rd F.ctpState_ref (k - 16) = 3 then some 25000 else none)

/-- Bytes that reach the controllers of a range count in the window, and one in THROTTLE holds those above its limit
(R306, R309); write-backs (`hold` false) count only (log entry 14). -/
def meter (w : Who) (hold : Bool) (a len : Nat) : M Unit := do
  let gs := granulePieces a len
  each (gs.filterMap fun g => controllerOf g.1).eraseDups fun k => do
    let n := ((gs.filter fun g => controllerOf g.1 == some k).map fun g => g.2).foldl (· + ·) 0
    match (← dev).throttle k with
    | some limit => if hold then regulate w (256 + k) limit false n else modDev fun d => d.capoCount (256 + k) n
    | none => modDev fun d => d.capoCount (256 + k) n

/-- Count bytes at the home controller of a range, granule by granule (R301, R330, R333, R337). -/
def homeTraffic (w : Who) (isWrite : Bool) (a len : Nat) : M Unit :=
  each (granulePieces a len) fun g => do
    let lo := g.1
    let n := g.2
    match homeOf lo with
    | .hbm r o =>
      let (st, ch, pc, _) := hbmPlace r o
      if isWrite then bump F.hbcWrBytes_count st n else bump F.hbcRdBytes_count st n
      modDev fun d => d.turnTo (st * 64 + ch * 2 + pc) (if isWrite then 2 else 1)
      tap 3 st (if isWrite then 1 else 0) w.world w.q w.seq n lo
    | .cap r o =>
      let p := (capPlace r o).1
      if isWrite then bump F.ctpWrBytes_count p n else bump F.ctpRdBytes_count p n
      tap 4 p (if isWrite then 1 else 0) w.world w.q w.seq n lo
    | _ => pure ()

/-- The line as the slice holds it. -/
def Dev.line (d : Dev) (n : Nat) : Option Line := SMap.get none d.ms.lines n

/-- Set what a slice holds of a line. -/
def setLine (n : Nat) (l : Option Line) : M Unit := modDev fun d =>
  { d with ms := { d.ms with lines := SMap.set none d.ms.lines n l } }

/-- Every line of a range is held. Scratchpad lives in its slice (R323). -/
def Dev.linesHeld (d : Dev) (a len : Nat) : Bool := partitionOf a == 2 || (linesOf a len).all fun n => (d.line n).isSome

/-- An access passes its source's tap, the owning slice and its regulators: the LLS's, and the tier's when it goes there, which
an update or a read that hits does not (R317). `op` is READ, WRITE, ATOMIC or ROW_OP
(R517). -/
def issue (w : Who) (op a len : Nat) : M Unit := do
  let r := homeRegion a
  capoIssue w r 2 w.cls len
  if partitionOf a != 2 && (op == 1 || !(← dev).linesHeld a len) then capoIssue w r (partitionOf a) w.cls len
  if w.tapKind < 8 && w.tapKind != 5 && (op ≤ 1 || w.tapKind == 7) then tap w.tapKind w.inst op w.world w.q w.seq len a
  each (blocksOf a len) fun b => do
    let lo := max a (b * 65536)
    tap 2 (owningSlice lo) op w.world w.q w.seq (min (a + len) ((b + 1) * 65536) - lo) lo
  match w.region with
  | some src => if op = 0 then carry r src len else carry src r len
  | none => pure ()

/-! ### Lines of the last-level store -/

/-- Write a line back: it stays, clean. -/
def writeBack (n : Nat) : M Unit := do
  match (← dev).line n with
  | some ⟨true, _⟩ =>
    bump F.llsWbBytes_count (owningSlice (n * 64)) 64
    meter ⟨8, 0, 1, 0, 1024, 0, 0, 0⟩ false (n * 64) 64
    homeTraffic ⟨8, 0, 1, 0, 1024, 0, 0, 0⟩ true (n * 64) 64
    setLine n (some ⟨false, 0⟩)
  | _ => pure ()

/-- Discard a line without writing it back: its home's contents are what memory then holds (R463, R483). -/
def discardLine (n : Nat) : M Unit := do
  match (← dev).line n with
  | some ⟨true, h⟩ => pokes false (n * 64) (toBytes 64 h)
  | _ => pure ()
  setLine n none

/-- First byte and length of a pin range (R327). -/
def Dev.pinBase (d : Dev) (r n : Nat) : Nat := d.rd F.llsPinBase_base (64 + r) n * 65536
def Dev.pinBytes (d : Dev) (r n : Nat) : Nat := d.rd F.llsPinLen_blocks (64 + r) n * 65536

/-- The range takes lines: FILLING, PINNED or RELEASING. -/
def Dev.pinLive (d : Dev) (r n : Nat) : Bool :=
  let st := d.rd F.llsPinCtl_state (64 + r) n
  st == 1 || st == 2 || st == 4

/-- A byte lies in a pin range. -/
def Dev.inPin (d : Dev) (r n a : Nat) : Bool :=
  decide (d.pinBase r n ≤ a) && decide (a < d.pinBase r n + d.pinBytes r n)

/-- The line belongs to a pin range, whose lines are never evicted (R323). -/
def Dev.linePinned (d : Dev) (n : Nat) : Bool :=
  let r := homeRegion (n * 64)
  (List.range 16).any fun k => d.pinLive r k && d.inPin r k (n * 64)

/-- Lines that a slice's CACHE ways hold. -/
def Dev.cached (d : Dev) (slice : Nat) : List Nat :=
  (d.ms.lines.map fun e => e.1).filter fun n => owningSlice (n * 64) == slice && !d.linePinned n

/-- A way is free for a line (R323): while a set has as many lines as there are CACHE ways, one of them is evicted, written
back if it is dirty. The lines of the access itself (`keep`) and those that a row operation holds stay. The spec gives
neither the sets nor the pseudo-LRU order: both are free values (log entry 30). -/
def makeRoom (n : Nat) (keep : List Nat) : M Unit := do
  let d ← dev
  let slice := owningSlice (n * 64)
  let ways := d.rd F.llsPart_cache (64 + slice / 8)
  let cached := d.cached slice
  if d.linePinned n || decide (cached.length < ways) then pure ()
  else
    let inSet := cached.filter fun k => Config.llsSet k == Config.llsSet n
    if inSet.length < ways then pure ()
    else
      let out := inSet.filter fun k => !keep.contains k && !d.rowHeld (k * 64) 64
      let i ← freeValue 64
      let victim ← have! out[i % out.length]?
      writeBack victim
      setLine victim none

/-- Bring the lines of a range in, clean and with all four sectors (R323, R325). -/
def bringIn (a len : Nat) : M Unit :=
  if partitionOf a = 2 then pure () else
  each (linesOf a len) fun n => do
    if ((← dev).line n).isNone then
      makeRoom n (linesOf a len)
      bump F.llsFillBytes_count (owningSlice (n * 64)) 64
      setLine n (some ⟨false, 0⟩)

/-- Make the lines of a range dirty, keeping what their homes hold (R325). -/
def dirtyLines (a len : Nat) : M Unit :=
  if partitionOf a = 2 then pure () else
  each (linesOf a len) fun n => do
    match (← dev).line n with
    | some ⟨true, _⟩ => pure ()
    | _ => do
      let bs ← peeks false (n * 64) 64
      setLine n (some ⟨true, fromBytes bs⟩)

/-- Lines that a write covers whole lose their mark (R493). -/
def clearMarks (a len : Nat) : M Unit := modDev fun d =>
  if d.ms.marks.isEmpty then d else
  { d with ms := { d.ms with marks := d.ms.marks.filter fun n =>
    !(decide (a ≤ n * 64) && decide (n * 64 + 64 ≤ a + len)) } }.releaseHeld

/-! ### Accesses -/

/-- Count a hit or a miss of a range in its slice (R338); true for a hit. -/
def countFound (a len : Nat) : M Bool := do
  let found := (← dev).linesHeld a len
  bump (if found then F.llsHits_count else F.llsMisses_count) (owningSlice a)
  return found

/-- A read of a range: a hit is served by its slice, a miss by the home. -/
def countHit (w : Who) (a len : Nat) : M Unit := do
  if ← countFound a len then pure ()
  else
    meter w true a len
    homeTraffic w false a len

/-- A read of local memory after its checks. A gather item fills its lines when LLS_ALLOC allows (R325). -/
def readChecked (w : Who) (gather : Bool) (a len : Nat) : M (List Byte) := do
  clear! w true a len
  issue w 0 a len
  countHit w a len
  if gather then
    let r := homeRegion a
    let allowed ← if partitionOf a = 1 then rdB F.llsAlloc_cap_read (64 + r)
      else if partitionOf a = 0 then rdB F.llsAlloc_hbm_read (64 + r) else pure false
    if allowed then bringIn a len
  peeks false a len

/-- A read of local memory (R457, R321). -/
def readLocal (w : Who) (a len : Nat) : M (List Byte) := do
  localCheck w .rd a len
  readChecked w false a len

/-- A write after its checks: written through to its home (R325); discarded in a window out of service (R312). -/
def writeChecked (w : Who) (a : Nat) (bs : List Byte) : M Unit := do
  clear! w false a bs.length
  need !(← dev).moveHeld a bs.length
  issue w 1 a bs.length
  let _ ← countFound a bs.length
  meter w true a bs.length
  homeTraffic w true a bs.length
  if (← dev).outOfService a then pure () else
    clearMarks a bs.length
    each (linesOf a bs.length) fun n => do
      match (← dev).line n with
      | some ⟨true, h⟩ => do
        -- the bytes written through reach the home as well
        let old := toBytes 64 h
        let new := (List.range 64).map fun i =>
          let x := n * 64 + i
          if a ≤ x ∧ x < a + bs.length then bs.getD (x - a) 0 else old.getD i 0
        setLine n (some ⟨true, fromBytes new⟩)
      | _ => pure ()
    pokes false a bs

/-- A write of local memory. -/
def writeLocal (w : Who) (a : Nat) (bs : List Byte) : M Unit := do
  localCheck w .wr a bs.length
  writeChecked w a bs

/-- An update in the LLS, atomic or row operation (R325, R328): the lines come in and become dirty. `op` is 2 for an
atomic and 3 for a row operation. -/
def updateChecked (op a : Nat) (bs : List Byte) : M Unit := do
  bringIn a bs.length
  dirtyLines a bs.length
  if op = 2 then bump F.llsAtomics_count (owningSlice a) (linesOf a bs.length).length
  if (← dev).outOfService a then pure () else
    clearMarks a bs.length
    pokes false a bs

/-- An atomic on local memory: read, then written whole (R328). -/
def atomicLocal (w : Who) (n : Need) (a len : Nat) (f : List Byte → List Byte) : M (List Byte) := do
  localCheck w n a len
  clearUpdate w a len
  issue w 2 a len
  countHit w a len
  let old ← peeks false a len
  updateChecked 2 a (f old)
  return old

/-- An access source for a structure located by a register of a page (R450, R459). -/
def structWho (tapKind inst cls : Nat) (page q seq : Nat) : M Who := do
  return ⟨tapKind, inst, cls, ← pageWorld page, q, seq, page, 3⟩

end Sys2Proof.Machine
end

