-- ==== Sys2Proof/Machine/Xlat.lean ====
section
/-! DEFINITION. Address translation: the ASID table, the walk of the page tables, the translation buffers, faults and
their batches, and the translation of an access (R340 to R367, R551). -/

namespace Sys2Proof.Machine

/-! ### Requesters -/

/-- The die of a requester (R551). -/
def Requester.die (r : Requester) : Nat :=
  match r with
  | .cluster c => c / 32
  | .stage r => r / 4
  | .copy _ => 0
  | .dispatch => 0

/-- The waiter bit of a requester: CLUSTERS in bits 0 to 63, bytes 40 to 43 of the record above (R359). -/
def Requester.bit (r : Requester) : Nat :=
  match r with
  | .cluster c => 2 ^ c
  | .stage r => 2 ^ (64 + r)
  | .copy e => 2 ^ (64 + 8 + e)
  | .dispatch => 2 ^ (64 + 24)

/-- The bits RD, WR, AT that an access needs of a leaf (R348). -/
def Need.bits (n : Need) : Nat :=
  match n with
  | .rd => 1
  | .wr => 2
  | .at => 7
  | .record => 6

/-! ### Leaves -/

/-- Page size exponent of a size code (R344). -/
def pageBits (size : Nat) : Nat := if size = 0 then 16 else if size = 1 then 25 else 34

/-- The physical base of a leaf's own page. -/
def leafPa (pte : Nat) : Nat := bits pte 16 40 * 65536

/-- The PA that a buffered leaf gives an address (R345, R347): a CONTIG leaf covers its whole group. -/
def Tlb.pa (t : Tlb) (va : Nat) : Nat :=
  let p := pageBits t.size
  let base := leafPa t.leaf
  if bit t.leaf 7 then
    base / 2 ^ (p + 4) * 2 ^ (p + 4) + va % 2 ^ (p + 4)
  else base / 2 ^ p * 2 ^ p + va % 2 ^ p

/-- A buffered leaf covers an address. -/
def Tlb.covers (t : Tlb) (va : Nat) : Bool :=
  let p := if bit t.leaf 7 then pageBits t.size + 4 else pageBits t.size
  va / 2 ^ p == t.va / 2 ^ p

/-! ### The ASID table (R340, R341) -/

/-- Read an ASID entry, as a structure of TRN page 66; none where translation is off. -/
def readAsid (asid : Nat) (q seq : Nat) : M (Bool × Nat × Nat × Nat) := do
  if (← rd F.trnAsid_enable 66) = 0 then fail sMALFORMED rOPERAND
  let w ← structWho 8 0 5 (pg bTRN 66) q seq
  let a := (← rd F.trnAsid_base 66) * 4096 + 32 * asid
  let bs ← readLocal w (a % 2 ^ 46) 32
  let n := fromBytes bs
  return (bit n 0, bits n 1 1, bits n 12 44 * 4096, bits n 64 16)

/-- A buffer's context of an ASID, read when it first needs it (R341); nothing is translated while TRN_ASID.ENABLE is clear
(R340). -/
def asidCtx (buf asid q seq : Nat) : M AsidCtx := do
  if (← rd F.trnAsid_enable 66) = 0 then fail sMALFORMED rOPERAND
  match (← dev).xl.ctxs.find? fun c => c.buf == buf && c.asid == asid with
  | some c => return c
  | none =>
    let (v, w, root, gen) ← readAsid asid q seq
    let c : AsidCtx := ⟨buf, asid, v, w, root, gen⟩
    modDev fun d => { d with xl := { d.xl with ctxs := c :: d.xl.ctxs } }
    return c

/-! ### The walk (R344 to R347) -/

/-- How a walk ends: a leaf with its size code, a fault kind with the level it stopped at and the last entry read, or a
failed access of the walk. -/
inductive WalkEnd where
  | leaf (size pte : Nat)
  | fault (kind level pte : Nat)
  | failed (status reason : Nat)
  deriving DecidableEq, Repr

/-- Index of a level (R344). -/
def vaIndex (va level : Nat) : Nat := bits va (43 - 9 * level) 9

/-- A valid leaf is well formed at its level (R346, R347). -/
def leafOk (va level pte : Nat) : Bool :=
  let p := pageBits (3 - level)
  decide (1 ≤ level) && bits pte 9 3 == 0 && bits pte 12 4 == 0 && bits pte 56 8 == 0 &&
    bits pte 16 (p - 16) == 0 && (!bit pte 7 || bits pte p 4 == bits va p 4)

/-- A valid non-leaf is well formed (R345, R346). -/
def nonLeafOk (level pte : Nat) : Bool :=
  decide (level < 3) && bits pte 2 10 == 0 && bits pte 56 8 == 0

/-- Read a table entry: BAD_TABLE where the table is not local, not populated, or gives an uncorrectable error (R346;
log entry 16). -/
def readEntry (w : Who) (table va level : Nat) : M (Option Nat) := do
  let d ← dev
  let a := table + vaIndex va level * 8
  if table / 2 ^ 46 != d.rd F.glbNode_node 0 || !d.populatedAt (a % 2 ^ 46) then return none
  if d.lineMarked (a % 2 ^ 46 / 64) then return none
  let bs ← readLocal w (a % 2 ^ 46) 8
  return some (fromBytes bs)

/-- The addresses that share an entry of a level. -/
def levelVa (va level : Nat) : Nat := va / 2 ^ (43 - 9 * level)

/-- The next table, where the die's walkers have cached the entry of a level (R352). -/
def Dev.upperFind (d : Dev) (c : AsidCtx) (va level : Nat) : Option Nat :=
  (d.xl.upper.find? fun u => u.die == c.buf - 64 && u.asid == c.asid && u.gen == c.gen && u.level == level &&
    u.va == levelVa va level).map fun u => u.table

/-- Cache a non-leaf entry; a full cache of 4,096 loses one, which the spec does not name: a free value (log entry 17). -/
def Dev.upperFill (d : Dev) (c : AsidCtx) (va level table : Nat) : Dev :=
  let die := c.buf - 64
  let u : Upper := ⟨die, c.asid, c.gen, level, levelVa va level, table⟩
  let mine := d.xl.upper.filter fun x => x.die == die
  if mine.length < 4096 then { d with xl := { d.xl with upper := u :: d.xl.upper } }
  else
    let (i, d) := d.draw mine.length
    let out := mine[i]?
    { d with xl := { d.xl with upper := u :: d.xl.upper.filter (fun x => some x != out) } }

/-- The walk from a table at a level, at most `fuel` entries. -/
def walkFrom (c : AsidCtx) (w : Who) (va : Nat) : Nat → Nat → Nat → Nat → M WalkEnd
  | 0, _, level, last => return .fault 2 level last
  | fuel + 1, table, level, last => do
    match (← dev).upperFind c va level with
    | some next => walkFrom c w va fuel next (level + 1) (next + 1)
    | none =>
      match ← readEntry w table va level with
      | none => return .fault 3 level last
      | some pte =>
        if !bit pte 0 then return .fault 0 level pte
        else if bit pte 1 then
          if leafOk va level pte then return .leaf (3 - level) pte else return .fault 2 level pte
        else if nonLeafOk level pte then
          let next := bits pte 12 44 * 4096
          modDev fun d => d.upperFill c va level next
          walkFrom c w va fuel next (level + 1) pte
        else return .fault 2 level pte

/-- A whole walk under an ASID context (R344, R354). -/
def walkAll (c : AsidCtx) (va q seq : Nat) : M WalkEnd := do
  if !c.valid then return .fault 4 0 0
  let w : Who := ⟨8, 0, 5, c.world, q, seq, pg bTRN (64 + (c.buf - 64)), 0⟩
  walkFrom c w va 4 c.root 0 0

/-! ### Fault batches (R357 to R361, R367) -/

/-- The batcher of a die. -/
def Dev.batcher (d : Dev) (die : Nat) : Batcher := if die = 0 then d.xl.b0 else d.xl.b1

/-- Replace the batcher of a die, and show it in TRN_BATCH_STATE (R382). -/
def Dev.setBatcher (d : Dev) (die : Nat) (b : Batcher) : Dev :=
  let d := if die = 0 then { d with xl := { d.xl with b0 := b } } else { d with xl := { d.xl with b1 := b } }
  let d := d.wr F.trnBatchState_open (64 + die) (match b.opened with | some o => o.recs.length | none => 0)
  let d := d.wr F.trnBatchState_pending (64 + die) b.pending.length
  d.wr F.trnBatchState_waiting (64 + die) (min ((b.later.map fun r => r.merged).foldl (· + ·) 0) 65535)

/-- Every record that is unanswered, wherever its batch stands. -/
def Batcher.unanswered (b : Batcher) : List FaultRec :=
  ((b.opened.toList ++ b.closed.toList ++ b.pending).map fun x => x.recs).flatten.filter fun r => !r.answered

/-- The access waits in a record or unrecorded. -/
def Dev.faultWaits (d : Dev) (w : Waiter) (asid gran : Nat) : Bool :=
  [d.batcher 0, d.batcher 1].any fun b =>
    (b.unanswered ++ b.later).any fun r => r.asid == asid && r.gran == gran && r.waiters.contains w

/-- Add a waiter to a record; in an open batch the record itself notes it (R357). -/
def FaultRec.join (r : FaultRec) (w : Waiter) (need : Nat) (isOpen : Bool) : FaultRec :=
  let r := { r with waiters := r.waiters ++ [w] }
  if isOpen then { r with bits := Nat.lor r.bits w.rq.bit, merged := min (r.merged + 1) (2 ^ 32 - 1),
                          need := Nat.lor r.need need } else r

/-- Join in the records of a batch. -/
def joinIn (b : FaultBatch) (asid gran : Nat) (w : Waiter) (need : Nat) (isOpen : Bool) : FaultBatch :=
  { b with recs := b.recs.map fun r =>
      if r.asid == asid && r.gran == gran && !r.answered then r.join w need isOpen else r }

/-- The batch holds an unanswered record of a key. -/
def FaultBatch.has (b : FaultBatch) (asid gran : Nat) : Bool :=
  b.recs.any fun r => r.asid == asid && r.gran == gran && !r.answered

/-- Close the open batch (R360); it waits until the one before it is written. -/
def Batcher.close (b : Batcher) (et cause : Nat) : Batcher :=
  match b.opened, b.closed with
  | some o, none => { b with opened := none, closed := some { o with closeEt := et, cause := cause } }
  | _, _ => b

/-- A new record enters the open batch, opening one where none is open; while a closed batch waits to be written, the
fault waits unrecorded (R360). Faults that met a waiting one join its record as it enters a batch. -/
def Dev.newRecord (d : Dev) (die : Nat) (r : FaultRec) : Dev :=
  let b := d.batcher die
  if b.closed.isSome && b.opened.isNone then d.setBatcher die { b with later := b.later ++ [r] }
  else
    let o : FaultBatch := match b.opened with
      | some o => o
      | none => ⟨0, d.time.et, 0, 0, []⟩
    let o := { o with recs := o.recs ++ [r] }
    let b := { b with opened := some o }
    let b := if d.rd F.trnBatchCfg_max (64 + die) ≤ o.recs.length then b.close d.time.et 0 else b
    ((d.setBatcher die b).bump F.trnFaults_count (64 + die) 1).bump F.trnJoins_count (64 + die) (r.merged - 1)

/-- Answer a waiter: its next attempt ends with a status. -/
def Dev.answer (d : Dev) (w : Waiter) (asid gran status reason : Nat) : Dev :=
  { d with xl := { d.xl with answers := ⟨w, asid, gran, status, reason⟩ :: d.xl.answers } }

/-! ### Clusters -/

/-- A cluster with no slice. -/
def Cluster.idle : Cluster := ⟨none, [], [], [], 0, 0, 0, none, false, false⟩

/-- A cluster beside its registers. -/
def Dev.cl (d : Dev) (c : Nat) : Cluster := SMap.get Cluster.idle d.clusters c

/-- Replace it, and show the items outstanding. -/
def Dev.setCl (d : Dev) (c : Nat) (k : Cluster) : Dev :=
  { d with clusters := SMap.set Cluster.idle d.clusters c k }.wr F.seqStatus_outstanding c k.items.length

/-- Change it. -/
def modCl (c : Nat) (f : Cluster → Cluster) : M Unit := modDev fun d => d.setCl c (f (d.cl c))

/-- A row item touches a granule. -/
def Item.inGran (i : Item) (gran : Nat) : Bool :=
  i.kind == .row && ((decide (i.va / 65536 ≤ gran) && decide (gran ≤ (i.va + i.len - 1) / 65536)) ||
    (match i.husk with
     | some h => h / 65536 == gran
     | none => false))

/-- A row item of a cluster waits for a fault reply (R107). -/
def Dev.itemFaulted (d : Dev) (c : Nat) (i : Item) : Bool :=
  i.kind == .row && i.got.isNone && i.status == 0 && [d.batcher 0, d.batcher 1].any fun b =>
    (b.unanswered ++ b.later).any fun r => i.inGran r.gran && r.waiters.any fun w => w.rq == .cluster c

/-- Delivery stops at a faulting row once it stands at the head of the stream buffer: counted once (R107, R115).
`handing` says that the buffer hands items out. -/
def Dev.noteHold (d : Dev) (c : Nat) (handing : Bool) : Dev :=
  let k := d.cl c
  match k.items with
  | i :: rest =>
    if handing && !i.held && d.itemFaulted c i then
      (d.setCl c { k with items := { i with held := true } :: rest }).bump F.seqFaultHolds_count c 1
    else d
  | [] => d

/-- A fault of a cluster: a sequencer read that stops is counted at once, a row when delivery reaches it. -/
def Dev.noteFault (d : Dev) (w : Waiter) (gran : Nat) : Dev :=
  match w.rq with
  | .cluster c =>
    if (d.cl c).slice.isSome && (d.cl c).fetching && !((d.cl c).items.any fun i => i.inGran gran) then
      d.bump F.seqFaultHolds_count c 1
    else d.noteHold c !(d.cl c).fetching
  | _ => d

/-- Raise a fault of an access (R357, R358, R364): join, record, or answer FATAL at once where the world of the fault
differs from that of the die's TRN page. `fworld` is the world of the fault and `world` of the access. -/
def Dev.raiseFault (d : Dev) (w : Waiter) (asid gran kind level fworld world need gen pte : Nat) : Dev :=
  let die := w.rq.die
  let d := match w.rq with
    | .cluster c => d.bump F.trnL1Faults_count c 1
    | _ => d
  let d := match w.rq with
    | .cluster c => d.traced 1 c 8 world w.q w.seq 0 (gran * 65536)
    | _ => d
  let key := (w, asid, gran)
  let d := if d.xl.retried.contains key then
      { d.bump F.trnRefaults_count (64 + die) 1 with
        xl := { d.xl with retried := d.xl.retried.filter (fun k => k != key) } } else d
  if fworld ≠ d.pageWorld (pg bTRN (64 + die)) then
    let d := d.bump F.trnFatal_count (64 + die) 1
    let page := pg bTRN (64 + die)
    let d := d.setIrq page (Nat.lor (d.word .pageIrqStat page 0) 2) (d.word .pageIrqEn page 0) false
    let d := d.event 0x501 4 page (payloadOf [(0, gran * 65536), (8, asid), (10, die)])
    d.answer w asid gran sFAULT_FATAL rFAULT
  else
    let b := d.batcher die
    let joined (b' : Batcher) : Dev := ((d.setBatcher die b').bump F.trnJoins_count (64 + die) 1).noteFault w gran
    if b.opened.any fun x => x.has asid gran then
      joined { b with opened := b.opened.map fun x => joinIn x asid gran w need true }
    else if b.closed.any fun x => x.has asid gran then
      joined { b with closed := b.closed.map fun x => joinIn x asid gran w need false }
    else if b.pending.any fun x => x.has asid gran then
      joined { b with pending := b.pending.map fun x => if x.has asid gran then joinIn x asid gran w need false else x }
    else if b.later.any fun r => r.asid == asid && r.gran == gran then
      (d.setBatcher die { b with later := b.later.map (fun r =>
        if r.asid == asid && r.gran == gran then r.join w need true else r) }).noteFault w gran
    else (d.newRecord die ⟨gran, asid, kind, level, world, need, gen, d.time.et, pte, w.rq.bit, 1, [w], false⟩).noteFault
      w gran

/-- Retire the pending batches whose records are all answered or without a waiter (R367). -/
def Dev.retireBatches (d : Dev) (die : Nat) : Dev :=
  let b := d.batcher die
  let live := b.pending.filter fun x => x.recs.any fun r => !r.answered && !r.waiters.isEmpty
  d.setBatcher die { b with pending := live }

/-- Waiters leave their records, walks and answers (R79, R81, R367): those a test selects. -/
def Dev.dropWaiters (d : Dev) (p : Waiter → Bool) : Dev :=
  let clean (r : FaultRec) : FaultRec := { r with waiters := r.waiters.filter fun w => !p w }
  let cleanB (x : FaultBatch) : FaultBatch := { x with recs := x.recs.map clean }
  let one (b : Batcher) : Batcher :=
    { b with opened := b.opened.map cleanB, closed := b.closed.map cleanB, pending := b.pending.map cleanB,
             later := (b.later.map clean).filter (fun r => !r.waiters.isEmpty) }
  let d := (d.setBatcher 0 (one (d.batcher 0))).setBatcher 1 (one (d.batcher 1))
  let walks : List Walk := d.xl.walks.map fun k => { k with reqs := k.reqs.filter (fun r => !p r.w) }
  let d : Dev := { d with xl := { d.xl with
    answers := d.xl.answers.filter (fun a => !p a.w),
    retried := d.xl.retried.filter (fun k => !p k.1),
    walks := walks } }
  (d.retireBatches 0).retireBatches 1

/-! ### Buffers (R352, R353) -/

/-- The entry of a buffer that translates an address under its current generation (R353). -/
def Dev.tlbFind (d : Dev) (buf asid va : Nat) : Option Tlb :=
  match d.xl.ctxs.find? fun c => c.buf == buf && c.asid == asid with
  | none => none
  | some c => d.xl.tlbs.find? fun t => t.buf == buf && t.asid == asid && t.gen == c.gen && t.covers va

/-- Entries of a set of a buffer: an L1 is one set of 512, an L2 has 8,192 sets of 16 (R352). -/
def bufWays (buf : Nat) : Nat := if buf < 64 then 512 else 16

/-- The set of an entry: an L1 is fully associative (R352). -/
def Tlb.set (t : Tlb) : Nat := if t.buf < 64 then 0 else Config.l2Set t.asid (t.va / 65536) t.size

/-- Put an entry into a buffer. A full L1, or set of an L2, loses an entry, which the spec does not name: a free value (log
entry 17). -/
def Dev.tlbFill (d : Dev) (t : Tlb) : Dev :=
  let keep := d.xl.tlbs.filter fun x => !(x.buf == t.buf && x.asid == t.asid && x.gen == t.gen && x.va == t.va && x.size == t.size)
  let mine := keep.filter fun x => x.buf == t.buf
  let inSet := if mine.length < bufWays t.buf then [] else mine.filter fun x => x.set == t.set
  if inSet.length < bufWays t.buf then { d with xl := { d.xl with tlbs := t :: keep } }
  else
    let (i, d) := d.draw inSet.length
    let out := inSet[i]?
    { d with xl := { d.xl with tlbs := t :: keep.filter (fun x => some x != out) } }

/-- The context of a buffer after it has been read by another of the same access. -/
def Dev.ctxFill (d : Dev) (c : AsidCtx) : Dev :=
  if d.xl.ctxs.any fun x => x.buf == c.buf && x.asid == c.asid then d
  else { d with xl := { d.xl with ctxs := c :: d.xl.ctxs } }

/-- A walk starts or is joined (R352): 64 walkers a die. -/
def Dev.startWalk (d : Dev) (r : WalkReq) (asid gran : Nat) : Dev :=
  let die := r.w.rq.die
  let missed (d : Dev) : Dev := match r.w.rq with
    | .cluster c => d.bump F.trnL1Misses_count c 1
    | _ => d
  if d.xl.walks.any fun k => k.die == die && k.asid == asid && k.gran == gran then
    { missed d with xl := { d.xl with walks := d.xl.walks.map fun k =>
        if k.die == die && k.asid == asid && k.gran == gran then { k with reqs := k.reqs ++ [r] } else k } }
  else if (d.xl.walks.filter fun k => k.die == die).length < 64 then
    { (missed d).bump F.trnL2Misses_count (64 + die) 1 with
      xl := { d.xl with walks := d.xl.walks ++ [⟨die, asid, gran, [r]⟩] } }
  else d

/-- The access already waits on a walk. -/
def Dev.walkWaits (d : Dev) (w : Waiter) (asid gran : Nat) : Bool :=
  d.xl.walks.any fun k => k.asid == asid && k.gran == gran && k.reqs.any fun r => r.w == w

/-! ### Translation of an access (R355, R356) -/

/-- One translated piece of an access: its physical address (host bus address for a SHARED leaf), length, and leaf with
its size code. -/
structure Seg where
  pa : Nat
  va : Nat
  len : Nat
  leaf : Nat
  size : Nat
  deriving DecidableEq, Repr

/-- The piece is reached through a SHARED leaf (R350). -/
def Seg.shared (s : Seg) : Bool := bit s.leaf 6

/-- What one page of an access comes to: a piece, or something to register before waiting (none: it waits already). -/
inductive PageRes where
  | ok (s : Seg)
  | pend (reg : Option (Dev → Dev))

/-- The pieces of a range by 64 KiB granule. -/
def granules (va len : Nat) : List (Nat × Nat) :=
  (blocksOf va len).map fun b =>
    let lo := max va (b * 65536)
    (lo, min (va + len) (b * 65536 + 65536) - lo)

/-- Translate one granule of an access. -/
def xlatePage (w : Waiter) (world asid : Nat) (need : Need) (va len : Nat) : M PageRes := do
  let die := w.rq.die
  let gran := va / 65536
  let d ← dev
  match d.xl.answers.find? fun a => a.w == w && a.asid == asid && a.gran == gran with
  | some a =>
    modDev fun d => { d with xl := { d.xl with answers := d.xl.answers.filter (fun x => !(x == a)) } }
    fail a.status a.reason
  | none => pure ()
  if d.faultWaits w asid gran || d.walkWaits w asid gran then return .pend none
  let l2 ← asidCtx (64 + die) asid w.q w.seq
  let ctx ← match w.rq with
    | .cluster c => asidCtx c asid w.q w.seq
    | _ => pure l2
  if ctx.valid && ctx.world != world then fail sWORLD_VIOLATION rWORLD
  if !ctx.valid then
    return .pend (some fun d => d.raiseFault w asid gran 4 0 world world need.bits ctx.gen 0)
  let d ← dev
  let l1hit := match w.rq with
    | .cluster c => d.tlbFind c asid va
    | _ => none
  let hit := match l1hit with
    | some t => some t
    | none => d.tlbFind (64 + die) asid va
  match hit with
  | none => return .pend (some fun d => d.startWalk ⟨w, world, need.bits⟩ asid gran)
  | some t =>
    match w.rq, l1hit with
    | .cluster c, some _ => bump F.trnL1Hits_count c
    | .cluster c, none =>
      bump F.trnL1Misses_count c
      bump F.trnL2Hits_count (64 + die)
      modDev fun d => d.tlbFill { t with buf := c }
    | _, _ => bump F.trnL2Hits_count (64 + die)
    if bits t.leaf 2 1 != world then fail sWORLD_VIOLATION rWORLD
    if Nat.land (bits t.leaf 3 3) need.bits != need.bits then
      return .pend (some fun d => d.raiseFault w asid gran 1 (3 - t.size) ctx.world world need.bits ctx.gen t.leaf)
    modDev fun d => { d with xl := { d.xl with retried := d.xl.retried.filter (fun k => k != (w, asid, gran)) } }
    return .ok ⟨t.pa va, va, len, t.leaf, t.size⟩

/-- All pieces of a range, or what it has to wait for. -/
def xlateAll (w : Waiter) (world asid : Nat) (need : Need) :
    List (Nat × Nat) → M (List Seg × List (Dev → Dev) × Bool)
  | [] => return ([], [], false)
  | (va, len) :: rest => do
    let r ← xlatePage w world asid need va len
    let (segs, regs, pend) ← xlateAll w world asid need rest
    match r with
    | .ok s => return (s :: segs, regs, pend)
    | .pend (some f) => return (segs, f :: regs, true)
    | .pend none => return (segs, regs, true)

/-- The checks on a translated piece (R350, R351, R299). -/
def segCheck (w : Waiter) (need : Need) (s : Seg) : M Unit := do
  let d ← dev
  if s.shared then
    match w.rq with
    | .copy _ => pure ()
    | _ => failBounds
  else if s.pa / 2 ^ 46 != d.rd F.glbNode_node 0 then
    match need with
    | .at => failBounds
    | .record => failBounds
    | _ => pure ()
  else if !d.populatedAll (s.pa % 2 ^ 46) s.len then failBounds

/-- Translate a whole access: every page translates before any of it is used (R356); otherwise it waits for what its
pages register. An address range beyond 52 bits is out of bounds. -/
def translate (w : Waiter) (world asid : Nat) (need : Need) (va len : Nat) : M (List Seg) := do
  if len = 0 then return []
  if 2 ^ 52 < va + len then failBounds
  let (segs, regs, pend) ← xlateAll w world asid need (granules va len)
  if pend then
    if regs.isEmpty then skip else waitFor fun d => regs.foldl (fun d f => f d) d
  each segs fun s => segCheck w need s
  return segs

/-- A piece lies in local memory of this package (R297). -/
def Seg.local' (s : Seg) (node : Nat) : Bool := !s.shared && s.pa / 2 ^ 46 == node

end Sys2Proof.Machine
end

