-- ==== Sys2Proof/Machine/Queues.lean ====
section
/-! DEFINITION. Queues and descriptors: rings (R50, R51), readiness and grants (R55, R56), dispatch with its checks
(R58 to R60), the end of a descriptor's work and the stop of its queue (R69, R70), and completion records (R63 to R68). -/

namespace Sys2Proof.Machine

/-! ### Page states (R530) -/

/-- PAGE_STATE of a page. -/
def Dev.pageSt (d : Dev) (page : Nat) : Nat := d.rd F.pageState_state page

/-- A block is in service (R530). -/
def Dev.inService (d : Dev) (page : Nat) : Bool := d.pageSt page == 2

/-- The doorbell page of a queue (R47). -/
def queuePage (q : Nat) : Nat := pg bQUE (1 + q / 16)

/-- The world of a queue (R49). -/
def Dev.queueWorld (d : Dev) (q : Nat) : Nat := d.pageWorld (queuePage q)

/-- The ASID of a queue (R49). -/
def Dev.queueAsid (d : Dev) (q : Nat) : Nat := d.qrd F.queRingCfg_asid q

/-- Queue states (R86). -/
def qDISABLED : Nat := 0
def qRUNNING : Nat := 1
def qSTOPPED : Nat := 2
def qDRAINING : Nat := 3
def qLOST : Nat := 4

/-- Free-running indices (R51). -/
def wrap32 (n : Nat) : Nat := n % 2 ^ 32

/-- (a − b) mod 2^32. -/
def diff32 (a b : Nat) : Nat := (a + 2 ^ 32 - b % 2 ^ 32) % 2 ^ 32

/-- Entries of a ring with a SIZE field (R85). -/
def ringEntries (size : Nat) : Nat := 2 ^ (size + 6)

/-! ### Hidden queue state -/

/-- What a queue holds beside its registers. -/
def Dev.qh (d : Dev) (q : Nat) : QueueHidden := SMap.get QueueHidden.idle d.queues q

/-- Set it. -/
def Dev.setQh (d : Dev) (q : Nat) (h : QueueHidden) : Dev :=
  { d with queues := SMap.set QueueHidden.idle d.queues q h }.wr F.queState_marks (1 + q / 16) h.marks.length (q % 16)

/-- QUE_STOPPED shows a queue that is STOPPED or LOST, where its doorbell page and QUE page 0 are in one world (R544). -/
def Dev.showsStopped (d : Dev) (q : Nat) : Bool :=
  let st := d.qrd F.queState_state q
  (st == qSTOPPED || st == qLOST) && d.queueWorld q == d.pageWorld (pg bQUE 0)

/-- The queue's state. -/
def Dev.setQState (d : Dev) (q st : Nat) : Dev :=
  d.wr F.queState_state (1 + q / 16) st (q % 16)

/-! ### Dispatched descriptors -/

/-- The descriptors of a queue that are dispatched and not completed, oldest first. -/
def Dev.descsOf (d : Dev) (q : Nat) : List Desc := d.descs.filter fun x => x.q == q

/-- Show the numbers in flight (R85, R544). -/
def Dev.syncInflight (d : Dev) (q : Nat) : Dev :=
  let d := d.wr F.queState_inflight (1 + q / 16) (d.descsOf q).length (q % 16)
  d.wr F.queInflight_count 0 d.descs.length

/-- A descriptor by queue and sequence. -/
def Dev.desc (d : Dev) (q seq : Nat) : Option Desc := d.descs.find? fun x => x.q == q && x.seq == seq

/-- The descriptor that a command names; without it the event cannot occur. -/
def getDesc (q seq : Nat) : M Desc := do have! ((← dev).desc q seq)

/-- Replace a descriptor. -/
def Dev.putDesc (d : Dev) (x : Desc) : Dev :=
  { d with descs := d.descs.map fun y => if y.q == x.q && y.seq == x.seq then x else y }

/-- Replace a descriptor. -/
def putDesc (x : Desc) : M Unit := modDev fun d => d.putDesc x

/-- Change a descriptor, if it is still there. -/
def modDesc (q seq : Nat) (f : Desc → Desc) : M Unit := do
  match (← dev).desc q seq with
  | some x => putDesc (f x)
  | none => pure ()

/-- Flags of R12 as bits of record byte 3 (R65). -/
def fACC_SAT : Nat := 1
def fNONFINITE : Nat := 2
def fEMPTY_BAG : Nat := 4
def fSCALE_UNDER : Nat := 8
def fSCALE_OVER : Nat := 16
def fSTALE_SEEN : Nat := 32
def fREQUANT_ERR_HIGH : Nat := 64
def fREMOTE_LATE : Nat := 128

/-- Add flags. -/
def Desc.flag (x : Desc) (f : Nat) : Desc := { x with flags := Nat.lor x.flags f }

/-- Add rows and bytes, and move the last point of coherence (R45). -/
def Desc.count (x : Desc) (rows bytes coh : Nat) : Desc :=
  { x with rows := x.rows + rows, bytes := x.bytes + bytes, coh := max x.coh coh }

/-- The rank of a status (R69): lower stands higher. -/
def statusRank (st : Nat) : Nat :=
  ([11, 5, 6, 10, 9, 8, 7, 4, 2, 12, 13, 3, 14, 1, 0].idxOf st)

/-- A status that stops its queue (R70). -/
def stopping (st : Nat) : Bool := st == 11 || st == 5 || st == 6 || st == 10 || st == 4

/-- A field of the descriptor's bytes, by byte offset and bits (R58). -/
def Desc.field (x : Desc) (byte lo len : Nat) : Nat := bits x.raw (8 * byte + lo) len

/-- Bytes of the descriptor as a number. -/
def Desc.bytesAt (x : Desc) (byte n : Nat) : Nat := bits x.raw (8 * byte) (8 * n)

/-- OPCODE, LENGTH and the header flags (R58). -/
def Desc.opcode (x : Desc) : Nat := x.field 0 0 8
def Desc.relaxed (x : Desc) : Bool := x.field 1 0 1 == 1
def Desc.flush (x : Desc) : Bool := x.field 1 1 1 == 1
def Desc.irq (x : Desc) : Bool := x.field 1 2 1 == 1
def Desc.long (x : Desc) : Bool := x.field 1 3 1 == 1
def Desc.inlineLen (x : Desc) : Nat := x.field 2 0 8
def Desc.length (x : Desc) : Nat := x.bytesAt 8 8

/-- The waiter of a descriptor under a requester. -/
def Desc.waiter (x : Desc) (r : Requester) : Waiter := ⟨r, x.q, x.seq⟩

/-! ### The end of a descriptor's work -/

/-- The stop of a queue by a status (R70). -/
def Dev.stopQueue (d : Dev) (x : Desc) (st reason : Nat) : Dev :=
  if stopping st then
    let cur := d.qrd F.queState_state x.q
    if cur = qSTOPPED then d
    else
      let d := if cur = qRUNNING then (d.setQState x.q qSTOPPED).bump F.queStops_count 0 1 else d
      let d := d.wr F.queErr_status (1 + x.q / 16) st (x.q % 16)
      let d := d.wr F.queErr_reason (1 + x.q / 16) reason (x.q % 16)
      d.wr F.queErrSeq_seq (1 + x.q / 16) x.seq (x.q % 16)
  else d

/-- The condition that stands highest (R69). -/
def Desc.met (x : Desc) (st reason : Nat) : Desc :=
  if statusRank st < statusRank x.status then { x with status := st, reason := reason } else x

/-- A condition met by a descriptor that still has work to wind up. -/
def meet (q seq st reason : Nat) : M Unit := modDesc q seq fun x => x.met st reason

/-- A descriptor's work has ended: OK becomes OK_FLAGGED with a flag set (R11), its queue stops if its status does so,
and nothing waits for it any more. Its record is written later. -/
def Dev.endDesc (d : Dev) (q seq : Nat) : Dev :=
  match d.desc q seq with
  | none => d
  | some x =>
    if x.ended then d
    else
      let st := if x.status = sOK ∧ x.flags ≠ 0 then sOK_FLAGGED else x.status
      let x := { x with ended := true, status := st }
      let d := d.putDesc x
      let d := (d.dropWaiters fun w => w.q == q && w.seq == seq).keepHeld fun e => !(e.2.2.1 == q && e.2.2.2.1 == seq)
      let d := d.keepCapo fun e => !(e.q == q && e.seq == seq)
      d.stopQueue x st x.reason

/-- End a descriptor's work. -/
def endDesc (q seq : Nat) : M Unit := modDev fun d => d.endDesc q seq

/-- End a descriptor's work with one more condition. -/
def endWith (q seq st reason : Nat) : M Unit := do
  meet q seq st reason
  endDesc q seq

/-- Run part of a descriptor's work; if it fails, the descriptor ends with that status. -/
def orEnd (q seq : Nat) (m : M Unit) : M Unit :=
  tryCatch m fun e =>
    match e with
    | .fail st rs => endWith q seq st rs
    | e => throw e

/-- A failure of part of some work as a value, keeping what it recorded. -/
def caught {α : Type} (m : M α) : M (Except (Nat × Nat) α) :=
  tryCatch (do return .ok (← m)) fun e =>
    match e with
    | .fail st rs => return .error (st, rs)
    | e => throw e

/-! ### Rings -/

/-- The host link carries host-bound traffic: UP, with the function in D0 (R419, R436). -/
def hostReady : M Bool := do return (← rd F.hlkState_state 0) == 1 && !(← dev).d3hot

/-- The dispatcher as an access source for a ring of a queue's page (R450, R459). -/
def ringWho (q seq : Nat) : M Who := do
  return ⟨8, 0, 5, (← dev).queueWorld q, q, seq, queuePage q, 3⟩

/-- The dispatcher as it reads a slot: it serves no descriptor yet, so that no trace record of one precedes its DISPATCH
(R520). -/
def slotWho (q idx : Nat) : M Who := do
  return ⟨8, q, 5, (← dev).queueWorld q, 1024, idx, queuePage q, 3⟩

/-- Read bytes of a ring; a host ring waits for the link (R50). -/
def readRing (q seq : Nat) (host : Bool) (a len : Nat) : M (List Byte) := do
  if host then
    need (← hostReady)
    bump F.hlkRxBytes_count 0 len
    peeks true a len
  else readLocal (← slotWho q seq) (a % 2 ^ 46) len

/-- Write bytes of a ring. -/
def writeRing (q seq : Nat) (host : Bool) (a : Nat) (bs : List Byte) : M Unit := do
  if host then
    need (← hostReady)
    bump F.hlkTxBytes_count 0 bs.length
    hostPut none false a bs
  else writeLocal (← ringWho q seq) (a % 2 ^ 46) bs

/-- The slots that the descriptor at HEAD takes, read from its first slot. -/
def slotsOf (raw : Nat) : Nat := if bit raw 11 then 4 else 1

/-- The address of the ring slot of an index (R51). -/
def Dev.slotAddr (d : Dev) (q idx : Nat) : Nat :=
  d.qrd F.queRingBase_base q * 4096 + idx % ringEntries (d.qrd F.queRingCfg_size q) * 64

/-- Read one descriptor slot. -/
def readSlot (q idx : Nat) : M Nat := do
  let d ← dev
  let bs ← readRing q idx (d.qrd F.queRingCfg_loc q == 1) (d.slotAddr q idx) 64
  return fromBytes bs

/-- Read the whole descriptor at an index, each slot once (R53): one slot, or four consecutive slots, which may wrap
(R51). -/
def readDesc (q idx : Nat) : M Nat := do
  let a ← readSlot q idx
  if bit a 11 then
    let b ← readSlot q (wrap32 (idx + 1))
    let c ← readSlot q (wrap32 (idx + 2))
    let e ← readSlot q (wrap32 (idx + 3))
    return a + b * 2 ^ 512 + c * 2 ^ 1024 + e * 2 ^ 1536
  else return a

/-! ### Readiness and grants -/

/-- A FENCE or AFTER_PRIOR STAMP of the queue is still waiting (R56, R62, R64). -/
def Desc.holds (x : Desc) : Bool :=
  !x.ended && (x.opcode == 1 || (x.opcode == 2 && x.field 24 0 1 == 1))

/-- The slot of an index can be read now: the host link carries its ring, or nothing keeps the access waiting. -/
def Dev.slotOpen (d : Dev) (q idx : Nat) : Bool :=
  if d.qrd F.queRingCfg_loc q == 1 then d.rd F.hlkState_state 0 == 1 && !d.d3hot
  else !d.mustWait true (d.slotAddr q idx % 2 ^ 46) 64

/-- Whether the slot of an index holds the first slot of a 256-byte descriptor (R58). -/
def Dev.longAt (d : Dev) (i : Image) (q idx : Nat) : Bool :=
  let a := d.slotAddr q idx
  (if d.qrd F.queRingCfg_loc q == 1 then readByte i.host (a + 1) else readByte i.mem (a % 2 ^ 46 + 1)).toNat.testBit 3

/-- A whole descriptor lies between HEAD and TAIL, and its slots can be read (R52, R56). -/
def Dev.wholeAt (d : Dev) (i : Image) (q : Nat) : Bool :=
  let head := d.qrd F.queHead_head q
  let n := if d.longAt i q head then 4 else 1
  decide (n ≤ diff32 (d.qrd F.queTail_tail q) head) && (List.range n).all fun k => d.slotOpen q (wrap32 (head + k))

/-- A queue is ready (R56). -/
def Dev.readyQueue (d : Dev) (i : Image) (q : Nat) : Bool :=
  let mine := d.descsOf q
  d.qrd F.queState_state q == qRUNNING &&
  d.inService (queuePage q) && d.pow.phase == 0 &&
  (decide (d.rd F.pwrState_state 0 < 3)) &&
  d.wholeAt i q &&
  decide (mine.length < 32) && decide (d.descs.length < 4096) &&
  decide (diff32 (d.qrd F.queCplTail_index q + mine.length) (d.qrd F.queCplHead_index q)
    < ringEntries (d.qrd F.queCplCfg_size q)) &&
  !mine.any Desc.holds

/-- Enabled queues that are ready. -/
def Dev.readyQueues (d : Dev) (i : Image) : List Nat := (List.range 1024).filter (d.readyQueue i)

/-- Those of a class. -/
def Dev.readyIn (d : Dev) (i : Image) (cls : Nat) : List Nat :=
  (d.readyQueues i).filter fun q => d.qrd F.queRingCfg_class q == cls

/-- The weight of a class (R88). -/
def Dev.weight (d : Dev) (cls : Nat) : Nat := bits (d.rd F.queClassWeight_weight 0) (4 * cls) 4

/-- The grants left to a class in the running round; a new round gives every class its weight. -/
def Dev.grantsLeft (d : Dev) (cls : Nat) : Nat := SMap.get 0 d.arb.left cls

/-- The class that the next grant goes to (R55): 7 first; then a class of 0 to 6 with grants left, the lowest such
class; a new round where none has any; a class of weight 0 only where no other class has a queue ready (log entry 8). -/
def Dev.grantClass (d : Dev) (i : Image) : Option Nat :=
  let classes := (d.readyQueues i).map fun q => d.qrd F.queRingCfg_class q
  if classes.contains 7 then some 7
  else
    let ready := (List.range 7).filter fun c => classes.contains c
    let weighted := ready.filter fun c => d.weight c != 0
    match weighted.find? fun c => d.grantsLeft c != 0 with
    | some c => some c
    | none => match weighted.head? with
      | some c => some c
      | none => ready.head?

/-- The queue of a class that the next grant goes to: the next ready one after the queue served last (R55). -/
def Dev.grantQueue (d : Dev) (i : Image) (cls : Nat) : Option Nat :=
  let ready := d.readyIn i cls
  let last := SMap.get 1023 d.arb.last cls
  match ready.find? fun q => decide (last < q) with
  | some q => some q
  | none => ready.head?

/-- The arbiter after a grant to a queue of a class. -/
def Dev.granted (d : Dev) (cls q : Nat) : Dev :=
  let a : Arbiter := { d.arb with last := SMap.set 1023 d.arb.last cls q }
  if cls = 7 then { d with arb := a }
  else if d.grantsLeft cls ≠ 0 then { d with arb := { a with left := SMap.set 0 a.left cls (d.grantsLeft cls - 1) } }
  else if d.weight cls = 0 then { d with arb := a }
  else
    let fresh := (List.range 7).foldl (fun (m : SMap Nat) c => SMap.set 0 m c (d.weight c)) []
    { d with arb := { a with left := SMap.set 0 fresh cls (d.weight cls - 1) } }

/-! ### Dispatch -/

/-- A check of R60 or of an opcode: the first to fail gives MALFORMED with its reason. -/
def malformedIf (b : Bool) (reason : Nat) : M Unit := if b then fail sMALFORMED reason else pure ()

/-- Some bit of the given fields (byte, lowest bit, length) is set. -/
def Desc.anySet (x : Desc) (fs : List (Nat × Nat × Nat)) : Bool :=
  fs.any fun f => x.field f.1 f.2.1 f.2.2 != 0

/-- Checks 2 to 4 of R60 for an opcode: its reserved fields, its format codes with the codes they may name, and LONG
with INLINE_LEN. -/
def Desc.formChecks (x : Desc) (reserved : List (Nat × Nat × Nat)) (formats : List Nat) (longOk : Bool) : M Unit := do
  malformedIf (x.field 1 4 4 != 0 || x.bytesAt 3 1 != 0 || x.bytesAt 6 2 != 0 || x.anySet reserved) rRESERVED_SET
  malformedIf (formats.any fun c => decide (9 < c)) rFORMAT
  malformedIf ((x.long && !longOk) || (!x.long && x.inlineLen != 0) || decide (192 < x.inlineLen)) rLONG

/-- The time limit of a descriptor in µs (R81). -/
def Dev.limitOf (d : Dev) (q raw : Nat) : Nat :=
  let l := bits raw 32 16
  if l = 0 then d.qrd F.queLimit_limit q else l * 16

/-- The sequence lies in a pending marked range (R76). -/
def inMark (seq : Nat) (m : Nat × Nat) : Bool := decide (diff32 seq m.1 ≤ diff32 m.2 m.1)

/-- Marked ranges that HEAD has passed are consumed (R76). -/
def Dev.consumeMarks (d : Dev) (q head : Nat) : Dev :=
  let h := d.qh q
  let live := h.marks.filter fun m => !(decide (0 < diff32 head m.2) && decide (diff32 head m.2 < 2 ^ 31))
  if live.length = h.marks.length then d else d.setQh q { h with marks := live }

/-- A queue is ready, and the next grant is its own (R55, R56). -/
def Dev.turn (d : Dev) (i : Image) (q : Nat) : Bool :=
  d.readyQueue i q && d.grantClass i == some (d.qrd F.queRingCfg_class q) &&
  d.grantQueue i (d.qrd F.queRingCfg_class q) == some q

/-- The descriptor that a dispatch lists: its sequence is HEAD (R53), and it has still to start. -/
def Dev.fresh (d : Dev) (q raw : Nat) : Desc :=
  { q := q, seq := d.qrd F.queHead_head q, raw := raw, issued := d.time.et, limit := d.limitOf q raw, status := sOK,
    reason := rNONE, flags := 0, rows := 0, bytes := 0, coh := 0, ended := false, stopping := false, tabs := [],
    work := .start }

/-- Dispatch the descriptor at the head of a queue whose opcode and form are those of the command: the queue is ready
and holds the grant (R55, R56); HEAD passes the descriptor (R53); a marked one is cancelled (R76), and so ends one whose
ring fails its check; otherwise `body` makes its checks and starts its work. -/
def dispatch (q : Nat) (sel : Nat → Bool) (body : Desc → M Unit) : M Unit := do
  let d ← dev
  need (d.turn (← read) q)
  let head := d.qrd F.queHead_head q
  let got ← caught (readDesc q head)
  let raw := match got with
    | .ok raw => raw
    | .error _ => 0
  need ((match got with
    | .ok _ => false
    | .error _ => true) || sel raw)
  let next := wrap32 (head + slotsOf raw)
  modDev fun e => e.granted (d.qrd F.queRingCfg_class q) q
  qwr F.queHead_head q next
  modDev fun e => ({ e with descs := e.descs ++ [d.fresh q raw] }.syncInflight q).consumeMarks q next
  bump F.queDispatched_count 0
  tap 0 0 4 (d.queueWorld q) q head 0 0
  match got with
  | .error (st, rs) => endWith q head st rs
  | .ok _ =>
    if (d.qh q).marks.any (inMark head) then endWith q head sCANCELLED rNONE
    else orEnd q head (body (d.fresh q raw))

/-- A descriptor whose count is zero completes OK when the queue retires it, once its own checks have passed (R71): it
has no point of coherence, and its record is stamped when it is written (R44). -/
def zeroCount (x : Desc) : M Unit := endDesc x.q x.seq

/-! ### Accumulator tile numbers (R26) and descriptor waits -/

/-- The opcode of a descriptor's bytes. -/
def opcodeIs (op : Nat) (raw : Nat) : Bool := raw % 256 == op

end Sys2Proof.Machine
end

