-- ==== Sys2Proof/Machine/Formats.lean ====
section
/-! DEFINITION. Table descriptors and shard maps (R169 to R171, R230, R263 to R269), element layouts (R164), husk fields
(R174, R226), codebooks and scale registers (R172, R173, R176), conversions (R127, R128, R184), and the encoding of a row
(R185, R186). -/

namespace Sys2Proof.Machine

/-! ### Formats (R9, R164, R165) -/

def fFP32 : Nat := 0
def fBF16 : Nat := 1
def fFP16 : Nat := 2
def fE4M3 : Nat := 3
def fE5M2 : Nat := 4
def fINT8 : Nat := 5
def fINT4 : Nat := 6
def fCB8 : Nat := 7
def fCB4 : Nat := 8
def fUINT8 : Nat := 9

/-- Bits of an element. -/
def elemBits (fmt : Nat) : Nat := [32, 16, 16, 8, 8, 8, 4, 8, 4, 8].getD fmt 8

/-- The floating-point format of a code. -/
def fpOf (fmt : Nat) : Fp :=
  if fmt = fFP32 then fp32 else if fmt = fBF16 then bf16 else if fmt = fFP16 then fp16
  else if fmt = fE4M3 then fpE4M3 else fpE5M2

/-- Element `i` of a payload (R164). -/
def elemAt (fmt : Nat) (p : List Byte) (i : Nat) : Nat :=
  let b := elemBits fmt
  if b = 4 then bits (p.getD (i / 2) 0).toNat (4 * (i % 2)) 4
  else fromBytes ((p.drop (i * (b / 8))).take (b / 8))

/-- The payload bytes of a list of element codes (R164). -/
def packElems (fmt : Nat) (cs : List Nat) : List Byte :=
  let b := elemBits fmt
  if b = 4 then
    (List.range ((cs.length + 1) / 2)).map fun j =>
      BitVec.ofNat 8 (cs.getD (2 * j) 0 % 16 + cs.getD (2 * j + 1) 0 % 16 * 16)
  else (cs.map fun c => toBytes (b / 8) c).flatten

/-! ### Table descriptor fields (R170) -/

def Table.field (t : Table) (byte lo len : Nat) : Nat := bits t.raw (8 * byte + lo) len
def Table.base (t : Table) : Nat := t.field 0 0 52
def Table.rows (t : Table) : Nat := t.field 8 0 41
def Table.huskBase (t : Table) : Nat := t.field 16 0 52
def Table.payload (t : Table) : Nat := (t.field 24 0 10 + 1) * 16
def Table.husk (t : Table) : Nat := t.field 24 10 2
def Table.format (t : Table) : Nat := t.field 24 12 4
def Table.slot (t : Table) : Nat := t.field 26 0 10
def Table.rowmul (t : Table) : Bool := t.field 26 10 1 == 1
def Table.fp8Sat (t : Table) : Bool := t.field 26 11 1 == 1
def Table.reqFit (t : Table) : Bool := t.field 26 12 1 == 1
def Table.scaleBase (t : Table) : Nat := t.field 28 0 16
def Table.mseLimit (t : Table) : Nat := t.field 32 0 32
def Table.shard (t : Table) : Nat := t.field 40 0 64
def Table.opt (t : Table) : Nat := t.field 48 0 64
def Table.grad (t : Table) : Nat := t.field 56 0 32
def Table.exch (t : Table) : Nat := t.field 60 0 8

/-- Elements of a row (R164). -/
def Table.elems (t : Table) : Nat := t.payload * 8 / elemBits t.format

/-- The row stride (R92). -/
def Table.stride (t : Table) : Nat := if t.husk = 1 then t.payload + 32 else t.payload

/-- The address of a stored row, of its payload, and of its husk, by local row (R226, R268). -/
def Table.rowVa (t : Table) (r : Nat) : Nat := t.base + r * t.stride
def Table.payloadVa (t : Table) (r : Nat) : Nat := t.rowVa r + if t.husk = 1 then 32 else 0
def Table.huskVa (t : Table) (r : Nat) : Option Nat :=
  if t.husk = 1 then some (t.rowVa r) else if t.husk = 2 then some (t.huskBase + 32 * r) else none

/-- The integer path (R127). -/
def Table.intPath (t : Table) : Bool :=
  (t.format == fINT8 || t.format == fINT4 || t.format == fCB8 || t.format == fCB4 || t.format == fE4M3) && !t.rowmul

/-- An integer-level format (R174): INT8, INT4, CB8, CB4, and FP8-E4M3 on the integer path. -/
def Table.levelled (t : Table) : Bool :=
  t.format == fINT8 || t.format == fINT4 || t.format == fCB8 || t.format == fCB4 || (t.format == fE4M3 && !t.rowmul)

/-- The conversions of the table read a codebook slot (R181). -/
def Table.usesSlot (t : Table) : Bool :=
  t.format == fCB8 || t.format == fCB4 || (t.format == fE4M3 && !t.rowmul)

/-! ### Shard maps (R263 to R269) -/

def Table.form (t : Table) : Nat := bits t.shard 0 2
def Table.explicit (t : Table) : Bool := bit t.shard 2
def Table.map (t : Table) : Nat := bits t.shard 16 16
def Table.tag (t : Table) : Nat := byteField t.dir 8 4
def Table.wUs (t : Table) : Nat := bits t.dir (8 * 14) 11

/-- Shards of the map. -/
def Table.nShards (t : Table) : Nat := if t.form = 0 then 1 else bits t.dir (8 * 12) 10 + 1

/-- The first row of a shard (R268). -/
def Table.firstOf (t : Table) (i : Nat) : Nat :=
  let n := t.nShards
  let q := t.rows / n
  let e := t.rows % n
  if t.form ≤ 1 then 0
  else if t.form = 3 then i
  else if t.explicit then (t.shards.getD i (0, 0, 0)).2.2
  else i * q + min i e

/-- The size of a shard (R268). -/
def Table.sizeOf' (t : Table) (i : Nat) : Nat :=
  let n := t.nShards
  let q := t.rows / n
  let e := t.rows % n
  if t.form ≤ 1 then t.rows
  else if t.form = 3 then (if i < t.rows then (t.rows - i + n - 1) / n else 0)
  else if t.explicit then
    (if i + 1 < n then t.firstOf (i + 1) else t.rows) - t.firstOf i
  else if i < e then q + 1 else q

/-- The shard of a global row (R268). -/
def Table.shardOf (t : Table) (r : Nat) : Nat :=
  let n := t.nShards
  let q := t.rows / n
  let e := t.rows % n
  if t.form ≤ 1 then 0
  else if t.form = 3 then r % n
  else if t.explicit then
    (((List.range n).filter fun i => decide (t.firstOf i ≤ r) && t.sizeOf' i != 0).getLast?).getD 0
  else if r < e * (q + 1) then r / (q + 1) else e + (r - e * (q + 1)) / q

/-- LOCAL_FIRST of a shard. -/
def Table.localFirst (t : Table) (i : Nat) : Nat := (t.shards.getD i (0, 0, 0)).2.1

/-- The home node of a shard; `self` for a LOCAL map. -/
def Table.nodeOf (t : Table) (self i : Nat) : Nat :=
  if t.form = 0 then self else (t.shards.getD i (self, 0, 0)).1

/-- The home node of a global row. -/
def Table.home (t : Table) (self r : Nat) : Nat := t.nodeOf self (t.shardOf r)

/-- The local row of a global row (R268). -/
def Table.localRow (t : Table) (r : Nat) : Nat :=
  let i := t.shardOf r
  if t.form ≤ 1 then r
  else if t.form = 3 then t.localFirst i + r / t.nShards
  else t.localFirst i + (r - t.firstOf i)

/-- The local extent of a package (R269). -/
def Table.extent (t : Table) (self : Nat) : Nat :=
  if t.form ≤ 1 then t.rows
  else (List.range t.nShards).foldl (fun m i =>
    if t.nodeOf self i = self then max m (t.localFirst i + t.sizeOf' i) else m) 0

/-- The home nodes of a table's shards, each once, lowest first. -/
def Table.nodes (t : Table) (self : Nat) : List Nat :=
  ((List.range t.nShards).map (t.nodeOf self)).eraseDups.mergeSort (· ≤ ·)

/-! ### Reading table descriptors (R169, R171) and shard maps (R265, R267) -/

/-- A range lies in one ACTIVE memory region of a world. -/
def Dev.inOneRegion (d : Dev) (world a len : Nat) : Bool :=
  match d.regionHolding (a / 65536) with
  | none => false
  | some i => d.mr F.secMrLimit_state i == 2 && d.mr F.secMrBase_world i == world &&
      decide ((a + max len 1 - 1) / 65536 ≤ d.mr F.secMrLimit_limit i)

/-- The checks of R171, in order; `rows` says that the opcode reads or writes the table's rows. -/
def Table.checks (t : Table) (rows : Bool) : M Unit := do
  malformedIf (decide (9 < t.format)) rFORMAT
  malformedIf (t.husk == 3 || t.field 0 52 12 != 0 || t.field 8 41 23 != 0 || t.field 16 52 12 != 0 ||
    t.field 26 13 3 != 0 || t.field 30 0 16 != 0 || t.field 36 0 32 != 0 || t.field 61 0 24 != 0) rRESERVED_SET
  malformedIf (t.husk != 2 && t.huskBase != 0) rRESERVED_SET
  malformedIf (t.slot != 0 && t.format != fCB8 && t.format != fCB4 && t.format != fE4M3) rRESERVED_SET
  malformedIf (rows && (t.format == fE5M2 || t.format == fUINT8)) rOPERAND
  if 65536 < t.scaleBase + t.elems then failBounds
  if t.base % 64 ≠ 0 ∨ t.huskBase % 64 ≠ 0 then failBounds

/-- Read table descriptor `n` and check it (R169, R171). -/
def readTable (q seq n : Nat) (rows : Bool) : M Table := do
  if (← rd F.qntTabcnt_count 2) ≤ n then failBounds
  let who ← structWho 8 0 5 (pg bQNT 2) q seq
  let a := (← rd F.qntTabdir_base 2) * 4096 + 64 * n
  let t : Table := ⟨n, fromBytes (← readLocal who (a % 2 ^ 46) 64), 0, []⟩
  t.checks rows
  return t

/-- The checks of a shard map that need only its fields (R267, checks 1 to 3). -/
def Table.shardFieldChecks (t : Table) : M Unit := do
  malformedIf (bits t.shard 3 13 != 0 || bits t.shard 32 32 != 0) rRESERVED_SET
  malformedIf (t.form == 0 && (t.map != 0 || t.explicit)) rRESERVED_SET
  malformedIf (t.explicit && t.form != 2) rOPERAND

/-- Read and check a table's shard map (R265, R267). `world` is that of the descriptor. -/
def readShards (q seq world : Nat) (t : Table) : M Table := do
  t.shardFieldChecks
  if t.form = 0 then return t
  if (← rd F.mrgShcnt_count 8) ≤ t.map then failBounds
  let who ← structWho 8 0 5 (pg bMRG 8) q seq
  let a := (← rd F.mrgShdir_base 8) * 4096 + 64 * t.map
  let t : Table := { t with dir := fromBytes (← readLocal who (a % 2 ^ 46) 64) }
  malformedIf (bits t.dir 56 8 != 0 || bits t.dir (8 * 12 + 10) 6 != 0 || bits t.dir (8 * 14 + 11) 5 != 0 ||
    byteField t.dir 16 48 != 0) rRESERVED_SET
  malformedIf (decide (2000 < t.wUs) || (t.form == 1 && t.nShards != 1)) rOPERAND
  let list := bits t.dir 0 56
  let n := t.nShards
  if list % 64 ≠ 0 ∨ !(← dev).inOneRegion world (list % 2 ^ 46) (16 * n) then failBounds
  let bs ← readLocal who (list % 2 ^ 46) (16 * n)
  let ent (i : Nat) : Nat := fromBytes ((bs.drop (16 * i)).take 16)
  let all := (List.range n).map ent
  malformedIf (all.any fun e => bits e 10 6 != 0 || bits e 56 8 != 0 || bits e 104 24 != 0 ||
    (!t.explicit && bits e 64 40 != 0)) rRESERVED_SET
  let t : Table := { t with shards := all.map fun e => (bits e 0 10, bits e 16 40, bits e 64 40) }
  if t.explicit then
    malformedIf (t.firstOf 0 != 0 || decide (t.rows < t.firstOf (n - 1)) ||
      (List.range (n - 1)).any (fun i => decide (t.firstOf (i + 1) < t.firstOf i))) rOPERAND
  malformedIf ((List.range n).any fun i => decide (2 ^ 40 < t.localFirst i + t.sizeOf' i)) rOPERAND
  return t

/-- The table descriptors that a descriptor keeps. -/
def setTables (q seq : Nat) (ts : List Table) : M Unit := modDesc q seq fun x => { x with tabs := ts }

/-- A descriptor keeps a table descriptor it has read, in place of an earlier copy of the same table. -/
def keepTable (q seq : Nat) (t : Table) : M Unit := modDesc q seq fun x =>
  { x with tabs := if x.tabs.any fun u => u.num == t.num then x.tabs.map fun u => if u.num == t.num then t else u
                   else x.tabs ++ [t] }

/-- A table that a descriptor keeps. -/
def Desc.tab (x : Desc) (n : Nat) : Table := (x.tabs.find? fun t => t.num == n).getD ⟨n, 0, 0, []⟩

/-- The copy of a table descriptor that a descriptor uses throughout: the one it keeps, or the entry, read once (R169). -/
def useTable (q seq n : Nat) (rows : Bool) : M Table := do
  match ((← dev).desc q seq).bind fun x => x.tabs.find? fun t => t.num == n with
  | some t =>
    t.checks rows
    return t
  | none =>
    let t ← readTable q seq n rows
    keepTable q seq t
    return t

/-- The same for the shard map, read together with the table descriptor (R265). -/
def useShards (q seq world : Nat) (t : Table) : M Table := do
  if !t.shards.isEmpty then return t
  let t ← readShards q seq world t
  keepTable q seq t
  return t

/-! ### Husk fields (R174, R226) -/

/-- A husk as a number; 0 where the table has none. -/
abbrev Husk := Nat

def Husk.version (h : Husk) : Nat := byteField h 0 8
def Husk.z (h : Husk) : Int := toSigned 8 (byteField h 8 1)
def Husk.rowsum (h : Husk) : Int := toSigned 24 (byteField h 9 3)
def Husk.access (h : Husk) : Nat := byteField h 12 2
def Husk.frozen (h : Husk) : Bool := bit h (8 * 14 + 2)
def Husk.secure (h : Husk) : Bool := bit h (8 * 14 + 3)
def Husk.scalar (h : Husk) : Nat := byteField h 16 4
def Husk.mul (h : Husk) : Nat := byteField h 20 2

/-- Replace bytes of a husk. -/
def Husk.put (h : Husk) (byte n v : Nat) : Husk := setBits h (8 * byte) (8 * n) v

/-- The zero point used in conversion (R174). -/
def Table.zeroPoint (t : Table) (h : Husk) : Int := if t.husk ≠ 0 && t.levelled then h.z else 0

/-- The row multiplier used in conversion, as FP32 (R174). -/
def Table.multiplier (t : Table) (h : Husk) : F32 :=
  if t.husk ≠ 0 && t.rowmul then bf16To32 h.mul else f32One

/-! ### Codebooks and scales (R172, R173, R176) -/

/-- A level of a codebook slot of a die. -/
def Dev.level (d : Dev) (die slot k : Nat) : Int :=
  toSigned 16 (SMap.get 0 d.quant.levels ((die * 1024 + slot) * 256 + k))

/-- A scale register of a die. -/
def Dev.scale (d : Dev) (die reg : Nat) : F32 := SMap.get 0 d.quant.scales (die * 65536 + reg % 65536)

/-- The scale register of a column of a table (R176). -/
def Dev.colScale (d : Dev) (die : Nat) (t : Table) (col : Nat) : F32 := d.scale die (t.scaleBase + col)

/-- The level of a stored code on the integer path (R172). -/
def Dev.levelOf (d : Dev) (die : Nat) (t : Table) (c : Nat) : Int :=
  if t.format = fINT8 then toSigned 8 c
  else if t.format = fINT4 then toSigned 4 c
  else d.level die t.slot c

/-- The element's FP32 value x (R128). -/
def Dev.elemValue (d : Dev) (die : Nat) (t : Table) (z : Int) (c : Nat) : F32 :=
  if t.levelled then f32OfInt (d.levelOf die t c - z)
  else (fpOf t.format).widen c

/-- rne32(sc × rne32(m × x)) of every element of a row range from column `col` (R157, R192). -/
def Dev.decodeRow (d : Dev) (die : Nat) (t : Table) (h : Husk) (col : Nat) (p : List Byte) : List F32 :=
  let z := t.zeroPoint h
  let m := t.multiplier h
  (List.range (p.length * 8 / elemBits t.format)).map fun i =>
    f32Mul (d.colScale die t (col + i)) (f32Mul m (d.elemValue die t z (elemAt t.format p i)))

/-- The loads in progress affect a table's slot or scales (R181). -/
def Dev.loadTouches (d : Dev) (t : Table) : Bool :=
  let kind := d.rd F.qntLoadCtl_kind 2
  let first := d.rd F.qntLoadCtl_first 2
  let count := d.rd F.qntLoadCount_count 2
  if kind = 1 then decide (t.scaleBase < first + count) && decide (first < t.scaleBase + t.elems)
  else t.usesSlot && decide (first ≤ t.slot) && decide (t.slot < first + count)

/-- A load, and not a store, is WAITING or RUNNING. -/
def Dev.loading (d : Dev) : Bool :=
  let st := d.rd F.qntLoadStat_state 2
  (st == 1 || st == 2) && d.rd F.qntLoadCtl_dir 2 == 0

/-- A descriptor's conversions are held in SCALE_WAIT (R181): it uses what a load affects, and was dispatched, or as an
armed OPTIMIZE fired, after the load's START. -/
def Dev.scaleHeld (d : Dev) (x : Desc) : Bool :=
  d.loading && !(d.quant.users.contains (x.q, x.seq)) && x.tabs.any d.loadTouches

/-- A descriptor that has just read its tables, or just fired, counts as held. R181 does not say on which die's page: it
counts on each die whose clusters or stages convert for it, and an OPTIMIZE on both (DESIGN CHOICE, log entry 150). -/
def countHold (q seq : Nat) (dies : List Nat) : M Unit := do
  match (← dev).desc q seq with
  | some x => if (← dev).scaleHeld x then each dies fun i => bump F.qntLoadHolds_count i
  | none => pure ()

/-! ### Conversion out of FP32 (R136, R184) -/

/-- An FP32 value converted into a format, with the saturation mode of a table for FP8; the second says that an FP8
overflow or infinity was converted. -/
def convertTo (fmt : Nat) (sat : Bool) (v : F32) : Nat × Bool :=
  if fmt = fFP32 then (rne32 v.val, false)
  else if fmt = fE4M3 || fmt = fE5M2 then (fpOf fmt).encodeSat sat v.val
  else (((fpOf fmt).encode v.val).1, false)

/-- Values converted into a format, and the FP8 overflows among them. -/
def convertAll (fmt : Nat) (sat : Bool) (vs : List F32) : List Nat × Nat :=
  let r := vs.map (convertTo fmt sat)
  (r.map Prod.fst, (r.filter Prod.snd).length)

/-! ### Encoding a row (R184 to R186) -/

/-- The entries of a slot that a format uses. -/
def Dev.entries (d : Dev) (die : Nat) (t : Table) : List Int :=
  (List.range (if t.format = fCB4 then 16 else 256)).map (d.level die t.slot)

/-- qmin and qmax (R185). -/
def Dev.levelRange (d : Dev) (die : Nat) (t : Table) : Int × Int :=
  if t.format = fINT8 then (-128, 127)
  else if t.format = fINT4 then (-8, 7)
  else
    let es := d.entries die t
    (es.foldl min 2048, es.foldl max (-2049))

/-- The distance of a level from an exact target. -/
def levelDist (target : Val) (l : Int) : Nat × Int :=
  match target.add (Val.ofInt (-l)) with
  | .fin _ m e => (m, e)
  | _ => (0, 0)

/-- `a` is nearer than `b`, as dyadic magnitudes. -/
def distLt (a b : Nat × Int) : Bool := (Val.fin false a.1 a.2).cmp (.fin false b.1 b.2) == -1

/-- The entry whose level is nearest to an exact target; a tie goes to the even code index, the lowest of several
(R184). Where every index of a tie is odd the rule names none, and the lowest is taken (DESIGN CHOICE, log entry 147). -/
def nearestIndex (es : List Int) (target : Val) : Nat :=
  let better (i j : Nat) : Bool :=   -- i beats j
    let a := levelDist target (es.getD i 0)
    let b := levelDist target (es.getD j 0)
    distLt a b || (!distLt b a && i % 2 == 0 && j % 2 == 1)
  (List.range es.length).foldl (fun best i => if better i best then i else best) 0

/-- The result of encoding one row. -/
structure Encoded where
  codes : List Nat
  z : Int
  m : Nat
  rowsum : Nat
  clamps : Nat
  overflows : Nat
  errors : List F32
  nonfinite : Bool
  deriving DecidableEq, Repr

/-- Multiplier and zero point fitted to a row (R186), as BF16 and a level. Where elements have a finite u0 and none a
finite u1, the rule gives no zero point, and it is 0 (DESIGN CHOICE, log entry 148). -/
def Dev.fitRow (d : Dev) (die : Nat) (t : Table) (vs : List F32) : Nat × Int :=
  let us := (List.range vs.length).map fun c => f32Div (vs.getD c 0) (d.colScale die t c)
  let fin := us.filter f32Finite
  let (qmin, qmax) := d.levelRange die t
  let hi := fin.foldl f32Max (fin.headD 0)
  let lo := fin.foldl f32Min (fin.headD 0)
  let big := (fin.map f32Abs).foldl f32Max 0
  let r : F32 :=
    if fin.isEmpty then 0
    else if t.levelled then divVal (hi.val.add lo.val.neg) (.ofInt (qmax - qmin))
    else f32Div big ((fpOf t.format).widen (fpOf t.format).maxCode)
  let m : Nat :=
    if t.rowmul then (if f32Zero r || !f32Finite r then 0x3F80 else bf16Up r) else 0x3F80
  if !t.levelled || fin.isEmpty then (m, 0)
  else
    let u1 := (fin.map fun u => f32Div u (bf16To32 m)).filter f32Finite
    let top := u1.foldl f32Max (u1.headD 0)
    let bot := u1.foldl f32Min (u1.headD 0)
    if u1.isEmpty then (m, 0)
    else
      let mid := f32Div (f32Add bot top) f32Two
      let centre := f32Div (f32OfInt (qmin + qmax)) f32Two
      match (f32Sub centre mid).val with
      | .fin s n e => (m, max (-128) (min 127 (Val.roundAway s n e)))
      | .inf neg => (m, if neg then -128 else 127)
      | .nan => (m, 0)

/-- One element encoded: code, level (0 for FP formats), x, clamped, FP8 overflow. A NaN becomes the zero point, held to
the range of the format's codes as every other code is (R185; DEDUCED, log entry 149). -/
def encodeElem (t : Table) (es : List Int) (z qmin qmax : Int) (u : F32) :
    Nat × Int × F32 × Bool × Bool :=
  if t.format = fINT8 ∨ t.format = fINT4 then
    let (l, cl) : Int × Bool := match u.val with
      | .nan => (max qmin (min qmax z), true)
      | .inf neg => (if neg then qmin else qmax, true)
      | .fin s m e =>
        let v := z + Val.roundAway s m e
        (max qmin (min qmax v), decide (v < qmin) || decide (qmax < v))
    (ofSigned (elemBits t.format) l, l, f32OfInt (l - z), cl, false)
  else if t.levelled then
    let (target, cl) : Val × Bool := match u.val with
      | .nan => (Val.ofInt z, true)
      | .inf neg => (Val.ofInt (if neg then qmin else qmax), true)
      | v =>
        let w := v.add (Val.ofInt z)
        (w, w.cmp (.ofInt qmin) == -1 || w.cmp (.ofInt qmax) == 1)
    let k := nearestIndex es target
    let l := es.getD k 0
    (k, l, f32OfInt (l - z), cl, false)
  else
    let (c, ov) := convertTo t.format t.fp8Sat u
    (c, 0, (fpOf t.format).widen c, false, ov)

/-- The re-quantisation of a row of FP32 values into a table (R185); none where the row is skipped (R187). -/
def Dev.encodeRow (d : Dev) (die : Nat) (t : Table) (h : Husk) (fit : Bool) (vs : List F32) : Option Encoded :=
  if t.levelled && vs.any (fun v => !f32Finite v) then none
  else
    let kept : Nat × Int := (if t.husk ≠ 0 && t.rowmul then h.mul else 0x3F80, t.zeroPoint h)
    let (m, z) := if fit && t.husk != 0 then d.fitRow die t vs else kept
    let es := if t.usesSlot then d.entries die t else []
    let (qmin, qmax) := d.levelRange die t
    let one (c : Nat) : (Nat × Int × F32 × Bool × Bool) × F32 :=
      let v := vs.getD c 0
      let sc := d.colScale die t c
      let u := f32Div (f32Div v sc) (bf16To32 m)
      let r := encodeElem t es z qmin qmax u
      let clamp := if f32Finite v && !f32Finite u then true else r.2.2.2.1
      let recon := f32Mul sc (f32Mul (bf16To32 m) r.2.2.1)
      ((r.1, r.2.1, r.2.2.1, clamp, r.2.2.2.2), f32Sub v recon)
    let all := (List.range vs.length).map one
    let sum := all.foldl (fun (n : Int) r => n + r.1.2.1) 0
    let errs := all.map Prod.snd
    some { codes := all.map fun r => r.1.1
           z := if t.levelled then z else 0
           m := m
           rowsum := if t.levelled then ofSigned 24 sum else 0
           clamps := (all.filter fun r => r.1.2.2.2.1).length
           overflows := (all.filter fun r => r.1.2.2.2.2).length
           errors := errs.filter f32Finite
           nonfinite := !t.levelled && errs.any fun e => !f32Finite e }

/-- The husk of a re-quantised row (R175, R185, R188): only the zero point, multiplier and row-sum change. -/
def Encoded.husk (e : Encoded) (h : Husk) : Husk :=
  ((h.put 8 1 (ofSigned 8 e.z)).put 9 3 e.rowsum).put 20 2 e.m

end Sys2Proof.Machine
end

