-- ==== Sys2Proof/Machine/Access.lean ====
section
/-! DEFINITION. Accesses by virtual address (R350, R351, R356, R457) and the one-sided remote accesses that they may need
(R297, R404). -/

namespace Sys2Proof.Machine

/-! ### Remote accesses -/

/-- The node of this package. -/
def Dev.self (d : Dev) : Nat := d.rd F.glbNode_node 0

/-- What the transport knows of a node. -/
def Dev.peer (d : Dev) (n : Nat) : Peer := SMap.get Peer.none d.peers n

/-- Replace it. -/
def Dev.setPeer (d : Dev) (n : Nat) (p : Peer) : Dev := { d with peers := SMap.set Peer.none d.peers n p }

/-- A node is lost or was never attached (R413). -/
def Dev.unreachable (d : Dev) (n : Nat) : Bool := (d.peer n).state == 0 || (d.peer n).state == 4

/-- Put a data message behind those that wait for its node. -/
def Dev.post (d : Dev) (node kind hdr : Nat) (body : List Byte) : Dev :=
  { d with outbox := d.outbox ++ [⟨node, kind, hdr, body, 0, false, 0, [], false⟩] }

/-- The message header of a READ_REQ or WRITE (R403). -/
def reqHeader (pa len tag world : Nat) : Nat := payloadOf [(0, pa % 2 ^ 56), (8, len), (12, tag), (16, world)]

/-- Ask a node for a read, or send it a write (R404). -/
def Dev.askRemote (d : Dev) (w : Waiter) (world : Nat) (write : Bool) (pa len : Nat) (bs : List Byte) : Dev :=
  let tag := d.nextTag % 2 ^ 32
  let d : Dev := { d with nextTag := tag + 1, remotes := d.remotes ++ [⟨w, write, pa, len, tag, none⟩] }
  d.post (pa / 2 ^ 46) (if write then 0x1A else 0x18) (reqHeader pa len tag world) bs

/-- The outstanding remote access of a waiter to a range. -/
def Dev.remote (d : Dev) (w : Waiter) (write : Bool) (pa len : Nat) : Option RemoteOp :=
  d.remotes.find? fun r => r.w == w && r.write == write && r.pa == pa && r.len == len

/-- Forget a remote access. -/
def dropRemote (r : RemoteOp) : M Unit := modDev fun d => { d with remotes := d.remotes.filter (fun x => !(x == r)) }

/-- Ranges of at most `most` bytes: 16,416 of a read, 16,384 of a write (R404). -/
def remoteChunks (most pa len : Nat) : List (Nat × Nat) :=
  (List.range ((len + most - 1) / most)).map fun i => (pa + i * most, min most (len - i * most))

/-- A remote read: the bytes once they have come, otherwise what to register. -/
def remoteRead (w : Waiter) (world : Nat) (c : Nat × Nat) : M (List Byte × List (Dev → Dev) × Bool) := do
  let d ← dev
  match d.remote w false c.1 c.2 with
  | none =>
    if d.unreachable (c.1 / 2 ^ 46) then fail sLINK_LOST rNONE
    return ([], [fun d => d.askRemote w world false c.1 c.2 []], true)
  | some r =>
    match r.answer with
    | none => return ([], [], true)
    | some (0, bs, _) => return (bs, [], false)
    | some (st, _, _) =>
      dropRemote r
      fail st (reasonOf st)

/-! ### Translated pieces -/

/-- Adjacent pieces of one page are one access (R326). -/
def mergeSegs (l : List Seg) : List Seg :=
  l.foldr (fun s acc => match acc with
    | t :: rest =>
      if s.pa + s.len = t.pa ∧ s.leaf = t.leaf ∧ s.size = t.size then { s with len := s.len + t.len } :: rest
      else s :: t :: rest
    | [] => [s]) []

/-- Read the pieces of one access. Remote pieces are asked for first; the access waits until all have come. -/
def readSegs (w : Waiter) (who : Who) (gather : Bool) (segs : List Seg) : M (List Byte) := do
  let d ← dev
  let parts := segs.map fun s => (s, if s.local' d.self then [] else remoteChunks 16416 s.pa s.len)
  let far ← collect parts fun p => collect p.2 fun c => remoteRead w who.world c
  let regs := (far.flatten.map fun r => r.2.1).flatten
  if far.flatten.any fun r => r.2.2 then
    if regs.isEmpty then skip else waitFor fun d => regs.foldl (fun d f => f d) d
  let out ← collect (parts.zip far) fun p => do
    if p.1.2.isEmpty then
      localCheck who .rd (p.1.1.pa % 2 ^ 46) p.1.1.len
      readChecked who gather (p.1.1.pa % 2 ^ 46) p.1.1.len
    else
      modDev fun d => { d with remotes := d.remotes.filter (fun r =>
        !(r.w == w && !r.write && p.1.2.contains (r.pa, r.len))) }
      return (p.2.map Prod.fst).flatten
  return out.flatten

/-- Read `len` bytes at a virtual address. -/
def readVa (w : Waiter) (who : Who) (asid va len : Nat) : M (List Byte) := do
  let segs ← translate w who.world asid .rd va len
  readSegs w who false (mergeSegs segs)

/-- Read several ranges, one after the other, as one access. -/
def readVas (w : Waiter) (who : Who) (asid : Nat) (rs : List (Nat × Nat)) : M (List Byte) := do
  let segs ← collect rs fun r => translate w who.world asid .rd r.1 r.2
  readSegs w who false (mergeSegs segs.flatten)

/-- A remote write: whether it has been acknowledged, otherwise what to register. -/
def remoteWrite (w : Waiter) (world : Nat) (c : Nat × Nat) (bs : List Byte) : M (Nat × List (Dev → Dev) × Bool) := do
  let d ← dev
  match d.remote w true c.1 c.2 with
  | none =>
    if d.unreachable (c.1 / 2 ^ 46) then fail sLINK_LOST rNONE
    return (0, [fun d => d.askRemote w world true c.1 c.2 bs], true)
  | some r =>
    match r.answer with
    | none => return (0, [], true)
    | some (0, _, et) => return (et, [], false)
    | some (st, _, _) =>
      dropRemote r
      fail st (reasonOf st)

/-- Write the pieces of one access; the answer is the latest point of coherence. Remote pieces are sent first, and the
access waits until the homes have acknowledged them. -/
def writeSegs (w : Waiter) (who : Who) (segs : List Seg) (bs : List Byte) : M Nat := do
  let d ← dev
  let va0 := (segs.head?.map fun s => s.va).getD 0
  let bytesOf (s : Seg) (c : Nat × Nat) : List Byte := (bs.drop (s.va - va0 + (c.1 - s.pa))).take c.2
  let parts := segs.map fun s => (s, if s.local' d.self then [] else remoteChunks 16384 s.pa s.len)
  let far ← collect parts fun p => collect p.2 fun c => remoteWrite w who.world c (bytesOf p.1 c)
  let regs := (far.flatten.map fun r => r.2.1).flatten
  if far.flatten.any fun r => r.2.2 then
    if regs.isEmpty then skip else waitFor fun d => regs.foldl (fun d f => f d) d
  let local' := segs.filter fun s => s.local' d.self
  -- every piece is checked before any of them is written (R356)
  each local' fun s => localCheck who .wr (s.pa % 2 ^ 46) s.len
  each local' fun s => writeChecked who (s.pa % 2 ^ 46) (bytesOf s (s.pa, s.len))
  each parts fun p => modDev fun d => { d with remotes := d.remotes.filter (fun r =>
    !(r.w == w && r.write && p.2.contains (r.pa, r.len))) }
  let et ← now
  return (far.flatten.map Prod.fst).foldl max (if local'.isEmpty then 0 else et)

/-- Write bytes at a virtual address; the answer is the point of coherence. -/
def writeVa (w : Waiter) (who : Who) (asid va : Nat) (bs : List Byte) : M Nat := do
  let segs ← translate w who.world asid .wr va bs.length
  writeSegs w who (mergeSegs segs) bs

/-- What a wait of a part of some work leaves besides what that part registers. -/
def alsoOnWait {α : Type} (f : Dev → Dev) (m : M α) : M α :=
  tryCatch m fun e =>
    match e with
    | .wait reg => waitFor fun d => f (reg d)
    | e => throw e

/-- Do part of some work, keeping of a wait only what it registered, and of an event that cannot occur yet nothing. -/
def attempt (m : M Unit) : M Unit := do
  let t ← get
  tryCatch m fun e =>
    match e with
    | .wait reg => do set t; modDev reg
    | .skip => set t
    | e => throw e

/-! ### Starting a descriptor -/

/-- The look-up work of a descriptor that runs. -/
def Desc.lookup (x : Desc) : Option Lookup :=
  match x.work with
  | .lookup l => some l
  | _ => none

/-- A dispatched descriptor that has still to start: it waits for its operands, or, as a look-up that owns its tiles already,
for its table (R141). -/
def Desc.starting (x : Desc) : Bool :=
  !x.ended && (x.work == .start || (match x.lookup with
    | some l => !l.ready
    | none => false))

/-- The table descriptors that a descriptor keeps in `e` stay with it in `d`. -/
def Dev.keepTabs (d e : Dev) (q seq : Nat) : Dev :=
  match d.desc q seq, e.desc q seq with
  | some x, some y => d.putDesc { x with tabs := y.tabs }
  | _, _ => d

/-- Do part of a descriptor's work as `attempt` does; the table descriptors that it has read stay with it, since it reads
each of them once (R169). -/
def attemptWork (q seq : Nat) (m : M Unit) : M Unit := do
  let t ← get
  tryCatch m fun e => do
    let d ← dev
    match e with
    | .wait reg => do set t; modDev fun b => (reg b).keepTabs d q seq
    | .skip => do set t; modDev fun b => b.keepTabs d q seq
    | e => throw e

/-- Dispatch a descriptor of an opcode, or go on with one that was dispatched and still waits to start: `body` makes
its checks and starts its work. -/
def launch (q : Nat) (sel : Nat → Bool) (body : Desc → M Unit) : M Unit := do
  match (← dev).descs.find? fun x => x.q == q && x.starting && sel x.raw with
  | some x => orEnd q x.seq (attemptWork q x.seq (body x))
  | none => dispatch q sel fun x => attemptWork q x.seq (body x)

/-- Give a descriptor its work. -/
def setWork (q seq : Nat) (w : Work) : M Unit := modDesc q seq fun x => { x with work := w }

/-- A point of coherence and counts of a descriptor's results. -/
def progress (q seq rows bytes coh : Nat) : M Unit := modDesc q seq fun x => x.count rows bytes coh

/-- Raise flags of a descriptor. -/
def raiseFlag (q seq f : Nat) : M Unit := modDesc q seq fun x => x.flag f

end Sys2Proof.Machine
end

