-- ==== Sys2Proof/Machine/Heat.lean ====
section
/-! DEFINITION. The access counters of a die (R373 to R375). -/

namespace Sys2Proof.Machine

/-- Write a heat record into the die's ring, or drop it (R375). -/
def heatRecord (die : Nat) (h : Heat) (tier size pa : Nat) : M Unit := do
  let n := 2 ^ ((← rd F.migRingCfg_size die) + 9)
  let tail ← rd F.migRingTail_index die
  if n ≤ diff32 tail (← rd F.migRingHead_index die) then bump F.migRingDrop_count die
  else
    let who ← structWho 8 0 5 (pg bMIG die) 1024 0
    let a := (← rd F.migRingBase_base die) * 64 + tail % n * 32
    let rec' := payloadOf [(0, h.gran * 65536), (8, h.asid), (10, tier + 2 * size), (12, h.count), (16, pa % 2 ^ 56),
      (24, ← now)]
    match ← caught (writeLocal who (a % 2 ^ 46) (toBytes 32 rec')) with
    | .ok _ =>
      bump F.migHot_count die
      wr F.migRingTail_index die (wrap32 (tail + 1))
      raise (pg bMIG die) 0
    | .error _ => captureEngine (pg bMIG die) kREFUSED 0x108

/-- One access counted under a key (R373, R374). Among the lowest counts of a full set, the one that is replaced is a free value
(log entry 18): `pa` is a local address of the granule, reached through `leaf`. -/
def heatCount (asid va pa leaf size : Nat) : M Unit := do
  let die := dieOfRegion (homeRegion pa)
  let part := partitionOf pa
  let d ← dev
  let counted := d.rd F.migCfg_enable die == 1 && bit leaf 8 &&
    ((part == 0 && d.rd F.migCfg_tier_hbm die == 1) || (part == 1 && d.rd F.migCfg_tier_cap die == 1))
  if counted then
    bump F.migCounted_count die
    let gran := va / 65536
    let own (h : Heat) : Bool := h.die == die && h.asid == asid && h.gran == gran
    if !d.xl.heat.any own then
      let mine := d.xl.heat.filter fun h => h.die == die
      let set := if mine.length < 8 then [] else
        mine.filter fun h => Config.heatSet h.asid h.gran == Config.heatSet asid gran
      if 8 ≤ set.length then
        let least := set.filter fun h => set.all fun k => decide (h.count ≤ k.count)
        let i ← freeValue 64
        match least[i % least.length]? with
        | some v =>
          modDev fun d => { d with xl := { d.xl with heat := d.xl.heat.filter (fun h => !(h == v)) } }
          bump F.migEvict_count die
        | none => pure ()
      modDev fun d => { d with xl := { d.xl with heat := ⟨die, asid, gran, 0, false⟩ :: d.xl.heat } }
    modDev fun d => { d with xl := { d.xl with heat := d.xl.heat.map (fun h =>
      if own h then { h with count := min 65535 (h.count + 1) } else h) } }
    match (← dev).xl.heat.find? own with
    | some h =>
      -- a record whose ring cannot be reached now leaves `told` clear, and the next count tries it again
      if (← rd F.migCfg_hot die) ≤ h.count && !h.told then attempt (do
        heatRecord die h part size pa
        modDev fun d => { d with xl := { d.xl with heat := d.xl.heat.map (fun k =>
          if own k then { k with told := true } else k) } })
    | none => pure ()

end Sys2Proof.Machine
end

