-- ==== Sys2Proof/Machine/Stream.lean ====
section
/-! DEFINITION. Stream sequencers: the fields of the look-up descriptors (R156, R157), program images and their checks
(R90, R93, R94, R99), the stream instructions (R95, R96), phases (R101) and the stream buffer (R97, R103). -/

namespace Sys2Proof.Machine

/-! ### Fields of LOOKUP_POOL and LOOKUP_ROWS (R156, R157) -/

def Desc.isPool (x : Desc) : Bool := x.opcode == 0x10
def Desc.lkProg (x : Desc) : Nat := x.field 16 0 52
def Desc.lkLanes (x : Desc) : Nat := x.field 16 52 12 + 1
def Desc.lkIndex (x : Desc) : Nat := x.field 24 0 52
def Desc.lkRegions (x : Desc) : Nat := x.field 24 52 8
def Desc.lkAux (x : Desc) : Nat := x.field 32 0 52
def Desc.lkClusters (x : Desc) : Nat := x.field 32 52 8
def Desc.lkWeight (x : Desc) : Nat := x.field 40 0 52
def Desc.lkTiles (x : Desc) : Nat := x.field 40 52 7 + 1
def Desc.lkOut (x : Desc) : Nat := x.field 48 0 52
def Desc.lkTile (x : Desc) : Nat := x.field 48 52 7
def Desc.lkIndexCount (x : Desc) : Nat := x.field 56 0 32
def Desc.lkTable (x : Desc) : Nat := x.field 60 0 16
def Desc.lkMode (x : Desc) : Nat := x.field 62 0 3
def Desc.lkWfmt (x : Desc) : Nat := x.field 62 3 1
def Desc.lkOutFmt (x : Desc) : Nat := if x.isPool then x.field 62 4 4 else x.field 62 0 4
def Desc.lkAdd (x : Desc) : Bool := x.isPool && x.field 63 0 1 == 1
def Desc.lkDeliver (x : Desc) : Bool := x.field 63 1 1 == 1
def Desc.lkKeep (x : Desc) : Bool := x.isPool && x.field 63 2 1 == 1
def Desc.lkDest (x : Desc) : Nat := x.field 63 3 1
def Desc.lkRaw (x : Desc) : Bool := !x.isPool && x.field 63 0 1 == 1
def Desc.lkHuskOut (x : Desc) : Bool := !x.isPool && x.field 63 1 1 == 1

/-- The cluster set, lowest id first (R118). -/
def Desc.clusterSet (x : Desc) : List Nat :=
  (List.range 64).filter fun c => bit x.lkRegions (c / 8) && bit x.lkClusters (c % 8)

/-- Tile rows of a chain and bag slots of the window (R119). -/
def Desc.chainRows (x : Desc) : Nat := (x.lkLanes + 255) / 256
def Desc.slots (x : Desc) : Nat := 64 * x.lkTiles / x.chainRows

/-- Bags or rows of a slice, and the number of slices (R120). -/
def Desc.sliceSize (x : Desc) : Nat := if x.isPool then min 256 x.slots else 256
def Desc.sliceCount (x : Desc) : Nat := (x.length + x.sliceSize - 1) / x.sliceSize

/-- The slices of a descriptor on the cluster of rank `rank` among `k` (R120). -/
def Desc.slicesOn (x : Desc) (rank k : Nat) : Nat := (x.sliceCount + k - 1 - rank) / k

/-- The table of a look-up, once read. -/
def Desc.table (x : Desc) : Table := x.tabs.headD ⟨0, 0, 0, []⟩

/-- TABLE_ROWS (R92, R269). -/
def Desc.tableRows (x : Desc) (self : Nat) : Nat := x.table.extent self

/-! ### Clusters -/

/-- A cluster takes work: its GCL page is in service and its clock runs. -/
def Dev.clusterRuns (d : Dev) (c : Nat) : Bool :=
  d.inService (pg bGCL c) && d.rd F.pwrState_state 0 == 0 && d.pow.phase == 0

/-- The state after a resume at its start (R92). -/
def Resume.start : Resume := ⟨0, List.replicate 8 0, List.replicate 6 0, 0, 0, 0⟩

/-- Show a committed resume point in the SEQ page (R106, R115). -/
def Dev.showResume (d : Dev) (c : Nat) (r : Resume) : Dev :=
  let d := d.wr F.seqRpCtl_pc c r.pc
  let d := d.wr F.seqRpCtl_closes c r.closes
  let d := d.wr F.seqRpIxc_ixc c r.ixc
  let d := d.wr F.seqRpEmits_count c r.emits
  let d := (List.range 8).foldl (fun d i => d.wr F.seqRpA_value c (r.a.getD i 0) i) d
  (List.range 6).foldl (fun d i => d.wr F.seqRpLoop_count c (r.l.getD i 0) i) d

/-- Sequencer states (R116). -/
def qsIDLE : Nat := 0
def qsLOADING : Nat := 1
def qsFETCH : Nat := 2
def qsPOOL : Nat := 3
def qsFAULT_WAIT : Nat := 4
def qsWAITING : Nat := 5
def qsHELD : Nat := 6
def qsERROR : Nat := 7

/-- Error kinds (R117). -/
def ekTRAP : Nat := 1
def ekBOUNDS : Nat := 2
def ekFAULT : Nat := 3
def ekSHARE : Nat := 4
def ekWORLD : Nat := 5
def ekREMOTE : Nat := 6

/-- The cluster as a requester and as an access source. -/
def clusterWaiter (c q seq : Nat) : Waiter := ⟨.cluster c, q, seq⟩
def clusterWho (c world q seq : Nat) : Who := ⟨1, c, 0, world, q, seq, pg bGCL c, 0⟩

/-! ### Instruction words (R93) -/

def wOp (w : Nat) : Nat := bits w 56 8
def wD (w : Nat) : Nat := bits w 53 3
def wS (w : Nat) : Nat := bits w 50 3
def wT (w : Nat) : Nat := bits w 47 3
def wX (w : Nat) : Nat := bits w 43 4
def wF (w : Nat) : Bool := bit w 40
def wImm (w : Nat) : Nat := bits w 0 32

/-- sext(IMM) modulo 2^64. -/
def wSext (w : Nat) : Nat := ofSigned 64 (toSigned 32 (wImm w))

/-- Opcodes of R94. -/
def opcodes : List Nat :=
  [0x00, 0x01, 0x02, 0x03, 0x04, 0x08, 0x09, 0x10, 0x11, 0x12, 0x13, 0x14, 0x18, 0x19, 0x1A, 0x1B, 0x20, 0x21, 0x22,
   0x28, 0x29]

/-- The bits of a word that R94 lets an instruction use: those of the fields that are not marked "—", whether or not
another field of the word makes the instruction read them. -/
def usedBits (w : Nat) : Nat :=
  let op := wOp w
  let mD := 7 * 2 ^ 53
  let mS := 7 * 2 ^ 50
  let mT := 7 * 2 ^ 47
  let mX := 15 * 2 ^ 43
  let mF := 2 ^ 40
  let imm := 2 ^ 32 - 1
  let o := 255 * 2 ^ 56
  o + (
    if op = 0x02 then 2 ^ 16 - 1
    else if op = 0x03 then mS + mX + imm
    else if op = 0x04 then mS + mT + mX
    else if op = 0x08 then mS + mX + mF + imm
    else if op = 0x09 then mX
    else if op = 0x10 then mD + mF + imm
    else if op = 0x11 then mD + 255
    else if op = 0x12 then mD + mS + mT + mF + imm
    else if op = 0x13 then mD + mS + mT + mF
    else if op = 0x14 then mD + mS + mT
    else if op = 0x18 then mD + mS + mT + mX + imm
    else if op = 0x19 then mD + mT
    else if op = 0x1A then mD + mS + mT + 63
    else if op = 0x1B then mS + mT
    else if op = 0x20 then mD + mX
    else if op = 0x21 then mS
    else if op = 0x22 then mD + mS + mX + imm
    else if op = 0x28 then mS + mF + imm
    else 0)

/-- X is defined for the instruction (R95). -/
def xDefined (w : Nat) : Bool :=
  let op := wOp w
  let x := wX w
  if op = 0x03 then decide (x ≤ 2)
  else if op = 0x04 then decide (x ≤ 5)
  else if op = 0x08 ∨ op = 0x09 then decide (x ≤ 5)
  else if op = 0x20 then decide (x ≤ 2)
  else if op = 0x22 then decide (x ≤ 3)
  else true

/-- Every LOOP of level n stands at depth n, and every ENDL closes the innermost open LOOP, of its level; the depth
after the words, or none. -/
def loopDepth : Nat → List Nat → Option Nat
  | k, [] => some k
  | k, w :: ws =>
    if wOp w = 0x08 then (if wX w = k then loopDepth (k + 1) ws else none)
    else if wOp w = 0x09 then
      match k with
      | 0 => none
      | j + 1 => if wX w = j then loopDepth j ws else none
    else loopDepth k ws

/-- The checks of a program image in their order (R99): the reason of the first that fails. The image is the 64-byte
header as a number and COUNT instructions. -/
def checkProgram (isPool : Bool) (hdr : Nat) (ws : List Nat) : Option Nat :=
  let count := hdr % 256
  if count = 0 ∨ 64 < count then some rOPERAND
  else if byteField hdr 1 7 != 0 then some rRESERVED_SET
  else if ws.any fun w => !opcodes.contains (wOp w) then some rOPERAND
  else if ws.any fun w => Nat.lor w (usedBits w) != usedBits w then some rRESERVED_SET
  else if ws.any fun w => !xDefined w then some rOPERAND
  else if ws.any fun w => wOp w == 0x11 && decide (0x11 < wImm w % 256) then some rOPERAND
  else if loopDepth 0 ws != some 0 then some rOPERAND
  else if (List.range ws.length).any fun i => wOp (ws.getD i 0) == 0x04 &&
      (i + 1 == ws.length || wOp (ws.getD (i + 1) 0) == 0x08 || wOp (ws.getD (i + 1) 0) == 0x09) then some rOPERAND
  else if !isPool && ws.any (fun w => wOp w == 0x29) then some rOPERAND
  else none

/-! ### The running sequencer -/

/-- An address register. -/
def Resume.reg (r : Resume) (i : Nat) : Nat := r.a.getD i 0

/-- Write an address register. -/
def Resume.put (r : Resume) (i v : Nat) : Resume := { r with a := r.a.set i (v % 2 ^ 64) }

/-- Go to the next instruction. -/
def Resume.next (r : Resume) : Resume := { r with pc := r.pc + 1 }

/-- The index just after the ENDL that matches the LOOP whose body starts the words, from depth `k` and index `i`. -/
def skipLoop : Nat → Nat → List Nat → Nat
  | _, i, [] => i
  | k, i, w :: ws =>
    if wOp w = 0x08 then skipLoop (k + 1) (i + 1) ws
    else if wOp w = 0x09 then (if k = 0 then i + 1 else skipLoop (k - 1) (i + 1) ws)
    else skipLoop k (i + 1) ws

/-- The index of the LOOP that matches an ENDL of its level: the last LOOP of that level before it. -/
def loopOf (ws : List Nat) (pc level : Nat) : Nat :=
  (((List.range pc).filter fun i => wOp (ws.getD i 0) == 0x08 && wX (ws.getD i 0) == level).getLast?).getD 0

/-- The running slice of a cluster whose sequencer can execute: in a fetch phase, not waiting and not stopped. -/
def sequencing (c : Nat) : M Slice := do
  let d ← dev
  need (d.clusterRuns c)
  let k := d.cl c
  need (k.fetching && k.wait.isNone)
  let s ← have! k.slice
  need (!s.stopped)
  return s

/-- Replace the running slice of a cluster. -/
def setSlice (c : Nat) (s : Slice) : M Unit := modCl c fun k => { k with slice := some s }

/-- Enter the pool phase (R101). -/
def toPool (c : Nat) : M Unit := do
  modCl c fun k => { k with fetching := false }
  wr F.seqStatus_state c qsPOOL

/-- Put an item at the end of the stream buffer. -/
def pushItem (c : Nat) (i : Item) : M Unit := modCl c fun k =>
  { k with items := k.items ++ [{ i with id := k.nextId }], nextId := k.nextId + 1 }

/-- An item that is a close or an error, before its particulars. -/
def Item.plain (kind : ItemKind) (pc : Nat) (after : Resume) : Item :=
  { id := 0, kind := kind, row := 0, va := 0, len := 0, off := 0, husk := none, pos := 0, pc := pc, after := after,
    asked := false, held := false, got := none, paged := none, status := 0, reason := 0, skind := 0, code := 0, bag := 0,
    weight := 1, exp := 0 }

/-- The sequencer fails at its instruction: the error stands at that position of the stream (R104), and no more is
executed. -/
def seqFail (c : Nat) (s : Slice) (status reason skind code : Nat) : M Unit := do
  pushItem c { Item.plain .error s.cur.pc s.cur with status := status, reason := reason, skind := skind, code := code }
  setSlice c { s with stopped := true }
  toPool c

/-- A bounds condition of R95 or R96 at a stream position. -/
def seqBounds (c : Nat) (s : Slice) : M Unit := seqFail c s sBOUNDS rBOUNDS_ADDR ekBOUNDS 0

/-- Execute the instruction at the PC, if its opcode is `op`: the new state, or failure with BOUNDS. -/
def seqPlain (c op : Nat) (f : Slice → Nat → Option Resume) : M Unit := do
  let s ← sequencing c
  let w ← have! s.prog[s.cur.pc]?
  need (wOp w == op)
  match f s w with
  | some r => setSlice c { s with cur := r }
  | none => seqBounds c s

/-- SEQ_ERR.KIND of a failed access. -/
def kindOfStatus (far : Bool) (st : Nat) : Nat :=
  if far then ekREMOTE
  else if st = sFAULT_FATAL then ekFAULT
  else if st = sWORLD_VIOLATION then ekWORLD
  else if st = sLINK_LOST then ekREMOTE
  else ekBOUNDS

/-- The shares of the cluster's request classes allow an access to these pieces: READ or WRITE for local ones, REMOTE for
those of another node (R111, R113). -/
def Dev.shareOk (d : Dev) (c : Nat) (write : Bool) (segs : List Seg) : Bool :=
  segs.all fun s =>
    if !s.local' d.self then d.rd F.seqShare_remote c != 0
    else if write then d.rd F.seqShare_write c != 0
    else d.rd F.seqShare_read c != 0

/-- The pieces of a cluster's read, merged by page; an access whose share is 0 fails with kind SHARE. -/
def clusterSegs (c q seq world asid va len : Nat) : M (Except (Nat × Nat × Nat) (List Seg)) := do
  match ← caught (translate (clusterWaiter c q seq) world asid .rd va len) with
  | .error (st, rs) => return .error (st, rs, kindOfStatus false st)
  | .ok segs =>
    if (← dev).shareOk c false segs then return .ok (mergeSegs segs)
    else return .error (sBOUNDS, rBOUNDS_ADDR, ekSHARE)

/-- Bytes at a virtual address read by a cluster, or the error of the stream position. -/
def clusterRead (c q seq world asid va len : Nat) : M (Except (Nat × Nat × Nat) (List Byte)) := do
  match ← clusterSegs c q seq world asid va len with
  | .error e => return .error e
  | .ok segs =>
    let self := (← dev).self
    let far := segs.any fun s => !s.local' self
    match ← caught (readSegs (clusterWaiter c q seq) (clusterWho c world q seq) false segs) with
    | .ok bs => return .ok bs
    | .error (st, rs) => return .error (st, rs, kindOfStatus far st)

/-- Bytes written by a cluster: the point of coherence, or the status and reason with the SEQ_ERR.KIND of a write that
fails at its stream position, whose class has a share of 0 (R113); a write that fails otherwise has none (R138). -/
def clusterWrite (c q seq world asid va : Nat) (bs : List Byte) : M (Except (Nat × Nat × Option Nat) Nat) := do
  match ← caught (translate (clusterWaiter c q seq) world asid .wr va bs.length) with
  | .error (st, rs) => return .error (st, rs, none)
  | .ok segs =>
    if !(← dev).shareOk c true segs then return .error (sBOUNDS, rBOUNDS_ADDR, some ekSHARE)
    else
      match ← caught (writeSegs (clusterWaiter c q seq) (clusterWho c world q seq) (mergeSegs segs) bs) with
      | .ok et => return .ok et
      | .error (st, rs) => return .error (st, rs, none)

/-- A sequencer read that may fail at the stream position (R104). -/
def seqRead (c : Nat) (s : Slice) (va len : Nat) (f : Nat → M Unit) : M Unit := do
  let d ← dev
  match ← clusterRead c s.q s.seq (d.queueWorld s.q) (d.queueAsid s.q) va len with
  | .ok bs => f (fromBytes bs)
  | .error (st, rs, k) => seqFail c s st rs k (if k = ekREMOTE then st else 0)

/-- A context value (R92). -/
def contextValue (d : Dev) (c : Nat) (x : Desc) (s : Slice) (n : Nat) : Nat :=
  let t := x.table
  if n = 0 then s.first
  else if n = 1 then s.count
  else if n = 2 then x.lkIndex
  else if n = 3 then x.lkIndexCount
  else if n = 4 then x.lkAux
  else if n = 5 then t.base
  else if n = 6 then x.tableRows d.self
  else if n = 7 then t.stride
  else if n = 8 then t.payload
  else if n < 16 then s.params.getD (n - 9) 0
  else if n = 16 then c
  else s.num

/-! ### Instructions without memory (R95) -/

/-- Stream NOP. -/
def execSeqNop (c : Fin 64) (s : State) : Host.Outcome State Fault Refusal :=
  transact (seqPlain c.val 0x00 fun s _ => some s.cur.next) s

/-- Stream TRAP: the slice stops with the trap code (R104). -/
def execSeqTrap (c : Fin 64) (s : State) : Host.Outcome State Fault Refusal :=
  transact (do
    let s ← sequencing c.val
    let w ← have! s.prog[s.cur.pc]?
    need (wOp w == 0x02)
    seqFail c.val s sBOUNDS rBOUNDS_ADDR ekTRAP (wImm w % 65536)) s

/-- Stream WAIT. -/
def execSeqWait (c : Fin 64) (s : State) : Host.Outcome State Fault Refusal :=
  transact (do
    let s ← sequencing c.val
    let w ← have! s.prog[s.cur.pc]?
    need (wOp w == 0x03)
    setSlice c.val { s with cur := s.cur.next }
    if wX w = 0 then toPool c.val
    else
      let et ← now
      let until' := if wX w = 1 then et + wImm w else s.cur.reg (wS w)
      modCl c.val fun k => { k with wait := some until' }
      wr F.seqStatus_state c.val qsWAITING) s

/-- The ET that a WAIT holds the sequencer for is reached. -/
def execSeqWaitExpiry (c : Fin 64) (s : State) : Host.Outcome State Fault Refusal :=
  transact (do
    let d ← dev
    need (d.clusterRuns c.val)
    let u ← have! (d.cl c.val).wait
    need (decide (u ≤ d.time.et))
    modCl c.val fun k => { k with wait := none }
    wr F.seqStatus_state c.val qsFETCH) s

/-- The condition of a SKIP. -/
def skipHolds (x s t : Nat) : Bool :=
  if x = 0 then s == 0 else if x = 1 then s != 0 else if x = 2 then s == t else if x = 3 then s != t
  else if x = 4 then decide (s < t) else decide (t ≤ s)

/-- Stream SKIP. -/
def execSeqSkip (c : Fin 64) (s : State) : Host.Outcome State Fault Refusal :=
  transact (seqPlain c.val 0x04 fun s w =>
    if skipHolds (wX w) (s.cur.reg (wS w)) (s.cur.reg (wT w)) then some s.cur.next.next else some s.cur.next) s

/-- Stream LOOP. -/
def execSeqLoop (c : Fin 64) (s : State) : Host.Outcome State Fault Refusal :=
  transact (seqPlain c.val 0x08 fun s w =>
    let n := if wF w then s.cur.reg (wS w) else wImm w
    if 2 ^ 32 ≤ n then none
    else if n = 0 then some { s.cur with pc := skipLoop 0 (s.cur.pc + 1) (s.prog.drop (s.cur.pc + 1)) }
    else some { s.cur.next with l := s.cur.l.set (wX w) n }) s

/-- Stream ENDL. -/
def execSeqEndl (c : Fin 64) (s : State) : Host.Outcome State Fault Refusal :=
  transact (seqPlain c.val 0x09 fun s w =>
    let n := s.cur.l.getD (wX w) 0 - 1
    let r : Resume := { s.cur with l := s.cur.l.set (wX w) n }
    if 0 < n then some { r with pc := loopOf s.prog s.cur.pc (wX w) + 1 } else some r.next) s

/-- Stream MOVI. -/
def execSeqMovi (c : Fin 64) (s : State) : Host.Outcome State Fault Refusal :=
  transact (seqPlain c.val 0x10 fun s w =>
    let v := if wF w then s.cur.reg (wD w) % 2 ^ 32 + wImm w * 2 ^ 32 else wSext w
    some (s.cur.put (wD w) v).next) s

/-- Stream MOVC. -/
def execSeqMovc (c : Fin 64) (s : State) : Host.Outcome State Fault Refusal :=
  transact (do
    let s ← sequencing c.val
    let x ← getDesc s.q s.seq
    let d ← dev
    seqPlain c.val 0x11 fun s w => some (s.cur.put (wD w) (contextValue d c.val x s (wImm w % 256))).next) s

/-- Stream ADD. -/
def execSeqAdd (c : Fin 64) (s : State) : Host.Outcome State Fault Refusal :=
  transact (seqPlain c.val 0x12 fun s w =>
    some (s.cur.put (wD w) (s.cur.reg (wS w) + (if wF w then 0 else s.cur.reg (wT w)) + wSext w)).next) s

/-- Stream SUB. -/
def execSeqSub (c : Fin 64) (s : State) : Host.Outcome State Fault Refusal :=
  transact (seqPlain c.val 0x13 fun s w =>
    let v := (s.cur.reg (wS w) + (2 ^ 64 - s.cur.reg (wT w))) % 2 ^ 64
    if wF w && decide (2 ^ 63 ≤ v) then none else some (s.cur.put (wD w) v).next) s

/-- Stream MUL. -/
def execSeqMul (c : Fin 64) (s : State) : Host.Outcome State Fault Refusal :=
  transact (seqPlain c.val 0x14 fun s w =>
    some (s.cur.put (wD w) (s.cur.reg (wS w) * s.cur.reg (wT w))).next) s

/-- Stream IDX. -/
def execSeqIdx (c : Fin 64) (s : State) : Host.Outcome State Fault Refusal :=
  transact (seqPlain c.val 0x18 fun s w =>
    some (s.cur.put (wD w) (s.cur.reg (wS w) + s.cur.reg (wT w) * 2 ^ wX w + wSext w)).next) s

/-- Stream ROW. -/
def execSeqRow (c : Fin 64) (s : State) : Host.Outcome State Fault Refusal :=
  transact (do
    let s ← sequencing c.val
    let x ← getDesc s.q s.seq
    let rows := x.tableRows (← dev).self
    seqPlain c.val 0x19 fun s w =>
      let r := s.cur.reg (wT w)
      if rows ≤ r then none else some (s.cur.put (wD w) (x.table.base + r * x.table.stride)).next) s

/-- The row of a feature id: HASH of R95. -/
def hashRow (id k shift rows : Nat) : Nat := id * k % 2 ^ 64 / 2 ^ shift % rows

/-- Stream HASH. -/
def execSeqHash (c : Fin 64) (s : State) : Host.Outcome State Fault Refusal :=
  transact (do
    let s ← sequencing c.val
    let x ← getDesc s.q s.seq
    let rows := x.tableRows (← dev).self
    seqPlain c.val 0x1A fun s w =>
      if rows = 0 then none
      else some (s.cur.put (wD w) (hashRow (s.cur.reg (wS w)) (s.cur.reg (wT w)) (wImm w % 64) rows)).next) s

/-- Stream BND. -/
def execSeqBnd (c : Fin 64) (s : State) : Host.Outcome State Fault Refusal :=
  transact (seqPlain c.val 0x1B fun s w =>
    if s.cur.reg (wT w) ≤ s.cur.reg (wS w) then none else some s.cur.next) s

/-- Stream SEEK. -/
def execSeqSeek (c : Fin 64) (s : State) : Host.Outcome State Fault Refusal :=
  transact (do
    let s ← sequencing c.val
    let x ← getDesc s.q s.seq
    seqPlain c.val 0x21 fun s w =>
      let v := s.cur.reg (wS w)
      if x.lkIndexCount < v then none else some { s.cur.next with ixc := v }) s

/-- Stream END, and execution beyond the last instruction (R100). -/
def execSeqEnd (c : Fin 64) (s : State) : Host.Outcome State Fault Refusal :=
  transact (do
    let s ← sequencing c.val
    let x ← getDesc s.q s.seq
    need (match s.prog[s.cur.pc]? with
      | some w => wOp w == 0x01
      | none => true)
    let done := if x.isPool then s.cur.closes else s.cur.emits
    if done < s.count then seqBounds c.val s
    else
      setSlice c.val { s with stopped := true }
      toPool c.val) s

/-! ### Reads (R95, R98) -/

/-- Bytes of an entry of the index list by the width of a NEXT. -/
def nextWidth (x : Nat) : Nat := if x = 0 then 4 else if x = 1 then 8 else 1

/-- The range that the sequencer of a slice reads next: its program image while it loads, or the operand of a NEXT or
LD. -/
def Slice.nextRead (s : Slice) (x : Desc) : Option (Nat × Nat) :=
  if s.prog.isEmpty then some (x.lkProg, 576)
  else match s.prog[s.cur.pc]? with
    | some w =>
      if wOp w = 0x20 then some (x.lkIndex + s.cur.ixc * nextWidth (wX w), nextWidth (wX w))
      else if wOp w = 0x22 then some ((s.cur.reg (wS w) + wSext w) % 2 ^ 64, 8)
      else none
    | none => none

/-- The sequencer of a cluster waits for the reply to a fault that its read raised (R107). -/
def Dev.seqFaulted (d : Dev) (c : Nat) : Bool :=
  let k := d.cl c
  match k.slice with
  | none => false
  | some s =>
    (k.fetching || s.prog.isEmpty) && !s.stopped && k.wait.isNone &&
    (match d.desc s.q s.seq with
     | none => false
     | some x => match s.nextRead x with
       | none => false
       | some r => (granules r.1 r.2).any fun g =>
           d.faultWaits (clusterWaiter c s.q s.seq) (d.queueAsid s.q) (g.1 / 65536))

/-- The sequencer's state as SEQ_STATUS shows it: FAULT_WAIT while the sequencer or the delivery waits for a fault reply
(R116). -/
def Dev.seqShown (d : Dev) (c : Nat) : Nat :=
  let st := d.rd F.seqStatus_state c
  if st = qsLOADING ∨ st = qsFETCH then (if d.seqFaulted c then qsFAULT_WAIT else st)
  else if st = qsPOOL then
    match (d.cl c).items with
    | i :: _ => if d.itemFaulted c i then qsFAULT_WAIT else st
    | [] => st
  else st

/-- Stream NEXT. -/
def execSeqNext (c : Fin 64) (s : State) : Host.Outcome State Fault Refusal :=
  transact (do
    let s ← sequencing c.val
    let x ← getDesc s.q s.seq
    let w ← have! s.prog[s.cur.pc]?
    need (wOp w == 0x20)
    if x.lkIndexCount ≤ s.cur.ixc then seqBounds c.val s
    else
      let n := nextWidth (wX w)
      seqRead c.val s (x.lkIndex + s.cur.ixc * n) n fun v =>
        setSlice c.val { s with cur := { (s.cur.put (wD w) v).next with ixc := s.cur.ixc + 1 } }) s

/-- Stream LD. -/
def execSeqLd (c : Fin 64) (s : State) : Host.Outcome State Fault Refusal :=
  transact (do
    let s ← sequencing c.val
    let w ← have! s.prog[s.cur.pc]?
    need (wOp w == 0x22)
    let n := if wX w = 1 then 8 else if wX w = 3 then 1 else 4
    let va := (s.cur.reg (wS w) + wSext w) % 2 ^ 64
    if va % n ≠ 0 then seqBounds c.val s
    else
      seqRead c.val s va n fun v =>
        let v := if wX w = 2 then ofSigned 64 (toSigned 32 v) else v
        setSlice c.val { s with cur := (s.cur.put (wD w) v).next }) s

/-! ### Emission (R96, R97, R101) -/

/-- The ranges of an item in memory: the husk, and the payload; one range where they adjoin (R97). -/
def Item.ranges (i : Item) : List (Nat × Nat) :=
  match i.husk with
  | none => [(i.va, i.len)]
  | some h => if h + 32 = i.va then [(h, 32 + i.len)] else [(h, 32), (i.va, i.len)]

/-- Stored bytes of an item, husk included. -/
def Item.stored (i : Item) : Nat := i.len + if i.husk.isSome then 32 else 0

/-- Change an item of a stream buffer. -/
def modItem (c id : Nat) (f : Item → Item) : M Unit := modCl c fun k =>
  { k with items := k.items.map fun i => if i.id == id then f i else i }

/-- An item fails at its stream position. -/
def failItem (c id : Nat) (e : Nat × Nat × Nat) : M Unit :=
  modItem c id fun i => { i with status := e.1, reason := e.2.1, skind := e.2.2,
                                 code := if e.2.2 = ekREMOTE then e.1 else 0 }

/-- Translate an item and issue its reads; a failed translation stands at its position. -/
def askItem (c : Nat) (s : Slice) (i : Item) : M Unit := do
  let d ← dev
  let world := d.queueWorld s.q
  let rs ← collect i.ranges fun r => clusterSegs c s.q s.seq world (d.queueAsid s.q) r.1 r.2
  match rs.findSome? fun r => (match r with | .error e => some e | .ok _ => none) with
  | some e => failItem c i.id e
  | none => modItem c i.id fun i => { i with asked := true }

/-- A fetch phase ends when its reserved bytes reach the mark or the buffer holds 32,768 items (R101). -/
def phaseLimit (c : Nat) : M Unit := do
  let k := (← dev).cl c
  if k.mark ≤ k.filled || decide (32768 ≤ k.items.length) then toPool c

/-- Stream EMIT. -/
def execSeqEmit (c : Fin 64) (s : State) : Host.Outcome State Fault Refusal :=
  transact (do
    let s ← sequencing c.val
    let x ← getDesc s.q s.seq
    let w ← have! s.prog[s.cur.pc]?
    need (wOp w == 0x28)
    let d ← dev
    let t := x.table
    let a := s.cur.reg (wS w)
    let first := wImm w % 65536
    let count := wImm w / 65536
    let weighted := x.isPool && x.lkMode == 2
    if a < t.base ∨ t.base + x.tableRows d.self * t.stride ≤ a ∨ (a - t.base) % t.stride ≠ 0 ∨
       (wF w ∧ (count = 0 ∨ t.payload / 16 < first + count)) ∨ (!wF w ∧ wImm w ≠ 0) ∨
       (x.isPool ∧ 2 ^ 24 - 1 ≤ s.openRows) ∨ (!x.isPool ∧ s.count ≤ s.cur.emits) ∨ (weighted ∧ s.cur.ixc = 0)
    then seqBounds c.val s
    else
      let row := (a - t.base) / t.stride
      let off := if wF w then first * 16 else 0
      let len := if wF w then count * 16 else t.payload
      let cur : Resume := { s.cur.next with emits := s.cur.emits + 1 }
      let id := (d.cl c.val).nextId
      let i : Item := { Item.plain .row s.cur.pc cur with
        id := id, row := row, va := t.payloadVa row + off, len := len, off := off, husk := t.huskVa row,
        pos := s.cur.ixc - 1 }
      pushItem c.val i
      let s : Slice := { s with cur := cur, openRows := s.openRows + 1 }
      modCl c.val fun k => { k with slice := some s, filled := k.filled + i.stored }
      bump F.seqEmitted_count c.val
      attempt (askItem c.val s i)
      phaseLimit c.val) s

/-- Stream CLOSE. -/
def execSeqClose (c : Fin 64) (s : State) : Host.Outcome State Fault Refusal :=
  transact (do
    let s ← sequencing c.val
    let w ← have! s.prog[s.cur.pc]?
    need (wOp w == 0x29)
    if s.count ≤ s.cur.closes then seqBounds c.val s
    else
      let cur : Resume := { s.cur.next with closes := s.cur.closes + 1 }
      pushItem c.val (Item.plain .close s.cur.pc cur)
      setSlice c.val { s with cur := cur, openRows := 0 }
      bump F.seqEmitted_count c.val
      phaseLimit c.val) s

end Sys2Proof.Machine
end

