-- ==== Sys2Proof/Machine/Pool.lean ====
section
/-! DEFINITION. Accumulation and conversion of bags (R119 to R137) and the making of output records (R138). -/

namespace Sys2Proof.Machine

/-! ### Tile rows (R119, R120, R123) -/

/-- The tile row (tile id × 64 + row) of window row `w` of a descriptor on a cluster (R119). -/
def Desc.tileRow (x : Desc) (c w : Nat) : Nat := (c * 128 + x.lkTile + w / 64) * 64 + w % 64

/-- The slot of bag `i` of the `j`-th slice of a descriptor on a cluster (R120). -/
def Desc.slotOf (x : Desc) (j i : Nat) : Nat := (j * x.sliceSize + i) % x.slots

/-- The slot of a bag by its number in the descriptor (R120). -/
def Desc.slotNum (x : Desc) (bag : Nat) : Nat :=
  x.slotOf (bag / x.sliceSize / x.clusterSet.length) (bag % x.sliceSize)

/-- The tiles, by number in the cluster, of the chain in a slot (R119). -/
def Desc.slotTiles (x : Desc) (slot : Nat) : List Nat :=
  ((List.range x.chainRows).map fun j => x.lkTile + (slot * x.chainRows + j) / 64).eraseDups

/-- The slots that the bags of a slice take (R120). -/
def Desc.sliceSlots (x : Desc) (num : Nat) : List Nat :=
  (List.range (min x.sliceSize (x.length - num * x.sliceSize))).map fun i => x.slotOf (num / x.clusterSet.length) i

/-- The key of a lane of the chain in a slot. -/
def Desc.laneKey (x : Desc) (c slot lane : Nat) : Nat :=
  x.tileRow c (slot * x.chainRows + lane / 256) * 256 + lane % 256

/-- The key of the side record of the chain in a slot. -/
def Desc.sideKey (x : Desc) (c slot : Nat) : Nat := x.tileRow c (slot * x.chainRows)

/-- A side record with nothing accumulated. -/
def Side.clear : Side := ⟨0, 0, 0, 0, false, 0, 0, false⟩

/-- The side record of a chain. -/
def Dev.side (d : Dev) (key : Nat) : Side := (SMap.get none d.accs.sides key).getD Side.clear

/-- Replace it. -/
def Dev.setSide (d : Dev) (key : Nat) (s : Side) : Dev :=
  { d with accs := { d.accs with sides := SMap.set none d.accs.sides key (if s = Side.clear then none else some s) } }

/-- A lane. -/
def Dev.lane (d : Dev) (key : Nat) : Nat := SMap.get 0 d.accs.lanes key

/-- Set a lane. -/
def Dev.setLane (d : Dev) (key v : Nat) : Dev :=
  { d with accs := { d.accs with lanes := SMap.set 0 d.accs.lanes key v } }

/-- Clear a chain and its side record (R123). -/
def Dev.clearChain (d : Dev) (x : Desc) (c slot : Nat) : Dev :=
  ((List.range (x.chainRows * 256)).foldl (fun d l => d.setLane (x.laneKey c slot l) 0) d).setSide
    (x.sideKey c slot) Side.clear

/-! ### Terms (R128 to R131) -/

/-- The mode class of R132. -/
def modeClass (mode : Nat) : Nat := if mode ≤ 1 then 0 else if mode = 2 then 1 else 2

/-- Terms of a run (R133). -/
def runLength (intPath : Bool) (mode : Nat) : Nat := if intPath then (if mode = 2 then 16 else 256) else 32

/-- Saturation to 48 bits; the second says that it clamped. -/
def sat48 (i : Int) : Int × Bool :=
  if i < -(2 ^ 47 : Int) then (-(2 ^ 47 : Int), true)
  else if (2 ^ 47 : Int) - 1 < i then ((2 ^ 47 : Int) - 1, true) else (i, false)

/-- A bag with no term yet. -/
def Run.empty : Run := ⟨0, 0, [], 0, []⟩

/-- W of R128: w × 2^e converted to FP32. -/
def weightOf (w : Int) (e : Nat) : F32 :=
  rne32 ((Val.ofInt w).mul (.pow2 (toSigned 8 e)))

/-- Integer-path terms of a row: its lanes, and the zero-point term. `w` is 1 outside WSUM. -/
def Dev.intTerms (d : Dev) (die : Nat) (t : Table) (h : Husk) (p : List Byte) (w : Int) : List Int × Int :=
  let n := p.length * 8 / elemBits t.format
  ((List.range n).map fun i => w * d.levelOf die t (elemAt t.format p i), w * t.zeroPoint h)

/-- FP-path values rne32(m × x) of a row. -/
def Dev.fpValues (d : Dev) (die : Nat) (t : Table) (h : Husk) (p : List Byte) : List F32 :=
  let z := t.zeroPoint h
  let m := t.multiplier h
  (List.range (p.length * 8 / elemBits t.format)).map fun i =>
    f32Mul m (d.elemValue die t z (elemAt t.format p i))

/-- Whether a number beats the best of a lane under MAX or MIN, with the order reversed by a scale below zero
(R131). -/
def beatsInt (mode : Nat) (sc : F32) (t best : Int) : Bool :=
  let rev := f32Lt sc 0
  if (mode == 3) != rev then decide (best < t) else decide (t < best)

/-- The same for FP32 values: a NaN beats every number, and the first NaN stays. -/
def beatsFp (mode : Nat) (sc : F32) (t best : F32) : Bool :=
  let rev := f32Lt sc 0
  if f32Nan best then false
  else if f32Nan t then true
  else if (mode == 3) != rev then f32Lt best t else f32Lt t best

/-- Lanes of MAX and MIN: the best value in the low 32 bits, the winner's bag position above. -/
def Dev.takeBest (d : Dev) (x : Desc) (c slot col pos : Nat) (first : Bool) (better : F32 → Nat → Nat → Bool)
    (terms : List Nat) : Dev :=
  (List.range terms.length).foldl (fun d l =>
    let key := x.laneKey c slot l
    let t := terms.getD l 0
    let best := d.lane key % 2 ^ 32
    let sc := d.colScale (c / 32) x.table (col + l)
    if first || better sc t best then d.setLane key (t + pos * 2 ^ 32) else d) d

/-! ### Promotion (R133 to R135) -/

/-- Promote the open run of a bag into its chain: the chain, its side record and saturation (R133, R135). Without DELIVER
it is a point of coherence of the bag's result (R139). -/
def promoteRun (x : Desc) (c slot : Nat) (r : Run) : M Unit := do
  if r.terms = 0 then pure ()
  else
    let d ← dev
    let key := x.sideKey c slot
    let s := d.side key
    if s.intPath then
      let lanes := (List.range r.ints.length).map fun l =>
        (l, sat48 (toSigned 48 (d.lane (x.laneKey c slot l)) + r.ints.getD l 0))
      let z := sat48 (s.zsum + r.zchunk)
      modDev fun d => lanes.foldl (fun d l => d.setLane (x.laneKey c slot l.1) (ofSigned 48 l.2.1)) d
      let hit := lanes.filter fun l => l.2.2
      let clamped := z.2 || !hit.isEmpty
      modDev fun d => d.setSide key { s with count := min (s.count + r.terms) (2 ^ 32 - 1), zsum := z.1,
                                             sat := s.sat || clamped }
      if clamped then
        let rows := if z.2 then List.range x.chainRows else (hit.map fun l => l.1 / 256).eraseDups
        each ((rows.map fun j => x.lkTile + (slot * x.chainRows + j) / 64).eraseDups) fun tile =>
          modDev fun d =>
            let w := d.word .acmSat c (tile / 32)
            d.setWord .acmSat c (tile / 32) (Nat.lor w (2 ^ (tile % 32)))
        bump F.acmSatEvents_count c
        raiseFlag x.q x.seq fACC_SAT
    else
      modDev fun d => (List.range r.fps.length).foldl (fun d l =>
        let key := x.laneKey c slot l
        let v := d.lane key
        let p := promote (v % 2 ^ 32, v / 2 ^ 32) (r.fps.getD l 0)
        d.setLane key (p.1 + p.2 * 2 ^ 32)) d
      modDev fun d => d.setSide key { s with count := min (s.count + r.terms) (2 ^ 32 - 1) }
    if !x.lkDeliver then progress x.q x.seq 0 0 d.time.et

/-- A run with one more row's integer terms. -/
def Run.addInts (r : Run) (ts : List Int) (z : Int) : Run :=
  { r with rows := r.rows + 1, terms := r.terms + 1, zchunk := r.zchunk + z,
           ints := if r.terms = 0 then ts else (List.range ts.length).map fun i => r.ints.getD i 0 + ts.getD i 0 }

/-- A run with one more row's FP terms. -/
def Run.addFps (r : Run) (ts : List F32) : Run :=
  { r with rows := r.rows + 1, terms := r.terms + 1,
           fps := (List.range ts.length).map fun i =>
             f32Add (if r.terms = 0 then 0 else r.fps.getD i 0) (ts.getD i 0) }

/-- The run after a promotion: no terms. -/
def Run.reset (r : Run) : Run := { r with terms := 0, ints := [], zchunk := 0, fps := [] }

/-! ### Conversion at delivery (R136, R137) -/

/-- The value of a lane as delivered, in FP32, and its winner position. -/
def Dev.laneValue (d : Dev) (x : Desc) (c slot lane : Nat) (s : Side) : F32 × Nat :=
  let mode := x.lkMode
  if s.count = 0 then (0, 0xFFFFFFFF)
  else
    let w := d.lane (x.laneKey c slot lane)
    let sc := d.colScale (c / 32) x.table (s.col + lane)
    let v : F32 :=
      if s.intPath then
        (if mode ≤ 2 then f32OfInt (toSigned 48 w - s.zsum) else f32OfInt (toSigned 32 (w % 2 ^ 32)))
      else if mode ≤ 2 then f32Add (w % 2 ^ 32) (w / 2 ^ 32) else w % 2 ^ 32
    let v := f32Mul v sc
    let v := if s.intPath && mode == 2 then rne32 (v.val.mul (.pow2 (toSigned 8 s.exp))) else v
    let v := if mode = 1 then divVal v.val (Val.ofInt s.count) else v
    (v, w / 2 ^ 32)

/-- Padding to a multiple of 64 bytes. -/
def pad64 (bs : List Byte) : List Byte := bs ++ List.replicate (roundUp bs.length 64 - bs.length) 0

/-- A value of an output format is infinite or NaN. -/
def nonFinite (fmt c : Nat) : Bool :=
  match (fpOf fmt).decode c with
  | .fin _ _ _ => false
  | _ => true

/-- The output record of a bag (R138), whether a value is not finite, and FP8 overflows. -/
def Dev.bagRecord (d : Dev) (x : Desc) (c slot : Nat) : List Byte × Bool × Nat :=
  let s := d.side (x.sideKey c slot)
  let vals := (List.range x.lkLanes).map fun l => d.laneValue x c slot l s
  let (codes, ovf) := convertAll x.lkOutFmt x.table.fp8Sat (vals.map Prod.fst)
  let body := packElems x.lkOutFmt codes
  let body := if modeClass x.lkMode = 2 then body ++ (vals.map fun v => toBytes 4 v.2).flatten else body
  (pad64 body, codes.any (nonFinite x.lkOutFmt), ovf)

/-- Bytes of the output record of a bag or a row (R138, R157). -/
def Desc.recordSize (x : Desc) : Nat :=
  if x.isPool then
    roundUp (x.lkLanes * elemBits x.lkOutFmt / 8 + if modeClass x.lkMode = 2 then 4 * x.lkLanes else 0) 64
  else if x.lkRaw then
    roundUp ((x.lkLanes * elemBits x.table.format + 7) / 8 + if x.lkHuskOut then 32 else 0) 64
  else roundUp (x.lkLanes * elemBits x.lkOutFmt / 8) 64

end Sys2Proof.Machine
end

