-- ==== Sys2Proof/Machine/Gather.lean ====
section
/-! DEFINITION. LOOKUP_POOL and LOOKUP_ROWS: dispatch (R118 to R121, R141, R156, R157), slices (R122, R143), the pool phase
(R101, R103, R124 to R126), delivery (R136 to R140), errors at stream positions (R104, R108), client ports, tile ownership
(R141, R142) and resident tables (R147 to R150). -/

namespace Sys2Proof.Machine

/-! ### Named tiles (R141, R142) -/

/-- The tile ids a LOOKUP_POOL names. -/
def Desc.namedTiles (x : Desc) : List Nat :=
  if x.isPool then
    (x.clusterSet.map fun c => (List.range x.lkTiles).map fun i => c * 128 + x.lkTile + i).flatten
  else []

/-- A tile of the serve window, which belongs to no queue (R280). -/
def Dev.serveTile (d : Dev) (tile : Nat) : Bool :=
  bit (d.rd F.mrgServe_region_mask 8) (tile / 128 / 8) && decide (128 - d.rd F.mrgServe_tiles 8 ≤ tile % 128)

/-- A dispatched descriptor names a tile. -/
def Desc.names (x : Desc) (tile : Nat) : Bool := x.lookup.isSome && x.isPool && x.namedTiles.contains tile

/-- The owner of a tile. -/
def Dev.owner (d : Dev) (tile : Nat) : Option (Nat × Bool) := SMap.get none d.accs.owners tile

/-- Set the owner of a tile, and show the number owned in the cluster (R162). -/
def Dev.setOwner (d : Dev) (tile : Nat) (o : Option (Nat × Bool)) : Dev :=
  let d : Dev := { d with accs := { d.accs with owners := SMap.set none d.accs.owners tile o } }
  let c := tile / 128
  d.wr F.acmOwnedCount_count c
    (d.accs.owners.filter fun e => decide (c * 128 ≤ e.1) && decide (e.1 < c * 128 + 128)).length

/-- Ownership after a descriptor's record is written (R142); `lost` where a cancellation or a time limit ended it. A
LOOKUP_POOL that never claimed its tiles, with LENGTH 0 or a check that failed at dispatch, leaves ownership as it is
(log entry 142). -/
def Dev.releaseTiles (d : Dev) (x : Desc) (lost : Bool) : Dev :=
  if x.lookup.isNone then d
  else x.namedTiles.foldl (fun d tile =>
    let others := d.descs.any fun y => y.q == x.q && y.seq != x.seq && y.names tile
    match d.owner tile with
    | some (q, keep) =>
      if q ≠ x.q then d
      else if lost then (if others then d.setOwner tile (some (q, false)) else d.setOwner tile none)
      else if x.lkKeep then d.setOwner tile (some (q, true))
      else if others then d.setOwner tile (some (q, false))
      else if keep && x.lkKeep then d
      else d.setOwner tile none
    | none => d) d

/-- Tiles that a queue keeps and no dispatched descriptor of it names have no owner any more: its reset (R142). -/
def Dev.dropKept (d : Dev) (q : Nat) : Dev :=
  (d.accs.owners.filter fun e => (e.2.any fun o => o.1 == q) && !(d.descs.any fun y => y.q == q && y.names e.1)).foldl
    (fun d e => d.setOwner e.1 none) d

/-! ### Dispatch -/

/-- The window wraps (R121): two bags take one slot on one cluster. -/
def Desc.wraps (x : Desc) : Bool :=
  let k := x.clusterSet.length
  (List.range k).any fun rank =>
    let m := x.slicesOn rank k
    if m = 0 then false
    else
      let last := rank + (m - 1) * k
      let cnt := min x.sliceSize (x.length - last * x.sliceSize)
      decide (x.slots < (m - 1) * x.sliceSize + cnt)

/-- Output formats of a converted delivery (R136, R157). -/
def outFmtOk (f : Nat) : Bool := decide (f ≤ 3)

/-- The dies that convert for a look-up (R176). -/
def Desc.lookupDies (x : Desc) : List Nat := (x.clusterSet.map fun c => c / 32).eraseDups

/-- The residency slot that holds a table, LOADED (R149). -/
def Dev.residentSlot (d : Dev) (t : Nat) : Option Nat :=
  (List.range 8).find? fun n =>
    d.rd F.gclResCfg_state 64 n == 2 && d.rd F.gclResCfg_table 64 n == t

/-- Earlier descriptors of the queue that name a tile of `x` on a cluster. -/
def Dev.rivals (d : Dev) (x : Desc) (c : Nat) : List Desc :=
  (d.descs.takeWhile fun y => !(y.q == x.q && y.seq == x.seq)).filter fun y =>
    y.q == x.q && y.isPool && y.lookup.isSome && y.clusterSet.contains c &&
    decide (x.lkTile < y.lkTile + y.lkTiles) && decide (y.lkTile < x.lkTile + x.lkTiles)

/-- Records of a descriptor from a source that a port has not accepted. -/
def Dev.unaccepted (d : Dev) (x : Desc) (src : Nat) : List PortRec :=
  d.ports.filter fun r => r.q == x.q && r.seq == x.seq && r.src == src

/-- The rank of a cluster in the set of a descriptor. -/
def Desc.rank (x : Desc) (c : Nat) : Nat := x.clusterSet.idxOf c

/-- Slices of a descriptor that a cluster has still to start. -/
def Desc.slicesLeft (x : Desc) (c : Nat) : Bool :=
  match x.lookup with
  | none => false
  | some l => !x.ended && !x.stopping && l.ready && x.clusterSet.contains c &&
      decide (SMap.get 0 l.started c < x.slicesOn (x.rank c) x.clusterSet.length)

/-- A descriptor has retired from a tile of a cluster (R143): its slices there have ended, and the port has accepted every
bag that it placed in the tile. -/
def Dev.retired (d : Dev) (x : Desc) (c tile : Nat) : Bool :=
  match x.lookup with
  | none => true
  | some l => x.ended || (SMap.get 0 l.ended c == x.slicesOn (x.rank c) x.clusterSet.length &&
      !(d.unaccepted x c).any fun r => (x.slotTiles (x.slotNum r.num)).contains tile)

/-- R121 holds a slice on a cluster: a bag that the descriptor placed earlier in its slots is not delivered. -/
def Dev.wrapHeld (d : Dev) (x : Desc) (c num : Nat) : Bool :=
  let late := (d.unaccepted x c).map fun r => x.slotNum r.num
  !late.isEmpty && (x.sliceSlots num).any late.contains

/-- R143 holds a slice on a cluster: it places a bag in a tile from which an earlier descriptor has not retired. -/
def Dev.tileHeld (d : Dev) (x : Desc) (c num : Nat) : Bool :=
  let earlier := d.rivals x c
  !earlier.isEmpty && ((x.sliceSlots num).map x.slotTiles).flatten.eraseDups.any fun tile =>
    earlier.any fun y => decide (y.lkTile ≤ tile) && decide (tile < y.lkTile + y.lkTiles) && !d.retired y c tile

/-- The number of the next slice of a descriptor on a cluster (R120). -/
def Desc.nextSlice (x : Desc) (c : Nat) : Nat :=
  x.rank c + (x.lookup.map fun l => SMap.get 0 l.started c).getD 0 * x.clusterSet.length

/-- A descriptor's next slice on a cluster is ready (R122). -/
def Dev.sliceReady (d : Dev) (x : Desc) (c : Nat) : Bool :=
  x.slicesLeft c && !(x.isPool && (d.wrapHeld x c (x.nextSlice c) || d.tileHeld x c (x.nextSlice c)))

/-- A cluster has a slice assigned that has not started (R145). -/
def Dev.assigned (d : Dev) (c : Nat) : Bool := d.descs.any fun x => x.slicesLeft c

/-- A slice waits on a cluster under R121 or R143, and none is ready. -/
def Dev.hazardWaits (d : Dev) (c : Nat) : Bool := d.assigned c && !d.descs.any fun x => d.sliceReady x c

/-- A wait under R121 or R143 is counted as it begins (R143). -/
def noteHazard (c : Nat) : M Unit := do
  let d ← dev
  if d.hazardWaits c != (d.cl c).hazard then
    if d.hazardWaits c then bump F.acmHazards_count c
    modCl c fun k => { k with hazard := d.hazardWaits c }

/-- What a look-up reads at dispatch: its table and shard map (R169, R267). -/
def lookupTable (x : Desc) : M Table := do
  let t ← useTable x.q x.seq x.lkTable true
  useShards x.q x.seq ((← dev).queueWorld x.q) t

/-- A look-up whose checks have passed reads its table and starts. -/
def startLookup (x : Desc) : M Unit := do
  let _ ← lookupTable x
  let d ← dev
  setWork x.q x.seq (.lookup ⟨true, [], [], false, if x.isPool then d.residentSlot x.lkTable else none⟩)
  countHold x.q x.seq x.lookupDies
  each x.clusterSet noteHazard

/-- Checks of the addresses that both look-ups have. -/
def lookupAddresses (x : Desc) : M Unit := do
  if x.lkProg % 64 ≠ 0 ∨ x.lkIndex % 8 ≠ 0 ∨ x.lkAux % 8 ≠ 0 then failBounds

/-- The checks of a LOOKUP_POOL that need no memory. -/
def poolForm (x : Desc) : M Unit := do
  x.formChecks
    ([(24, 60, 4), (32, 60, 4), (40, 59, 5), (48, 59, 5), (63, 4, 4)] ++
      (if x.lkDest = 1 && x.lkDeliver then [(48, 4, 48)] else []) ++
      (if x.lkDeliver then [] else [(48, 0, 52), (62, 4, 4)]))
    [x.lkOutFmt] false
  malformedIf (decide (2 ^ 20 < x.length) || x.clusterSet.isEmpty || decide (128 < x.lkTile + x.lkTiles) ||
    decide (4 < x.lkMode) || (x.lkDeliver && !outFmtOk x.lkOutFmt) || ((x.lkMode == 2) != (x.lkWeight != 0)) ||
    (x.wraps && (!x.lkDeliver || x.lkAdd))) rOPERAND

/-- A tile that a queue may not name: another queue owns it, or the serve window holds it (R141, R280). -/
def Dev.tileTaken (d : Dev) (q tile : Nat) : Bool :=
  d.serveTile tile || (match d.owner tile with
    | some (p, _) => p != q
    | none => false)

/-- A LOOKUP_POOL claims the tiles it names at its dispatch, or is refused (R141). -/
def claimTiles (x : Desc) : M Unit := do
  let d ← dev
  let refused := (x.namedTiles.filter (d.tileTaken x.q)).map fun t => t / 128
  if !refused.isEmpty then
    each refused.eraseDups fun c => bump F.acmOwnerRefused_count c
    fail sACC_OWNER rTILE_OWNER
  modDev fun d => x.namedTiles.foldl (fun d tile =>
    d.setOwner tile (match d.owner tile with
      | some o => some o
      | none => some (x.q, false))) d

/-- LOOKUP_POOL (R156). One that owns its tiles already goes on with its table. -/
def lookupPool (x : Desc) : M Unit := do
  if x.lookup.isSome then startLookup x
  else
    poolForm x
    if x.length = 0 then zeroCount x
    else
      lookupAddresses x
      if x.lkWeight % 64 ≠ 0 ∨ (x.lkDeliver ∧ x.lkDest = 0 ∧ x.lkOut % 64 ≠ 0) then failBounds
      claimTiles x
      setWork x.q x.seq (.lookup ⟨false, [], [], false, none⟩)
      attemptWork x.q x.seq (startLookup x)

/-- Dispatch of a LOOKUP_POOL. -/
def execLookupPool (q : Fin 1024) (s : State) : Host.Outcome State Fault Refusal :=
  transact (launch q.val (opcodeIs 0x10) lookupPool) s

/-- LOOKUP_ROWS (R157). -/
def lookupRows (x : Desc) : M Unit := do
  x.formChecks
    ([(24, 60, 4), (32, 60, 4), (40, 0, 64), (48, 52, 12), (62, 4, 4), (63, 2, 1), (63, 4, 4)] ++
      (if x.lkDest = 1 then [(48, 4, 48)] else []))
    [x.lkOutFmt] false
  malformedIf (decide (2 ^ 32 ≤ x.length) || x.clusterSet.isEmpty || (x.lkHuskOut && !x.lkRaw) ||
    (x.lkRaw && x.lkOutFmt != 0) || (!x.lkRaw && !outFmtOk x.lkOutFmt)) rOPERAND
  if x.length = 0 then zeroCount x
  else
    lookupAddresses x
    if x.lkDest = 0 ∧ x.lkOut % 64 ≠ 0 then failBounds
    startLookup x

/-- Dispatch of a LOOKUP_ROWS. -/
def execLookupRows (q : Fin 1024) (s : State) : Host.Outcome State Fault Refusal :=
  transact (launch q.val (opcodeIs 0x11) lookupRows) s

/-! ### Units: accumulation of a row (R124, R125, R149) -/

/-- A residency slot beside its register. -/
def Dev.resident (d : Dev) (n : Nat) : Resident := SMap.get ⟨0, 0, false, [], 0, 0⟩ d.residents n

/-- Replace it. -/
def Dev.setResident (d : Dev) (n : Nat) (r : Resident) : Dev :=
  { d with residents := SMap.set ⟨0, 0, false, [], 0, 0⟩ d.residents n r }

/-- Epochs until the part of a resident table that holds a row is beside a cluster (R148). -/
def Dev.epochsAway (d : Dev) (c n row : Nat) : Nat :=
  let r := d.resident n
  (c + 128 - r.epoch % 64 - row / max r.part 1 % 64) % 64

/-- The slot of the bag with a number in the slice that a cluster runs. -/
def Slice.slot (s : Slice) (x : Desc) (bag : Nat) : Nat := x.slotOf (s.num / x.clusterSet.length) bag

/-- The access counter of a row's husk, after its payload was read through a leaf of this package (R227). -/
def countAccess (i : Item) : M Unit := do
  match i.husk, i.paged with
  | some _, some (pa, _) =>
    let a := pa % 2 ^ 46 + 12
    let d ← dev
    need (!d.moveHeld a 2 && !d.mustWait true a 2)
    let old := fromBytes (← peeks false a 2)
    updateChecked 3 a (toBytes 2 (min 65535 (old + 1)))
  | _, _ => pure ()

/-- What a consumed row leaves in the counters (R140, R161, R373). -/
def countRow (c : Nat) (s : Slice) (i : Item) : M Unit := do
  let d ← dev
  bump F.gclRows_count c
  bump F.gclBytes_count c i.stored
  tap 1 c 9 (d.queueWorld s.q) s.q s.seq i.stored ((i.paged.map Prod.fst).getD 0)
  countAccess i
  match i.paged with
  | some (pa, leaf) => heatCount (d.queueAsid s.q) (i.husk.getD i.va) (pa % 2 ^ 46) (leaf % 2 ^ 64) (leaf / 2 ^ 64)
  | none => pure ()

/-- The husk of an item as a number, and its payload. -/
def Item.parts (i : Item) : Husk × List Byte :=
  let bs := i.got.getD []
  if i.husk.isSome then (fromBytes (bs.take 32), bs.drop 32) else (0, bs)

/-- The first element of an item's range in its row (R126). -/
def Item.col (i : Item) (t : Table) : Nat := i.off * 8 / elemBits t.format

/-- The open run of a bag. -/
def Slice.run (s : Slice) (bag : Nat) : Run := ((s.bags.find? fun b => b.1 == bag).map Prod.snd).getD Run.empty

/-- Replace it. -/
def setRun (c bag : Nat) (run : Run) : M Unit := modCl c fun k => { k with slice := k.slice.map fun s =>
  { s with bags := (bag, run) :: s.bags.filter fun b => b.1 != bag } }

/-- The terms of a row enter its bag's accumulation (R128, R131, R133). A comparison is a point of coherence of a result
that stays in its chain (R139). -/
def accumulate (c : Nat) (x : Desc) (s : Slice) (i : Item) : M Unit := do
  let t := x.table
  let (h, p) := i.parts
  let d ← dev
  let die := c / 32
  let slot := s.slot x i.bag
  let key := x.sideKey c slot
  let run := s.run i.bag
  if modeClass x.lkMode = 2 then
    let side := d.side key
    let col := i.col t
    if t.intPath then
      let z := t.zeroPoint h
      let ls := (d.intTerms die t h p 1).1.map fun l => ofSigned 32 (l - z)
      modDev fun d => d.takeBest x c slot col side.count (side.count == 0)
        (fun sc a b => beatsInt x.lkMode sc (toSigned 32 a) (toSigned 32 b)) ls
    else
      modDev fun d => d.takeBest x c slot col side.count (side.count == 0) (beatsFp x.lkMode) (d.fpValues die t h p)
    modDev fun d => d.setSide key { side with count := min (side.count + 1) (2 ^ 32 - 1) }
    setRun c i.bag { run with rows := run.rows + 1 }
    if !x.lkDeliver then progress x.q x.seq 0 0 d.time.et
  else
    let run := if t.intPath then
        let (ls, z) := d.intTerms die t h p i.weight
        run.addInts ls z
      else
        let vs := d.fpValues die t h p
        run.addFps (if x.lkMode = 2 then vs.map (f32Mul (weightOf i.weight i.exp)) else vs)
    if run.terms = runLength t.intPath x.lkMode then
      promoteRun x c slot run
      setRun c i.bag run.reset
    else setRun c i.bag run

/-- A unit consumes a row of a bag whole (R124). -/
def consumePooled (c : Nat) (x : Desc) (i : Item) : M Unit := do
  let s ← have! ((← dev).cl c).slice
  accumulate c x s i
  countRow c s i
  progress x.q x.seq 1 i.stored 0

/-- Units finish the rows that they hold, epoch by epoch (R109, R149). -/
def finishHeld (c : Nat) (x : Desc) : M Unit := do
  match x.lookup.bind fun l => l.slot with
  | none => pure ()
  | some n =>
    let d ← dev
    let rows := (d.cl c).taken.filter fun i => i.kind == .row
    each ((List.range 64).map fun e => rows.filter fun i => d.epochsAway c n i.row == e).flatten (consumePooled c x)
    modCl c fun k => { k with taken := [] }

/-! ### The end of slices and of look-ups -/

/-- Drop the items of a cluster that are not delivered (R108). -/
def dropItems (c : Nat) : M Unit := do
  let k := (← dev).cl c
  let rows := k.items.filter fun i => i.kind == .row
  let gone := rows.filter fun i => i.got.isSome || !i.asked
  let pend := rows.filter fun i => i.got.isNone && i.asked
  bump F.seqWastedBytes_count c ((gone.map Item.stored).foldl (· + ·) 0)
  bump F.seqWastedRows_count c gone.length
  modCl c fun k => { k with items := [], dropped := k.dropped ++ pend.map fun i => (i.id, i.stored) }

/-- The open runs of a cluster's slice end at their last consumed term, and are promoted (R134). -/
def promoteOpen (c : Nat) (x : Desc) : M Unit := do
  match ((← dev).cl c).slice with
  | none => pure ()
  | some s =>
    each s.bags fun b => promoteRun x c (s.slot x b.1) b.2
    modCl c fun k => { k with slice := k.slice.map fun s => { s with bags := s.bags.map fun b => (b.1, b.2.reset) } }

/-- A cluster's slice is gone. -/
def freeCluster (c : Nat) : M Unit := do
  modCl c fun k => { Cluster.idle with dropped := k.dropped, nextId := k.nextId, hazard := k.hazard }
  wr F.seqStatus_state c qsIDLE

/-- The slice of a cluster stops at its cancel point (R109): items not delivered are dropped, units finish the rows that
they hold, and open runs are promoted. -/
def stopSlice (c : Nat) : M Unit := do
  match ((← dev).cl c).slice with
  | none => pure ()
  | some s =>
    dropItems c
    match (← dev).desc s.q s.seq with
    | some x =>
      if x.isPool then
        finishHeld c x
        promoteOpen c x
    | none => pure ()
    freeCluster c

/-- Every slice of a descriptor stops. -/
def stopSlices (x : Desc) : M Unit := do
  each x.clusterSet fun c => do
    match ((← dev).cl c).slice with
    | some s => if s.q = x.q ∧ s.seq = x.seq then stopSlice c else pure ()
    | none => pure ()

/-- A look-up stops: its slices stop, records that no port has accepted are not delivered, and it ends. -/
def stopLookup (x : Desc) (st rs : Nat) : M Unit := do
  stopSlices x
  modDev fun d => { d with ports := d.ports.filter (fun r => !(r.q == x.q && r.seq == x.seq)) }
  endWith x.q x.seq st rs
  each x.clusterSet noteHazard

/-- A look-up whose slices have all ended and whose records are all accepted ends. -/
def lookupDone (q seq : Nat) : M Unit := do
  let d ← dev
  match d.desc q seq with
  | none => pure ()
  | some x =>
    match x.lookup with
    | none => pure ()
    | some l =>
      let k := x.clusterSet.length
      if x.clusterSet.all (fun c => SMap.get 0 l.ended c == x.slicesOn (x.rank c) k) &&
         !d.ports.any (fun r => r.q == q && r.seq == seq) then endDesc q seq

/-- Change the look-up work of a descriptor. -/
def modLookup (q seq : Nat) (f : Lookup → Lookup) : M Unit := modDesc q seq fun x =>
  match x.work with
  | .lookup l => { x with work := .lookup (f l) }
  | _ => x

/-- A slice has ended. -/
def endSlice (c : Nat) (s : Slice) : M Unit := do
  modLookup s.q s.seq fun l => { l with ended := SMap.set 0 l.ended c (SMap.get 0 l.ended c + 1) }
  freeCluster c
  lookupDone s.q s.seq
  noteHazard c

/-! ### Starting slices (R122) -/

/-- Begin a fetch phase (R101). -/
def toFetch (c : Nat) : M Unit := do
  let mark ← rd F.seqPhase_fill_mark c
  modCl c fun k => { k with fetching := true, filled := 0, mark := mark * 1024, wait := none }
  wr F.seqStatus_state c qsFETCH

/-- Load the program of the slice assigned to a cluster; the first time for its descriptor, check it (R90, R99). -/
def loadProgram (c : Nat) (s : Slice) (x : Desc) (l : Lookup) : M Unit := do
  let d ← dev
  let world := d.queueWorld s.q
  let asid := d.queueAsid s.q
  let bad (e : Nat × Nat × Nat) : M Unit := do
    modCl c fun k => { k with items := [], fetching := false }
    seqFail c s e.1 e.2.1 e.2.2 (if e.2.2 = ekREMOTE then e.1 else 0)
  match ← clusterRead c s.q s.seq world asid x.lkProg 64 with
  | .error e => bad e
  | .ok h =>
    let hdr := fromBytes h
    let count := hdr % 256
    let ok := decide (1 ≤ count) && decide (count ≤ 64)
    match ← clusterRead c s.q s.seq world asid (x.lkProg + 64) (if ok then 8 * count else 0) with
    | .error e => bad e
    | .ok bs =>
      let ws := (List.range (bs.length / 8)).map fun i => fromBytes ((bs.drop (8 * i)).take 8)
      match (if l.checked then none else checkProgram x.isPool hdr ws) with
      | some reason =>
        freeCluster c
        stopLookup x sMALFORMED reason
      | none =>
        modLookup s.q s.seq fun l => { l with checked := true }
        setSlice c { s with prog := ws, params := (List.range 7).map fun i => byteField hdr (8 + 8 * i) 8 }
        toFetch c

/-- The next slice of a look-up is assigned to a cluster, and its program is loaded. -/
def beginSlice (c : Nat) (x : Desc) (l : Lookup) : M Unit := do
  let j := SMap.get 0 l.started c
  let num := x.rank c + j * x.clusterSet.length
  let first := num * x.sliceSize
  let s : Slice := { q := x.q, seq := x.seq, num := num, first := first,
                     count := min x.sliceSize (x.length - first), prog := [], params := [], cur := Resume.start,
                     committed := Resume.start, openRows := 0, bags := [], stopped := false }
  modLookup x.q x.seq fun l => { l with started := SMap.set 0 l.started c (j + 1) }
  modCl c fun k => { k with slice := some s }
  wr F.seqStatus_state c qsLOADING
  wr F.seqOwner_queue c x.q
  wr F.seqOwner_slice c num
  wr F.seqOwnerSeq_seq c x.seq
  modDev fun d => d.showResume c Resume.start
  noteHazard c
  let x ← getDesc x.q x.seq
  let l ← have! x.lookup
  attempt (loadProgram c s x l)

/-- Assign the oldest ready slice to a cluster, or go on loading the program of the one assigned. A slice assigned in
E1 or E2 first brings the clusters back (R478). -/
def execSliceStart (c : Fin 64) (s : State) : Host.Outcome State Fault Refusal :=
  transact (do
    let c := c.val
    let d ← dev
    need (d.inService (pg bGCL c) && d.pow.phase == 0)
    match (d.cl c).slice with
    | some s =>
      need (d.rd F.seqStatus_state c == qsLOADING && d.clusterRuns c)
      let x ← getDesc s.q s.seq
      let l ← have! x.lookup
      loadProgram c s x l
    | none =>
      need (d.rd F.seqStatus_state c != qsERROR)
      let x ← have! (d.descs.find? fun x => d.sliceReady x c)
      let l ← have! x.lookup
      let pst := d.rd F.pwrState_state 0
      need (decide (pst ≤ 2) && d.pow.want.isNone)
      if pst ≠ 0 then
        need (d.pow.exitEt == 0)
        let t := if pst = 1 then usTicks else 40 * usTicks
        modDev fun d => { d with pow := { d.pow with exitEt := d.time.et + t } }
      else
        beginSlice c x l) s

/-! ### The pool phase -/

/-- The stream buffer of a cluster hands items out (R101, R103): in its pool phase, and in a fetch phase while the
sequencer waits for a fault reply (R107). -/
def Dev.handsOut (d : Dev) (c : Nat) : Bool :=
  d.clusterRuns c && (if (d.cl c).fetching then d.seqFaulted c else d.rd F.seqStatus_state c == qsPOOL)

/-- The running slice of a cluster whose buffer hands items out. -/
def pooling (c : Nat) : M Slice := do
  let d ← dev
  need (d.handsOut c)
  have! (d.cl c).slice

/-- The pool phase ends when everything reserved before it has been handed out (R101); a slice ends once its units hold
nothing more either (R149). -/
def execPoolPhaseEnd (c : Fin 64) (s : State) : Host.Outcome State Fault Refusal :=
  transact (do
    let s ← pooling c.val
    let k := (← dev).cl c.val
    need (!k.fetching && k.items.isEmpty && (!s.stopped || k.taken.isEmpty))
    if s.stopped then endSlice c.val s else toFetch c.val) s

/-- The bytes of a row with the bit MIGRATING of its husk set (R226, R379). -/
def Item.showMoving (i : Item) (bs : List Byte) : List Byte :=
  if i.husk.isSome then bs.set 14 (BitVec.ofNat 8 (Nat.lor (bs.getD 14 0).toNat 2)) else bs

/-- Read an item's bytes: from its home, or from the part of its resident slot (R149). A husk shows MIGRATING while a stored
byte of the row lies in a page that moves (R379). -/
def itemBytes (c : Nat) (s : Slice) (i : Item) : M (Except (Nat × Nat × Nat) (List Byte × Option (Nat × Nat))) := do
  let d ← dev
  let world := d.queueWorld s.q
  let slot := match d.desc s.q s.seq with
    | some x => x.lookup.bind fun l => l.slot
    | none => none
  let one (r : Nat × Nat) : M (Except (Nat × Nat × Nat) (List Byte × Option (Nat × Nat) × Bool)) := do
    match ← clusterSegs c s.q s.seq world (d.queueAsid s.q) r.1 r.2 with
    | .error e => return .error e
    | .ok segs =>
      let self := d.self
      let far := segs.any fun s => !s.local' self
      let paged := segs.head?.map fun g => (g.pa, g.leaf + g.size * 2 ^ 64)
      let moving := segs.any fun g => g.local' self && d.moveHeld (g.pa % 2 ^ 46) g.len
      match slot with
      | some n =>
        let img := (d.resident n).image
        let bs := (segs.map fun g => (List.range g.len).map fun o => readByte img (g.pa % 2 ^ 46 + o)).flatten
        return .ok (bs, paged, moving)
      | none =>
        match ← caught (readSegs (clusterWaiter c s.q s.seq) (clusterWho c world s.q s.seq) true segs) with
        | .ok bs => return .ok (bs, if far then none else paged, moving)
        | .error (st, rs) => return .error (st, rs, kindOfStatus far st)
  let rs ← collect i.ranges one
  match rs.findSome? fun r => (match r with | .error e => some e | .ok _ => none) with
  | some e => return .error e
  | none =>
    let oks := rs.filterMap fun r => (match r with | .ok v => some v | .error _ => none)
    let bs := (oks.map Prod.fst).flatten
    return .ok (if oks.any fun o => o.2.2 then i.showMoving bs else bs, oks.findSome? fun o => o.2.1)

/-- A dropped item's data has arrived: it is counted as wasted (R108). A slice in ERROR is torn down once the last has
(R116). -/
def dropArrives (c : Nat) (e : Nat × Nat) : M Unit := do
  modCl c fun k => { k with dropped := k.dropped.filter (fun o => o.1 != e.1) }
  bump F.seqWastedBytes_count c e.2
  bump F.seqWastedRows_count c
  let d ← dev
  if (d.cl c).dropped.isEmpty && d.rd F.seqStatus_state c == qsERROR then wr F.seqStatus_state c qsIDLE

/-- The data of an emitted item arrives, after its translation. -/
def itemArrives (c item : Nat) : M Unit := do
  let d ← dev
  need (d.clusterRuns c)
  let i ← have! ((d.cl c).items.find? fun i => i.id == item)
  need (i.kind == .row && i.got.isNone && i.status == 0)
  let s ← have! (d.cl c).slice
  match ← itemBytes c s i with
  | .error e => failItem c item e
  | .ok (bs, paged) => modItem c item fun i => { i with asked := true, got := some bs, paged := paged }

/-- The data of an item arrives, emitted or dropped. -/
def execRowDataArrival (c : Fin 64) (item : Nat) (s : State) : Host.Outcome State Fault Refusal :=
  transact (do
    match ((← dev).cl c.val).dropped.find? fun e => e.1 == item with
    | some e => dropArrives c.val e
    | none => itemArrives c.val item) s

/-- A committed resume point of a slice, shown in the SEQ page (R106). -/
def commit (c : Nat) (r : Resume) : M Unit := do
  modCl c fun k => { k with slice := k.slice.map fun s => { s with committed := r } }
  modDev fun d => d.showResume c r

/-- The item at the head of the buffer leaves it, delivered (R103). -/
def deliverItem (c : Nat) (i : Item) : M Unit := do
  modCl c fun k => { k with items := k.items.filter (fun j => j.id != i.id) }
  bump F.seqDelivered_count c
  commit c i.after
  modDev fun d => d.noteHold c true

/-- A unit takes the item at the head and holds it until the part of a resident table that it needs is beside the
cluster (R149). -/
def holdItem (c : Nat) (i : Item) : M Unit := do
  deliverItem c i
  modCl c fun k => { k with taken := k.taken ++ [i] }

/-- A held item is done with. -/
def dropTaken (c : Nat) (i : Item) : M Unit := modCl c fun k => { k with taken := k.taken.filter fun j => j.id != i.id }

/-- The exponent of a bag under WSUM (R130), or the error of reading it. -/
def bagExp (c : Nat) (s : Slice) (x : Desc) (bag : Nat) : M (Except (Nat × Nat × Nat) Nat) := do
  if x.lkMode ≠ 2 then return .ok 0
  else
    let d ← dev
    let ws := if x.lkWfmt = 1 then 1 else 2
    match ← clusterRead c s.q s.seq (d.queueWorld x.q) (d.queueAsid x.q)
        (x.lkWeight + roundUp (x.lkIndexCount * ws) 64 + bag) 1 with
    | .error e => return .error e
    | .ok e => return .ok (fromBytes e)

/-- The weight and exponent of a row under WSUM (R130), or the error of reading them. -/
def rowWeight (c : Nat) (s : Slice) (x : Desc) (pos bag : Nat) : M (Except (Nat × Nat × Nat) (Int × Nat)) := do
  if x.lkMode ≠ 2 then return .ok (1, 0)
  else
    let d ← dev
    let ws := if x.lkWfmt = 1 then 1 else 2
    let world := d.queueWorld x.q
    let asid := d.queueAsid x.q
    match ← clusterRead c s.q s.seq world asid (x.lkWeight + pos * ws) ws with
    | .error e => return .error e
    | .ok w =>
      match ← bagExp c s x bag with
      | .error e => return .error e
      | .ok e => return .ok (if ws = 1 then (fromBytes w : Int) else toSigned 16 (fromBytes w), e)

/-- A bag continues an accumulation of another kind (R132). -/
def Side.differs (side : Side) (x : Desc) (exp : Nat) : Bool :=
  side.lanes != 0 && (side.cls != modeClass x.lkMode || side.intPath != x.table.intPath ||
    (x.table.intPath && x.lkMode == 2 && side.exp != exp))

/-- An item covers another range than the first item of its chain (R126). -/
def Side.elsewhere (side : Side) (x : Desc) (col : Nat) : Bool :=
  side.lanes != 0 && (side.col != col || side.lanes != x.lkLanes)

/-- Open a bag: without ADD its chain is cleared (R123). -/
def openBag (c : Nat) (s : Slice) (x : Desc) (bag : Nat) : M Unit := do
  if !(s.bags.any fun b => b.1 == bag) then
    if !x.lkAdd then modDev fun d => d.clearChain x c (s.slot x bag)
    setRun c bag Run.empty

/-- A row joins its bag: the bag opens, and the row's range and kind are held to its chain's (R126, R132). The answer is
the row with its bag, weight and exponent, or none where it fails at its stream position. -/
def joinBag (c : Nat) (s : Slice) (x : Desc) (i : Item) : M (Option Item) := do
  let bag := s.committed.closes
  match ← rowWeight c s x i.pos (s.first + bag) with
  | .error e =>
    failItem c i.id e
    return none
  | .ok (w, e) =>
    openBag c s x bag
    let key := x.sideKey c (s.slot x bag)
    let side := (← dev).side key
    let col := i.col x.table
    if side.differs x e || side.elsewhere x col then
      failItem c i.id (sBOUNDS, rBOUNDS_ADDR, ekBOUNDS)
      return none
    else
      if side.lanes = 0 then
        modDev fun d => d.setSide key { side with exp := e, cls := modeClass x.lkMode, intPath := x.table.intPath,
                                                  col := col, lanes := x.lkLanes }
      return some { i with bag := bag, weight := w, exp := e }

/-- A look-up whose output record could not be written stops (R138). -/
def outputFails (x : Desc) (st rs : Nat) : M Unit := stopLookup x st rs

/-- An error at a stream position takes effect (R104): it is kept in SEQ_ERR, and the look-up stops. The slice shows ERROR
while data of its dropped items has still to arrive (R116; log entry 145). -/
def streamError (c : Nat) (x : Desc) (i : Item) : M Unit := do
  wr F.seqErr_code c i.code
  wr F.seqErr_pc c i.pc
  wr F.seqErr_kind c i.skind
  stopLookup x i.status i.reason
  if !((← dev).cl c).dropped.isEmpty then wr F.seqStatus_state c qsERROR

/-- What the delivery of an output record counts: rows and bytes of the descriptor's record, its flags, and the counters of
its cluster or interaction stage (R136, R137, R140, R161, R162). A LOOKUP_POOL counts rows and bytes as it consumes
them. -/
def countRecord (r : PortRec) (coh : Nat) : M Unit := do
  match (← dev).desc r.q r.seq with
  | none => pure ()
  | some x =>
    progress r.q r.seq r.rows (if x.isPool then 0 else r.bytes.length) coh
    if r.src < 64 then
      if r.empty then bump F.gclEmpty_count r.src
      if r.nf then bump F.gclNonfinite_count r.src
    else bump F.intSamples_count (r.src - 64)
    if r.empty then raiseFlag r.q r.seq fEMPTY_BAG
    if r.nf then raiseFlag r.q r.seq fNONFINITE

/-- Deliver an output record (R138): to memory, or to a client port once the cluster's last record is accepted. `i` is the
item whose turn it is, at whose stream position a write of a class without a share fails (R113). -/
def deliverRecord (c : Nat) (x : Desc) (i : Item) (r : PortRec) (after : M Unit) : M Unit := do
  let d ← dev
  if x.lkDest = 1 then
    need (d.unaccepted x c).isEmpty
    modDev fun d => { d with ports := d.ports ++ [r] }
    after
  else
    match ← clusterWrite c x.q x.seq (d.queueWorld x.q) (d.queueAsid x.q) (x.lkOut + r.num * x.recordSize) r.bytes with
    | .ok et =>
      countRecord r et
      after
    | .error (st, rs, none) => outputFails x st rs
    | .error (st, rs, some kind) => streamError c x { i with status := st, reason := rs, skind := kind, code := 0 }

/-- 32 free bytes, where a husk is asked of a table that has none. -/
def freeHusk : M (List Byte) := do
  let a ← freeValue 64
  let b ← freeValue 64
  let c ← freeValue 64
  let e ← freeValue 64
  return toBytes 8 a ++ toBytes 8 b ++ toBytes 8 c ++ toBytes 8 e

/-- A row of LOOKUP_ROWS: converted, or its stored bytes, as one record (R157). -/
def passRow (c : Nat) (s : Slice) (x : Desc) (i : Item) : M Unit := do
  let t := x.table
  let (h, p) := i.parts
  let d ← dev
  let die := c / 32
  let lead ← if x.lkHuskOut then (if i.husk.isSome then pure ((i.got.getD []).take 32) else freeHusk) else pure []
  let vs := d.decodeRow die t h (i.col t) p
  let (codes, ovf) := convertAll x.lkOutFmt t.fp8Sat vs
  let body := if x.lkRaw then lead ++ p else packElems x.lkOutFmt codes
  let r : PortRec := ⟨x.lkOut % 16, c, x.q, x.seq, s.first + (i.after.emits - 1), pad64 body, 1, false,
    !x.lkRaw && codes.any (nonFinite x.lkOutFmt)⟩
  deliverRecord c x i r do
    if !x.lkRaw && x.lkOutFmt == fE4M3 then bump F.qntFp8Ovf_count die ovf
    countRow c s i
    deliverItem c i

/-- A row of a LOOKUP_POOL has its turn: it is consumed at once, or held for its part of a resident table (R149). -/
def poolRow (c : Nat) (s : Slice) (x : Desc) (resident : Bool) (i : Item) : M Unit := do
  match ← joinBag c s x i with
  | none => pure ()
  | some i =>
    if resident then holdItem c i
    else
      consumePooled c x i
      deliverItem c i

/-- The row at the head of a slice's stream has its turn: its checks at the stream position, then its bag or its record. -/
def rowTurn (c : Nat) (s : Slice) (x : Desc) (resident : Bool) (i : Item) : M Unit := do
  let d ← dev
  let (h, p) := i.parts
  let world := d.queueWorld x.q
  if world == 0 && i.husk.isSome && h.secure then
    let pa := ((i.paged.map Prod.fst).getD 0) % 2 ^ 46
    violation 0 world 3 (d.regionHolding (pa / 65536)) x.q pa (pg bGCL c)
    failItem c i.id (sWORLD_VIOLATION, rWORLD, ekWORLD)
  else if p.length * 8 / elemBits x.table.format ≠ x.lkLanes then
    failItem c i.id (sBOUNDS, rBOUNDS_ADDR, ekBOUNDS)
  else if x.isPool then poolRow c s x resident i
  else passRow c s x i

/-- The row whose turn it is at the head of the buffer, once its bytes have arrived. -/
def Dev.headRow (d : Dev) (c : Nat) : Option Item :=
  if d.handsOut c then
    match (d.cl c).items with
    | i :: _ => if i.kind == .row && i.got.isSome && i.status == 0 then some i else none
    | [] => none
  else none

/-- The units of a cluster work: they finish what they hold while it is fenced (R107). -/
def Dev.unitsRun (d : Dev) (c : Nat) : Bool :=
  (d.clusterRuns c || d.rd F.seqStatus_state c == qsHELD) && d.rd F.pwrState_state 0 == 0 && d.pow.phase == 0

/-- The first held row whose part of a resident table is beside the cluster (R149). -/
def Dev.besideRow (d : Dev) (c : Nat) (slot : Option Nat) : Option Item :=
  match slot with
  | none => none
  | some n => (d.cl c).taken.find? fun i => i.kind == .row && d.epochsAway c n i.row == 0

/-- Units consume a row that they hold. In a fenced cluster the runs end with the last one (R134). -/
def consumeHeld (c : Nat) (x : Desc) (i : Item) : M Unit := do
  consumePooled c x i
  dropTaken c i
  let d ← dev
  if d.rd F.seqStatus_state c == qsHELD && !((d.cl c).taken.any fun i => i.kind == .row) then promoteOpen c x

/-- A unit takes an item whole (R124) and adds it to its bag, or passes it on. Against a resident table it takes items in
emission order and consumes one that it holds when its part is beside the cluster (R149). -/
def execRowItemConsume (c : Fin 64) (s : State) : Host.Outcome State Fault Refusal :=
  transact (do
    let c := c.val
    let d ← dev
    let s ← have! (d.cl c).slice
    let x ← getDesc s.q s.seq
    let l ← have! x.lookup
    need (!d.scaleHeld x)
    match d.headRow c with
    | some i => rowTurn c s x l.slot.isSome i
    | none =>
      need (d.unitsRun c)
      consumeHeld c x (← have! (d.besideRow c l.slot))) s

/-- A close has its turn: a bag that takes no item of its own is held to the kind of its chain (R132). -/
def closeFits (c : Nat) (s : Slice) (x : Desc) (i : Item) : M Bool := do
  let bag := s.committed.closes
  if x.lkAdd && !(s.bags.any fun b => b.1 == bag) then
    match ← bagExp c s x (s.first + bag) with
    | .error e =>
      failItem c i.id e
      return false
    | .ok e =>
      if ((← dev).side (x.sideKey c (s.slot x bag))).differs x e then
        failItem c i.id (sBOUNDS, rBOUNDS_ADDR, ekBOUNDS)
        return false
      else return true
  else return true

/-- A bag closes: its open run is promoted, and with DELIVER its record leaves (R133, R136, R139). `done` lets its close
go. -/
def closeBag (c : Nat) (s : Slice) (x : Desc) (bag : Nat) (i : Item) (done : M Unit) : M Unit := do
  openBag c s x bag
  let slot := s.slot x bag
  let run := s.run bag
  promoteRun x c slot run
  setRun c bag run.reset
  let finish : M Unit := do
    bump F.gclBags_count c
    modCl c fun k => { k with slice := k.slice.map fun s => { s with bags := s.bags.filter fun b => b.1 != bag } }
    done
  if x.lkDeliver then
    let d ← dev
    let (rec', nf, ovf) := d.bagRecord x c slot
    let empty := (d.side (x.sideKey c slot)).count == 0
    deliverRecord c x i ⟨x.lkOut % 16, c, x.q, x.seq, s.first + bag, rec', 0, empty, nf⟩ do
      if x.lkOutFmt = fE4M3 then bump F.qntFp8Ovf_count (c / 32) ovf
      finish
  else finish

/-- The close whose turn it is at the head of the buffer. -/
def Dev.headClose (d : Dev) (c : Nat) : Option Item :=
  if d.handsOut c then
    match (d.cl c).items with
    | i :: _ => if i.kind == .close && i.status == 0 then some i else none
    | [] => none
  else none

/-- The first held close of a bag all of whose items have been consumed (R149); with DELIVER the oldest close alone, since
records leave in bag order (R138). -/
def Dev.heldClose (d : Dev) (c : Nat) (deliver : Bool) : Option Item :=
  let held := (d.cl c).taken
  let closes := held.filter fun i => i.kind == .close
  let ripe (i : Item) : Bool := !held.any fun j => j.kind == .row && j.bag == i.bag
  if deliver then closes.head?.filter ripe else closes.find? ripe

/-- A close reaches a unit: its bag closes, at once, or against a resident table once its items have all been consumed. -/
def execBagDeliver (c : Fin 64) (s : State) : Host.Outcome State Fault Refusal :=
  transact (do
    let c := c.val
    let d ← dev
    let s ← have! (d.cl c).slice
    let x ← getDesc s.q s.seq
    let l ← have! x.lookup
    need (!d.scaleHeld x)
    match d.headClose c with
    | some i =>
      if ← closeFits c s x i then
        let bag := s.committed.closes
        if l.slot.isSome then
          openBag c s x bag
          holdItem c { i with bag := bag }
        else closeBag c s x bag i (deliverItem c i)
    | none =>
      need (d.unitsRun c)
      let i ← have! (d.heldClose c x.lkDeliver)
      closeBag c s x i.bag i (dropTaken c i)) s

/-- An error reaches the head of the stream: it takes effect (R104). -/
def execStreamErrorEffect (c : Fin 64) (s : State) : Host.Outcome State Fault Refusal :=
  transact (do
    let c := c.val
    let s ← pooling c
    let i ← have! ((← dev).cl c).items.head?
    need (i.kind == .error || i.status != 0)
    streamError c (← getDesc s.q s.seq) i) s

/-! ### Client ports (R3, R44, R138) -/

/-- A port has accepted a record of a look-up. -/
def acceptLookup (r : PortRec) (x : Desc) : M Unit := do
  lookupDone r.q r.seq
  each x.clusterSet noteHazard

/-! ### Registers of the accumulators -/

/-- A write of ACM_RELEASE releases a tile that no dispatched descriptor names (R162). -/
def acmRelease (c tile : Nat) (w : RegAcc) : M Unit := do
  let d ← dev
  let id := c * 128 + tile
  if d.descs.any fun x => x.names id then w.ignore
  else modDev fun d => d.setOwner id none

/-- A write of ACM_RELEASE. -/
def execAcmRelease (c : Fin 64) (tile : Fin 128) (a : Agent) (s : State) : Host.Outcome State Fault Refusal :=
  transact (let w := regAcc .acmRelease c.val 0 tile.val a
    w.run (acmRelease c.val tile.val w)) s

/-! ### Resident tables (R147 to R150, R163) -/

/-- Set the state of a residency slot. -/
def setSlot (n st : Nat) : M Unit := wr F.gclResCfg_state 64 st n

/-- Descriptors that run against a slot. -/
def Dev.slotUsers (d : Dev) (n : Nat) : Bool :=
  d.descs.any fun x => !x.ended && (match x.lookup with
    | some l => l.slot == some n
    | none => false)

/-- Rows of a table have changed, or lie in a range that is wiped: its slot is DROPPED (R150, R463). -/
def dropResident (t : Nat) : M Unit := do
  each (List.range 8) fun n => do
    let d ← dev
    if d.rd F.gclResCfg_table 64 n = t ∧ (d.rd F.gclResCfg_state 64 n = 2 ∨ d.rd F.gclResCfg_state 64 n = 1) then
      setSlot n 3

/-- The bytes of a part of a table (R147). -/
def partBytes (t : Table) : Nat := (t.rows + 63) / 64 * t.stride

/-- Lines of a slice set's PINNED capacity in bytes, the least over all slices (R324, R327). -/
def Dev.pinnedCapacity (d : Dev) : Nat :=
  ((List.range 8).map fun r => d.rd F.llsPart_pinned (64 + r) * (6 * 2 ^ 20)).foldl min (16 * 6 * 2 ^ 20)

/-- Bytes that the resident parts of the slots of a list take in every slice: twice the part of each that is LOADING or
LOADED (R147). -/
def Dev.residentBytes (d : Dev) (slots : List Nat) : Nat :=
  ((slots.filter fun m => d.rd F.gclResCfg_state 64 m == 1 || d.rd F.gclResCfg_state 64 m == 2).map fun m =>
    2 * (d.resident m).bytes).foldl (· + ·) 0

/-- ENABLE = 1 loads a slot, or refuses its table (R147). PART_KIB then shows the part of the load, and keeps it when the
slot is emptied or a later load is refused: the spec does not say what it shows there (DESIGN CHOICE, log entry 146). -/
def residentLoad (n tab : Nat) (w : RegAcc) : M Unit := do
  let refuse : M Unit := do
    setSlot n 4
    w.refuse
  match ← caught (do
      let t ← readTable 1024 0 tab true
      readShards 1024 0 ((← dev).pageWorld (pg bGCL 64)) t) with
  | .error _ => refuse
  | .ok t =>
    let d ← dev
    let others := (List.range 8).filter fun m => m != n
    let same := others.any fun m => d.rd F.gclResCfg_enable 64 m == 1 && d.rd F.gclResCfg_table 64 m == tab
    let part := partBytes t
    if !t.intPath || (t.form != 0 && (t.form != 1 || t.nodeOf d.self 0 != d.self)) || decide (8 * 2 ^ 20 < part) ||
       same || decide (d.pinnedCapacity < d.residentBytes others + 2 * part) then refuse
    else
      wr F.gclResCfg_part_kib 64 ((part + 1023) / 1024) n
      setSlot n 1
      modDev fun d => d.setResident n { d.resident n with next := (t.rows + 63) / 64, bytes := part, emptying := false }

/-- ENABLE = 0 empties a slot at its next epoch boundary, where a slot that no descriptor needs stands already (R148,
R161). -/
def residentEmpty (n : Nat) : M Unit := do
  if (← dev).slotUsers n then modDev fun d => d.setResident n { d.resident n with emptying := true }
  else
    setSlot n 0
    modDev fun d => d.setResident n ⟨0, 0, false, [], 0, 0⟩

/-- A write of a residency slot's register (R161). While ENABLE = 1 a write of another TABLE is ignored and recorded. -/
def residentWrite (n v : Nat) (w : RegAcc) : M Unit := do
  let d ← dev
  let on := d.rd F.gclResCfg_enable 64 n == 1
  let want := bit v 16
  let tab := d.rd F.gclResCfg_table 64 n
  let other := v % 2 ^ 16 != tab
  if on && other then w.ignore else wr F.gclResCfg_table 64 (v % 2 ^ 16) n
  if want then
    if !on || (!other && decide (2 < d.rd F.gclResCfg_state 64 n)) then
      wr F.gclResCfg_enable 64 1 n
      residentLoad n (v % 2 ^ 16) w
  else if on then
    wr F.gclResCfg_enable 64 0 n
    residentEmpty n

/-- A write of GCL_RES_CFG. -/
def execResidentLoad (slot : Fin 8) (v : BitVec 64) (a : Agent) (s : State) : Host.Outcome State Fault Refusal :=
  transact (let w := regAcc .gclResCfg 64 slot.val v.toNat a
    w.run (residentWrite slot.val v.toNat w)) s

/-- The parts of a LOADING slot have been read (R163), once no descriptor runs on older parts of it (R150). -/
def execResidentLoadDone (slot : Fin 8) (s : State) : Host.Outcome State Fault Refusal :=
  transact (do
    let n := slot.val
    let d ← dev
    need (d.rd F.gclResCfg_state 64 n == 1 && !d.slotUsers n)
    let i ← read
    setSlot n 2
    modDev fun d => d.setResident n { d.resident n with part := (d.resident n).next, image := i.mem, epoch := 0 }) s

/-- A region is fenced, by itself or as an error. -/
def Dev.anyFenced (d : Dev) : Bool := (List.range 8).any d.regionFenced

/-- A cluster has nothing left to consume from the part of a slot beside it. -/
def Dev.partDone (d : Dev) (n c : Nat) : Bool :=
  match (d.cl c).slice with
  | none => true
  | some s => match d.desc s.q s.seq with
    | none => true
    | some x => match x.lookup with
      | some l => l.slot != some n || (d.besideRow c (some n)).isNone
      | none => true

/-- The parts of a slot move on (R148). A slot whose ENABLE is 0 is EMPTY from this boundary on: later look-ups read the
table at its home, and those that run against the slot finish on its parts, as R150 lets them after a change of rows
(DESIGN CHOICE, log entry 143). -/
def endEpoch (n : Nat) : M Unit := do
  bump F.gclResEpoch_count 64
  let d ← dev
  let r := d.resident n
  if r.emptying then
    setSlot n 0
    if d.slotUsers n then modDev fun d => d.setResident n { r with epoch := r.epoch + 1, emptying := false }
    else modDev fun d => d.setResident n ⟨0, 0, false, [], 0, 0⟩
  else modDev fun d => d.setResident n { r with epoch := r.epoch + 1 }

/-- An epoch of a slot ends: every cluster has consumed what it holds for the part beside it, and the parts move on
(R148). It happens while a descriptor needs the slot; with a region fenced the slot holds (R150). -/
def execResidentEpochEnd (slot : Fin 8) (s : State) : Host.Outcome State Fault Refusal :=
  transact (do
    let n := slot.val
    let d ← dev
    need ((d.slotUsers n || (d.resident n).emptying) && !d.anyFenced)
    need ((List.range 64).all (d.partDone n))
    endEpoch n) s

end Sys2Proof.Machine
end

