-- ==== Sys2Proof/Machine/Interact.lean ====
section
/-! DEFINITION. INTERACT (R151 to R155, R158, R159), its stash (R259), and client ports (R44, R138). -/

namespace Sys2Proof.Machine

/-! ### Fields (R158, R159) -/

def Desc.itSrc (x : Desc) : Nat := x.field 16 0 52
def Desc.itDims (x : Desc) : Nat := x.field 16 52 9 + 1
def Desc.itOut (x : Desc) : Nat := x.field 24 0 52
def Desc.itMask (x : Desc) : Nat := x.field 24 52 8
def Desc.itStash (x : Desc) : Nat := x.field 32 0 52
def Desc.itFeatures (x : Desc) : Nat := x.field 40 0 7
def Desc.itOutFmt (x : Desc) : Nat := x.field 41 0 4
def Desc.itStashFmt (x : Desc) : Nat := x.field 41 4 4
def Desc.itSelf (x : Desc) : Bool := x.field 42 0 1 == 1
def Desc.itDest (x : Desc) : Nat := x.field 42 1 1

/-- Regions of a mask, lowest first (R151, R211). -/
def maskRegions (m : Nat) : List Nat := (List.range 8).filter fun r => bit m r

/-- Source entry fields (R159). -/
def srcKind (e : Nat) : Nat := bits e 0 2
def srcInt (e : Nat) : Bool := bit e 2
def srcFmt (e : Nat) : Nat := bits e 8 4
def srcTable (e : Nat) : Nat := byteField e 2 2
def srcStride (e : Nat) : Nat := byteField e 4 4
def srcBase (e : Nat) : Nat := bits e 64 52

/-- A source entry holds no reserved value and no field of the other kind (R159). -/
def srcOk (e : Nat) : Bool :=
  decide (srcKind e ≤ 1) && bits e 3 5 == 0 && bits e 12 4 == 0 && bits e 116 12 == 0 && byteField e 16 16 == 0 &&
  (if srcKind e = 0 then !srcInt e && srcTable e == 0 && decide (srcFmt e ≤ 2)
   else srcFmt e == 0 && srcStride e == 0)

/-- An interaction stage as a requester and as an access source. -/
def stageWaiter (r q seq : Nat) : Waiter := ⟨.stage r, q, seq⟩
def intWho (r world q seq : Nat) : Who := ⟨7, r, 1, world, q, seq, pg bINT r, 0⟩

/-- Samples of a region and of a rank (R151). -/
def rankSamples (n rank k : Nat) : Nat :=
  let blocks := (n + 63) / 64
  let mine := (blocks + k - 1 - rank) / k
  if mine = 0 then 0
  else
    let last := rank + (mine - 1) * k
    (mine - 1) * 64 + min 64 (n - last * 64)

/-- Show in INT_STATUS what each stage runs (R162): a block of a fenced region is held, and one of a region in ERROR shows
ERROR. -/
def Dev.syncInt (d : Dev) : Dev :=
  (List.range 8).foldl (fun d r =>
    let busy := d.descs.find? fun x => !x.ended && (match x.work with
      | .interact _ done =>
        let rs := maskRegions x.itMask
        rs.contains r && decide (SMap.get 0 done r < rankSamples x.length (rs.idxOf r) rs.length)
      | _ => false)
    let st := match busy with
      | none => 0
      | some _ => if d.pageSt (pg bRGN r) == 4 then 3 else if d.regionFenced r then 2 else 1
    let d := d.wr F.intStatus_state r st
    d.wr F.intStatus_queue r ((busy.map fun x => x.q).getD 0)) d

/-- INTERACT (R158). -/
def interact (x : Desc) : M Unit := do
  x.formChecks
    ([(16, 61, 3), (24, 60, 4), (32, 52, 12), (40, 7, 1), (42, 2, 6), (43, 0, 168)] ++
      (if x.itDest = 1 then [(24, 4, 48)] else []))
    [x.itOutFmt, x.itStashFmt] false
  malformedIf (decide (2 ^ 32 ≤ x.length) || decide (64 < x.itFeatures) || x.itMask == 0 ||
    decide (1 < x.itOutFmt) ||
    (if x.itStash = 0 then x.itStashFmt != 0 else x.itStashFmt != fBF16 && x.itStashFmt != fE4M3) ||
    (x.itFeatures == 1 && !x.itSelf)) rOPERAND
  if x.length = 0 ∨ x.itFeatures = 0 then zeroCount x
  else
    if x.itSrc % 64 ≠ 0 ∨ (x.itDest = 0 ∧ x.itOut % 64 ≠ 0) then failBounds
    let d ← dev
    let r := (maskRegions x.itMask).headD 0
    let bs ← readVa (stageWaiter r x.q x.seq) (intWho r (d.queueWorld x.q) x.q x.seq) (d.queueAsid x.q) x.itSrc
      (32 * x.itFeatures)
    let srcs := (List.range x.itFeatures).map fun i => fromBytes ((bs.drop (32 * i)).take 32)
    malformedIf (srcs.any fun e => !srcOk e) rOPERAND
    let nums := ((srcs.filter fun e => srcKind e == 1).map srcTable).eraseDups
    let ts ← collect nums fun n => useTable x.q x.seq n true
    malformedIf (srcs.any fun e => srcInt e && (match ts.find? fun t => t.num == srcTable e with
      | some t => !t.intPath || t.elems != x.itDims
      | none => true)) rOPERAND
    setWork x.q x.seq (.interact srcs [])
    countHold x.q x.seq ((maskRegions x.itMask).map dieOfRegion).eraseDups
    modDev Dev.syncInt

/-- Dispatch of an INTERACT. -/
def execInteract (q : Fin 1024) (s : State) : Host.Outcome State Fault Refusal :=
  transact (launch q.val (opcodeIs 0x12) interact) s

/-! ### Samples (R152 to R155) -/

/-- A vector of a sample: its FP32 values, and for a row its levels, zero point and code row-sum. -/
structure Vec where
  vals : List F32
  levels : List Int
  z : Int
  sum : Int
  intPath : Bool
  scale : F32
  deriving DecidableEq, Repr

/-- Free values for the elements that a row shorter than D does not have (log entry 19). -/
def padFree (n : Nat) (vs : List F32) : M (List F32) := do
  let more ← collect (List.range (n - vs.length)) fun _ => freeValue 32
  return vs.take n ++ more

/-- The code row-sum of a row (R153). A table without a husk has none, and a stale one is not detected: the value is then
free (DESIGN CHOICE, log entry 144). -/
def rowSum (t : Table) (h : Husk) (integer : Bool) : M Int := do
  if t.husk != 0 then return Husk.rowsum h
  else if integer then return toSigned 32 (← freeValue 32)
  else return 0

/-- Read one vector of a sample. -/
def readVec (r : Nat) (x : Desc) (e sample : Nat) : M Vec := do
  let d ← dev
  let w := stageWaiter r x.q x.seq
  let who := intWho r (d.queueWorld x.q) x.q x.seq
  let asid := d.queueAsid x.q
  let n := x.itDims
  if srcKind e = 0 then
    let b := elemBits (srcFmt e) / 8
    let bs ← readVa w who asid (srcBase e + sample * srcStride e) (n * b)
    return ⟨(List.range n).map fun i => (fpOf (srcFmt e)).widen (elemAt (srcFmt e) bs i), [], 0, 0, false, f32One⟩
  else
    let row := fromBytes (← readVa w who asid (srcBase e + 4 * sample) 4)
    let t := (x.tabs.find? fun t => t.num == srcTable e).getD ⟨0, 0, 0, []⟩
    if t.rows ≤ row then failBounds
    let h ← match t.huskVa row with
      | some a => do pure (fromBytes (← readVa w who asid a 32))
      | none => pure 0
    if who.world == 0 && t.husk != 0 && Husk.secure h then
      violation 0 0 3 none x.q (t.rowVa row) who.page
      fail sWORLD_VIOLATION rWORLD
    let p ← readVa w who asid (t.payloadVa row) t.payload
    let die := dieOfRegion r
    let vals ← padFree n (d.decodeRow die t h 0 p)
    let ls := if srcInt e then (List.range t.elems).map fun i => d.levelOf die t (elemAt t.format p i) else []
    return ⟨vals, ls, t.zeroPoint h, ← rowSum t h (srcInt e), srcInt e, d.scale die t.scaleBase⟩

/-- The value of a pair (R152, R153). -/
def pairValue (dims : Nat) (a b : Vec) : F32 :=
  if a.intPath && b.intPath then
    let dot := (List.range dims).foldl (fun (n : Int) k => n + a.levels.getD k 0 * b.levels.getD k 0) 0
    let v := f32OfInt (dot - b.z * a.sum - a.z * b.sum + (dims : Int) * a.z * b.z)
    f32Mul (f32Mul v a.scale) b.scale
  else
    let p := sumRuns 32 ((List.range dims).map fun k => f32Mul (a.vals.getD k 0) (b.vals.getD k 0))
    f32Add p.1 p.2

/-- The pairs of a sample in their order (R154). -/
def pairList (f : Nat) (self : Bool) : List (Nat × Nat) :=
  ((List.range f).map fun i => (List.range (if self then i + 1 else i)).map fun j => (i, j)).flatten

/-- Where the stash of one vector of a sample goes (R259): addresses and bytes. `last` is the descriptor's last
sample, which also writes the unused bytes. -/
def stashPieces (layout base len f dims fmt sample i : Nat) (codes : List Nat) : List (Nat × List Byte) :=
  let es := elemBits fmt / 8
  let bytes := packElems fmt codes
  let rec' := roundUp (dims * es) 64
  let rowCopy := (base + (sample * f + i) * rec', pad64 bytes)
  if layout = 1 then
    let e := 64 / es
    (List.range ((dims + e - 1) / e)).map fun j =>
      let tile := base + (((sample / 64) * f + i) * ((dims + e - 1) / e) + j) * 4096
      let part := pad64 ((bytes.drop (j * 64)).take 64)
      let tail := if sample + 1 = len then List.replicate ((63 - sample % 64) * 64) 0 else []
      (tile + sample % 64 * 64, part ++ tail)
  else if layout = 2 then
    let s64 := roundUp len 64
    let second := base + len * f * rec'
    rowCopy :: (List.range dims).map fun k =>
      let tail := if sample + 1 = len then List.replicate ((s64 - len) * es) 0 else []
      (second + ((i * dims + k) * s64 + sample) * es, (bytes.drop (k * es)).take es ++ tail)
  else [rowCopy]

/-- An INTERACT ends with a status; records that no port has accepted are not delivered (R138). -/
def stopInteract (x : Desc) (st rs : Nat) : M Unit := do
  modDev fun d => { d with ports := d.ports.filter (fun r => !(r.q == x.q && r.seq == x.seq)) }
  endWith x.q x.seq st rs
  modDev Dev.syncInt

/-- An INTERACT whose samples are all delivered ends. -/
def interactDone (q seq : Nat) : M Unit := do
  let d ← dev
  match d.desc q seq with
  | none => pure ()
  | some x =>
    match x.work with
    | .interact _ done =>
      if (done.map Prod.snd).foldl (· + ·) 0 == x.length && !d.ports.any (fun r => r.q == q && r.seq == seq) then
        endDesc q seq
        modDev Dev.syncInt
    | _ => pure ()

/-- Compute and deliver one sample. -/
def sampleBody (x : Desc) (srcs : List Nat) (done : SMap Nat) (r sample : Nat) : M Unit := do
  let d ← dev
  let die := dieOfRegion r
  let who := intWho r (d.queueWorld x.q) x.q x.seq
  let w := stageWaiter r x.q x.seq
  let asid := d.queueAsid x.q
  let vecs ← collect srcs fun e => readVec r x e sample
  let v (i : Nat) : Vec := vecs.getD i ⟨[], [], 0, 0, false, 0⟩
  let pairs := pairList x.itFeatures x.itSelf
  let (codes, _) := convertAll x.itOutFmt false (pairs.map fun p => pairValue x.itDims (v p.1) (v p.2))
  let rec' := pad64 (packElems x.itOutFmt codes)
  let nf := codes.any (nonFinite x.itOutFmt)
  if x.itStash ≠ 0 then
    let layout ← rd F.optStash_layout 8
    each (List.range srcs.length) fun i => do
      let (cs, ovf) := convertAll x.itStashFmt true (v i).vals
      if x.itStashFmt = fE4M3 then bump F.qntFp8Ovf_count die ovf
      each (stashPieces layout x.itStash x.length x.itFeatures x.itDims x.itStashFmt sample i cs) fun p => do
        let et ← writeVa w who asid p.1 p.2
        progress x.q x.seq 0 0 et
  let r' : PortRec := ⟨x.itOut % 16, 64 + r, x.q, x.seq, sample, rec', 1, false, nf⟩
  if x.itDest = 1 then
    need ((← dev).unaccepted x (64 + r)).isEmpty
    modDev fun d => { d with ports := d.ports ++ [r'] }
  else countRecord r' (← writeVa w who asid (x.itOut + sample * rec'.length) rec')
  bump F.intPairs_count r pairs.length
  bump F.intPairsInt_count r (pairs.filter fun p => (v p.1).intPath && (v p.2).intPath).length
  if nf then bump F.intNonfinite_count r
  setWork x.q x.seq (.interact srcs (SMap.set 0 done r (SMap.get 0 done r + 1)))
  modDev Dev.syncInt
  interactDone x.q x.seq

/-- One sample of an INTERACT, on the stage of its block's region (R151). -/
def execInteractSample (q : Fin 1024) (seq : BitVec 32) (sample : Nat) (s : State) :
    Host.Outcome State Fault Refusal :=
  transact (do
    let x ← getDesc q.val seq.toNat
    need (!x.ended && decide (sample < x.length) && !(← dev).scaleHeld x)
    match x.work with
    | .interact srcs done =>
      let rs := maskRegions x.itMask
      let rank := sample / 64 % rs.length
      let r := rs.getD rank 0
      need (SMap.get 0 done r == sample / 64 / rs.length * 64 + sample % 64)
      need (!(← dev).regionFenced r)
      match ← caught (sampleBody x srcs done r sample) with
      | .ok _ => pure ()
      | .error (st, rs) => stopInteract x st rs
    | _ => skip) s

/-! ### Client ports -/

/-- An EXCHANGE or CHAIN_REDUCE whose bags are all delivered ends (R279). -/
def exchangeDone (q seq : Nat) : M Unit := do
  let d ← dev
  match d.desc q seq with
  | none => pure ()
  | some x =>
    match x.work with
    | .exchange e =>
      if e.done == x.length && !d.ports.any (fun r => r.q == q && r.seq == seq) then endDesc q seq
    | _ => pure ()

/-- A client port accepts the beats of the oldest record held for it: its last beat is the record's point of coherence
(R44). -/
def execClientPortBeatAccept (port : Fin 16) (s : State) : Host.Outcome State Fault Refusal :=
  transact (do
    let r ← have! ((← dev).ports.find? fun r => r.port == port.val)
    modDev fun d => { d with ports := d.ports.eraseP fun x => x.port == port.val }
    countRecord r (← now)
    match (← dev).desc r.q r.seq with
    | some x =>
      if x.opcode = 0x12 then interactDone r.q r.seq
      else if x.opcode = 0x40 ∨ x.opcode = 0x41 then exchangeDone r.q r.seq
      else acceptLookup r x
    | none => pure ()) s

/-- A dense-tower cluster writes through its client port (R3): a local write, checked against the regions. A write that
fails its check touches no byte. -/
def execClientPortWrite (port : Fin 16) (addr : BitVec 56) (data : List Byte) (secure : Bool) (s : State) :
    Host.Outcome State Fault Refusal :=
  transact (do
    need (decide (addr.toNat / 2 ^ 46 = (← dev).self))
    let who : Who := ⟨8, port.val, 5, b2n secure, 1024, 0, pg bGLB 0, 0⟩
    writeLocal who (addr.toNat % 2 ^ 46) data) s

end Sys2Proof.Machine
end

