-- ==== Sys2Proof/Machine/RowOp.lean ====
section
/-! DEFINITION. Row operations (R249, R303, R326), the version of a row (R228, R460), and re-quantisation with its
statistics (R185 to R190). -/

namespace Sys2Proof.Machine

/-! ### Stages -/

/-- An optimiser stage as an access source, for its own work and for drains of its region's merge table (R459). -/
def optWho (r world q seq : Nat) : Who := ⟨7, r, 1, world, q, seq, pg bOPT r, 0⟩
def drainWho (r world q seq : Nat) : Who := ⟨7, r, 1, world, q, seq, pg bMRG r, 0⟩

/-- The stages of a region work: it is not fenced, and no reset runs. -/
def Dev.stageRuns (d : Dev) (r : Nat) : Bool :=
  !d.regionFenced r && d.pow.phase == 0 && decide (d.rd F.pwrState_state 0 < 3)

/-- The stage of the n-th row, vector or bag of a descriptor, in blocks of 64 over all regions (R211, R551). -/
def stageOf (n : Nat) : Nat := n / 64 % 8

/-- Dies whose stages take part in `n` rows. -/
def stageDies (n : Nat) : List Nat := if 256 < n then [0, 1] else [0]

/-! ### The bytes of a row -/

/-- Ranges of a stored row: with its leading husk, or its payload and then its split husk (R226). -/
def Table.ranges (t : Table) (lr : Nat) : List (Nat × Nat) :=
  if t.husk = 1 then [(t.rowVa lr, t.stride)]
  else if t.husk = 2 then [(t.rowVa lr, t.payload), (t.huskBase + 32 * lr, 32)]
  else [(t.rowVa lr, t.payload)]

/-- Translate every range of a row operation before any of it is used (R356). -/
def openRanges (w : Waiter) (who : Who) (asid : Nat) (n : Need) (rs : List (Nat × Nat)) : M (List (List Seg)) :=
  collect rs fun r => do
    let segs ← translate w who.world asid n r.1 r.2
    return mergeSegs segs

/-- The local address and length of a piece. -/
def Seg.at' (s : Seg) : Nat × Nat := (s.pa % 2 ^ 46, s.len)

/-- The home region that all bytes of a row operation share (R233, R303). -/
def oneHome (gs : List (List Seg)) : Option Nat :=
  match gs.flatten.map Seg.at' with
  | [] => none
  | p :: ps =>
    let r := homeRegion p.1
    if (p :: ps).all fun x => homeRegion x.1 == r && homeRegion (x.1 + x.2 - 1) == r then some r else none

/-- The checks of a row operation on its pieces: their home (R303), the memory regions (R457), and what makes it wait. -/
def checkRow (who : Who) (n : Need) (gs : List (List Seg)) : M Unit := do
  if (oneHome gs).isNone then failBounds
  let ps := gs.flatten.map Seg.at'
  each ps fun p => localCheck who n p.1 p.2
  each ps fun p => clearUpdate who p.1 p.2

/-- The pieces reach their slices, as an atomic (2) or a row operation (3). -/
def issueRow (who : Who) (op : Nat) (gs : List (List Seg)) : M Unit :=
  each (gs.flatten.map Seg.at') fun p => do
    issue who op p.1 p.2
    countHit who p.1 p.2

/-- A row operation takes its pieces. -/
def takeRow (who : Who) (n : Need) (gs : List (List Seg)) : M Unit := do
  checkRow who n gs
  issueRow who 3 gs

/-- The bytes of a group of pieces. -/
def groupRead (g : List Seg) : M (List Byte) := do
  return (← collect g fun s => peeks false (s.pa % 2 ^ 46) s.len).flatten

/-- Write the bytes of a group of pieces, as atomics (2) or part of a row operation (3). -/
def groupWrite (op : Nat) : List Seg → List Byte → M Unit
  | [], _ => pure ()
  | s :: g, bs => do
    updateChecked op (s.pa % 2 ^ 46) (bs.take s.len)
    groupWrite op g (bs.drop s.len)

/-- The husk and payload of a row from its pieces, in the order of `Table.ranges`. -/
def readRow (t : Table) (gs : List (List Seg)) : M (Husk × List Byte) := do
  let a ← groupRead (gs.headD [])
  if t.husk = 1 then return (fromBytes (a.take 32), a.drop 32)
  else if t.husk = 2 then return (fromBytes (← groupRead (gs.getD 1 [])), a)
  else return (0, a)

/-- Write husk and payload of a row back. -/
def writeRow (t : Table) (gs : List (List Seg)) (h : Husk) (p : List Byte) : M Unit := do
  if t.husk = 1 then groupWrite 3 (gs.headD []) (toBytes 32 h ++ p)
  else
    groupWrite 3 (gs.headD []) p
    if t.husk = 2 then groupWrite 3 (gs.getD 1 []) (toBytes 32 h)

/-- Stored bytes of a row, its husk included. -/
def Table.storedBytes (t : Table) : Nat := t.payload + if t.husk = 0 then 0 else 32

/-- A row operation counts once under the key of the row's first stored byte (R373). -/
def heatRow (asid : Nat) (gs : List (List Seg)) : M Unit :=
  match gs.headD [] with
  | s :: _ => heatCount asid s.va (s.pa % 2 ^ 46) s.leaf s.size
  | [] => pure ()

/-! ### Version and security of a row (R228, R229, R460) -/

/-- The husk of a changed row: VERSION, DIRTY and ORIGIN. -/
def Husk.changed (h : Husk) (u site : Nat) : Husk :=
  let h := (h.put 0 8 (max h.version u)).put 15 1 site
  Nat.lor h (2 ^ (8 * 14))

/-- A row written by a row operation of the secure world is marked (R460). -/
def Husk.marked (h : Husk) (world : Nat) : Husk := if world = 1 then Nat.lor h (2 ^ (8 * 14 + 3)) else h

/-- A non-secure row operation meets a SECURE row: nothing is written (R229). -/
def secureCheck (who : Who) (t : Table) (h : Husk) (gs : List (List Seg)) : M Unit := do
  if who.world = 0 && t.husk != 0 && h.secure then
    let pa := ((gs.headD []).head?.map fun s => s.pa % 2 ^ 46).getD 0
    violation who.vsrc 0 3 ((← dev).regionHolding (pa / 65536)) who.q pa who.page
    fail sWORLD_VIOLATION rWORLD

/-! ### Statistics (R189, R190) -/

/-- No error measured. -/
def Stats.zero : Stats := ⟨0, 0, 0, 0, 0, 0, 0⟩

/-- One more error. -/
def Stats.add (s : Stats) (e : F32) : Stats :=
  let c := f32Add s.c (f32Mul e e)
  let s := { s with count := s.count + 1, top := f32Max s.top (f32Abs e) }
  if s.n + 1 = 32 then
    let p := promote (s.hi, s.lo) c
    { s with hi := p.1, lo := p.2, c := 0, n := 0 }
  else { s with c := c, n := s.n + 1 }

/-- The errors of a row. -/
def Stats.addRow (s : Stats) (es : List F32) : Stats := { es.foldl Stats.add s with rows := s.rows + 1 }

/-- The pair with the open run promoted. -/
def Stats.pair (s : Stats) : F32 × F32 := if s.n = 0 then (s.hi, s.lo) else promote (s.hi, s.lo) s.c

/-- rne32(rne32(hi + lo) ÷ count); 0 while count is 0. -/
def meanSquare (hi lo count : Nat) : F32 :=
  if count = 0 then 0 else divVal (f32Add hi lo).val (.ofInt (count : Int))

/-- A 32-byte record (R190). -/
def statRecord (hi lo count top et : Nat) : List Byte :=
  toBytes 4 hi ++ toBytes 4 lo ++ toBytes 8 count ++ toBytes 4 top ++ toBytes 4 (meanSquare hi lo count) ++
    toBytes 8 et

/-- Fold a descriptor's quantities into its table's record (R190). -/
def foldStats (x : Desc) (table : Nat) (s : Stats) : M Unit := do
  if (← rdB F.qntStats_enable 2) && s.rows != 0 then
    let who ← structWho 8 0 5 (pg bQNT 2) x.q x.seq
    let a := (← rd F.qntStats_base 2) * 4096 + 32 * table
    let _ ← atomicLocal who .record (a % 2 ^ 46) 32 fun old =>
      let p := promote (fromBytes (old.take 4), byteField (fromBytes old) 4 4) (f32Add s.pair.1 s.pair.2)
      let n := fromBytes old
      statRecord p.1 p.2 (min (byteField n 8 8 + s.count) (2 ^ 64 - 1)) (f32Max (byteField n 16 4) s.top) x.coh
    pure ()

/-- The queue dispatcher as a requester and access source (R551, R459). -/
def dispatchWaiter (q seq : Nat) : Waiter := ⟨.dispatch, q, seq⟩
def dispatchWho (world q seq : Nat) : Who := ⟨8, 0, 5, world, q, seq, pg bQUE 0, 0⟩

/-- The end of a descriptor that re-quantised rows into a table: its RESULT copy (R194), the fold (R190), the flag of
R189, and its end. `measured` folds nothing. It may have to wait for the RESULT address. -/
def endStats (q seq result table limit : Nat) (measured : Bool) (s : Stats) : M Unit := do
  let x ← getDesc q seq
  let d ← dev
  let p := s.pair
  if result ≠ 0 then
    match ← caught (writeVa (dispatchWaiter q seq) (dispatchWho (d.queueWorld q) q seq) (d.queueAsid q) result
        (statRecord p.1 p.2 s.count s.top (if x.coh = 0 then d.time.et else x.coh))) with
    | .ok _ => pure ()
    | .error (st, rs) => meet q seq st rs
  if !measured then
    match ← caught (foldStats x table s) with
    | .ok _ => pure ()
    | .error (st, rs) => meet q seq st rs
  if !f32Zero limit && s.count != 0 && f32Lt limit (meanSquare p.1 p.2 s.count) then raiseFlag q seq fREQUANT_ERR_HIGH
  endDesc q seq

/-- Count what an encoded row did on a die (R185, R187, R196); none where it was skipped. -/
def countEncode (die n : Nat) (e : Option Encoded) : M Unit :=
  match e with
  | none => bump F.qntNfRows_count die
  | some e => do
    bump F.qntConv_count die n
    bump F.qntClamp_count die e.clamps
    bump F.qntFp8Ovf_count die e.overflows
    if e.nonfinite then bump F.qntNfRows_count die

/-! ### Rows of a range -/

/-- Shard `i` holds a row of [first, first + len). -/
def Table.shardMeets (t : Table) (i first len : Nat) : Bool :=
  let n := t.nShards
  if t.sizeOf' i = 0 || len = 0 then false
  else if t.form ≤ 1 then true
  else if t.form = 3 then decide ((i + n - first % n) % n < len)
  else decide (t.firstOf i < first + len) && decide (first < t.firstOf i + t.sizeOf' i)

/-- Every row of a range is homed on this package. -/
def Table.allHere (t : Table) (self first len : Nat) : Bool :=
  (List.range t.nShards).all fun i => !t.shardMeets i first len || t.nodeOf self i == self

/-- Storage ranges of a table on this package. -/
def Table.storage (t : Table) (self : Nat) : List (Nat × Nat) :=
  let n := t.extent self
  (t.base, n * t.stride) :: (if t.husk = 2 then [(t.huskBase, n * 32)] else [])

/-- Two lists of ranges meet. -/
def rangesMeet (a b : List (Nat × Nat)) : Bool :=
  a.any fun x => b.any fun y => decide (x.1 < y.1 + y.2) && decide (y.1 < x.1 + x.2)

end Sys2Proof.Machine
end

