-- ==== Sys2Proof/Machine/Quant.lean ====
section
/-! DEFINITION. REQUANT (R191 to R194) and the load engine of codebooks and scales (R179 to R183, R197, R198). -/

namespace Sys2Proof.Machine

/-! ### REQUANT -/

def Desc.rqFirst (x : Desc) : Nat := x.field 16 0 40
def Desc.rqSrc (x : Desc) : Nat := x.bytesAt 24 2
def Desc.rqDest (x : Desc) : Nat := x.bytesAt 26 2
def Desc.rqFit (x : Desc) : Bool := x.field 28 0 1 == 1
def Desc.rqMeasure (x : Desc) : Bool := x.field 28 1 1 == 1
def Desc.rqResult (x : Desc) : Nat := x.field 32 0 52

/-- REQUANT (R191, R192). -/
def requant (x : Desc) : M Unit := do
  x.formChecks [(16, 40, 24), (28, 2, 6), (29, 0, 24), (32, 52, 12), (40, 0, 192)] [] false
  malformedIf (decide (2 ^ 40 < x.length)) rOPERAND
  if x.length = 0 then zeroCount x
  else
    let world := (← dev).queueWorld x.q
    let s ← useShards x.q x.seq world (← useTable x.q x.seq x.rqSrc true)
    let t ← useShards x.q x.seq world (← useTable x.q x.seq x.rqDest true)
    if x.rqResult % 32 ≠ 0 then failBounds
    if s.rows < x.rqFirst + x.length ∨ t.rows < x.rqFirst + x.length then failBounds
    malformedIf (s.elems != t.elems || (s.husk == 0) != (t.husk == 0)) rOPERAND
    let self := (← dev).self
    malformedIf (rangesMeet (s.storage self) (t.storage self) &&
      (s.base != t.base || s.payload != t.payload || s.husk != t.husk || s.huskBase != t.huskBase)) rOPERAND
    if !(s.allHere self x.rqFirst x.length && t.allHere self x.rqFirst x.length) then failBounds
    -- a MEASURE changes no row, so R150 drops nothing (DEDUCED, log entry 151)
    if !x.rqMeasure then dropResident x.rqDest
    setWork x.q x.seq (.requant 0 Stats.zero)
    countHold x.q x.seq (stageDies x.length)

/-- Dispatch of a REQUANT. -/
def execRequant (q : Fin 1024) (s : State) : Host.Outcome State Fault Refusal :=
  transact (launch q.val (opcodeIs 0x23) requant) s

/-- The end of a REQUANT. -/
def endRequant (x : Desc) (st : Stats) : M Unit :=
  endStats x.q x.seq x.rqResult x.rqDest (x.tab x.rqDest).mseLimit x.rqMeasure st

/-- The accesses of row `n` of a REQUANT: the pieces of its source row, to be read, and of its destination row, taken as one
row operation (R192, R193). -/
def requantOpen (x : Desc) (n : Nat) : M (List (List Seg) × List (List Seg)) := do
  let d ← dev
  let r := stageOf n
  need (d.stageRuns r)
  let s := x.tab x.rqSrc
  let t := x.tab x.rqDest
  let w := stageWaiter r x.q x.seq
  let who := optWho r (d.queueWorld x.q) x.q x.seq
  let asid := d.queueAsid x.q
  let row := x.rqFirst + n
  let from' ← openRanges w who asid .rd (s.ranges (s.localRow row))
  let need' : Need := if x.rqMeasure then .rd else .at
  let into ← openRanges w who asid need' (t.ranges (t.localRow row))
  each (from'.flatten.map Seg.at') fun p => localCheck who .rd p.1 p.2
  takeRow who need' into
  each (from'.flatten.map Seg.at') fun p => clear! who true p.1 p.2
  return (from', into)

/-- Row `n` of a REQUANT: decoded, re-quantised and written as one row operation (R192, R193). -/
def requantRow (x : Desc) (n : Nat) (st : Stats) : M Stats := do
  let d ← dev
  let r := stageOf n
  let s := x.tab x.rqSrc
  let t := x.tab x.rqDest
  let who := optWho r (d.queueWorld x.q) x.q x.seq
  let asid := d.queueAsid x.q
  let (from', into) ← requantOpen x n
  let (hs, ps) ← readRow s from'
  secureCheck who s hs from'
  let (ht, _) ← readRow t into
  secureCheck who t ht into
  heatRow asid into
  let die := dieOfRegion r
  let vs := d.decodeRow die s hs 0 ps
  let e := d.encodeRow die t ht x.rqFit vs
  countEncode die t.elems e
  match e with
  | none =>
    raiseFlag x.q x.seq fNONFINITE
    return st
  | some e =>
    if !x.rqMeasure then
      writeRow t into ((e.husk ht).marked who.world) (packElems t.format e.codes)
      progress x.q x.seq 1 t.storedBytes (← now)
    else progress x.q x.seq 1 0 (← now)
    return st.addRow e.errors

/-- A REQUANT stops: what its rows have measured is kept (R78). -/
def stopRequant (x : Desc) (n : Nat) (st : Stats) (status reason : Nat) : M Unit := do
  modDesc x.q x.seq fun x => { (x.met status reason) with stopping := true, work := .requant n st }
  attempt (endRequant x st)

/-- The next row of a REQUANT, or its end. -/
def execRequantRow (q : Fin 1024) (seq : BitVec 32) (s : State) : Host.Outcome State Fault Refusal :=
  transact (do
    let x ← getDesc q.val seq.toNat
    match x.work with
    | .requant n st =>
      need (!x.ended)
      if x.stopping || x.length ≤ n then endRequant x st
      else
        need (!(← dev).scaleHeld x)
        match ← caught (requantRow x n st) with
        | .error (status, reason) => stopRequant x n st status reason
        | .ok st =>
          setWork x.q x.seq (.requant (n + 1) st)
          if n + 1 = x.length then attempt (do endRequant (← getDesc q.val seq.toNat) st)
    | _ => skip) s

/-! ### The load engine -/

/-- Bytes of the source or destination of a load. -/
def loadBytes (kind count : Nat) : Nat := if kind = 0 then 512 * count else if kind = 1 then 4 * count else 0

/-- An armed OPTIMIZE that has not fired uses nothing (R181). -/
def Desc.unfired (x : Desc) : Bool :=
  match x.work with
  | .optimize o => !o.fired
  | _ => false

/-- A descriptor may use what a load affects (R181): a table that it has read does, or it has still to read its tables. -/
def Dev.loadUses (d : Dev) (x : Desc) : Bool := !x.unfired && (x.tabs.any d.loadTouches || x.starting)

/-- The descriptors that a load has to wait for: those dispatched before its START that use what it affects (R181). -/
def Dev.waitedUsers (d : Dev) : List Desc :=
  d.descs.filter fun x => d.quant.users.contains (x.q, x.seq) && d.loadUses x

/-- Set the state of the load engine. -/
def setLoad (st err : Nat) : M Unit := do
  wr F.qntLoadStat_state 2 st
  wr F.qntLoadStat_err 2 err

/-- The operation ends (R183). -/
def endLoad (st err : Nat) : M Unit := do
  setLoad st err
  modDev fun d => { d with quant := { d.quant with users := [] } }
  wr F.qntLoadEt_et 2 (← now)
  raise (pg bQNT 2) (if st = 3 then 0 else 1)

/-- A codebook entry outside its range (R173). -/
def badLevel (n : Nat) : Bool := decide (toSigned 16 n < -2048) || decide (2047 < toSigned 16 n)

/-- The 16-bit entries, or 32-bit registers, of a source. -/
def splitWords (w : Nat) (bs : List Byte) : List Nat :=
  (List.range (bs.length / w)).map fun i => fromBytes ((bs.drop (i * w)).take w)

/-- The first failing check of an operation (R180); 0 for none. -/
def loadError : M Nat := do
  let d ← dev
  let kind := d.rd F.qntLoadCtl_kind 2
  let dir := d.rd F.qntLoadCtl_dir 2
  let mask := d.rd F.qntLoadCtl_die_mask 2
  let count := d.rd F.qntLoadCount_count 2
  let top := d.rd F.qntLoadCtl_first 2 + count
  let a := d.rd F.qntLoadAddr_addr 2 * 64 % 2 ^ 46
  if kind = 3 || d.rd F.qntLoadCtl_shift 2 = 3 || mask = 0 || (dir = 1 && (kind = 2 || mask = 3)) then return 1
  if count = 0 || (if kind = 1 then decide (65536 < top) else decide (1024 < top)) then return 2
  if kind ≠ 2 && !(d.inOneRegion (d.pageWorld (pg bQNT 2)) a (loadBytes kind count)) then return 3
  if kind = 0 && dir = 0 then
    let bs ← peeks false a (loadBytes kind count)
    if (splitWords 2 bs).any badLevel then return 4
  return 0

/-- The dies of an operation. -/
def Dev.loadDies (d : Dev) : List Nat := [0, 1].filter fun i => bit (d.rd F.qntLoadCtl_die_mask 2) i

/-- START (R180): an operation that fails its checks ends in ERROR; a load waits for its users (R181), everything else
runs. -/
def loadStart (w : RegAcc) : M Unit := do
  let st ← rd F.qntLoadStat_state 2
  if st = 1 ∨ st = 2 then w.ignore
  else
    let err ← loadError
    if err ≠ 0 then endLoad 4 err
    else
      modDev fun d => { d with quant := { d.quant with
        users := (d.descs.filter fun x => !x.unfired).map fun x => (x.q, x.seq) } }
      if (← rd F.qntLoadCtl_dir 2) = 0 && !(← dev).waitedUsers.isEmpty then setLoad 1 0
      else
        setLoad 2 0
        modDev fun d => { d with quant := { d.quant with users := [] } }

/-- QNT_LOAD_CMD.START. -/
def execQntLoadStart (a : Agent) (s : State) : Host.Outcome State Fault Refusal :=
  transact (let w := regAcc .qntLoadCmd 2 0 1 a
    w.run (loadStart w)) s

/-- ABORT (R181): only a WAITING operation ends. -/
def loadAbort (w : RegAcc) : M Unit := do
  let st ← rd F.qntLoadStat_state 2
  if st = 1 then endLoad 5 0
  else if st = 2 then w.ignore
  else pure ()

/-- QNT_LOAD_CMD.ABORT. -/
def execQntLoadAbort (a : Agent) (s : State) : Host.Outcome State Fault Refusal :=
  transact (let w := regAcc .qntLoadCmd 2 0 2 a
    w.run (loadAbort w)) s

/-- A WAITING load runs once its users have completed (R181). -/
def execQntLoadRun (s : State) : Host.Outcome State Fault Refusal :=
  transact (do
    need ((← rd F.qntLoadStat_state 2) == 1)
    need (← dev).waitedUsers.isEmpty
    setLoad 2 0
    modDev fun d => { d with quant := { d.quant with users := [] } }) s

/-- Level `k` of a generated slot (R182). -/
def e4m3Level (shift k : Nat) : Int :=
  match fpE4M3.decode k with
  | .fin s m e => Val.roundAway s m (e + (shift : Int))
  | _ => 0

/-- Put words into the levels, or the scale registers, of a die. -/
def Dev.loadWords (d : Dev) (scale : Bool) (base : Nat) (ws : List Nat) : Dev :=
  let put (m : SMap Nat) : SMap Nat :=
    (List.range ws.length).foldl (fun (m : SMap Nat) i => SMap.set 0 m (base + i) (ws.getD i 0)) m
  if scale then { d with quant := { d.quant with scales := put d.quant.scales } }
  else { d with quant := { d.quant with levels := put d.quant.levels } }

/-- The running operation moves its data and ends (R179, R180, R183). A load reads its whole source first. An operation
whose range no longer passes the address check when its data moves ends in ERROR with ERR ADDR: R180 checks at START alone
and says nothing of it (DESIGN CHOICE, log entry 152). -/
def loadMove : M Unit := do
  let d ← dev
  let kind := d.rd F.qntLoadCtl_kind 2
  let first := d.rd F.qntLoadCtl_first 2
  let count := d.rd F.qntLoadCount_count 2
  let a := d.rd F.qntLoadAddr_addr 2 * 64 % 2 ^ 46
  let len := loadBytes kind count
  let who ← structWho 8 0 5 (pg bQNT 2) 1024 0
  let base (die : Nat) : Nat := if kind = 1 then die * 65536 + first else (die * 1024 + first) * 256
  if d.rd F.qntLoadCtl_dir 2 = 1 then
    let die := d.loadDies.headD 0
    let n := if kind = 1 then count else count * 256
    let m := if kind = 1 then d.quant.scales else d.quant.levels
    let ws := (List.range n).map fun i => SMap.get 0 m (base die + i)
    match ← caught (writeLocal who a ((ws.map (toBytes (if kind = 1 then 4 else 2))).flatten)) with
    | .ok _ => endLoad 3 0
    | .error _ => endLoad 4 3
  else if kind = 2 then
    let ws := (List.range (count * 256)).map fun i => ofSigned 16 (e4m3Level (d.rd F.qntLoadCtl_shift 2) (i % 256))
    modDev fun d => d.loadDies.foldl (fun d die => d.loadWords false (base die) ws) d
    endLoad 3 0
  else if (linesOf a len).any d.lineMarked then endLoad 4 5
  else
    match ← caught (readLocal who a len) with
    | .error _ => endLoad 4 3
    | .ok bs =>
      let ws := splitWords (if kind = 1 then 4 else 2) bs
      if kind = 0 && ws.any badLevel then endLoad 4 4
      else
        modDev fun d => d.loadDies.foldl (fun d die => d.loadWords (kind == 1) (base die) ws) d
        endLoad 3 0

/-- The running operation ends. -/
def execQntLoadEnd (s : State) : Host.Outcome State Fault Refusal :=
  transact (do
    need ((← rd F.qntLoadStat_state 2) == 2)
    loadMove) s

end Sys2Proof.Machine
end

