-- ==== Sys2Proof/Machine/Intake.lean ====
section
/-! DEFINITION. Gradient intake (R199 to R221): gradient scales, scale-control records, counting, the decision, and the
commit of a gradient block. -/

namespace Sys2Proof.Machine

/-! ### Scales (R199, R200) -/

/-- The scale rule: the smallest E with H ≤ 57,344 × 2^(E − M), within [−128, 112]; none for an H that is not above
zero. -/
def scaleRule (h : F32) (margin : Nat) : Option Int :=
  if h.val.cmp (.fin false 0 0) ≠ 1 then none
  else
    let fits (i : Nat) : Bool := h.val.cmp (.fin false 57344 ((i : Int) - 128 - margin)) != 1
    some (match (List.range 241).find? fits with
      | some i => (i : Int) - 128
      | none => 112)

/-- g ÷ 2^E, exactly. -/
def quotient (v : Val) (e : Int) : Val := v.mul (Val.pow2 (-e))

/-! ### Policy of a table (R201) -/

def Table.gField (t : Table) (lo len : Nat) : Nat := bits t.grad lo len
def Table.flowMode (t : Table) : Nat := t.gField 0 2
def Table.narrowPolicy (t : Table) : Nat := t.gField 2 1
def Table.widePolicy (t : Table) : Nat := t.gField 3 2
def Table.gSat (t : Table) : Bool := t.gField 5 1 == 1
def Table.margin (t : Table) : Nat := t.gField 6 3
def Table.satBump (t : Table) : Nat := t.gField 9 3
def Table.widen (t : Table) : Nat := t.gField 12 4
def Table.narrow (t : Table) : Nat := t.gField 16 4
def Table.satTh (t : Table) : Nat := t.gField 20 6
def Table.underTh (t : Table) : Nat := t.gField 26 6

/-- Saturation and underflow exceed their thresholds (R214). -/
def Table.satExceeds (t : Table) (n k : Nat) : Bool := decide (t.satTh * 100 * n < 1000000 * k)
def Table.underExceeds (t : Table) (n k : Nat) : Bool := decide (t.underTh * 5000 * n < 1000000 * k)

/-! ### Scale-control records (R202 to R206) -/

/-- A record as a number of 128 bytes. -/
abbrev ScaleRec := Nat

def ScaleRec.lastStep (r : ScaleRec) : Nat := byteField r 0 4
def ScaleRec.scaleExp (r : ScaleRec) : Int := toSigned 8 (byteField r 4 1)
def ScaleRec.valid (r : ScaleRec) : Bool := bit r 40
def ScaleRec.flow (r : ScaleRec) : Nat := bits r 41 1
def ScaleRec.heldPending (r : ScaleRec) : Bool := bit r 42
def ScaleRec.miss (r : ScaleRec) : Nat := byteField r 6 2
def ScaleRec.hist (r : ScaleRec) (n : Nat) : F32 := byteField r (32 + 4 * (n % 16)) 4

/-- Replace bytes, and one bit, of a record. -/
def ScaleRec.put (r : ScaleRec) (byte n v : Nat) : ScaleRec := setBits r (8 * byte) (8 * n) v
def ScaleRec.setHist (r : ScaleRec) (n : Nat) (v : F32) : ScaleRec := ScaleRec.put r (32 + 4 * (n % 16)) 4 v
def ScaleRec.setMiss (r : ScaleRec) (n : Nat) (b : Bool) : ScaleRec := setBits r (48 + n % 16) 1 (b2n b)

/-- Add 1 to a 4-byte counter of a record, up to 2^32 − 1. -/
def ScaleRec.count (r : ScaleRec) (byte : Nat) (b : Bool) : ScaleRec :=
  if b then ScaleRec.put r byte 4 (min (byteField r byte 4 + 1) (2 ^ 32 - 1)) else r

/-- The largest history entry. -/
def ScaleRec.top (r : ScaleRec) : F32 := ((List.range 16).map (ScaleRec.hist r)).foldl f32Max 0

/-- The fold of a step's absolute maximum into the history, and whether it was dropped (R204). -/
def ScaleRec.fold (r : ScaleRec) (s : Nat) (a : F32) : ScaleRec × Bool :=
  if !ScaleRec.valid r then
    let r := (List.range 16).foldl (fun r n => ScaleRec.setHist r n 0) r
    let r := ScaleRec.put (ScaleRec.put r 6 2 0) 0 4 s
    (ScaleRec.setHist (setBits r 40 1 1) s a, false)
  else
    let last := ScaleRec.lastStep r
    let d := diff32 s last
    if d = 0 then (ScaleRec.setHist r s (f32Max (ScaleRec.hist r s) a), false)
    else if d < 2 ^ 31 then
      let between := (range' 1 (d - 1)).take 16
      let r := between.foldl (fun r i => ScaleRec.setMiss (ScaleRec.setHist r (last + i) 0) (last + i) false) r
      let r := ScaleRec.setMiss (ScaleRec.setHist r s a) s false
      (ScaleRec.put r 0 4 s, false)
    else if diff32 last s ≤ 15 then (ScaleRec.setHist r s (f32Max (ScaleRec.hist r s) a), false)
    else (r, true)

/-- The history's scale, or the old one (R205). -/
def ScaleRec.histScale (r : ScaleRec) (t : Table) : Int := (scaleRule (ScaleRec.top r) t.margin).getD (ScaleRec.scaleExp r)

/-- The published scale; `bumped` is the scale used where saturation missed and was not repaired (R205). -/
def ScaleRec.publish (r : ScaleRec) (t : Table) (bumped : Option Int) : ScaleRec :=
  let e := ScaleRec.histScale r t
  let e := match bumped with
    | some u => min 112 (max e (u + (t.satBump : Int)))
    | none => e
  ScaleRec.put r 4 1 (ofSigned 8 e)

/-- The published flow (R205). -/
def ScaleRec.setFlow (r : ScaleRec) (t : Table) : ScaleRec :=
  let missed (i : Nat) : Bool := bit (ScaleRec.miss r) ((ScaleRec.lastStep r + 16 - i) % 16)
  let flow :=
    if t.flowMode = 0 then 0
    else if t.flowMode = 1 then 1
    else if ScaleRec.flow r = 0 then
      b2n (decide (0 < t.widen) && (List.range t.widen).all missed)
    else b2n (!(decide (0 < t.narrow) && (List.range t.narrow).all fun i => !missed i))
  setBits r 41 1 flow

/-- The record after a HOLD (R206). -/
def ScaleRec.held (r : ScaleRec) (t : Table) (e : Int) (et : Nat) : ScaleRec :=
  let r := ScaleRec.count (setBits r 42 1 1) 16 true
  ScaleRec.put (ScaleRec.publish r t (some e)) 8 8 et

/-- The record after a commit (R204, R205), and whether its fold was dropped. -/
def ScaleRec.commit (r : ScaleRec) (t : Table) (step : Nat) (a : F32) (missed : Bool) (bumped : Option Int)
    (above below repaired : Bool) (et : Nat) : ScaleRec × Bool :=
  let (r, dropped) := ScaleRec.fold r step a
  let r := if (missed || ScaleRec.heldPending r) && !dropped then ScaleRec.setMiss r step true else r
  let r := setBits r 42 1 0
  let r := ScaleRec.count (ScaleRec.count (ScaleRec.count r 20 above) 24 below) 28 repaired
  let r := ScaleRec.setFlow (ScaleRec.publish r t bumped) t
  (ScaleRec.put r 8 8 et, dropped)

/-! ### GRAD_INTAKE (R207 to R211) -/

def Desc.giSrc (x : Desc) : Nat := x.field 16 0 52
def Desc.giLanes (x : Desc) : Nat := x.field 16 52 12 + 1
def Desc.giDst (x : Desc) : Nat := x.field 24 0 52
def Desc.giMask (x : Desc) : Nat := x.field 24 52 8
def Desc.giStep (x : Desc) : Nat := x.bytesAt 32 4
def Desc.giTable (x : Desc) : Nat := x.bytesAt 36 2
def Desc.giWide (x : Desc) : Bool := x.field 38 0 1 == 1
def Desc.giUseRec (x : Desc) : Bool := x.field 38 1 1 == 1
def Desc.giScale (x : Desc) : Int := toSigned 8 (x.bytesAt 39 1)

/-- Bytes of an input vector without its padding. -/
def Desc.giBytes (x : Desc) : Nat := x.giLanes * if x.giWide then 2 else 1

/-- Strides of an input vector and of a block vector (R208, R218). -/
def Desc.giStride (x : Desc) : Nat := roundUp x.giBytes 64
def Desc.giOut (x : Desc) : Nat := roundUp x.giLanes 64

/-- The region of a block of 64 vectors (R211). -/
def maskRegion (mask block : Nat) : Nat :=
  let rs := maskRegions mask
  rs.getD (block % max rs.length 1) 0

/-- The regions that have a block of an intake's vectors. -/
def Desc.giRegions (x : Desc) : List Nat := (maskRegions x.giMask).take ((x.length + 63) / 64)

/-- The blocks of 64 vectors: number, first vector and count. -/
def vectorBlocks (n : Nat) : List (Nat × Nat × Nat) :=
  (List.range ((n + 63) / 64)).map fun b => (b, b * 64, min 64 (n - b * 64))

/-- The address of a table's scale-control record (R202). -/
def Dev.gscAddr (d : Dev) (t : Nat) : Nat := (d.rd F.optGsc_base 8 * 4096 + 128 * t) % 2 ^ 46

/-- GRAD_INTAKE (R207, R209, R210). -/
def gradIntake (x : Desc) : M Unit := do
  x.formChecks [(24, 60, 4), (38, 2, 6), (40, 0, 192)] [] false
  malformedIf (decide (2 ^ 20 < x.length)) rOPERAND
  malformedIf (x.giMask == 0 || (x.giUseRec && x.giWide) ||
    (if x.giWide || x.giUseRec then x.giScale != 0 else decide (112 < x.giScale))) rOPERAND
  if x.length = 0 then zeroCount x
  else
    malformedIf ((← rd F.optGsc_enable 8) == 0) rOPERAND
    let t ← useTable x.q x.seq x.giTable false
    malformedIf (t.flowMode == 3 || t.widePolicy == 3) rOPERAND
    if x.giSrc % 64 ≠ 0 ∨ x.giDst % 64 ≠ 0 then failBounds
    malformedIf (rangesMeet [(x.giSrc, x.length * x.giStride)] [(x.giDst, 64 + x.length * x.giOut)]) rOPERAND
    let who ← structWho 8 0 5 (pg bOPT 8) x.q x.seq
    let r : ScaleRec := fromBytes (← readLocal who ((← dev).gscAddr x.giTable) 128)
    let e := if x.giWide || x.giUseRec then ScaleRec.scaleExp r else x.giScale
    setWork x.q x.seq (.intake ⟨r, e, none, false⟩)
    countHold x.q x.seq (x.giRegions.map dieOfRegion).eraseDups

/-- Dispatch of a GRAD_INTAKE. -/
def execGradIntake (q : Fin 1024) (s : State) : Host.Outcome State Fault Refusal :=
  transact (launch q.val (opcodeIs 0x20) gradIntake) s

/-! ### Counting (R212, R213) -/

/-- Nothing counted. -/
def GradCount.zero : GradCount := ⟨0, 0, 0, 0⟩

/-- The sum of two counts. -/
def GradCount.add (a b : GradCount) : GradCount := ⟨a.sat + b.sat, a.under + b.under, a.nf + b.nf, f32Max a.amax b.amax⟩

/-- A narrow element under scale E. -/
def countNarrow (e : Int) (c : Nat) : GradCount :=
  let m := c % 128
  let fin := decide (m < 0x7C)
  ⟨b2n (m == 0x7B || m == 0x7C), b2n (decide (1 ≤ m) && decide (m ≤ 3)), b2n (!fin),
   if fin then f32Abs (rne32 ((fpE5M2.decode c).mul (Val.pow2 e))) else 0⟩

/-- The underflow of a wide element under scale E. -/
def wideUnder (e : Int) (c : Nat) : Bool :=
  let g := bf16To32 c
  f32Finite g && !f32Zero g && decide ((fpE5M2.encode (quotient g.val e)).1 % 128 < 4)

/-- A wide element; `measured` is false where the scale is not known before counting ends (R210). -/
def countWide (e : Int) (measured : Bool) (c : Nat) : GradCount :=
  let g := bf16To32 c
  if f32Finite g then
    let (q, above) := fpE5M2.encode (quotient g.val e)
    ⟨b2n (measured && (above || q % 128 == 0x7B)), b2n (measured && wideUnder e c), 0, f32Abs g⟩
  else ⟨0, 0, 1, 0⟩

/-- The lanes of the vectors of a block, as codes; its bytes come without padding. -/
def vectorLanes (x : Desc) (n : Nat) (bs : List Byte) : List (List Nat) :=
  (List.range n).map fun v =>
    let vec := bs.drop (v * x.giBytes)
    (List.range x.giLanes).map fun i => elemAt (if x.giWide then fBF16 else fE5M2) vec i

/-- The ranges of a block of the tensor; padding is not read (R208). -/
def Desc.giRanges (x : Desc) (b : Nat × Nat × Nat) : List (Nat × Nat) :=
  if x.giBytes = x.giStride then [(x.giSrc + b.2.1 * x.giStride, b.2.2 * x.giStride)]
  else (range' b.2.1 b.2.2).map fun v => (x.giSrc + v * x.giStride, x.giBytes)

/-- Read a block of the tensor. -/
def readBlock (x : Desc) (b : Nat × Nat × Nat) : M (List (List Nat)) := do
  let d ← dev
  let r := maskRegion x.giMask b.1
  let bs ← readVas (stageWaiter r x.q x.seq) (optWho r (d.queueWorld x.q) x.q x.seq) (d.queueAsid x.q) (x.giRanges b)
  return vectorLanes x b.2.2 bs

/-- The counting pass: each region counts its blocks. -/
def countPass (x : Desc) (g : Intake) : M GradCount := do
  let measured := !x.giWide || ScaleRec.valid g.rec'
  foldM' (fun n b => do
    let vs ← readBlock x b
    let c := (vs.flatten.map fun c => if x.giWide then countWide g.e measured c else countNarrow g.e c).foldl
      GradCount.add GradCount.zero
    let r := maskRegion x.giMask b.1
    bump F.optGiElems_count r (b.2.2 * x.giLanes)
    bump F.optGiSat_count r c.sat
    bump F.optGiUnder_count r c.under
    bump F.optGiNf_count r c.nf
    return n.add c) GradCount.zero (vectorBlocks x.length)

/-- The passes of an intake can run: the stages of its regions do, and no load holds its conversions (R181). -/
def Dev.intakeRuns (d : Dev) (x : Desc) : Bool := x.giRegions.all d.stageRuns && !d.scaleHeld x

/-- The record atomic of an intake (R203). -/
def recordAtomic (x : Desc) (f : ScaleRec → ScaleRec) : M ScaleRec := do
  let who ← structWho 8 0 5 (pg bOPT 8) x.q x.seq
  let old ← atomicLocal who .record ((← dev).gscAddr x.giTable) 128 fun bs => toBytes 128 (f (fromBytes bs))
  return fromBytes old

/-- The saturation of an intake holds it (R215). -/
def holds (x : Desc) (g : Intake) (c : GradCount) : Bool :=
  let t := x.table
  let n := x.length * x.giLanes
  (!x.giWide || ScaleRec.valid g.rec') && t.satExceeds n c.sat &&
    (if x.giWide then t.widePolicy == 0 else t.narrowPolicy == 0)

/-- Counting is done. -/
def endCount (x : Desc) (g : Intake) : M Unit := do
  orEnd x.q x.seq do
    let c ← countPass x g
    if c.nf ≠ 0 then raiseFlag x.q x.seq fNONFINITE
    if holds x g c then
      let et ← now
      let _ ← recordAtomic x fun r => ScaleRec.held r x.table g.e et
      bump F.optGscHeld_count 8
      progress x.q x.seq 0 0 et
      endWith x.q x.seq sSCALE_MISS_HELD rNONE
    else setWork x.q x.seq (.intake { g with counted := some c })

/-- Counting ends: the decision is taken, and a HOLD ends the intake (R206, R215). -/
def execIntakeCountEnd (q : Fin 1024) (seq : BitVec 32) (s : State) : Host.Outcome State Fault Refusal :=
  transact (do
    let x ← getDesc q.val seq.toNat
    match x.work with
    | .intake g =>
      need (!x.ended && g.counted.isNone && (← dev).intakeRuns x)
      endCount x g
    | _ => skip) s

/-! ### The commit (R216 to R219) -/

/-- The header of a gradient block (R218); `nf` says that its payload holds a non-finite element, or an infinity that
saturated. -/
def blockHeader (x : Desc) (e : Int) (repaired above below nf : Bool) (c : GradCount) (et : Nat) : List Byte :=
  toBytes 64 (payloadOf [(0, x.giStep), (4, x.giTable), (6, ofSigned 8 e),
    (7, 1 + 2 * b2n x.giWide + 4 * b2n repaired + 8 * b2n above + 16 * b2n below + 32 * b2n nf),
    (8, x.length), (12, x.giLanes - 1), (14, x.q), (16, x.seq), (20, c.amax), (24, c.sat), (28, c.under), (32, c.nf),
    (40, et)])

/-- What a writing pass did: the underflow recounted under its scale, whether its payload holds a non-finite element, and
when its last write was coherent. -/
structure Written where
  under : Nat
  nf : Bool
  et : Nat

/-- The code that an input element commits as, and whether an FP8 overflow or infinity was converted (R217, R167). -/
def commitCode (x : Desc) (e : Int) (c : Nat) : Nat × Bool :=
  if x.giWide then fpE5M2.encodeSat x.table.gSat (quotient (bf16To32 c).val e) else (c, false)

/-- The writing pass under scale E. -/
def writePass (x : Desc) (e : Int) (recount : Bool) : M Written := do
  let d ← dev
  foldM' (fun n b => do
    let vs ← readBlock x b
    let r := maskRegion x.giMask b.1
    let codes := vs.map fun v => v.map (commitCode x e)
    bump F.qntFp8Ovf_count (dieOfRegion r) (codes.flatten.filter Prod.snd).length
    let out := (codes.map fun v => pad64 (v.map fun c => BitVec.ofNat 8 c.1)).flatten
    let below := if recount then (vs.flatten.filter (wideUnder e)).length else 0
    if recount then bump F.optGiUnder_count r below
    let et ← writeVa (stageWaiter r x.q x.seq) (optWho r (d.queueWorld x.q) x.q x.seq) (d.queueAsid x.q)
      (x.giDst + 64 + b.2.1 * x.giOut) out
    progress x.q x.seq 0 0 et
    return ⟨n.under + below, n.nf || codes.flatten.any fun c => decide (0x7C ≤ c.1 % 128), max n.et et⟩)
    ⟨0, false, 0⟩ (vectorBlocks x.length)

/-- What a commit comes to: its scale, whether it repairs and recounts underflow. -/
def commitScale (x : Desc) (g : Intake) (c : GradCount) : Int × Bool × Bool :=
  let t := x.table
  let n := x.length * x.giLanes
  if x.giWide && !ScaleRec.valid g.rec' then ((scaleRule c.amax t.margin).getD 0, false, true)
  else if x.giWide && t.widePolicy == 2 && (t.satExceeds n c.sat || t.underExceeds n c.under) then
    ((scaleRule c.amax t.margin).getD g.e, true, true)
  else (g.e, false, false)

/-- The commit of an intake has begun. -/
def Dev.committing (d : Dev) (q seq : Nat) : Dev :=
  match d.desc q seq with
  | some x => match x.work with
    | .intake g => d.putDesc { x with work := .intake { g with committing := true } }
    | _ => d
  | none => d

/-- The header is written; once it is on its way to another package the commit has begun, and is not cut short (R219). -/
def writeHeader (x : Desc) (bs : List Byte) : M Nat := do
  let d ← dev
  let r := maskRegion x.giMask 0
  let w := stageWaiter r x.q x.seq
  let segs ← translate w (d.queueWorld x.q) (d.queueAsid x.q) .wr x.giDst bs.length
  let far := segs.any fun s => !s.local' d.self
  alsoOnWait (fun d => if far then d.committing x.q x.seq else d)
    (writeSegs w (optWho r (d.queueWorld x.q) x.q x.seq) (mergeSegs segs) bs)

/-- What a commit shows, once its payload is written: its counts, and whether they exceed the limits of saturation, where it
does not repair, and of underflow (R214 to R218). -/
def commitShows (x : Desc) (g : Intake) (c : GradCount) (w : Written) : GradCount × Bool × Bool :=
  let t := x.table
  let n := x.length * x.giLanes
  let (_, repaired, recount) := commitScale x g c
  let c' : GradCount := if recount then { c with under := w.under } else c
  (c', !repaired && t.satExceeds n c.sat, t.underExceeds n c'.under)

/-- The header of a commit. -/
def commitHeader (x : Desc) (g : Intake) (c : GradCount) (w : Written) : List Byte :=
  let (e, repaired, _) := commitScale x g c
  let (c', above, below) := commitShows x g c w
  blockHeader x e repaired above below (w.nf || (x.giWide && c.nf != 0)) c' w.et

/-- The commit: payload, header, and record (R219). -/
def intakeCommit (x : Desc) (g : Intake) (c : GradCount) : M Unit := do
  let t := x.table
  let n := x.length * x.giLanes
  let (e, repaired, recount) := commitScale x g c
  let fresh ← writePass x e recount
  let (_, above, below) := commitShows x g c fresh
  let missed := if x.giWide && !ScaleRec.valid g.rec' then false
    else t.satExceeds n c.sat || t.underExceeds n c.under
  let d ← dev
  -- header and record are one commit: the record is checked before the header is written
  localCheck (← structWho 8 0 5 (pg bOPT 8) x.q x.seq) .record (d.gscAddr x.giTable) 128
  let ph ← writeHeader x (commitHeader x g c fresh)
  let et ← now
  let bumped := if above then some g.e else none
  let old ← recordAtomic x fun r =>
    (ScaleRec.commit r t x.giStep c.amax missed bumped above below repaired et).1
  if (ScaleRec.commit old t x.giStep c.amax missed bumped above below repaired et).2 then bump F.optGscOld_count 8
  if above then
    bump F.optGscFlagged_count 8
    raiseFlag x.q x.seq fSCALE_OVER
  if below then raiseFlag x.q x.seq fSCALE_UNDER
  if repaired then
    bump F.optGscRepaired_count 8
    each (maskRegions x.giMask) fun r => bump F.optGiRepairs_count r
  progress x.q x.seq x.length (64 + x.length * x.giOut) (max ph et)
  endDesc x.q x.seq

/-- The writing pass ends with the commit. -/
def execIntakeCommit (q : Fin 1024) (seq : BitVec 32) (s : State) : Host.Outcome State Fault Refusal :=
  transact (do
    let x ← getDesc q.val seq.toNat
    match x.work with
    | .intake g =>
      need (!x.ended && (← dev).intakeRuns x)
      let c ← have! g.counted
      orEnd q.val seq.toNat (intakeCommit x g c)
    | _ => skip) s

end Sys2Proof.Machine
end

