-- ==== Sys2Proof/Machine/Update.lean ====
section
/-! DEFINITION. Optimiser settings and companions of a table (R230 to R232), sum headers (R235), update records with their
touched lists (R236, R237), and contribution units (R252, R253). -/

namespace Sys2Proof.Machine

/-! ### Optimiser settings (R230 to R232) -/

def Table.optKind (t : Table) : Nat := bits t.opt 0 3
def Table.nfPolicy (t : Table) : Nat := bits t.opt 3 2
def Table.hp (t : Table) : Nat := bits t.opt 5 11
def Table.state1 (t : Table) : Nat := bits t.opt 16 16
def Table.state2 (t : Table) : Nat := bits t.opt 32 16
def Table.gsum (t : Table) : Nat := bits t.opt 48 16

/-- The OPT field meets R231. -/
def Table.optOk (t : Table) : Bool :=
  let s1 := t.state1 != 0
  let s2 := t.state2 != 0
  t.nfPolicy != 3 && t.gsum != 0 &&
  (if t.optKind = 1 then !s1 && !s2
   else if t.optKind = 2 then s1 && !s2
   else if t.optKind = 3 then !s1 && !s2 && t.husk != 0
   else if t.optKind = 4 then s1 && s2
   else t.optKind == 5)

/-- A companion matches its main table (R232). -/
def Table.companionOk (t c : Table) (sum : Bool) : Bool :=
  (if sum then c.format == fFP32 && c.husk == 1 else (c.format == fFP32 || c.format == fBF16) && c.husk == 0) &&
  c.elems == t.elems && c.rows == t.rows && c.shard == t.shard && c.opt == 0

/-- Read a companion; table number 0 stands for none. -/
def readCompanion (q seq : Nat) (t : Table) (n : Nat) (sum : Bool) : M (Option Table) := do
  if n = 0 then return none
  else
    let c ← useTable q seq n true
    malformedIf (!t.companionOk c sum) rOPERAND
    let c : Table := { c with dir := t.dir, shards := t.shards }
    keepTable q seq c
    return some c

/-- The companions of a table: first and second state, and GSUM (R231, R232). -/
def readCompanions (q seq : Nat) (t : Table) : M (Option Table × Option Table × Table) := do
  malformedIf (!t.optOk) rOPERAND
  let a ← readCompanion q seq t t.state1 false
  let b ← readCompanion q seq t t.state2 false
  match ← readCompanion q seq t t.gsum true with
  | some g => return (a, b, g)
  | none => fail sMALFORMED rOPERAND

/-! ### Sum headers (R235) -/

/-- A sum header as a number of 32 bytes. -/
abbrev SumHdr := Nat

def SumHdr.step (h : SumHdr) : Nat := byteField h 0 4
def SumHdr.contrib (h : SumHdr) : Nat := byteField h 4 4
def SumHdr.pending (h : SumHdr) : Bool := bit h 128

/-- Step `a` is newer than step `b` (R204). -/
def newer (a b : Nat) : Bool := decide (0 < diff32 a b) && decide (diff32 a b < 2 ^ 31)

/-- The header after a drain (R247). -/
def SumHdr.drained (h : SumHdr) (step count et : Nat) (nf : Bool) : SumHdr :=
  let h := if newer step (SumHdr.step h) then setBits h 0 32 step else h
  let h := setBits h 32 32 (min (SumHdr.contrib h + count) (2 ^ 32 - 1))
  let h := if SumHdr.pending h then h else setBits h 64 64 et
  let h := if nf then setBits h 129 1 1 else setBits h 129 1 0
  setBits h 128 1 1

/-- The header after a clear (R235). -/
def SumHdr.cleared (h : SumHdr) : SumHdr := setBits (setBits h 32 32 0) 128 2 0

/-! ### Update records (R236, R237) -/

/-- An update record as a number of 64 bytes. -/
abbrev URec := Nat

def URec.tlist (r : URec) : Nat := byteField r 0 8
def URec.tcap (r : URec) : Nat := byteField r 8 8
def URec.tappend (r : URec) : Nat := byteField r 16 8
def URec.tconsume (r : URec) : Nat := byteField r 24 8
def URec.put (r : URec) (byte n v : Nat) : URec := setBits r (8 * byte) (8 * n) v

/-- Step, units and use of slot A (0) or B (1). -/
def URec.slotStep (r : URec) (s : Nat) : Nat := byteField r (32 + 8 * s) 4
def URec.slotUnits (r : URec) (s : Nat) : Nat := byteField r (36 + 8 * s) 4
def URec.slotValid (r : URec) (s : Nat) : Bool := bit r (8 * 48 + s)

/-- The record is usable for touched lists (R237). -/
def URec.usable (r : URec) : Bool :=
  decide (1 ≤ URec.tcap r) && decide (URec.tcap r ≤ 2 ^ 40) && URec.tlist r % 64 == 0

/-- The local address of a table's update record. -/
def Dev.urecAddr (d : Dev) (t : Nat) : Nat := (d.rd F.optUrec_base 8 * 4096 + 64 * t) % 2 ^ 46

/-- Read an update record; update records have to be enabled. -/
def readURec (q seq t : Nat) : M URec := do
  malformedIf ((← rd F.optUrec_enable 8) == 0) rOPERAND
  let who ← structWho 8 0 5 (pg bOPT 8) q seq
  return fromBytes (← readLocal who ((← dev).urecAddr t) 64)

/-- A record that has to be usable. -/
def usableURec (q seq t : Nat) : M URec := do
  let r ← readURec q seq t
  malformedIf (!URec.usable r) rOPERAND
  return r

/-- An atomic on an update record; the answer is the old record. -/
def urecAtomic (q seq t : Nat) (f : URec → URec) : M URec := do
  let who ← structWho 8 0 5 (pg bOPT 8) q seq
  let old ← atomicLocal who .record ((← dev).urecAddr t) 64 fun bs => toBytes 64 (f (fromBytes bs))
  return fromBytes old

/-- Append a row to a table's touched list; false where the ring is full (R247). -/
def appendTouched (q seq t row : Nat) : M Bool := do
  let r ← usableURec q seq t
  let n := URec.tappend r
  if URec.tcap r ≤ (n + 2 ^ 64 - URec.tconsume r) % 2 ^ 64 then return false
  else
    let who ← structWho 8 0 5 (pg bOPT 8) q seq
    writeLocal who ((URec.tlist r + 8 * (n % URec.tcap r)) % 2 ^ 46) (toBytes 8 (row % 2 ^ 40))
    let _ ← urecAtomic q seq t fun r => URec.put r 16 8 ((n + 1) % 2 ^ 64)
    return true

/-- Append a row, or leave the append waiting for room (R247). -/
def appendOrWait (region q seq t row : Nat) : M Bool := do
  if ← appendTouched q seq t row then return true
  else
    modDev fun d => { d with appends := d.appends ++ [(region, t, row)] }
    return false

/-! ### Contribution units (R252) -/

/-- A unit for a step enters a record. -/
def URec.addUnit (r : URec) (s : Nat) : URec :=
  let is (k : Nat) : Bool := URec.slotValid r k && URec.slotStep r k == s
  let take (k : Nat) : URec :=
    let r := URec.put r 56 4 ((byteField r 56 4 + URec.slotUnits r k) % 2 ^ 32)
    let r := URec.put (URec.put r (32 + 8 * k) 4 s) (36 + 8 * k) 4 1
    setBits r (8 * 48 + k) 1 1
  let up (k : Nat) : URec := URec.put r (36 + 8 * k) 4 ((URec.slotUnits r k + 1) % 2 ^ 32)
  if is 0 then up 0
  else if is 1 then up 1
  else if !URec.slotValid r 0 then take 0
  else if !URec.slotValid r 1 then take 1
  else if newer s (URec.slotStep r 0) || newer s (URec.slotStep r 1) then
    take (if newer (URec.slotStep r 0) (URec.slotStep r 1) then 1 else 0)
  else URec.put r 52 4 ((byteField r 52 4 + 1) % 2 ^ 32)

/-- A slot holds a step with at least so many units (R253). -/
def URec.reached (r : URec) (step units : Nat) : Bool :=
  [0, 1].any fun k => URec.slotValid r k && URec.slotStep r k == step && decide (units ≤ URec.slotUnits r k)

def Desc.opTable (x : Desc) : Nat := x.bytesAt 16 2
def Desc.opArm (x : Desc) : Bool := x.field 18 0 1 == 1
def Desc.opStep (x : Desc) : Nat := x.bytesAt 20 4
def Desc.opExpected (x : Desc) : Nat := x.bytesAt 24 4
def Desc.opBiasT (x : Desc) : Nat := x.bytesAt 28 4
def Desc.opResult (x : Desc) : Nat := x.field 32 0 52

/-- An armed OPTIMIZE that has not fired. -/
def Desc.armed (x : Desc) : Bool :=
  !x.ended && (match x.work with
    | .optimize o => !o.fired
    | _ => false)

/-- Show the armed OPTIMIZEs (R261). -/
def Dev.syncArmed (d : Dev) : Dev := d.wr F.optArmed_count 8 (d.descs.filter fun x => x.armed && x.opArm).length

/-- The armed OPTIMIZEs of a table whose units have come are ready to fire (R253); a late unit marks them (R288). -/
def Dev.testArmed (d : Dev) (t : Nat) (r : URec) (late : Bool) : Dev :=
  { d with descs := d.descs.map (fun x =>
      match x.work with
      | .optimize o =>
        if x.armed && !o.ready && x.opArm && x.opTable == t && URec.reached r x.opStep x.opExpected then
          let x := if late then x.flag fREMOTE_LATE else x
          { x with work := .optimize { o with ready := true } }
        else x
      | _ => x) }

/-- One contribution unit enters a table's update record (R248, R252, R287). -/
def addUnit (q seq t step : Nat) (late : Bool) : M Unit := do
  malformedIf ((← rd F.optUrec_enable 8) == 0) rOPERAND
  let old ← urecAtomic q seq t fun r => URec.addUnit r step
  modDev fun d => d.testArmed t (URec.addUnit old step) late

end Sys2Proof.Machine
end

