-- ==== Sys2Proof/Machine/Delta.lean ====
section
/-! DEFINITION. Deltas that leave the package (R221, R222, R277, R284, R285, R289): their encoding, batches and unit
records, the remote-state area (R296), and spill rings (R291). -/

namespace Sys2Proof.Machine

/-! ### The exchange format of a table (R277) -/

def Table.sumFmt (t : Table) : Nat := bits t.exch 0 2
def Table.deltaFmt (t : Table) : Nat := bits t.exch 2 2

/-- The EXCH field holds a reserved value. -/
def Table.exchBad (t : Table) : Bool := t.sumFmt == 3 || t.deltaFmt == 3 || bits t.exch 4 4 != 0

/-! ### Ports and nodes, as far as what leaves depends on them (R387, R397 to R399, R417, R418) -/

/-- Port states (R418). -/
def pOFF : Nat := 0
def pNO_MODULE : Nat := 1
def pMODULE_INIT : Nat := 2
def pTRAINING : Nat := 3
def pNO_KEY : Nat := 4
def pUP : Nat := 5
def pDOWN : Nat := 6

/-- Node states (R417). -/
def nNONE : Nat := 0
def nCONNECTING : Nat := 1
def nUP : Nat := 2
def nDETACHING : Nat := 3
def nLOST : Nat := 4

/-- The transmit association in use. -/
def Dev.txAssoc (d : Dev) (p : Nat) : Option Assoc := d.assocs.find? fun a => a.port == p && !a.rx

/-- The packet numbers of an association end here. -/
def Assoc.lastPn (a : Assoc) : Nat := if a.xpn then 2 ^ 64 else 2 ^ 32

/-- A port sends and receives Tipra frames: it is UP and its packet number is not exhausted (R387). -/
def Dev.portRuns (d : Dev) (p : Nat) : Bool :=
  d.rd F.txpState_state p == pUP && (match d.txAssoc p with
    | some a => decide (a.pn < a.lastPn)
    | none => false)

/-- The charge of a data frame in bytes (R398). -/
def chargeOf (len : Nat) : Nat := max 64 (roundUp len 64)

/-- Bytes of the retain buffer in use at a port (R397). -/
def Dev.retainUsed (d : Dev) (p : Nat) : Nat :=
  ((d.peers.filter fun e => e.2.port == p).map fun e => (e.2.retained.map fun f => chargeOf f.body.length).foldl (· + ·) 0).foldl
    (· + ·) 0

/-- The credit of a flow covers a charge. -/
def Peer.creditFor (x : Peer) (units : Nat) : Bool := decide (diff32 x.limit (wrap32 (x.sentUnits + units)) < 2 ^ 31)

/-- The first message of its node, if its node takes it now; the port of a fenced region holds what it has (R27). -/
def Dev.sendable (d : Dev) (p : Nat) (m : OutMsg) : Bool :=
  let x := d.peer m.node
  let charge := chargeOf (min 8192 (m.body.length - m.sent))
  x.port == p && !d.regionFenced p && (x.state == nUP || (x.state == nDETACHING && (m.begun || m.routed))) &&
  (d.outbox.find? fun k => k.node == m.node) == some m && x.creditFor (charge / 64)

/-- A frame waits for retain space at a port (R397). -/
def Dev.retainFull (d : Dev) (p : Nat) : Bool :=
  d.portRuns p && d.outbox.any fun m => d.sendable p m &&
    decide (d.rd F.txpRetainCfg_size p * 2 ^ 20 < d.retainUsed p + chargeOf (min 8192 (m.body.length - m.sent)))

/-! ### Encoding (R221, R403) -/

/-- Bytes of a lane under DELTA_FMT. -/
def laneBytes (fmt : Nat) : Nat := if fmt = 0 then 4 else if fmt = 1 then 2 else 1

/-- A lane encoded: FP32, BF16, or FP8-E5M2 under a scale, not saturating (R221). -/
def encodeLane (fmt : Nat) (e : Int) (v : F32) : Nat :=
  if fmt = 0 then v
  else if fmt = 1 then (bf16.encode v.val).1
  else (fpE5M2.encodeSat false (quotient v.val e)).1

/-- A lane decoded. -/
def decodeLane (fmt : Nat) (e : Int) (c : Nat) : F32 :=
  if fmt = 0 then c
  else if fmt = 1 then bf16To32 c
  else rne32 ((fpE5M2.decode c).mul (Val.pow2 e))

/-- A lane underflows under a scale (R212). -/
def laneUnder (e : Int) (v : F32) : Bool :=
  f32Finite v && !f32Zero v && decide ((fpE5M2.encode (quotient v.val e)).1 % 128 < 4)

/-- A lane converts with an FP8 overflow or infinity (R167, R221). -/
def laneOver (e : Int) (v : F32) : Bool := (fpE5M2.encodeSat false (quotient v.val e)).2

/-- Every lane of a delta. -/
def Delta.lanes (d : Delta) : List F32 := (d.entries.map fun e => e.2.2).flatten

/-- The scale of a batch (R221); 0 where every finite lane is zero. -/
def Delta.ownScale (d : Delta) (margin : Nat) : Int :=
  (scaleRule ((d.lanes.filter f32Finite).foldl (fun m v => f32Max m (f32Abs v)) 0) margin).getD 0

/-- The message header of a delta (R403). -/
def Delta.header (d : Delta) : Nat :=
  payloadOf [(0, d.table), (2, d.kind + d.fmt * 4), (3, ofSigned 8 d.scale), (4, d.step), (8, d.origin), (16, d.bseq),
    (24, d.tag), (28, d.site), (30, d.entries.length)]

/-- The body of a delta. -/
def Delta.body (d : Delta) : List Byte :=
  (d.entries.map fun e =>
    toBytes 8 (e.1 + e.2.1 * 2 ^ 40 + (e.2.2.length - 1) * 2 ^ 45) ++
    (e.2.2.map fun v => toBytes (laneBytes d.fmt) (encodeLane d.fmt d.scale v)).flatten).flatten

/-- The entries that the body of a batch spells, at most `n`. -/
def parseEntries (fmt : Nat) (scale : Int) : Nat → List Byte → List (Nat × Nat × List Nat)
  | 0, _ => []
  | n + 1, bs =>
    let key := fromBytes (bs.take 8)
    let m := bits key 45 7 + 1
    let w := laneBytes fmt
    let rest := bs.drop 8
    let lanes := (List.range m).map fun i => decodeLane fmt scale (fromBytes ((rest.drop (i * w)).take w))
    (bits key 0 40, bits key 40 5, lanes) :: parseEntries fmt scale n (rest.drop (m * w))

/-- A BATCH or UNIT message as a delta (R403). -/
def Delta.ofMessage (node : Nat) (unit : Bool) (hdr : Nat) (body : List Byte) : Delta :=
  let fmt := bits hdr 18 2
  let scale := toSigned 8 (byteField hdr 3 1)
  { node := node, table := byteField hdr 0 2, kind := bits hdr 16 2, unit := unit, step := byteField hdr 4 4,
    origin := byteField hdr 8 8, site := byteField hdr 28 1, bseq := byteField hdr 16 8, tag := byteField hdr 24 4,
    fmt := fmt, scale := scale, entries := parseEntries fmt scale (byteField hdr 30 2) body, users := [] }

/-! ### The remote-state area (R296) -/

/-- The local address of a node's entry. -/
def Dev.rmtAddr (d : Dev) (node off : Nat) : Nat := (d.rd F.mrgRmt_base 8 * 4096 + 16 * node + off) % 2 ^ 46

/-- Read a sequence of the remote-state area: offset 0 applied from, 8 sent to. -/
def rmtRead (node off : Nat) : M Nat := do
  let who ← structWho 8 0 5 (pg bMRG 8) 1024 0
  return fromBytes (← readLocal who ((← dev).rmtAddr node off) 8)

/-- Raise a sequence of the remote-state area. -/
def rmtWrite (node off v : Nat) : M Unit := do
  let who ← structWho 8 0 5 (pg bMRG 8) 1024 0
  let _ ← atomicLocal who .record ((← dev).rmtAddr node off) 8 fun _ => toBytes 8 v
  pure ()

/-- The remote-state area exists: remote traffic is refused while its base is 0 (R295). -/
def Dev.rmtOn (d : Dev) : Bool := d.rd F.mrgRmt_base 8 != 0

/-- The next batch sequence to a node (R284, R289). -/
def nextBseq (node : Nat) : M Nat := do
  let n := (← rmtRead node 8) + 1
  rmtWrite node 8 n
  return n

/-! ### Peer entries (R392) -/

/-- A peer entry as a number of 64 bytes; 0, not VALID, where no table is in use. -/
def peerEntry (n : Nat) : M Nat := do
  if (← rd F.txpPeers_enable 8) = 0 then return 0
  let who ← structWho 8 0 5 (pg bTXP 8) 1024 0
  let a := (← rd F.txpPeers_base 8) * 65536 + 64 * n
  match ← caught (readLocal who (a % 2 ^ 46) 64) with
  | .ok bs => return fromBytes bs
  | .error _ =>
    captureEngine (pg bTXP 8) kREFUSED 0x100
    return 0

/-- The port that carries a node's traffic (R28): its peer's, or that of its entry. -/
def portOf (n : Nat) : M Nat := do
  let d ← dev
  if (d.peer n).state ≠ 0 then return (d.peer n).port
  else return bits (← peerEntry n) 2 3

/-! ### Spill rings (R291, R296) -/

/-- Records that a delta takes in a spill ring. -/
def Delta.records (d : Delta) : Nat := if d.unit then 1 else d.entries.length

/-- Records held by a ring. -/
def Dev.spillHeld (d : Dev) (r : Nat) : Nat :=
  let n := max (d.rd F.mrgSpillCfg_entries 8) 1
  (d.rd F.mrgSpillPtr_put r + n - d.rd F.mrgSpillPtr_get r % n) % n

/-- Room left in a ring; one record stays free, so that a full ring differs from an empty one (log entry 21). -/
def Dev.spillRoom (d : Dev) (r : Nat) : Nat := max (d.rd F.mrgSpillCfg_entries 8) 1 - 1 - d.spillHeld r

/-- The local address of a spill record. -/
def Dev.spillAddr (d : Dev) (r i : Nat) : Nat :=
  let n := d.rd F.mrgSpillCfg_entries 8
  (d.rd F.mrgRmt_base 8 * 4096 + 16384 + (r * n + i % max n 1) * 576) % 2 ^ 46

/-- A spill record (R296). -/
def Delta.spillRecord (d : Delta) (refused : Bool) (e : Nat × Nat × List Nat) : List Byte :=
  toBytes 64 (payloadOf [(0, d.node), (2, d.table), (4, d.kind + 4 * b2n d.unit + 8 * b2n refused), (5, e.2.1),
    (8, e.1), (16, d.origin), (24, d.site), (28, d.step), (32, d.bseq), (40, d.tag)]) ++
  ((List.range 128).map fun i => toBytes 4 (e.2.2.getD i 0)).flatten

/-- A spill record by its ring and place, as a number. -/
def readSpill (r i : Nat) : M Nat := do
  let who ← structWho 8 0 5 (pg bMRG 8) 1024 0
  return fromBytes (← readLocal who ((← dev).spillAddr r i) 576)

/-- A ring holds a record of a node that is not marked REFUSED, and so has still to be resent, among `k` from place `i`. -/
def ringOwes (r node i : Nat) : Nat → M Bool
  | 0 => pure false
  | k + 1 => do
    let v ← readSpill r i
    if bits v 0 10 = node && !bit v 35 then return true else ringOwes r node (i + 1) k

/-- Write a delta to the spill ring of a region; false where the ring has no room. -/
def spill (r : Nat) (x : Delta) (refused : Bool) : M Bool := do
  if !(← dev).rmtOn || (← dev).spillRoom r < x.records then return false
  else
    let who ← structWho 8 0 5 (pg bMRG 8) 1024 0
    each (if x.unit then [(0, 0, [])] else x.entries) fun e => do
      let d ← dev
      let put := d.rd F.mrgSpillPtr_put r
      writeLocal who (d.spillAddr r put) (x.spillRecord refused e)
      wr F.mrgSpillPtr_put r ((put + 1) % max (d.rd F.mrgSpillCfg_entries 8) 1)
      bump F.mrgSpilled_count 8
    return true

/-- Descriptors whose batches or units were spilled for a peer that is lost complete LINK_LOST (R292). -/
def usersLost (us : List (Nat × Nat)) : M Unit := each us fun u => modDesc u.1 u.2 fun x =>
  if x.ended then x else x.met sLINK_LOST rNONE

/-! ### Batches and unit records (R284, R285) -/

/-- Put a delta with its sequence behind the messages for its node, and keep it until it is applied-acknowledged (R290),
with its lanes as its encoding leaves them. -/
def postDelta (x : Delta) : M Unit := modDev fun d =>
  let p := d.peer x.node
  let kept : Delta := { x with entries := x.entries.map fun e =>
    (e.1, e.2.1, e.2.2.map fun v => decodeLane x.fmt x.scale (encodeLane x.fmt x.scale v)) }
  let m : OutMsg := ⟨x.node, if x.unit then 0x11 else 0x10, x.header, x.body, 0, false, x.bseq, x.users, false⟩
  { d.setPeer x.node { p with unapplied := p.unapplied ++ [kept] } with outbox := d.outbox ++ [m] }

/-- Records of a lost node that its ring had no room for go to the ring in their order, as far as it has room now (R291). -/
def spillOwed (node : Nat) : List Delta → M Unit
  | [] => pure ()
  | u :: us => do
    if ← spill ((← dev).peer node).port u false then
      modDev fun d => d.setPeer node { d.peer node with owed := us }
      spillOwed node us
    else pure ()

/-- Send a closed delta to its home, or spill it where the home is unreachable (R291). False where it has to wait: for room
in the ring, for a session, or for the records of its node that are to go first (R284, R291). -/
def sendDelta (port : Nat) (x : Delta) : M Bool := do
  let d ← dev
  let p := d.peer x.node
  if d.unreachable x.node then
    spillOwed x.node p.owed
    if !((← dev).peer x.node).owed.isEmpty || (← dev).spillRoom port < x.records then return false
    let n ← if p.met then nextBseq x.node else pure 0
    usersLost x.users
    spill port { x with bseq := n } false
  else if p.state ≠ nUP || !p.owed.isEmpty || (← ringOwes port x.node (d.rd F.mrgSpillPtr_get port) (d.spillHeld port)) then
    return false
  else
    postDelta { x with bseq := ← nextBseq x.node }
    if x.unit then bump F.mrgUnitsTx_count 8 else bump F.mrgTxBatches_count 8
    return true

/-- A batch as it closes: its origin ET, site and scale (R221, R284). -/
def OutBatch.closing (b : OutBatch) (d : Dev) : Delta :=
  let x : Delta := { b.d with origin := d.time.et, site := d.rd F.optSite_site 8 }
  { x with scale := if x.fmt = 2 then x.ownScale b.tab.margin else 0 }

/-- A batch has closed: what its conversion did is counted (R167, R221, R222). -/
def batchClosed (b : OutBatch) (x : Delta) : M Unit := do
  modDev fun d => { d with batches := d.batches.filter fun y => !(y == b) }
  if x.fmt = 2 then
    bump F.qntFp8Ovf_count (dieOfRegion b.port) (x.lanes.filter (laneOver x.scale)).length
    if b.tab.underExceeds x.lanes.length (x.lanes.filter (laneUnder x.scale)).length then
      bump F.optGscXunder_count 8
      each x.users fun u => raiseFlag u.1 u.2 fSCALE_UNDER

/-- Close an open batch (R284). It stays open while it cannot be sent or spilled. -/
def closeBatch (b : OutBatch) : M Unit := do
  let x := b.closing (← dev)
  match ← caught (sendDelta b.port x) with
  | .ok true => batchClosed b x
  | .ok false => pure ()
  | .error _ => captureEngine (pg bMRG 8) kREFUSED 0x110

/-- Encoded bytes of an entry's lanes. -/
def entryBytes (fmt : Nat) (e : Nat × Nat × List Nat) : Nat := e.2.2.length * laneBytes fmt

/-- One entry that leaves the package joins the open batch of its home, table, kind and step, which closes when it holds
8 KiB of encoded lanes or has no room for the entry (R284). -/
def addToBatch (fresh : OutBatch) (e : Nat × Nat × List Nat) : M Unit := do
  let d ← dev
  let n := entryBytes fresh.d.fmt e
  let mine (b : OutBatch) : Bool := b.port == fresh.port && b.d.node == fresh.d.node && b.d.table == fresh.d.table &&
    b.d.kind == fresh.d.kind && b.d.step == fresh.d.step
  each (d.batches.filter fun b => mine b && decide (8192 < b.bytes + n)) closeBatch
  let old := (← dev).batches.find? fun b => mine b && decide (b.bytes + n ≤ 8192)
  let b := old.getD fresh
  let b : OutBatch := { b with
    d := { b.d with entries := b.d.entries ++ [e], users := (b.d.users ++ fresh.d.users).eraseDups }, bytes := b.bytes + n }
  modDev fun d => { d with batches := (d.batches.filter fun y => some y != old) ++ [b] }
  if 8192 ≤ b.bytes then closeBatch b

/-- Entries that leave the package (R284). -/
def toBatch (port : Nat) (t : Table) (node kind step : Nat) (es : List (Nat × Nat × List Nat))
    (users : List (Nat × Nat)) : M Unit := do
  let et ← now
  each es (addToBatch ⟨port, t,
    ⟨node, t.num, kind, false, if kind = 0 then step else 0, 0, 0, 0, t.tag, t.deltaFmt, 0, [], users⟩, 0, et⟩)

/-- Close the open batches that carry contributions of a descriptor. -/
def closeFor (q seq : Nat) : M Unit := do
  each ((← dev).batches.filter fun b => b.d.users.contains (q, seq)) closeBatch

/-- A drain to another package can go on (R245, R291, R397): its node is up, and no frame of its port waits for retain space;
or the node is unreachable, and its spill ring has room for the drain and for what is still to be spilled. -/
def Dev.drainLeaves (d : Dev) (port node n : Nat) : Bool :=
  if d.unreachable node then
    let open' := (d.batches.filter fun b => b.port == port && d.unreachable b.d.node).map fun b => b.d.entries.length
    decide (open'.foldl (· + ·) n + (((d.peer node).owed).map Delta.records).foldl (· + ·) 0 ≤ d.spillRoom port)
  else (d.peer node).state == nUP && !d.retainFull port

/-- Something of a descriptor has still to leave through a port. -/
def Dev.leaving (d : Dev) (q seq : Nat) : Bool :=
  d.batches.any (fun b => b.d.users.contains (q, seq)) || d.outbox.any fun m => m.users.contains (q, seq)

end Sys2Proof.Machine
end

