-- ==== Sys2Proof/Machine/Merge.lean ====
section
/-! DEFINITION. The merge tables (R243 to R247): taking in, draining to rows, sums and ports, stuck drains (R552), and
waiting appends. -/

namespace Sys2Proof.Machine

/-! ### The table of a region -/

/-- Entries of a region, oldest first. -/
def Dev.merges (d : Dev) (r : Nat) : List Merge := SMap.get [] d.merge r

/-- Replace them, and show the occupancy (R261). An entry that is freed ends a stall of the intake (R245). -/
def Dev.setMerges (d : Dev) (r : Nat) (l : List Merge) : Dev :=
  let freed := decide (l.length < (d.merges r).length)
  let d := { d with
    merge := SMap.set [] d.merge r l
    stalls := if freed then d.stalls.filter fun s => s != r else d.stalls }.wr F.mrgOcc_used r l.length
  d.wr F.mrgOcc_peak r (max (d.rd F.mrgOcc_peak r) l.length)

/-- Change them. -/
def modMerges (r : Nat) (f : List Merge → List Merge) : M Unit := modDev fun d => d.setMerges r (f (d.merges r))

/-- The main table of an entry. -/
def Merge.table (m : Merge) : Table := m.tabs.headD ⟨0, 0, 0, []⟩

/-- The GSUM table of an entry. -/
def Merge.gsum (m : Merge) : Table := m.tabs.getD 1 ⟨0, 0, 0, []⟩

/-- Two entries belong to one unit: they drain together (R246). -/
def Merge.same (a b : Merge) : Bool :=
  a.table.num == b.table.num && a.row == b.row && a.kind == b.kind && a.q == b.q && a.seq == b.seq && a.origin == b.origin

/-- An entry has this key (R243). -/
def Merge.hasKey (a b : Merge) : Bool := Merge.same a b && a.k == b.k

/-- The merge of a contribution into an entry that holds its key (R244). A stuck entry keeps no descriptors: they have met
its cause (R552). -/
def Merge.merge (old new : Merge) : Merge :=
  let users := if old.stuck = 0 then (old.users ++ new.users).eraseDups else []
  if old.kind = 2 then { new with et := old.et, users := users, stuck := old.stuck, cause := old.cause }
  else
    { old with
      vals := (List.range (max old.vals.length new.vals.length)).map fun i =>
        f32Add (old.vals.getD i 0) (new.vals.getD i 0)
      count := old.count + new.count
      step := if newer new.step old.step then new.step else old.step
      users := users }

/-- The intake of a region stalls (R245). -/
def Dev.stallIntake (d : Dev) (r : Nat) : Dev := { d with stalls := if d.stalls.contains r then d.stalls else r :: d.stalls }

/-- Take the lane groups of a contribution in: each merges or takes a free entry (R243 to R245). A contribution is taken in
whole: while entries are free, but too few for it, the intake stalls as on a full table (DEDUCED, log entry 154). Its
descriptor meets the cause of a stuck drain that it joins (R552). -/
def takeIn (r : Nat) (es : List Merge) : M Unit := do
  let l := (← dev).merges r
  let fresh := es.filter fun e => !l.any fun m => Merge.hasKey m e
  if 32768 < l.length + fresh.length then waitFor fun d => d.stallIntake r
  each (l.filter fun m => m.stuck != 0) fun m => do
    each (es.filter fun e => Merge.hasKey m e) fun e => each e.users fun u => meet u.1 u.2 m.cause.1 m.cause.2
  let merged := l.map fun m => match es.find? fun e => Merge.hasKey m e with
    | some e => Merge.merge m e
    | none => m
  modMerges r fun _ => merged ++ fresh
  bump F.mrgTaken_count r es.length
  bump F.mrgMerged_count r (es.length - fresh.length)
  if (es.head?.map fun e => e.kind == 2) == some true then
    bump F.mrgSuperseded_count r (b2n (decide (fresh.length < es.length)))

/-! ### The end of a SCATTER_UPDATE -/

def Desc.suKind (x : Desc) : Nat := x.field 63 0 2
def Desc.suTable (x : Desc) : Nat := x.bytesAt 60 2

/-- The scatter work of a descriptor. -/
def Desc.scatter (x : Desc) : Option Scatter :=
  match x.work with
  | .scatter s => some s
  | _ => none

/-- Some drain of a descriptor has neither reached its point of coherence nor become stuck, or something of it has still
to leave through a port (R248). -/
def Dev.draining (d : Dev) (q seq : Nat) : Bool :=
  (List.range 8).any (fun r => (d.merges r).any fun m => m.stuck == 0 && m.users.contains (q, seq)) || d.leaving q seq

/-- A SCATTER_UPDATE whose drains and units are done ends (R248). -/
def scatterCheck (q seq : Nat) : M Unit := do
  let d ← dev
  match d.desc q seq with
  | none => pure ()
  | some x =>
    match x.scatter with
    | none => pure ()
    | some s =>
      if !x.ended && s.taken && !d.draining q seq && (x.suKind != 0 || s.unit) then
        endStats q seq 0 x.suTable x.table.mseLimit false s.stats
      else pure ()

/-- Add the errors of a row to the statistics of a descriptor. -/
def addErrors (us : List (Nat × Nat)) (es : List F32) : M Unit :=
  match us with
  | [] => pure ()
  | u :: _ => modDesc u.1 u.2 fun x =>
      match x.work with
      | .scatter s => { x with work := .scatter { s with stats := s.stats.addRow es } }
      | _ => x

/-! ### Drains on this package (R247, R250) -/

/-- The requester of a drain. -/
def drainWaiter (r : Nat) (m : Merge) : Waiter := ⟨.stage r, 1024, 1 + m.kind + 4 * (m.row + 2 ^ 40 * m.table.num)⟩

/-- The lanes of a row that lane groups cover. -/
def groupLanes (n : Nat) (es : List (Nat × List F32)) : List (Option F32) :=
  (List.range n).map fun i => match es.find? fun e => e.1 == i / 128 with
    | some e => e.2[i % 128]?
    | none => none

/-- A lane with what a contribution adds to it. -/
def addLane (old : F32) (c : Option F32) : F32 :=
  match c with
  | some v => f32Add old v
  | none => old

/-- The sum of a row is opened for a drain: its pieces, and its header and bytes. -/
def openSum (w : Waiter) (who : Who) (m : Merge) : M (List (List Seg) × Husk × List Byte) := do
  let t := m.table
  let g := m.gsum
  let gs ← openRanges w who m.asid .at (g.ranges (g.localRow m.row))
  let ms ← openRanges w who m.asid .rd (t.ranges (t.localRow m.row))
  if (oneHome (gs ++ ms)).isNone then failBounds
  checkRow who .at gs
  let (h, p) ← readRow g gs
  return (gs, h, p)

/-- A GRAD drain into a sum (R247): true where the append still waits for room. `who` and the requester are those of the
drain, or of the application of a released item. -/
def drainSum (r : Nat) (w : Waiter) (who : Who) (m : Merge) (lanes : List (Option F32)) (count : Nat) : M Bool := do
  let t := m.table
  let g := m.gsum
  let (gs, h, p) ← openSum w who m
  if !SumHdr.pending h then
    let _ ← usableURec 1024 0 t.num
  issueRow who 2 gs
  let sum := (List.range g.elems).map fun i => addLane (elemAt fFP32 p i) (lanes.getD i none)
  let et ← now
  let h' := SumHdr.drained h m.step count et (sum.any fun v => !f32Finite v)
  groupWrite 2 (gs.headD []) (toBytes 32 h' ++ packElems fFP32 sum)
  if SumHdr.pending h then return false
  else return !(← appendOrWait r 1024 0 t.num m.row)

/-- The stamps of a drain's row operation (R228): its own, or those an item brought. -/
def Merge.stamps (m : Merge) : M (Nat × Nat) := do
  match m.origin with
  | some o => return (o.1, o.2.1)
  | none => return (← now, ← rd F.optSite_site 8)

/-- A DELTA or OVERWRITE drain of `n` entries: a row operation (R247, R250, R251). -/
def drainRow (r : Nat) (w : Waiter) (who : Who) (m : Merge) (lanes : List (Option F32)) (n : Nat) : M Unit := do
  let t := m.table
  let gs ← openRanges w who m.asid .at (t.ranges (t.localRow m.row))
  checkRow who .at gs
  let d ← dev
  let (h, p) ← readRow t gs
  secureCheck who t h gs
  issueRow who 3 gs
  heatRow m.asid gs
  let (u, site) ← m.stamps
  let die := dieOfRegion r
  let write (vs : List F32) : M Unit := do
    let e := d.encodeRow die t h t.reqFit vs
    countEncode die t.elems e
    match e with
    | none => each m.users fun x => raiseFlag x.1 x.2 fNONFINITE
    | some e =>
      writeRow t gs (((e.husk h).changed u site).marked who.world) (packElems t.format e.codes)
      addErrors m.users e.errors
  if m.kind = 1 then
    if t.husk != 0 && h.frozen then bump F.optFrozen_count r n
    else
      let ws := d.decodeRow die t h 0 p
      write ((List.range ws.length).map fun i => addLane (ws.getD i 0) (lanes.getD i none))
  else
    let old := if t.husk = 0 then 0 else h.version
    let oldSite := if t.husk = 0 then 0 else byteField h 15 1
    if old < u || (old == u && decide (oldSite < site)) then
      let ws := d.decodeRow die t h 0 p
      write ((List.range ws.length).map fun i => (lanes.getD i none).getD (ws.getD i 0))
    else
      bump F.mrgStale_count r
      each m.users fun x => do
        raiseFlag x.1 x.2 fSTALE_SEEN
        meet x.1 x.2 sPARTIAL_STALE rNONE

/-- Drain a unit to its row or sum on this package; true where an append still waits. -/
def drainHere (r : Nat) (es : List Merge) (m : Merge) : M Bool := do
  let d ← dev
  need (!(m.users.any fun u => match d.desc u.1 u.2 with
    | some x => d.scaleHeld x
    | none => false))
  let who := drainWho r m.world 1024 0
  let us := (es.map fun e => e.users).flatten.eraseDups
  let m : Merge := { m with users := us }
  let lanes := groupLanes m.table.elems (es.map fun e => (e.k, e.vals))
  if m.kind = 0 then
    drainSum r (drainWaiter r m) who m lanes ((es.map fun e => e.count).foldl max 0)
  else
    drainRow r (drainWaiter r m) who m lanes es.length
    return false

/-- A drain becomes stuck (R552): its descriptors meet the cause, and it is counted once. -/
def stickUnit (r : Nat) (m : Merge) (st rs : Nat) : M Unit := do
  let us := (((← dev).merges r).filter fun e => Merge.same e m).map fun e => e.users
  modMerges r fun l => l.map fun e => if Merge.same e m then { e with stuck := 1, cause := (st, rs), users := [] } else e
  if m.stuck = 0 then
    let page := 64 + dieOfRegion r
    bump F.trnStuck_count page
    raise (pg bTRN page) 2
  each us.flatten.eraseDups fun u => do
    meet u.1 u.2 st rs
    scatterCheck u.1 u.2

/-- Drain a unit of a region (R246, R247). -/
def drainUnit (r : Nat) (m : Merge) : M Unit := do
  let d ← dev
  need (d.stageRuns r)
  let es := (d.merges r).filter fun e => Merge.same e m
  let us := (es.map fun e => e.users).flatten.eraseDups
  let leave : M Unit := do
    modMerges r fun l => l.filter fun e => !Merge.same e m
    bump F.mrgDrains_count r es.length
  if m.node ≠ d.self then
    need (d.drainLeaves r m.node es.length)
    leave
    bump F.mrgRemote_count r es.length
    toBatch r m.table m.node m.kind m.step (es.map fun e => (e.row, e.k, e.vals)) us
    each us fun u => do
      let d ← dev
      match (d.desc u.1 u.2).bind Desc.scatter with
      | some s =>
        if s.taken then closeFor u.1 u.2 else pure ()
      | none => pure ()
      scatterCheck u.1 u.2
  else
    match ← caught (drainHere r es m) with
    | .error (st, rs) => stickUnit r m st rs
    | .ok waits =>
      let et ← now
      each us fun u => progress u.1 u.2 0 0 et
      if waits then
        modMerges r fun l => l.map fun e =>
          if Merge.same e m then { e with append := true, count := 0, stuck := 0, vals := e.vals.map fun _ => 0 } else e
      else
        leave
        each us fun u => scatterCheck u.1 u.2

/-- The unit of an entry may drain (R246): a descriptor in it has taken in its last contribution or has stopped, the table
is filled to its mark and it is the oldest, or it is stuck and tried again (R552). -/
def Dev.mayDrain (d : Dev) (r : Nat) (m : Merge) : Bool :=
  let l := d.merges r
  !m.append &&
  (m.stuck == 2 ||
   (m.stuck == 0 &&
    ((decide (d.rd F.mrgCfg_high_mark r ≤ l.length) &&
        (match l.find? fun e => e.stuck == 0 && !e.append with
         | some e => Merge.same e m
         | none => false)) ||
      (l.filter fun e => Merge.same e m).any fun e => e.users.any fun u => match (d.desc u.1 u.2).bind Desc.scatter with
        | some s => s.taken
        | none => true)))

/-- An entry drains. -/
def execMergeDrain (r : Fin 8) (entry : Nat) (s : State) : Host.Outcome State Fault Refusal :=
  transact (do
    let m ← have! (((← dev).merges r.val)[entry]?)
    need ((← dev).mayDrain r.val m)
    drainUnit r.val m) s

/-- An entry that is not stuck has waited HOLD × 16 mesh cycles (R246); a mesh cycle is 20/9 ticks. -/
def Dev.aged (d : Dev) (r : Nat) (m : Merge) : Bool :=
  m.stuck == 0 && !m.append && decide (d.rd F.mrgCfg_hold r * 320 ≤ (d.time.et - m.et) * 9)

/-- A unit that is still there drains, if it can now. -/
def drainAged (r : Nat) (m : Merge) : M Unit := do
  if ((← dev).merges r).any fun e => Merge.same e m && e.stuck == 0 && !e.append then attempt (drainUnit r m)

/-- Units whose oldest entry has waited so long drain, oldest first; one that has to wait holds none of the others back. -/
def execMergeHoldExpiry (r : Fin 8) (s : State) : Host.Outcome State Fault Refusal :=
  transact (do
    let d ← dev
    let old := (d.merges r.val).filter (d.aged r.val)
    need (!old.isEmpty)
    each old (drainAged r.val)) s

/-- A waiting append is made: entries that waited for it and hold nothing are gone, the others may drain again. -/
def appendMade (r : Nat) (a : Nat × Nat × Nat) : M Unit := do
  let d ← dev
  modDev fun d => { d with appends := d.appends.erase a }
  let mine (e : Merge) : Bool := e.append && e.kind == 0 && e.table.num == a.2.1 && e.row == a.2.2
  let gone := (d.merges r).filter fun e => mine e && e.count == 0
  modMerges r fun l => (l.filter fun e => !(mine e && e.count == 0)).map fun e =>
    if mine e then { e with append := false } else e
  bump F.mrgDrains_count r gone.length
  let et ← now
  each ((gone.map fun e => e.users).flatten.eraseDups) fun u => do
    progress u.1 u.2 0 0 et
    scatterCheck u.1 u.2

/-- An append that waits is made, if there is room now. -/
def retryAppend (r : Nat) (a : Nat × Nat × Nat) : M Unit := attempt do
  match ← caught (appendTouched 1024 0 a.2.1 a.2.2) with
  | .ok true => appendMade r a
  | .ok false => skip
  | .error _ => captureEngine (pg bOPT 8) kREFUSED 0x108

/-- Appends of a region that have waited for room are made (R247); one that still waits holds none of the others back. -/
def execTouchedListAppend (r : Fin 8) (s : State) : Host.Outcome State Fault Refusal :=
  transact (do
    let mine := (← dev).appends.filter fun a => a.1 == r.val
    need (!mine.isEmpty)
    each mine (retryAppend r.val)) s

/-! ### Batches that cannot leave (R245, R284, R291) -/

/-- The entries of an open batch return to the merge table of its port's region: their node has become unreachable, and its
spill ring has no room for them. -/
def takeBack (b : OutBatch) : M Unit := do
  let et ← now
  let own : Nat × Nat := if b.d.kind = 2 then b.d.users.headD (1024, 0) else (1024, 0)
  let es := b.d.entries.map fun e =>
    ({ tabs := [b.tab], row := e.1, kind := b.d.kind, k := e.2.1, q := own.1, seq := own.2, world := 0, asid := 0,
       node := b.d.node, vals := e.2.2, count := 1, step := b.d.step, et := et, users := b.d.users, stuck := 0,
       cause := (0, 0), append := false, origin := none } : Merge)
  let l := (← dev).merges b.port
  need (decide (l.length + es.length ≤ 32768))
  modMerges b.port fun l => es.foldl (fun l e =>
    if l.any fun m => Merge.hasKey m e then l.map fun m => if Merge.hasKey m e then Merge.merge m e else m else l ++ [e]) l
  modDev fun d => { d with batches := d.batches.filter fun y => !(y == b) }

/-- Two µs after its first entry a batch closes (R284). -/
def execBatchCloseTimer (r : Fin 8) (s : State) : Host.Outcome State Fault Refusal :=
  transact (do
    let d ← dev
    let due := d.batches.filter fun b => b.port == r.val && decide (b.et + 2 * usTicks ≤ d.time.et)
    need (!due.isEmpty)
    each due fun b => do
      closeBatch b
      let d ← dev
      if d.batches.contains b && d.unreachable b.d.node && decide (d.spillRoom b.port < b.d.records) then
        attempt (takeBack b)) s

/-- Every stuck drain is to be tried again (R552), and every unit record that is held (R553). -/
def Dev.retryStuck (d : Dev) : Dev :=
  { d with reorder := d.reorder.map fun i => { i with stuck := false }
           merge := d.merge.map fun e => (e.1, e.2.map fun m => if m.stuck = 1 then { m with stuck := 2 } else m) }

end Sys2Proof.Machine
end

