-- ==== Sys2Proof/Machine/Scatter.lean ====
section
/-! DEFINITION. SCATTER_UPDATE (R238 to R242, R248): its checks, its contributions, and its unit; the index lists of R239. -/

namespace Sys2Proof.Machine

/-! ### Index lists (R239) -/

/-- An index list with its bags: INDEX, INDEX_COUNT, AUX, IDX8, HASH_K, HASH_SHIFT, LENGTH and the table's ROWS. -/
structure ListSpec where
  index : Nat
  count : Nat
  aux : Nat
  idx8 : Bool
  hashK : Nat
  shift : Nat
  len : Nat
  rows : Nat
  deriving DecidableEq, Repr

/-- The offsets of the bags, checked (R240). `rd` reads a range for a block of 64 bags. -/
def readOffsets (sp : ListSpec) (rd : Nat → Nat → Nat → M (List Byte)) : M (List Nat) := do
  if sp.aux = 0 then
    if sp.count % sp.len ≠ 0 then failBounds
    return (List.range (sp.len + 1)).map fun b => b * (sp.count / sp.len)
  else
    let parts ← collect (vectorBlocks sp.len) fun b => do
      let bs ← rd b.1 (sp.aux + 4 * b.2.1) (4 * (b.2.2 + 1))
      let ws := splitWords 4 bs
      return if b.2.1 + b.2.2 = sp.len then ws else ws.take b.2.2
    let offs := parts.flatten
    let down := (List.range sp.len).any fun b => decide (offs.getD (b + 1) 0 < offs.getD b 0)
    if down || sp.count < offs.getD sp.len 0 then failBounds
    return offs

/-- The row of a list entry; none for padding (R239). -/
def entryRow (sp : ListSpec) (e : Nat) : Option Nat :=
  if sp.hashK = 0 then some e
  else if e = 0 then none
  else some (hashRow e sp.hashK sp.shift sp.rows)

/-- The rows of the entries up to the last bag's end, by list position; none before the first bag and for padding. Every
row lies below ROWS (R240). -/
def readRows (sp : ListSpec) (offs : List Nat) (rd : Nat → Nat → Nat → M (List Byte)) : M (List (Option Nat)) := do
  let w := if sp.idx8 then 8 else 4
  let parts ← collect (vectorBlocks sp.len) fun b => do
    let lo := offs.getD b.2.1 0
    let hi := offs.getD (b.2.1 + b.2.2) 0
    let bs ← rd b.1 (sp.index + w * lo) (w * (hi - lo))
    return (splitWords w bs).map (entryRow sp)
  let rows := List.replicate (offs.getD 0 0) none ++ parts.flatten
  if rows.any fun r => match r with
    | some r => decide (sp.rows ≤ r)
    | none => false then failBounds
  return rows

/-- The bag of a list position. -/
def bagAt (offs : List Nat) (p : Nat) : Nat :=
  ((List.range (offs.length - 1)).find? fun b => decide (offs.getD b 0 ≤ p) && decide (p < offs.getD (b + 1) 0)).getD 0

/-- Non-padding positions of a bag before `p`: the ordinal of `p` (R241). -/
def ordinal (offs : List Nat) (rows : List (Option Nat)) (b p : Nat) : Nat :=
  let lo := offs.getD b 0
  (((rows.drop lo).take (p - lo)).filter Option.isSome).length

/-- Non-padding positions of a bag. -/
def bagCount (offs : List Nat) (rows : List (Option Nat)) (b : Nat) : Nat :=
  ordinal offs rows b (offs.getD (b + 1) 0)

/-! ### SCATTER_UPDATE (R238, R240) -/

def Desc.suSrc (x : Desc) : Nat := x.field 16 0 52
def Desc.suShift (x : Desc) : Nat := x.field 16 52 6
def Desc.suIndex (x : Desc) : Nat := x.field 24 0 52
def Desc.suAux (x : Desc) : Nat := x.field 32 0 52
def Desc.suWeight (x : Desc) : Nat := x.field 40 0 52
def Desc.suHashK (x : Desc) : Nat := x.bytesAt 48 4
def Desc.suExpect (x : Desc) : Nat := x.bytesAt 52 4
def Desc.suCount (x : Desc) : Nat := x.bytesAt 56 4
def Desc.suMode (x : Desc) : Nat := x.field 62 0 3
def Desc.suWfmt (x : Desc) : Nat := x.field 62 3 1
def Desc.suIdx8 (x : Desc) : Bool := x.field 62 4 1 == 1

/-- The checks of R240 that use the descriptor's own fields. -/
def scatterOwn (x : Desc) : M Unit :=
  malformedIf (x.suKind == 3 || decide (4 < x.suMode) ||
    (x.suKind == 2 && (x.suMode != 0 || x.suCount != x.length)) ||
    (x.suHashK != 0 && !x.suIdx8) ||
    ((x.suWeight != 0) != decide (2 ≤ x.suMode))) rOPERAND

/-- Reads of a SCATTER_UPDATE's arrays, by the stage of a block of 64 bags (R242, R551). -/
def suRead (x : Desc) (block a len : Nat) : M (List Byte) := do
  let d ← dev
  let r := block % 8
  readVa (stageWaiter r x.q x.seq) (optWho r (d.queueWorld x.q) x.q x.seq) (d.queueAsid x.q) a len

/-- The list of a SCATTER_UPDATE. -/
def suSpec (x : Desc) (t : Table) : ListSpec :=
  { index := x.suIndex, count := x.suCount, aux := x.suAux, idx8 := x.suIdx8,
    hashK := x.suHashK, shift := x.suShift, len := x.length, rows := t.rows }

/-- Bytes of a source vector (R241). -/
def Desc.suVec (x : Desc) : Nat := if x.suKind = 2 then x.table.elems * 4 else x.table.elems

/-- A SCATTER_UPDATE takes in nothing more: what it has taken in drains (R246), and open batches close (R284). -/
def endTaking (q seq : Nat) : M Unit := do
  modDesc q seq fun x => match x.work with
    | .scatter s => { x with work := .scatter { s with taken := true } }
    | _ => x
  closeFor q seq
  scatterCheck q seq

/-- A SCATTER_UPDATE stops (R78). -/
def stopScatter (x : Desc) (st rs : Nat) : M Unit := do
  meet x.q x.seq st rs
  endTaking x.q x.seq

/-- SCATTER_UPDATE of any KIND. -/
def scatterUpdate (x : Desc) : M Unit := do
  x.formChecks [(16, 58, 6), (24, 52, 12), (32, 52, 12), (40, 52, 12), (62, 5, 3), (63, 2, 6)] [] false
  malformedIf (decide (2 ^ 20 < x.length)) rOPERAND
  if x.length = 0 then
    scatterOwn x
    zeroCount x
  else
    let d ← dev
    let world := d.queueWorld x.q
    let t ← useTable x.q x.seq x.suTable true
    scatterOwn x
    let t ← useShards x.q x.seq world t
    malformedIf (t.form != 0 && t.exchBad) rOPERAND
    let gsum ← if x.suKind = 0 then do
        let (_, _, g) ← readCompanions x.q x.seq t
        let _ ← usableURec x.q x.seq x.suTable
        pure [g]
      else pure []
    let hdr ← if x.suKind = 2 then pure 0 else do
        let h := fromBytes (← suRead x 0 x.suSrc 64)
        malformedIf (!bit h 56 || byteField h 4 2 != x.suTable || byteField h 0 4 != x.suExpect ||
          bits h 64 21 != x.length || bits h 96 12 + 1 != t.elems) rOPERAND
        pure h
    if x.suSrc % 64 ≠ 0 ∨ x.suIndex % 8 ≠ 0 ∨ x.suAux % 8 ≠ 0 ∨ x.suWeight % 64 ≠ 0 then failBounds
    let sp := suSpec x t
    let offs ← readOffsets sp (suRead x)
    -- bag b of an OVERWRITE is entry b, whatever its offsets (R241)
    let offs := if x.suKind = 2 then List.range (x.length + 1) else offs
    let rows ← readRows sp offs (suRead x)
    setTables x.q x.seq (t :: gsum)
    if x.suKind ≠ 0 then dropResident x.suTable
    let none' := !rows.any Option.isSome
    let s : Scatter := { rows := rows, offs := offs, e := toSigned 8 (byteField hdr 6 1), step := byteField hdr 0 4,
                         next := 0, bags := if none' then x.length else 0, taken := none', unit := false,
                         stats := Stats.zero }
    setWork x.q x.seq (.scatter s)
    let vec := if x.suKind = 2 then t.elems * 4 else t.elems
    progress x.q x.seq 0 ((if x.suKind = 2 then 0 else 64) + if none' then x.length * vec else 0) 0
    if x.suKind ≠ 0 then countHold x.q x.seq (stageDies x.length)
    -- remote traffic without a remote-state area is refused (R295): nothing is taken in, and the unit is still added (R248)
    if !d.rmtOn && (t.nodes d.self).any (fun n => n != d.self) then stopScatter (← getDesc x.q x.seq) sBOUNDS rBOUNDS_ADDR
    else scatterCheck x.q x.seq

/-- Dispatch of a SCATTER_UPDATE of KIND GRAD, or of the reserved KIND, which its checks refuse. -/
def execScatterUpdateGrad (q : Fin 1024) (s : State) : Host.Outcome State Fault Refusal :=
  transact (launch q.val (fun raw => opcodeIs 0x21 raw && (bits raw 504 2 == 0 || bits raw 504 2 == 3)) scatterUpdate) s

/-- Dispatch of a SCATTER_UPDATE of KIND DELTA. -/
def execScatterUpdateDelta (q : Fin 1024) (s : State) : Host.Outcome State Fault Refusal :=
  transact (launch q.val (fun raw => opcodeIs 0x21 raw && bits raw 504 2 == 1) scatterUpdate) s

/-- Dispatch of a SCATTER_UPDATE of KIND OVERWRITE. -/
def execScatterUpdateOverwrite (q : Fin 1024) (s : State) : Host.Outcome State Fault Refusal :=
  transact (launch q.val (fun raw => opcodeIs 0x21 raw && bits raw 504 2 == 2) scatterUpdate) s

/-! ### Contributions (R241, R242) -/

/-- The FP32 lanes of a contribution: position `p` of bag `b` (R241). -/
def contribution (x : Desc) (s : Scatter) (b p : Nat) : M (List F32) := do
  let n := x.table.elems
  let blk := b / 64
  if x.suKind = 2 then
    let bs ← suRead x blk (x.suSrc + b * roundUp (n * 4) 64) (n * 4)
    return (List.range n).map (elemAt fFP32 bs)
  else
    let bs ← suRead x blk (x.suSrc + 64 + b * roundUp n 64) n
    let g := bs.map fun c => rne32 ((fpE5M2.decode c.toNat).mul (Val.pow2 s.e))
    let cnt := bagCount s.offs s.rows b
    if x.suMode = 1 then return g.map fun v => divVal (F32.val v) (.ofInt (cnt : Int))
    else if x.suMode = 2 then
      let ws := if x.suWfmt = 1 then 1 else 2
      let w := fromBytes (← suRead x blk (x.suWeight + p * ws) ws)
      let e := fromBytes (← suRead x blk (x.suWeight + roundUp (x.suCount * ws) 64 + b) 1)
      let wv : Int := if ws = 1 then (w : Int) else toSigned 16 w
      return g.map (f32Mul (weightOf wv e))
    else if 3 ≤ x.suMode then
      let win ← suRead x blk (x.suWeight + b * roundUp (n * 4) 64) (n * 4)
      let k := ordinal s.offs s.rows b p
      return (List.range n).map fun l => if elemAt fFP32 win l = k then g.getD l 0 else 0
    else return g

/-- The merge-table region of a contribution (R28), with the checks of its row (R457, R458). -/
def mergeRegion (x : Desc) (t : Table) (b row : Nat) : M Nat := do
  let d ← dev
  let r := b / 64 % 8
  let world := d.queueWorld x.q
  let who := optWho r world x.q x.seq
  let node := t.home d.self row
  if node = d.self then
    let segs ← translate (stageWaiter r x.q x.seq) world (d.queueAsid x.q) .at (t.rowVa (t.localRow row)) t.stride
    let ps := segs.map Seg.at'
    each ps fun p => localCheck who .at p.1 p.2
    return homeRegion ((ps.headD (0, 0)).1)
  else
    if world = 1 then
      violation 0 1 2 none x.q (t.rowVa (t.localRow row)) who.page
      fail sWORLD_VIOLATION rWORLD
    portOf node

/-- Take in the next contribution. -/
def takeNext (x : Desc) (s : Scatter) (p row : Nat) : M Unit := do
  let t := x.table
  let b := if x.suKind = 2 then p else bagAt s.offs p
  let d ← dev
  need (d.stageRuns (b / 64 % 8))
  let r ← mergeRegion x t b row
  need (!d.regionFenced r && !d.stalls.contains r)
  let lanes ← contribution x s b p
  let n := t.elems
  let own : Nat × Nat := if x.suKind = 2 then (x.q, x.seq) else (1024, 0)
  let node := t.home d.self row
  let es := (List.range ((n + 127) / 128)).map fun k =>
    ({ tabs := x.tabs, row := row, kind := x.suKind, k := k, q := own.1, seq := own.2, world := d.queueWorld x.q,
       asid := d.queueAsid x.q, node := node, vals := (lanes.drop (128 * k)).take 128, count := 1, step := s.step,
       et := d.time.et, users := [(x.q, x.seq)], stuck := 0, cause := (0, 0), append := false, origin := none } : Merge)
  takeIn r es
  let more := s.rows.drop (p + 1) |>.any Option.isSome
  let bags := if more then b + 1 else x.length
  progress x.q x.seq 1 ((bags - s.bags) * x.suVec) 0
  setWork x.q x.seq (.scatter { s with next := p + 1, bags := max bags s.bags })
  if !more then endTaking x.q x.seq

/-- The next contribution of a SCATTER_UPDATE is taken in (R242, R245). -/
def execContributionTakeIn (q : Fin 1024) (seq : BitVec 32) (s : State) : Host.Outcome State Fault Refusal :=
  transact (do
    let x ← getDesc q.val seq.toNat
    let s ← have! x.scatter
    need (!x.ended && !s.taken)
    let i := (s.rows.drop s.next).findIdx Option.isSome
    let p := s.next + i
    let row ← have! (s.rows.getD p none)
    match ← caught (takeNext x s p row) with
    | .ok _ => pure ()
    | .error (st, rs) => stopScatter x st rs) s

/-! ### The unit (R248, R285) -/

/-- The unit records of a descriptor to every other node of the table's shard list; none where remote traffic is refused
(R295). -/
def sendUnits (x : Desc) (s : Scatter) : M Unit := do
  let d ← dev
  let t := x.table
  if !d.rmtOn then pure () else
  each ((t.nodes d.self).filter fun n => n != d.self) fun n => do
    let u : Delta := { node := n, table := t.num, kind := 0, unit := true, step := s.step, origin := d.time.et,
                       site := d.rd F.optSite_site 8, bseq := 0, tag := t.tag, fmt := t.deltaFmt, scale := 0,
                       entries := [], users := [(x.q, x.seq)] }
    need (← sendDelta (← portOf n) u)

/-- The unit of a GRAD SCATTER_UPDATE is added once its drains are done, and its unit records are sent. -/
def execUnitAdd (q : Fin 1024) (seq : BitVec 32) (s : State) : Host.Outcome State Fault Refusal :=
  transact (do
    let x ← getDesc q.val seq.toNat
    let s ← have! x.scatter
    need (!x.ended && x.suKind == 0 && s.taken && !s.unit && !(← dev).draining x.q x.seq)
    match ← caught (do
        addUnit x.q x.seq x.suTable s.step false
        sendUnits x s) with
    | .ok _ => pure ()
    | .error (st, rs) => meet x.q x.seq st rs
    setWork x.q x.seq (.scatter { s with unit := true })
    scatterCheck x.q x.seq) s

end Sys2Proof.Machine
end

