-- ==== Sys2Proof/Machine/Exchange.lean ====
section
/-! DEFINITION. EXCHANGE and CHAIN_REDUCE (R272 to R283, R292): the requester's bags, the visits of bags and vectors at
their homes, chain messages (R403), and delivery. -/

namespace Sys2Proof.Machine

/-! ### Fields (R273, R282) -/

def Desc.exIndex (x : Desc) : Nat := x.field 16 0 52
def Desc.exLanes (x : Desc) : Nat := x.field 16 52 12 + 1
def Desc.exAux (x : Desc) : Nat := x.field 24 0 52
def Desc.exShift (x : Desc) : Nat := x.field 24 52 6
def Desc.exWeight (x : Desc) : Nat := x.field 32 0 52
def Desc.exHashK (x : Desc) : Nat := x.bytesAt 48 4
def Desc.exCount (x : Desc) : Nat := x.bytesAt 52 4
def Desc.exTable (x : Desc) : Nat := x.bytesAt 56 2
def Desc.exMode (x : Desc) : Nat := x.field 58 0 3
def Desc.exWfmt (x : Desc) : Nat := x.field 58 3 1
def Desc.exIdx8 (x : Desc) : Bool := x.field 58 4 1 == 1
def Desc.crHops (x : Desc) : Nat := x.field 24 0 4
def Desc.crSrcFmt (x : Desc) : Nat := x.field 25 0 4

/-- The descriptor is a CHAIN_REDUCE. -/
def Desc.isChain (x : Desc) : Bool := x.opcode == 0x41

/-- Operands that both opcodes have. -/
def Desc.xcOut (x : Desc) : Nat := if x.isChain then x.field 16 0 52 else x.field 40 0 52
def Desc.xcFmt (x : Desc) : Nat := if x.isChain then x.field 26 0 4 else x.field 59 0 4
def Desc.xcDest (x : Desc) : Nat := if x.isChain then x.field 26 4 1 else x.field 59 4 1
def Desc.xcMode (x : Desc) : Nat := if x.isChain then 0 else x.exMode
def Desc.xcSum (x : Desc) : Nat := if x.isChain then x.field 25 4 2 else x.table.sumFmt

/-- The exchange work of a descriptor. -/
def Desc.exch (x : Desc) : Option Exch :=
  match x.work with
  | .exchange e => some e
  | _ => none

/-- Change it. -/
def modExch (q seq : Nat) (f : Exch → Exch) : M Unit := modDesc q seq fun x =>
  match x.work with
  | .exchange e => { x with work := .exchange (f e) }
  | _ => x

/-! ### Serving clusters (R280) -/

/-- The clusters that serve visits. -/
def Dev.servers (d : Dev) : List Nat :=
  (List.range 64).filter fun c => bit (d.rd F.mrgServe_region_mask 8) (c / 8)

/-- The cluster that serves a bag or vector: blocks of 64 in turn over the serving clusters. -/
def serverOf (bag : Nat) : M Nat := do
  let cs := (← dev).servers
  have! cs[bag / 64 % max cs.length 1]?

/-- Clusters are wanted: in E1 and E2 they are brought back first (R478). -/
def needCluster (c : Nat) : M Unit := do
  let d ← dev
  let st := d.rd F.pwrState_state 0
  if (st == 1 || st == 2) && d.pow.exitEt == 0 && d.pow.want.isNone then
    let t := if st = 1 then usTicks else 40 * usTicks
    waitFor fun d => { d with pow := { d.pow with exitEt := d.time.et + t } }
  need (d.clusterRuns c)

/-! ### Chain messages (R403) -/

/-- A chain message: a bag's or vector's running sum as (RH, RL) or (best, position) by lane, its count, and the work
items still to come. -/
structure Chain where
  node : Nat
  queue : Nat
  seq : Nat
  bag : Nat
  table : Nat
  mode : Nat
  chain : Bool
  fmt : Nat
  exp : Nat
  count : Nat
  tag : Nat
  lanes : Nat
  world : Nat
  sums : List (Nat × Nat)
  items : List Nat
  deriving DecidableEq, Repr

/-- MAX or MIN. -/
def Chain.best (c : Chain) : Bool := modeClass c.mode == 2

/-- The message header. -/
def Chain.header (c : Chain) : Nat :=
  payloadOf [(0, c.node), (2, c.queue), (4, c.seq), (8, c.bag), (12, c.table), (14, c.mode + 8 * b2n c.chain + 16 * c.fmt),
    (15, c.exp), (16, c.count % 2 ^ 32), (20, c.tag), (24, c.lanes - 1), (26, c.items.length % 2 ^ 16), (28, c.world)]

/-- The header of a failure record. -/
def Chain.failHeader (c : Chain) (st node : Nat) : Nat := c.header + payloadOf [(29, st), (30, node)]

/-- Bytes of the running sum. -/
def Chain.sumBytes (c : Chain) : List Byte :=
  if c.best then (c.sums.map fun s => toBytes 4 s.1).flatten ++ (c.sums.map fun s => toBytes 4 s.2).flatten
  else if c.fmt = 0 then (c.sums.map fun s => toBytes 4 s.1).flatten ++ (c.sums.map fun s => toBytes 4 s.2).flatten
  else if c.fmt = 1 then (c.sums.map fun s => toBytes 4 s.1).flatten
  else (c.sums.map fun s => toBytes 2 (bf16.encode (F32.val s.1)).1).flatten

/-- The body. -/
def Chain.body (c : Chain) : List Byte := c.sumBytes ++ (c.items.map (toBytes 16)).flatten

/-- The message that a header and body spell. -/
def Chain.ofMessage (hdr : Nat) (body : List Byte) : Chain :=
  let lanes := bits hdr (8 * 24) 12 + 1
  let mode := bits hdr (8 * 14) 3
  let fmt := bits hdr (8 * 14 + 4) 2
  let two := modeClass mode == 2 || fmt == 0
  let w := if modeClass mode = 2 then 4 else if fmt = 2 then 2 else 4
  let at' (o : Nat) : Nat := fromBytes ((body.drop o).take w)
  let sums := (List.range lanes).map fun i =>
    (if w = 2 then bf16To32 (at' (i * 2)) else at' (i * 4), if two then at' ((lanes + i) * 4) else 0)
  let rest := body.drop (if two then 8 * lanes else w * lanes)
  { node := bits hdr 0 10, queue := bits hdr 16 10, seq := byteField hdr 4 4, bag := byteField hdr 8 4,
    table := byteField hdr 12 2, mode := mode, chain := bit hdr (8 * 14 + 3), fmt := fmt, exp := byteField hdr 15 1,
    count := byteField hdr 16 4, tag := byteField hdr 20 4, lanes := lanes, world := bits hdr (8 * 28) 1,
    sums := sums, items := (List.range (rest.length / 16)).map fun i => fromBytes ((rest.drop (16 * i)).take 16) }

/-- The node of a work item. -/
def Chain.nodeOf (c : Chain) (item : Nat) : Nat := if c.chain then bits item 0 10 else bits item 80 10

/-- A bag with nothing in it yet. -/
def Chain.start (c : Chain) : Chain :=
  { c with count := 0, sums := List.replicate c.lanes (0, if c.best then 0xFFFFFFFF else 0) }

/-! ### Adding to a running sum (R276, R278) -/

/-- One term enters a lane's running sum. -/
def addTerm (fmt : Nat) (s : F32 × F32) (c : F32) : F32 × F32 :=
  let p := promote s c
  if fmt = 0 then p
  else if fmt = 1 then (p.1, 0)
  else (bf16To32 (bf16.encode (F32.val p.1)).1, 0)

/-- The better of two values under MAX and MIN with their positions; the first NaN wins, and a tie keeps the lower
position. -/
def betterOf (mode : Nat) (a b : F32 × Nat) : F32 × Nat :=
  if f32Nan a.1 then a
  else if f32Nan b.1 then b
  else
    let wins := if mode = 3 then f32Lt a.1 b.1 else f32Lt b.1 a.1
    let loses := if mode = 3 then f32Lt b.1 a.1 else f32Lt a.1 b.1
    if wins then b
    else if loses then a
    else (a.1, min a.2 b.2)

/-- A visit's partial enters the running sum. -/
def Chain.add (c : Chain) (parts : List (F32 × Nat)) (terms : Nat) : Chain :=
  let at' (i : Nat) : F32 × Nat := parts.getD i (0, 0xFFFFFFFF)
  let sums := (List.range c.lanes).map fun i =>
    let s := c.sums.getD i (0, 0)
    if c.best then (if c.count = 0 then at' i else betterOf c.mode s (at' i)) else addTerm c.fmt s (at' i).1
  { c with sums := sums, count := c.count + terms }

/-! ### A visit (R276, R280, R281) -/

/-- Who serves a visit: the cluster for the package's own descriptor, or for a peer (R317, R459, R551). -/
def visitWho (self c port : Nat) (m : Chain) : Who × Waiter :=
  if m.node = self then (clusterWho c m.world m.queue m.seq, clusterWaiter c m.queue m.seq)
  else (⟨1, c, 3, m.world, 1024, 0, pg bTXP port, 2⟩,
        ⟨.cluster c, 1024, m.bag + 2 ^ 32 * (m.seq + 2 ^ 32 * (m.queue + 1024 * m.node))⟩)

/-- Read a row at its home: husk and payload (R226, R326). -/
def visitRow (w : Waiter) (who : Who) (asid : Nat) (t : Table) (lr : Nat) : M (Husk × List Byte × Seg) := do
  let gs ← openRanges w who asid .rd (t.ranges lr)
  let parts ← collect gs fun g => readSegs w who true g
  let a := parts.headD []
  let (h, p) := if t.husk = 1 then (fromBytes (a.take 32), a.drop 32)
    else if t.husk = 2 then (fromBytes (parts.getD 1 []), a) else (0, a)
  let s ← have! (if t.husk = 2 then gs.getD 1 [] else gs.headD []).head?
  if who.world = 0 && t.husk != 0 && Husk.secure h then
    violation who.vsrc 0 3 ((← dev).regionHolding (s.pa % 2 ^ 46 / 65536)) who.q (s.pa % 2 ^ 46) who.page
    fail sWORLD_VIOLATION rWORLD
  return (h, p, s)

/-- What a row consumed by a visit leaves in the counters (R140, R227, R373). -/
def visitCount (c : Nat) (who : Who) (asid : Nat) (t : Table) (gs : Seg) : M Unit := do
  bump F.gclRows_count c
  bump F.gclBytes_count c t.storedBytes
  tap 1 c 9 who.world who.q who.seq t.storedBytes gs.pa
  heatCount asid gs.va (gs.pa % 2 ^ 46) gs.leaf gs.size

/-- The access counter of a row's husk, which `s` begins with. -/
def visitHusk (t : Table) (s : Seg) : M Unit := do
  if t.husk ≠ 0 && s.local' (← dev).self then
    let a := s.pa % 2 ^ 46 + 12
    let old := fromBytes (← peeks false a 2)
    updateChecked 3 a (toBytes 2 (min 65535 (old + 1)))

/-- Sums of the integer path with their saturation: lanes, zero-point sum, and whether a value was clamped. -/
structure IntSum where
  lanes : List Int
  z : Int
  sat : Bool
  deriving DecidableEq, Repr

/-- Promote an open run into sums of the integer path (R133, R135). -/
def IntSum.take (s : IntSum) (r : Run) : IntSum :=
  let ls := (List.range (max s.lanes.length r.ints.length)).map fun i => sat48 (s.lanes.getD i 0 + r.ints.getD i 0)
  let z := sat48 (s.z + r.zchunk)
  ⟨ls.map Prod.fst, z.1, s.sat || z.2 || ls.any Prod.snd⟩

/-- Promote an open run into compensated pairs (R133). -/
def pairsTake (ps : List (F32 × F32)) (r : Run) : List (F32 × F32) :=
  (List.range (max ps.length r.fps.length)).map fun i => promote (ps.getD i (0, 0)) (r.fps.getD i 0)

/-- The partial of a visit over rows in list order (R276, R278), by lane as (value, position), and whether it saturated.
Each row is its husk, payload, weight and position. -/
def partialOf (d : Dev) (die : Nat) (t : Table) (mode exp : Nat) (rows : List (Husk × List Byte × Nat × Nat)) :
    List (F32 × Nat) × Bool :=
  let n := t.elems
  let sc (i : Nat) : F32 := d.colScale die t i
  if modeClass mode = 2 then
    let one (acc : List (Nat × Nat)) (r : Husk × List Byte × Nat × Nat) : List (Nat × Nat) :=
      let z := t.zeroPoint r.1
      let ls := if t.intPath then (d.intTerms die t r.1 r.2.1 1).1.map fun l => ofSigned 32 (l - z)
        else d.fpValues die t r.1 r.2.1
      (List.range n).map fun i =>
        let v := ls.getD i 0
        match acc[i]? with
        | none => (v, r.2.2.2)
        | some a =>
          let wins := if t.intPath then beatsInt mode (sc i) (toSigned 32 v) (toSigned 32 a.1) else beatsFp mode (sc i) v a.1
          if wins then (v, r.2.2.2) else a
    let best := rows.foldl one []
    ((List.range n).map fun i =>
      let b := best.getD i (0, 0)
      (f32Mul (if t.intPath then f32OfInt (toSigned 32 b.1) else b.1) (sc i), b.2), false)
  else if t.intPath then
    let step (a : IntSum × Run) (r : Husk × List Byte × Nat × Nat) : IntSum × Run :=
      let wv : Int := if mode = 2 then toSigned 16 r.2.2.1 else 1
      let (ls, z) := d.intTerms die t r.1 r.2.1 wv
      let run := a.2.addInts ls z
      if run.terms = runLength true mode then (a.1.take run, run.reset) else (a.1, run)
    let (s, run) := rows.foldl step (⟨[], 0, false⟩, Run.empty)
    let s := if run.terms = 0 then s else s.take run
    ((List.range n).map fun i =>
      let v := f32Mul (f32OfInt (s.lanes.getD i 0 - s.z)) (sc i)
      (if mode = 2 then f32Mul v (rne32 (.pow2 (toSigned 8 exp))) else v, 0), s.sat)
  else
    let step (a : List (F32 × F32) × Run) (r : Husk × List Byte × Nat × Nat) : List (F32 × F32) × Run :=
      let vs := d.fpValues die t r.1 r.2.1
      let vs := if mode = 2 then vs.map (f32Mul (weightOf (toSigned 16 r.2.2.1) exp)) else vs
      let run := a.2.addFps vs
      if run.terms = runLength false mode then (pairsTake a.1 run, run.reset) else (a.1, run)
    let (ps, run) := rows.foldl step ([], Run.empty)
    let ps := if run.terms = 0 then ps else pairsTake ps run
    ((List.range n).map fun i =>
      let p := ps.getD i (0, 0)
      (f32Mul (f32Add p.1 p.2) (sc i), 0), false)

/-- Serve the entries of a bag that are homed here. -/
def visitBag (c port : Nat) (t : Table) (asid : Nat) (m : Chain) : M Chain := do
  let d ← dev
  let (who, w) := visitWho d.self c port m
  let mine := m.items.takeWhile fun i => m.nodeOf i == d.self
  let rows ← collect mine fun i => do
    let lr := t.localRow (bits i 0 40)
    let (h, p, s) ← visitRow w who asid t lr
    return ((h, p, bits i 64 16, bits i 40 24), s)
  each rows fun r => do
    visitCount c who asid t r.2
    visitHusk t r.2
  let (parts, sat) := partialOf d (c / 32) t m.mode m.exp (rows.map Prod.fst)
  if sat then
    let tile := 128 - d.rd F.mrgServe_tiles 8
    modDev fun d => d.setWord .acmSat c (tile / 32) (Nat.lor (d.word .acmSat c (tile / 32)) (2 ^ (tile % 32)))
    bump F.acmSatEvents_count c
    if m.node = d.self then raiseFlag m.queue m.seq fACC_SAT
  bump F.mrgServedBags_count 8
  return { m.add parts mine.length with items := m.items.drop mine.length }

/-- Read one vector of a hop (R283): its lanes, widened. -/
def hopVector (who : Who) (srcFmt lanes addr bag : Nat) : M (List F32) := do
  let es := if srcFmt = 0 then 4 else 2
  let a := addr % 2 ^ 46 + bag * roundUp (lanes * es) 64
  let bs ← readLocal who a (lanes * es)
  return (List.range lanes).map fun i =>
    let v := fromBytes ((bs.drop (i * es)).take es)
    if es = 4 then v else bf16To32 v

/-- Serve the hops of a vector at this node. The tag field of a CHAIN_REDUCE carries nothing; the source format stands in
its lowest bit (R403 names no place for it; log entry 22). -/
def visitHops (c port : Nat) (m : Chain) : M Chain := do
  let d ← dev
  let (who, _) := visitWho d.self c port m
  let mine := m.items.takeWhile fun i => m.nodeOf i == d.self
  let m' ← foldM' (fun (m : Chain) i => do
    let vs ← hopVector who m.tag m.lanes (bits i 64 46) m.bag
    return m.add (vs.map fun v => (v, 0)) 1) m mine
  bump F.mrgServedBags_count 8
  return { m' with items := m.items.drop mine.length }

/-! ### Delivery (R279, R283) -/

/-- Bytes of an output record. -/
def Desc.xcRecord (x : Desc) : Nat :=
  roundUp (x.exLanes * elemBits x.xcFmt / 8 + if modeClass x.xcMode = 2 then 4 * x.exLanes else 0) 64

/-- An EXCHANGE or CHAIN_REDUCE stops at once (R78): replies to come are discarded. -/
def stopExchange (x : Desc) (st rs : Nat) : M Unit := do
  modDev fun d => { d with ports := d.ports.filter (fun r => !(r.q == x.q && r.seq == x.seq)) }
  endWith x.q x.seq st rs

/-- The output record of a finished bag or vector, whether a value is not finite, and FP8 overflows. -/
def finishBag (x : Desc) (m : Chain) (sat : Bool) : List Byte × Bool × Nat :=
  let vals := (List.range x.exLanes).map fun i =>
    let s := m.sums.getD i (0, 0)
    if m.count = 0 then (0, 0xFFFFFFFF)
    else if m.best then s
    else
      let v := f32Add s.1 s.2
      (if m.mode = 1 && !m.chain then divVal (F32.val v) (Val.ofInt (m.count : Int)) else v, 0)
  let (codes, ovf) := convertAll x.xcFmt sat (vals.map Prod.fst)
  let body := packElems x.xcFmt codes
  let body := if m.best then body ++ (vals.map fun v => toBytes 4 v.2).flatten else body
  (pad64 body, codes.any (nonFinite x.xcFmt), ovf)

/-- A finished bag or vector is delivered at the requester. -/
def deliverBag (x : Desc) (m : Chain) : M Unit := do
  let d ← dev
  let c ← serverOf m.bag
  needCluster c
  let sat ← if x.isChain then do pure ((← freeValue 1) == 1) else pure x.table.fp8Sat
  let (rec', nf, ovf) := finishBag x m sat
  let r : PortRec := ⟨x.xcOut % 16, c, x.q, x.seq, m.bag, rec', if x.isChain then 1 else m.count,
    !x.isChain && m.count == 0, nf⟩
  let after : M Unit := do
    if !x.isChain then bump F.gclBags_count c
    if x.xcFmt = fE4M3 then bump F.qntFp8Ovf_count (c / 32) ovf
    modExch x.q x.seq fun e => { e with away := e.away.filter (fun a => a.1 != m.bag), done := e.done + 1 }
    exchangeDone x.q x.seq
  if x.xcDest = 1 then
    need (d.unaccepted x c).isEmpty
    modDev fun d => { d with ports := d.ports ++ [r] }
    after
  else
    match ← caught (writeVa (clusterWaiter c x.q x.seq) (clusterWho c (d.queueWorld x.q) x.q x.seq) (d.queueAsid x.q)
        (x.xcOut + m.bag * x.xcRecord) rec') with
    | .ok et =>
      countRecord r et
      after
    | .error (st, rs) => stopExchange x st rs

/-! ### Where a bag goes next (R276, R292) -/

/-- The requester's descriptor of a chain message, if the bag is still away. -/
def Dev.awaits (d : Dev) (m : Chain) : Option Desc :=
  match d.desc m.queue m.seq with
  | some x => match x.exch with
    | some e => if !x.ended && e.away.any (fun a => a.1 == m.bag) then some x else none
    | none => none
  | none => none

/-- A failed bag reaches its requester. -/
def bagFailed (m : Chain) (st : Nat) : M Unit := do
  match (← dev).awaits m with
  | none => bump F.mrgReplyDiscard_count 8
  | some x =>
    if st = sLINK_LOST then bump F.mrgChainFail_count 8
    stopExchange x st (reasonOf st)

/-- The requester knows the visits that a bag at its own node has still to make (R292). -/
def noteVisits (m : Chain) : M Unit := do
  let self := (← dev).self
  if m.node = self then
    modExch m.queue m.seq fun e => { e with away := e.away.map fun a =>
      if a.1 = m.bag then (a.1, (m.items.map m.nodeOf).eraseDups.filter fun n => n != self) else a }
  else pure ()

/-- A failure at this node goes to the requester, or is lost with it. -/
def failVisit (m : Chain) (st node : Nat) : M Unit := do
  let d ← dev
  if m.node = d.self then bagFailed m st
  else if d.unreachable m.node then bump F.mrgReplyDiscard_count 8
  else modDev fun d => d.post m.node 0x14 (m.failHeader st node) []

/-- After a visit: deliver, return, or go on to the next node. -/
def forward (m : Chain) : M Unit := do
  noteVisits m
  let d ← dev
  match m.items with
  | [] =>
    if m.node = d.self then
      match d.awaits m with
      | some x => deliverBag x m
      | none => bump F.mrgReplyDiscard_count 8
    else if d.unreachable m.node then bump F.mrgReplyDiscard_count 8
    else modDev fun d => d.post m.node 0x13 m.header m.sumBytes
  | i :: _ =>
    let n := m.nodeOf i
    if m.node ≠ d.self ∧ (d.peer m.node).state = 4 then bump F.mrgReplyDiscard_count 8
    else if d.unreachable n then failVisit m sLINK_LOST n
    else modDev fun d => d.post n 0x12 m.header m.body

/-- The checks of a visit at its home (R272): the table with its tag, and every row homed here. -/
def visitTable (m : Chain) : M (Option Table) := do
  let d ← dev
  match ← caught (do
      let t ← readTable 1024 0 m.table true
      readShards 1024 0 m.world t) with
  | .error _ => return none
  | .ok t =>
    let mine := m.items.takeWhile fun i => m.nodeOf i == d.self
    let ok := d.rmtOn && t.form != 0 && t.tag == m.tag && t.elems == m.lanes &&
      mine.all fun i => decide (bits i 0 40 < t.rows) && t.home d.self (bits i 0 40) == d.self
    return if ok then some t else none

/-- Serve a visit of a bag or of a vector, and send it on. -/
def serveVisit (port : Nat) (m : Chain) : M Unit := do
  let c ← serverOf m.bag
  needCluster c
  let d ← dev
  if m.chain then
    if !d.rmtOn then
      bump F.mrgMisrouted_count 8
      failVisit m sBOUNDS d.self
    else
      match ← caught (visitHops c port m) with
      | .ok m => forward m
      | .error (st, _) => failVisit m st d.self
  else
    match ← visitTable m with
    | none =>
      bump F.mrgMisrouted_count 8
      failVisit m sBOUNDS d.self
    | some t =>
      match ← caught (visitBag c port t (Config.homeAsid (m.world == 1)).toNat m) with
      | .ok m => forward m
      | .error (st, _) => failVisit m st d.self

/-! ### EXCHANGE (R273 to R275) -/

/-- Reads of an EXCHANGE's arrays, by the serving cluster of a block of 64 bags. -/
def exRead (x : Desc) (block a len : Nat) : M (List Byte) := do
  let d ← dev
  let c ← serverOf (64 * block)
  needCluster c
  readVa (clusterWaiter c x.q x.seq) (clusterWho c (d.queueWorld x.q) x.q x.seq) (d.queueAsid x.q) a len

/-- Checks of an output address (R138). -/
def xcOutOk (x : Desc) : M Unit := if x.xcDest = 0 ∧ x.xcOut % 64 ≠ 0 then failBounds else pure ()

/-- EXCHANGE. -/
def exchange (x : Desc) : M Unit := do
  x.formChecks ([(24, 58, 6), (32, 52, 12), (40, 52, 12), (58, 5, 3), (59, 5, 3), (60, 0, 32)] ++
    (if x.xcDest = 1 then [(40, 4, 48)] else [])) [x.xcFmt] false
  malformedIf (decide (2 ^ 20 < x.length)) rOPERAND
  let own : M Unit := malformedIf (decide (4 < x.exMode) || (x.exHashK != 0 && !x.exIdx8) ||
    ((x.exMode == 2) != (x.exWeight != 0)) || !outFmtOk x.xcFmt) rOPERAND
  if x.length = 0 then
    own
    zeroCount x
  else
    let d ← dev
    let world := d.queueWorld x.q
    let t ← useTable x.q x.seq x.exTable true
    own
    malformedIf (t.elems != x.exLanes || t.form == 0) rOPERAND
    let t ← useShards x.q x.seq world t
    malformedIf t.exchBad rOPERAND
    if x.exIndex % 8 ≠ 0 ∨ x.exAux % 8 ≠ 0 ∨ x.exWeight % 64 ≠ 0 then failBounds
    xcOutOk x
    let sp : ListSpec := { index := x.exIndex, count := x.exCount, aux := x.exAux, idx8 := x.exIdx8, hashK := x.exHashK,
                           shift := x.exShift, len := x.length, rows := t.rows }
    let offs ← readOffsets sp (exRead x)
    let rows ← readRows sp offs (exRead x)
    if !d.rmtOn && (rows.any fun r => match r with
      | some r => t.home d.self r != d.self
      | none => false) then failBounds
    setWork x.q x.seq (.exchange ⟨rows, offs, 0, [], 0⟩)
    countHold x.q x.seq (((List.range ((x.length + 63) / 64)).map fun b =>
      d.servers.getD (b % max d.servers.length 1) 0 / 32).eraseDups)

/-- The nodes of a bag in visit order (R275). -/
def visitOrder (t : Table) (self : Nat) (rows : List Nat) : List Nat :=
  let shards := (List.range t.nShards).filter fun i => rows.any fun r => t.shardOf r == i
  let nodes := (shards.map (t.nodeOf self)).eraseDups
  if nodes.contains self then nodes.dropWhile (· != self) ++ nodes.takeWhile (· != self) else nodes

/-- The weights of a bag's entries, by list position, and its exponent (R130). -/
def bagWeights (x : Desc) (bag : Nat) (ps : List Nat) : M (List Nat × Nat) := do
  if x.exMode ≠ 2 then return (ps.map fun _ => 0, 0)
  else
    let ws := if x.exWfmt = 1 then 1 else 2
    let vs ← collect ps fun p => exRead x (bag / 64) (x.exWeight + p * ws) ws
    let e ← exRead x (bag / 64) (x.exWeight + roundUp (x.exCount * ws) 64 + bag) 1
    return (vs.map fromBytes, fromBytes e)

/-- The chain message of bag `b` of an EXCHANGE before its first visit. -/
def bagChain (x : Desc) (e : Exch) (b : Nat) : M Chain := do
  let d ← dev
  let t := x.table
  let lo := e.offs.getD b 0
  let hi := e.offs.getD (b + 1) 0
  let ps := (range' lo (hi - lo)).filter fun p => (e.rows.getD p none).isSome
  let (ws, exp) ← bagWeights x b ps
  let ents := (List.range ps.length).map fun k => ((e.rows.getD (ps.getD k 0) none).getD 0, k, ws.getD k 0)
  let nodes := visitOrder t d.self (ents.map fun n => n.1)
  let items := (nodes.map fun n => (ents.filter fun k => t.home d.self k.1 == n).map fun k =>
    payloadOf [(0, k.1), (5, k.2.1 % 2 ^ 24), (8, k.2.2), (10, n)]).flatten
  let m : Chain := { node := d.self, queue := x.q, seq := x.seq, bag := b, table := x.exTable, mode := x.exMode,
                     chain := false, fmt := x.xcSum, exp := exp, count := 0, tag := t.tag, lanes := x.exLanes,
                     world := d.queueWorld x.q, sums := [], items := items }
  return m.start

/-- Begin the next bag of an EXCHANGE. -/
def beginBag (x : Desc) (e : Exch) : M Unit := do
  let b := e.next
  let d ← dev
  need (!d.scaleHeld x)
  let c ← serverOf b
  needCluster c
  let m ← bagChain x e b
  let nodes := (m.items.map m.nodeOf).eraseDups.filter fun n => n != d.self
  setWork x.q x.seq (.exchange { e with next := b + 1, away := e.away ++ [(b, nodes)] })
  match m.items with
  | [] => forward m
  | i :: _ =>
    if m.nodeOf i = d.self then
      match ← caught (visitBag c 0 x.table (d.queueAsid x.q) m) with
      | .ok m => forward m
      | .error (st, rs) => stopExchange x st rs
    else forward m

/-- EXCHANGE: dispatch, or the next bag of one that runs (log entry 23). -/
def execExchange (q : Fin 1024) (s : State) : Host.Outcome State Fault Refusal :=
  transact (do
    let runs (x : Desc) : Bool := x.q == q.val && !x.ended && x.opcode == 0x40 && (match x.exch with
      | some e => decide (e.next < x.length)
      | none => false)
    match (← dev).descs.find? runs with
    | some x =>
      let e ← have! x.exch
      match ← caught (beginBag x e) with
      | .ok _ => pure ()
      | .error (st, rs) => stopExchange x st rs
    | none => launch q.val (opcodeIs 0x40) exchange) s

/-! ### CHAIN_REDUCE (R282, R283) -/

/-- The hops of a CHAIN_REDUCE. -/
def Desc.crList (x : Desc) : List Nat := (List.range x.crHops).map fun i => x.bytesAt (64 + 16 * i) 16

/-- CHAIN_REDUCE. -/
def chainReduce (x : Desc) : M Unit := do
  x.formChecks ([(24, 4, 4), (25, 6, 2), (26, 5, 3), (27, 0, 296)] ++ (if x.xcDest = 1 then [(16, 4, 48)] else []))
    [x.crSrcFmt, x.xcFmt] true
  malformedIf (x.crList.any fun h => bits h 10 54 != 0 || bits h 110 18 != 0) rRESERVED_SET
  malformedIf (!x.long || x.inlineLen != 16 * x.crHops) rLONG
  malformedIf (decide (2 ^ 20 < x.length) || x.crHops == 0 || decide (12 < x.crHops) || decide (1 < x.crSrcFmt) ||
    x.xcSum == 3 || !outFmtOk x.xcFmt) rOPERAND
  if x.length = 0 then zeroCount x
  else
    let d ← dev
    xcOutOk x
    if x.crList.any fun h => bits h 64 46 % 64 != 0 then failBounds
    if !d.rmtOn && x.crList.any (fun h => bits h 0 10 != d.self) then failBounds
    setWork x.q x.seq (.exchange ⟨[], [], 0, [], 0⟩)

/-- Begin the next vector of a CHAIN_REDUCE. -/
def beginVector (x : Desc) (e : Exch) : M Unit := do
  let b := e.next
  let d ← dev
  let c ← serverOf b
  needCluster c
  let m : Chain := { node := d.self, queue := x.q, seq := x.seq, bag := b, table := 0, mode := 0, chain := true,
                     fmt := x.xcSum, exp := 0, count := 0, tag := x.crSrcFmt, lanes := x.exLanes,
                     world := d.queueWorld x.q, sums := [], items := x.crList }
  let m := m.start
  let nodes := (m.items.map m.nodeOf).eraseDups.filter fun n => n != d.self
  setWork x.q x.seq (.exchange { e with next := b + 1, away := e.away ++ [(b, nodes)] })
  match m.items with
  | [] => forward m
  | i :: _ =>
    if m.nodeOf i = d.self then
      match ← caught (visitHops c 0 m) with
      | .ok m => forward m
      | .error (st, rs) => stopExchange x st rs
    else forward m

/-- CHAIN_REDUCE: dispatch, or the next vector of one that runs (log entry 23). -/
def execChainReduce (q : Fin 1024) (s : State) : Host.Outcome State Fault Refusal :=
  transact (do
    let runs (x : Desc) : Bool := x.q == q.val && !x.ended && x.opcode == 0x41 && (match x.exch with
      | some e => decide (e.next < x.length)
      | none => false)
    match (← dev).descs.find? runs with
    | some x =>
      let e ← have! x.exch
      match ← caught (beginVector x e) with
      | .ok _ => pure ()
      | .error (st, rs) => stopExchange x st rs
    | none => launch q.val (opcodeIs 0x41) chainReduce) s

/-! ### Loss of a peer at the requester (R292) -/

/-- The chain message of a bag has not been acknowledged by the first node it goes to, so that every visit is still to
come. -/
def Dev.bagLeaving (d : Dev) (x : Desc) (bag : Nat) : Bool :=
  let mine (kind hdr : Nat) : Bool := kind == 0x12 && bits hdr 0 10 == d.self && bits hdr 16 10 == x.q &&
    byteField hdr 4 4 == x.seq && byteField hdr 8 4 == bag
  d.outbox.any (fun m => mine m.kind m.hdr) || d.peers.any fun e => e.2.retained.any fun t => t.start && mine t.kind t.hdr

/-- Bags whose remaining visits include a lost node, or whose chain message it holds, are not delivered, and their
descriptors end LINK_LOST (R292). Where a bag stands among the other packages is not seen from here: once its message has
been acknowledged, whether its visit at the lost node is done already is free (log entry 64). -/
def exchangeLost (left : Dev) (n : Nat) : M Unit := do
  each ((← dev).descs.filter fun x => !x.ended) fun x => do
    match x.exch with
    | some e =>
      let hit ← foldM' (fun (hit : List Nat) a => do
        if !a.2.contains n then return hit
        else if left.bagLeaving x a.1 || (← freeValue 1) = 0 then return a.1 :: hit
        else return hit) [] e.away
      if !hit.isEmpty then
        bump F.mrgChainFail_count 8 hit.length
        stopExchange x sLINK_LOST rNONE
    | none => pure ()

end Sys2Proof.Machine
end

