-- ==== Sys2Proof/Machine/Port.lean ====
section
/-! DEFINITION. Tipra ports below the messages: port states (R411, R418), associations (R387), frames as they leave
(R388, R389), occupancy and credit (R398, R399), missing ranges (R396), and the end of tears (R401, R402). -/

namespace Sys2Proof.Machine

/-! ### Ports -/

/-- What a port holds beside its registers. -/
def Dev.ph (d : Dev) (p : Nat) : PortHidden := SMap.get PortHidden.none d.portsHid p

/-- Replace it. -/
def Dev.setPh (d : Dev) (p : Nat) (h : PortHidden) : Dev := { d with portsHid := SMap.set PortHidden.none d.portsHid p h }

/-- A packet number past which PN_HIGH is set (R387). -/
def Assoc.highPn (a : Assoc) : Nat := if a.xpn then 2 ^ 62 else 2 ^ 31

/-- Nodes routed to a port that the transport knows. -/
def Dev.peersOn (d : Dev) (p : Nat) : List (Nat × Peer) := d.peers.filter fun e => e.2.port == p && e.2.state != nNONE

/-- The node has a session. -/
def Peer.session' (x : Peer) : Bool := x.state == nUP || x.state == nDETACHING

/-- Change a node. -/
def modPeer (n : Nat) (f : Peer → Peer) : M Unit := modDev fun d => d.setPeer n (f (d.peer n))

/-- Show the selected node (R416). -/
def Dev.syncPeer (d : Dev) : Dev :=
  let x := d.peer (d.rd F.txpPeerCmd_node 8)
  (d.wr F.txpPeerStat_state 8 x.state).wr F.txpPeerStat_session 8 x.session

/-- A port comes to a halt or runs again: the timers of R396 and R412 stand meanwhile (R411). -/
def portEdge (p : Nat) (before : Bool) : M Unit := do
  let d ← dev
  let after := d.portRuns p
  if before && !after then modDev fun d => d.setPh p { d.ph p with down := some d.time.et }
  else if !before && after then
    let stood := match (d.ph p).down with
      | some t => d.time.et - t
      | none => 0
    modDev fun d => d.setPh p { d.ph p with down := none }
    each (d.peersOn p) fun e => modPeer e.1 fun x => { x with rtoEt := x.rtoEt + stood, lastRxEt := x.lastRxEt + stood }

/-- A port changes its state (R411). -/
def setPortState (p st : Nat) : M Unit := do
  let old ← rd F.txpState_state p
  if old = st then pure ()
  else
    let before := (← dev).portRuns p
    wr F.txpState_state p st
    portEdge p before
    raise (pg bTXP p) 2
    record 0x704 2 (pg bTXP p) (payloadOf [(0, p), (1, old), (2, st)])

/-- The next packet number of a port is used (R387). -/
def spendPn (p : Nat) : M Unit := do
  match (← dev).txAssoc p with
  | none => pure ()
  | some a =>
    let before := (← dev).portRuns p
    modDev fun d => { d with assocs := d.assocs.map fun b => if b.port == p && !b.rx then { b with pn := b.pn + 1 } else b }
    if a.highPn = a.pn then
      wr F.txpMacsec_pn_high p 1
      raise (pg bTXP p) 3
    portEdge p before

/-! ### Frames as they leave -/

/-- Bytes of an Ethernet frame that carries a Tipra frame (R388). -/
def frameBytes (start : Bool) (body : Nat) : Nat := 130 + (if start then 32 else 0) + body

/-- The window of a flow in credit units (R399). -/
def Dev.window (d : Dev) (p : Nat) : Nat := d.rd F.txpMarks_window p * 16384

/-- A batch of the node's ingest stream is in progress: the credit units that it still needs. -/
def Peer.inProgress (x : Peer) : Option Nat :=
  (x.batches.find? fun b => b.state == 0).map fun b => (b.bytes - b.data.length + 63) / 64

/-- The credit limit that the next frame carries (R399). -/
def Dev.advance (d : Dev) (x : Peer) : Nat :=
  if d.rd F.txpRunout_withheld x.port = 0 then wrap32 (x.rxUnits + d.window x.port)
  else if x.live == some true then
    match x.inProgress with
    | some n => if diff32 x.granted x.rxUnits < n then wrap32 (x.rxUnits + n) else x.granted
    | none => x.granted
  else x.granted

/-- A frame leaves for a node (R388, R389), if its port runs (R387). -/
def sendFrame (n kind : Nat) (start last retx : Bool) (seq hdr : Nat) (body : List Byte) : M Unit := do
  let d ← dev
  let x := d.peer n
  let p := x.port
  if !d.portRuns p then return
  let lim := d.advance x
  let w : WireFrame :=
    { port := p, node := n, kind := kind, start := start, last := last, retx := retx, session := x.session,
      peerSession := if kind = 0x04 then 0 else x.peerSession, seq := seq, ack := x.expect, limit := lim,
      sentEt := d.time.et, hdr := hdr, body := body }
  modDev fun d => { d with wire := w :: d.wire }
  bump F.txpTxBytes_count p (frameBytes start body.length)
  modPeer n fun x => { x with granted := lim, lastTxEt := d.time.et, unackedEt := none }
  spendPn p

/-- A control frame leaves: its SEQ is that of the next data frame. -/
def sendControl (n kind : Nat) (body : List Byte) : M Unit := do
  sendFrame n kind false false false ((← dev).peer n).nextSeq 0 body

/-- The highest batch sequence applied from a node (R289). -/
def appliedFrom (n : Nat) : M Nat := do
  if !(← dev).rmtOn then return 0
  match ← caught (rmtRead n 0) with
  | .ok v => return v
  | .error _ => return 0

/-- Send an ACK (R390, R395). -/
def sendAck (n : Nat) : M Unit := do sendControl n 0x01 (toBytes 8 (← appliedFrom n))

/-- Send a HELLO (0x04) or HELLO_ACK (0x05): byte 0 CLASS, bytes 8 to 15 APPLIED. -/
def sendHello (n kind : Nat) : M Unit := do
  sendControl n kind (toBytes 16 (2 ^ 64 * (← appliedFrom n)))

/-! ### Missing frames (R394, R396) -/

/-- Ranges of sequences between `at'` and `upto` that are not in a list sorted by sequence. -/
def gapsFrom (at' upto : Nat) : List Nat → List (Nat × Nat)
  | [] => if at' = upto then [] else [(at', wrap32 (upto + 2 ^ 32 - 1))]
  | s :: rest =>
    let more := gapsFrom (wrap32 (s + 1)) upto rest
    if s = at' then more else (at', wrap32 (s + 2 ^ 32 - 1)) :: more

/-- The missing ranges of a flow. -/
def Peer.missing (x : Peer) : List (Nat × Nat) := gapsFrom x.expect x.seen (x.kept.map fun f => f.seq)

/-- Send a NAK for the 16 lowest missing ranges. -/
def sendNak (n : Nat) : M Unit := do
  let rs := ((← dev).peer n).missing.take 16
  if rs.isEmpty then modPeer n fun x => { x with nakEt := none }
  else
    sendControl n 0x02 (toBytes 8 rs.length ++ (rs.map fun r => toBytes 4 r.1 ++ toBytes 4 r.2).flatten)
    let et ← now
    modPeer n fun x => { x with nakEt := some et }

/-! ### Tears (R400 to R402) -/

/-- The gap record of a tear that closes or is ended. -/
def closeTear (n : Nat) (byLoss : Bool) : M Unit := do
  let x := (← dev).peer n
  match x.tear with
  | none => pure ()
  | some t =>
    let live := x.live == some true
    let flags := b2n live + 2 * b2n (!live && !byLoss) + 4 * b2n byLoss
    record 0x701 3 (pg bTXP x.port) (payloadOf [(0, n), (2, x.port), (3, flags), (4, t.first), (8, t.last), (12, t.frames),
      (16, t.bytes), (24, t.lastEt)])
    raise (pg bTXP x.port) 1
    bump F.txpGaps_count x.port
    bump F.txpGapFrames_count x.port t.frames
    modPeer n fun x => { x with tear := none, batches := x.batches.map fun b => if b.state = 2 then { b with closed := true } else b }

/-! ### Occupancy and credit (R398, R399) -/

/-- Bytes of the reorder store in use at a port, and items held. -/
def Dev.roBytes (d : Dev) (p : Nat) : Nat := ((d.reorder.filter fun i => i.port == p).map fun i => i.charge).foldl (· + ·) 0
def Dev.roItems (d : Dev) (p : Nat) : Nat := (d.reorder.filter fun i => i.port == p).length

/-- The charge a node's frames hold. -/
def Peer.held (x : Peer) : Nat :=
  ((x.kept ++ x.parts).map fun f => if f.kind = 0 then 0 else chargeOf f.body.length).foldl (· + ·) 0 +
    (x.batches.map fun b => b.charge).foldl (· + ·) 0

/-- The occupancy of a port in bytes. -/
def Dev.occupancy (d : Dev) (p : Nat) : Nat :=
  ((d.inbox.filter fun m => m.port == p).map fun m => m.charge).foldl (· + ·) 0 + d.roBytes p +
    ((d.peers.filter fun e => e.2.port == p).map fun e => e.2.held).foldl (· + ·) 0

/-- The run-out buffer of a port (R398). -/
def runoutBytes : Nat := 64 * 2 ^ 20

/-- Show the occupancy, withhold or resume credit, and close the tears of flows that are repaired by retransmission. -/
def settlePort (p : Nat) : M Unit := do
  let d ← dev
  let occ := d.occupancy p
  let used := (occ + 4095) / 4096
  wr F.txpRunout_used p used
  wr F.txpRunout_peak p (max (d.rd F.txpRunout_peak p) used)
  wr F.mrgRoUsed_kib p (min ((d.roBytes p + 1023) / 1024) 65535)
  wr F.mrgRoUsed_items p (min (d.roItems p) 65535)
  if d.rd F.txpMarks_high_mark p * 2 ^ 20 ≤ occ then wr F.txpRunout_withheld p 1
  else if occ ≤ d.rd F.txpMarks_low_mark p * 2 ^ 20 then wr F.txpRunout_withheld p 0
  if occ ≤ d.rd F.txpMarks_low_mark p * 2 ^ 20 then
    each (d.peersOn p) fun e =>
      if e.2.tear.isSome && e.2.live != some true then do
        closeTear e.1 false
        if (← dev).portRuns p then sendNak e.1
      else pure ()

/-- Show it. -/
def syncRetain (p : Nat) : M Unit := do wr F.txpRetainUsed_kib p (((← dev).retainUsed p + 1023) / 1024)

end Sys2Proof.Machine
end

