-- ==== Sys2Proof/Machine/Clock.lean ====
section
/-! DEFINITION. The time base (R34 to R42, R541, R542) and the IEEE 1588 clock that disciplines it (R408, R409). -/

namespace Sys2Proof.Machine

/-- States of the time base (R37). -/
def tUNSET : Nat := 0
def tFREE : Nat := 1
def tLOCKED : Nat := 2
def tSLEWING : Nat := 3
def tHOLDOVER : Nat := 4

/-- A change of the time base's own bookkeeping. -/
def modTime (f : TimeBase → TimeBase) : M Unit := modDev fun d => { d with time := f d.time }

/-! ### Rate and corrections (R38) -/

/-- The nominal rate word, four ticks, and its largest change, 1,000 ppm, in 2^-32 ticks. -/
def rateNominal : Nat := 4 * 2 ^ 32
def rateChange : Nat := 4 * 2 ^ 32 / 1000

/-- What the next cycle adds to ET beyond the nominal rate word: a running correction. -/
def TimeBase.trim (t : TimeBase) : Int :=
  if t.slew < 0 then max t.slew (-(rateChange : Int)) else min t.slew rateChange

/-- The deviation of the rate word in force from the nominal one: that of a running correction, and in HOLDOVER the frozen
one (R37, R39). -/
def TimeBase.deviation (t : TimeBase) : Int :=
  t.frozen + (if t.slew < 0 then -(rateChange : Int) else if 0 < t.slew then rateChange else 0)

/-- Show the rate word. -/
def Dev.syncRate (d : Dev) : Dev :=
  let r := (rateNominal + d.time.deviation).toNat
  (d.wr F.timRateInt_int 0 (r / 2 ^ 32)).wr F.timRateFrac_frac 0 (r % 2 ^ 32)

/-- Set what a correction by rate has still to add. -/
def setSlew (s : Int) : M Unit := do
  modTime fun t => { t with slew := s }
  modDev Dev.syncRate

/-- The bound published now: it grows by 50 ns/s in HOLDOVER (R39). -/
def Dev.timeBound (d : Dev) : Nat :=
  if d.rd F.timState_state 0 = tHOLDOVER then
    min (2 ^ 32 - 1) (d.time.holdBound + (d.time.et - d.time.holdEt) * 200 / 4000000000)
  else d.rd F.timBound_ticks 0

/-- The record of a state change. -/
def timeStateRecord (old st : Nat) : M Unit := do
  record 0x104 2 (pg bTIM 0) (payloadOf [(0, old), (1, st), (8, (← dev).timeBound)])

/-- The time base enters a state. HOLDOVER freezes the rate word in force, and the state after it corrects again. -/
def setTimState (st : Nat) : M Unit := do
  let d ← dev
  let old := d.rd F.timState_state 0
  if old ≠ st then
    modTime fun t => { t with near := 0, far := 0 }
    let bound := d.timeBound
    if st = tHOLDOVER then
      modTime fun t => { t with holdEt := t.et, holdBound := bound, frozen := t.deviation, slew := 0 }
      bump F.timHoldovers_count 0
    else modTime fun t => { t with frozen := 0 }
    modDev Dev.syncRate
    if st = tLOCKED then bump F.timLocks_count 0
    wr F.timBound_ticks 0 bound
    wr F.timState_state 0 st
    timeStateRecord old st

/-- ET steps forward. -/
def stepTime (n : Nat) : M Unit := do
  let old ← now
  let unset := (← rd F.timState_state 0) = tUNSET
  modTime fun t => { t with et := (t.et + n) % 2 ^ 64 }
  setSlew 0
  bump F.timSteps_count 0
  if unset then wr F.timState_state 0 tFREE
  record 0x101 3 (pg bTIM 0) (payloadOf [(0, old), (8, (old + n) % 2 ^ 64)])
  if unset then timeStateRecord tUNSET tFREE

/-- ET is slewed down; a slew that runs takes the new offset. -/
def slewDown (n : Nat) : M Unit := do
  let d ← dev
  let st := d.rd F.timState_state 0
  if st = tSLEWING then
    let left := ((-d.time.slew) / (2 ^ 32 : Int)).toNat
    modTime fun t => { t with slewAll := t.slewAll - left + n }
  else
    modTime fun t => { t with slewAll := n, beforeSlew := st }
    bump F.timSlews_count 0
    record 0x102 2 (pg bTIM 0) (payloadOf [(0, ofSigned 64 (-(n : Int)))])
    setTimState tSLEWING
  setSlew (-(n : Int) * 2 ^ 32)

/-- A correction of offset `c` (R38). From UNSET a negative one is not applied. -/
def correctTime (c : Int) : M Unit := do
  if (← rd F.timState_state 0) = tUNSET then
    if 0 ≤ c then stepTime c.toNat
  else if (msTicks : Int) < c then stepTime c.toNat
  else if c < -(msTicks : Int) then slewDown (-c).toNat
  else setSlew (c * 2 ^ 32)

/-- A write of TIM_CTL.SET (R541). -/
def timeSet (w : RegAcc) : M Unit := do
  let d ← dev
  let st := d.rd F.timState_state 0
  let c : Int := (d.rd F.timSet_et 0 : Int) - d.time.et
  if st = tLOCKED || st = tSLEWING || (d.rd F.timCtl_servo 0 == 1 && d.rd F.txpPtpClock_source_valid 8 == 1) ||
      (st == tUNSET && decide (c < 0)) then w.ignore
  else correctTime c

/-- TIM_CTL.SET is written, with SERVO as it stands. -/
def execTimSet (a : Agent) (s : State) : Host.Outcome State Fault Refusal :=
  transact (do
    let w := regAcc .timCtl 0 0 (1 + 2 * (← rd F.timCtl_servo 0)) a
    w.run (timeSet w)) s

/-! ### Losing and ending (R39, R40) -/

/-- A SLAVE port is the time source, and the servo follows it (R409, R540). -/
def Dev.hasSource (d : Dev) : Bool := d.rd F.timCtl_servo 0 == 1 && d.rd F.txpPtpClock_source_valid 8 == 1

/-- The time base loses the source that it has: a LOCKED one holds over, a slewing one will (R39, R40). -/
def sourceLost : M Unit := do
  let st ← rd F.timState_state 0
  if st = tLOCKED then setTimState tHOLDOVER
  else if st = tSLEWING then modTime fun t => { t with beforeSlew := tHOLDOVER }

/-- Ticks of the 3 s of R39 and R408. -/
def threeSeconds : Nat := 12000000000

/-- No sync message for 3 s. -/
def execSyncLossTimeout (s : State) : Host.Outcome State Fault Refusal :=
  transact (do
    let d ← dev
    let st := d.rd F.timState_state 0
    need (decide (d.time.lastSync + threeSeconds ≤ d.time.et))
    need (st == tLOCKED || (st == tSLEWING && d.hasSource && d.time.beforeSlew != tHOLDOVER))
    sourceLost) s

/-- A SLAVE port disciplines the time base. -/
def Dev.disciplined (d : Dev) : Bool :=
  d.hasSource && decide (d.time.et < d.time.lastSync + threeSeconds)

/-- A slew has removed its offset. -/
def execSlewEnd (s : State) : Host.Outcome State Fault Refusal :=
  transact (do
    let d ← dev
    let t := d.time
    need (d.rd F.timState_state 0 == tSLEWING && t.slew == 0)
    let st := if d.disciplined then (if 16 ≤ t.near then tLOCKED else tFREE)
      else if t.beforeSlew = tLOCKED ∨ t.beforeSlew = tHOLDOVER then tHOLDOVER else tFREE
    record 0x103 2 (pg bTIM 0) (payloadOf [(0, t.slewAll)])
    modTime fun t => { t with slewAll := 0 }
    setTimState st) s

/-! ### Leaves (R34) -/

/-- Stamping islands: the die of an island by its number (0 to 63 clusters, 64 to 127 slices, 128 and 129 the meshes, then
8 control cores, 16 HBM and 16 capacity controllers, 8 ports, the host side and the time base; R30). -/
def dieOfIsland (n : Nat) : Nat :=
  if n < 128 then n % 64 / 32
  else if n < 130 then n - 128
  else if n < 138 then (n - 130) / 4
  else if n < 170 then (n - 138) % 16 / 8
  else if n < 178 then (n - 170) / 4
  else 0

/-- The number of islands. -/
def islands : Nat := 180

/-- A loop-back of the tree: half the round trip of each leaf is measured as its offset, no larger than `skew`; the leaves
of die 1 have the bridge delay in theirs. What is measured is free below that (log entry 6). -/
def measureTree (skew : Nat) : M Unit := do
  let b ← freeValue 64
  modTime fun t => { t with bridge := b % (min skew 48 + 1), calEt := t.et }
  each (List.range islands) fun n => do
    let v ← freeValue 64
    modTime fun t =>
      let part := if dieOfIsland n = 1 then t.bridge else 0
      { t with leaves := SMap.set none t.leaves n (some (part + v % (skew - part + 1))) }
  modTime fun t => { t with skew := skew }

/-- The loop-back that a reset makes; what it measures is not given (free values). -/
def calibrate : M Unit := do measureTree (← freeValue 16)

/-- What a leaf counts. The tree sends its count as it was an offset ago, which the leaf adds, and the leaf advances with ET
between two reloads: its count is that of the time base (R35 allows 8 ticks; log entry 6). -/
def TimeBase.leafCount (t : TimeBase) (island : Nat) : Nat :=
  let off := (SMap.get none t.leaves island).getD 0
  t.et - off + min off t.et

/-- The leaves reload from the tree. -/
def execLeafReload (s : State) : Host.Outcome State Fault Refusal :=
  transact (do
    let t := (← dev).time
    need (decide (t.reloadEt + usTicks ≤ t.et))
    modTime fun t => { t with reloadEt := t.et }) s

/-- A calibration of the tree, by which the largest leaf offset is `skew`. -/
def execTreeCalibration (skew : BitVec 16) (s : State) : Host.Outcome State Fault Refusal :=
  transact (do
    let t := (← dev).time
    need (decide (t.calEt + 10 * msTicks ≤ t.et))
    measureTree skew.toNat) s

/-! ### IEEE 1588: the best master clock algorithm (R408, R409; log entry 10) -/

/-- Port states of IEEE 1588 that the model enters; 0 is disabled. -/
def ptpLISTENING : Nat := 4
def ptpMASTER : Nat := 6
def ptpPASSIVE : Nat := 7
def ptpSLAVE : Nat := 9

/-- What the transport knows of a PTP port. -/
def Dev.ptpPort (d : Dev) (p : Nat) : PtpPort := SMap.get PtpPort.none d.ptp p

/-- Change it. -/
def modPtp (p : Nat) (f : PtpPort → PtpPort) : M Unit := modDev fun d =>
  { d with ptp := SMap.set PtpPort.none d.ptp p (f (d.ptpPort p)) }

/-- The package's own data set. -/
def Dev.ownClock (d : Dev) : Announce :=
  { p1 := d.rd F.txpPtpClock_priority1 8, cls := 248, acc := 0xFE, var := 0xFFFF, p2 := d.rd F.txpPtpClock_priority2 8,
    gm := d.rd F.glbNode_node 0, steps := 0, sender := d.rd F.glbNode_node 0 }

/-- One data set is better than another: of one grandmaster the nearer, else in the order of the fields. -/
def Announce.better (a b : Announce) : Bool :=
  let key (x : Announce) : List Nat :=
    if a.gm = b.gm then [x.steps, x.sender] else [x.p1, x.cls, x.acc, x.var, x.p2, x.gm]
  less (key a) (key b)
where
  /-- Lexicographic order. -/
  less : List Nat → List Nat → Bool
    | x :: xs, y :: ys => decide (x < y) || (x == y && less xs ys)
    | _, _ => false

/-- The best of the data sets that ports hold, with its port. -/
def bestOf : List (Nat × Announce) → Option (Nat × Announce)
  | [] => none
  | e :: es => match bestOf es with
    | none => some e
    | some b => if b.2.better e.2 then some b else some e

/-- A PTP port takes part: enabled, on a port that runs. -/
def Dev.ptpOn (d : Dev) (p : Nat) : Bool := d.rd F.txpPtpCfg_enable p == 1 && d.portRuns p

/-- The state that the algorithm gives a port. A port that has heard nothing listens until its timeout. -/
def Dev.ptpDecide (d : Dev) (best : Option (Nat × Announce)) (late p : Nat) : Nat :=
  let own := d.ownClock
  let quiet := (d.ptpPort p).best.isNone && d.rd F.txpPtpState_state p == ptpLISTENING && p != late
  let master := if d.rd F.txpPtpClock_slave_only 8 = 1 || quiet then ptpLISTENING else ptpMASTER
  if !d.ptpOn p then 0
  else match best with
    | none => master
    | some (n, b) =>
      if own.better b && d.rd F.txpPtpClock_slave_only 8 = 0 then master
      else if n = p then ptpSLAVE
      else match (d.ptpPort p).best with
        | some a => if a.gm = b.gm then ptpPASSIVE else master
        | none => master

/-- Run the algorithm; `late` is a port whose announce timeout has expired, 8 for none. -/
def runBmca (late : Nat) : M Unit := do
  let d ← dev
  let held := (List.range 8).filterMap fun p => if d.ptpOn p then (d.ptpPort p).best.map fun a => (p, a) else none
  let best := bestOf held
  let old := if d.rd F.txpPtpClock_source_valid 8 = 1 then some (d.rd F.txpPtpClock_source 8) else none
  each (List.range 8) fun p => wr F.txpPtpState_state p (d.ptpDecide best late p)
  let slave := (List.range 8).find? fun p => d.ptpDecide best late p == ptpSLAVE
  wr F.txpPtpClock_source 8 (slave.getD 0)
  wr F.txpPtpClock_source_valid 8 (b2n slave.isSome)
  if slave ≠ old then
    match old with
    | some p => modPtp p fun x => { x with t1 := none, t3 := none, open' := none, known := false }
    | none => pure ()
    let et ← now
    modTime fun t => { t with near := 0, far := 0, lastSync := et }
    if slave.isNone && d.rd F.timCtl_servo 0 == 1 then sourceLost

/-- Ports that were enabled or came up listen; ports that stopped forget what they held. -/
def syncPtp : M Unit := do
  let d ← dev
  let joins := (List.range 8).filter fun p => d.ptpOn p && d.rd F.txpPtpState_state p == 0
  let leaves := (List.range 8).filter fun p => !d.ptpOn p && d.rd F.txpPtpState_state p != 0
  each joins fun p => do
    wr F.txpPtpState_state p ptpLISTENING
    modPtp p fun _ => { PtpPort.none with annEt := d.time.et }
  each leaves fun p => do
    modPtp p fun _ => PtpPort.none
    wr F.txpPtpMpd_ticks p 0
  if !joins.isEmpty || !leaves.isEmpty then runBmca 8

/-! ### The servo (R38 to R41) -/

/-- An offset estimate, ET minus source, of a sync interval. The bound is the servo's own: a free value. -/
def servo (offset : Int) : M Unit := do
  if (← rd F.timCtl_servo 0) = 1 then
    wr F.timOffset_ticks 0 (ofSigned 64 offset)
    let bound ← freeValue 32
    wr F.timBound_ticks 0 bound
    let near := decide (offset.natAbs ≤ usTicks)
    modTime fun t => { t with near := if near then t.near + 1 else 0, far := if near then 0 else t.far + 1 }
    correctTime (-offset)
    let d ← dev
    let st := d.rd F.timState_state 0
    if st = tFREE ∧ 16 ≤ d.time.near then setTimState tLOCKED
    else if st = tLOCKED ∧ 16 ≤ d.time.far then setTimState tFREE

/-- The offset that a sync gives: sent at `t1`, received at `t2`. -/
def offsetOf (p : Nat) (t1 : Int) (t2 : Nat) : M Unit := do
  modPtp p fun x => { x with t1 := some t1, t2 := t2 }
  let d ← dev
  if (d.ptpPort p).known then
    servo ((t2 : Int) - t1 - d.rd F.txpPtpMpd_ticks p - toSigned 16 (d.rd F.txpPtpCfg_asym p))

/-- A PTP message is received. -/
def ptpReceive (p : Nat) (m : PtpMsg) : M Unit := do
  let d ← dev
  let x := d.ptpPort p
  let st := d.rd F.txpPtpState_state p
  let mine (domain : BitVec 8) : Bool := domain.toNat == d.rd F.txpPtpClock_domain 8
  match m with
  | .announce domain p1 cls acc var p2 gm steps sender =>
    let a : Announce := { p1 := p1.toNat, cls := cls.toNat, acc := acc.toNat, var := var.toNat, p2 := p2.toNat,
                          gm := gm.toNat, steps := steps.toNat, sender := sender.toNat }
    need (mine domain && a.gm != d.ownClock.gm)
    let takes := match x.best with
      | none => true
      | some b => b.sender == a.sender || a.better b
    if takes then
      modPtp p fun x => { x with best := some a, annEt := d.time.et }
      runBmca 8
  | .sync domain twoStep origin corr =>
    need (mine domain && st == ptpSLAVE)
    modTime fun t => { t with lastSync := d.time.et }
    if d.rd F.timCtl_servo 0 = 1 && d.rd F.timState_state 0 == tHOLDOVER then setTimState tFREE
    if twoStep then modPtp p fun x => { x with open' := some (d.time.et, corr.toInt) }
    else offsetOf p ((origin.toNat : Int) + corr.toInt) d.time.et
  | .followUp domain origin corr =>
    need (mine domain && st == ptpSLAVE)
    match x.open' with
    | none => skip
    | some (t2, c) =>
      modPtp p fun x => { x with open' := none }
      offsetOf p ((origin.toNat : Int) + c + corr.toInt) t2
  | .delayReq domain _ =>
    need (mine domain && st == ptpMASTER)
    modDev fun d => { d with ptpOut := (p, 3, d.time.et) :: d.ptpOut }
  | .delayResp domain received corr =>
    need (mine domain && st == ptpSLAVE)
    match x.t3, x.t1 with
    | some t3, some t1 =>
      let mpd : Int := (((x.t2 : Int) - t1) + ((received.toNat : Int) - corr.toInt - t3)) / 2
      wr F.txpPtpMpd_ticks p mpd.toNat
      modPtp p fun x => { x with t3 := none, known := true }
    | _, _ => skip
  | .management => pure ()

/-- A received IEEE 1588 message. -/
def execPtpMessage (p : Fin 8) (msg : PtpMsg) (s : State) : Host.Outcome State Fault Refusal :=
  transact (do
    syncPtp
    need ((← dev).ptpOn p.val)
    ptpReceive p.val msg) s

/-- Interval of a message in ticks, and its number (R408). -/
def ptpInterval (k : PtpKind) : Nat :=
  match k with
  | .sync => 250000000
  | .announce => 4000000000
  | .delayReq => 250000000
def ptpNumber (k : PtpKind) : Nat :=
  match k with
  | .sync => 0
  | .announce => 1
  | .delayReq => 2

/-- A PTP port sends the message of an interval: Sync and Announce as MASTER, Delay_Req as SLAVE. -/
def execPtpMessageInterval (p : Fin 8) (kind : PtpKind) (s : State) : Host.Outcome State Fault Refusal :=
  transact (do
    syncPtp
    let p := p.val
    let d ← dev
    let last := SMap.get 0 (d.ptpPort p).sent (ptpNumber kind)
    need (d.rd F.txpPtpState_state p == (if kind = .delayReq then ptpSLAVE else ptpMASTER))
    need (last == 0 || decide (last + ptpInterval kind ≤ d.time.et))
    modPtp p fun x => { x with sent := SMap.set 0 x.sent (ptpNumber kind) d.time.et }
    if kind = .delayReq then modPtp p fun x => { x with t3 := some d.time.et }
    modDev fun d => { d with ptpOut := (p, ptpNumber kind, d.time.et) :: d.ptpOut }) s

/-- No announce message for three intervals of a second. -/
def execAnnounceReceiptTimeout (p : Fin 8) (s : State) : Host.Outcome State Fault Refusal :=
  transact (do
    syncPtp
    let p := p.val
    let d ← dev
    let st := d.rd F.txpPtpState_state p
    need (st == ptpLISTENING || st == ptpSLAVE || st == ptpPASSIVE)
    need (decide ((d.ptpPort p).annEt + threeSeconds ≤ d.time.et))
    modPtp p fun x => { x with best := none, annEt := d.time.et }
    runBmca p) s

end Sys2Proof.Machine
end

