-- ==== Sys2Proof/Machine/Recorder.lean ====
section
/-! DEFINITION. The event recorder's flash (R499 to R513) and the trace ring (R519, R521). -/

namespace Sys2Proof.Machine

/-! ### Records in flash -/

/-- One bit of the CRC of R499. -/
def crcStep (c : Nat) (b : Bool) : Nat :=
  let hi := bit c 15
  let c := c * 2 % 2 ^ 16
  if hi != b then Nat.xor c 0x1021 else c

/-- CRC-16 over bytes, most significant bit first (R499). -/
def crc16 (bs : List Byte) : Nat :=
  bs.foldl (fun c b => (List.range 8).foldl (fun c i => crcStep c (bit b.toNat (7 - i))) c) 0xFFFF

/-- The 64 bytes of a record as a number, with LIVE set (R499). -/
def recordBytes (e : EventRec) (seq : Nat) (drops : Bool) : Nat :=
  let body := seq % 2 ^ 40 + e.sev % 8 * 2 ^ 40 + b2n e.seed * 2 ^ 43 + b2n e.etUnset * 2 ^ 44 + b2n drops * 2 ^ 45 +
    2 ^ 47 + e.code % 2 ^ 16 * 2 ^ 48 + e.et % 2 ^ 64 * 2 ^ 64 + e.opSec % 2 ^ 40 * 2 ^ 128 +
    e.cycles % 2 ^ 24 * 2 ^ 168 + e.source % 2 ^ 32 * 2 ^ 192 + e.payload % 2 ^ 256 * 2 ^ 224 + seq % 2 ^ 16 * 2 ^ 480
  body + crc16 (toBytes 62 body) * 2 ^ 496

/-- An erased slot. -/
def blankSlot : Nat := 2 ^ 512 - 1

/-- Slots of the circulating store, and of the seed ring (R503). -/
def storeSlots : Nat := 2042 * 2048
def seedSlots : Nat := 10240

/-- Fields of a record in flash. -/
def slotSeq (n : Nat) : Nat := n % 2 ^ 40
def slotSev (n : Nat) : Nat := bits n 40 3
def slotLive (n : Nat) : Bool := n != blankSlot && bit n 47

/-- Flash key of a circulating slot. -/
def circKey (slot : Nat) : Nat := 2 ^ 22 + slot % storeSlots

/-- A slot of flash. -/
def Dev.slot (d : Dev) (key : Nat) : Nat := SMap.get blankSlot d.evr.flash key

/-- Program a slot. -/
def Dev.setSlot (d : Dev) (key v : Nat) : Dev :=
  { d with evr := { d.evr with flash := SMap.set blankSlot d.evr.flash key v } }

/-- Erase slots. -/
def Dev.eraseSlots (d : Dev) (lo hi : Nat) : Dev :=
  { d with evr := { d.evr with flash := SMap.clear d.evr.flash lo hi } }

/-- The circulating area: keys and contents of the live records (R505). -/
def Dev.liveRecords (d : Dev) : List (Nat × Nat) := d.evr.flash.filter fun e => decide (2 ^ 22 ≤ e.1) && slotLive e.2

/-- The record with the lowest SEQ. -/
def oldestRecord (l : List (Nat × Nat)) : Option (Nat × Nat) := argMin (fun e => slotSeq e.2) l

/-- The record that a new record of a severity makes leave (R505, R507). -/
def Dev.leaver (d : Dev) (sev : Nat) (exempt : Bool) : Option (Nat × Nat) :=
  if d.rd F.evrState_mode 0 = 0 then oldestRecord d.liveRecords
  else
    let protect := d.rd F.evrCfg_protect 0
    match oldestRecord (d.liveRecords.filter fun e =>
        decide (slotSev e.2 < sev) || (slotSev e.2 == sev && decide (sev < protect))) with
    | some e => some e
    | none => if exempt then oldestRecord d.liveRecords else none

/-- Show the selected slot in EVR_RD_DATA (R511, R523). -/
def Dev.syncRdData (d : Dev) : Dev :=
  let area := d.rd F.evrRdSel_area 0
  let slot := d.rd F.evrRdSel_slot 0
  let v := if area = 0 ∧ slot < seedSlots then d.slot slot
    else if area = 1 ∧ slot < storeSlots then d.slot (circKey slot) else 0
  (List.range 16).foldl (fun d n => d.wr F.evrRdData_data 0 (byteField v (4 * n) 4) n) d

/-- Erased blocks of the store (R523). -/
def Dev.freeBlocks (d : Dev) : Nat := 2042 - ((d.evr.head + 2047) / 2048 - d.evr.tail)

/-- The head of the log can take a slot. -/
def Dev.logRoom (d : Dev) : Bool := d.evr.head % 2048 != 0 || decide (1 ≤ d.freeBlocks)

/-- Slots that the head of the log can still take. -/
def Dev.logSlots (d : Dev) : Nat := d.freeBlocks * 2048 + (2048 - d.evr.head % 2048) % 2048

/-- A record reaches flash in a slot (R501). -/
def Dev.writeSlot (d : Dev) (e : EventRec) (key slot : Nat) : Dev :=
  let seq := d.evr.nextSeq
  let d := d.setSlot key (recordBytes e seq d.evr.dropped)
  let d : Dev := { d with evr := { d.evr with nextSeq := seq + 1, dropped := false } }
  let d := d.bump F.evrRecords_count 0 1
  let d := d.wr F.evrNewest_seq 0 seq
  let d := d.wr F.evrNewestSlot_slot 0 slot
  d.wr F.evrNewestSlot_seed 0 (b2n e.seed)

/-- Write a record to the seed area: the permanent part, then the ring of three blocks (R504). -/
def Dev.writeSeed (d : Dev) (e : EventRec) : Dev :=
  let k := d.evr.seeds
  let slot := if k < 4096 then k else 4096 + (k - 4096) % 6144
  let d := if 4096 ≤ k ∧ slot % 2048 = 0 then d.eraseSlots slot (slot + 2048) else d
  let d := d.writeSlot e slot slot
  { d with evr := { d.evr with seeds := k + 1 } }

/-- Write a record to the circulating store, with what leaves the area for it (R505, R507): none where it is not written
and is dropped. -/
def Dev.writeCirc (d : Dev) (e : EventRec) (exempt : Bool) : Option Dev :=
  let put (d : Dev) : Dev :=
    let slot := d.evr.head % storeSlots
    let d := d.writeSlot e (circKey slot) slot
    { d with evr := { d.evr with head := d.evr.head + 1 } }
  if d.liveRecords.length < 16384 then some (put d)
  else match d.leaver e.sev exempt with
    | some l => some (((put d).setSlot l.1 (l.2 - 2 ^ 47)).bump F.evrLeft_count 0 1)
    | none => none

/-- The DROPPED record that covers every drop since the last one (R508). No rule names the instant that its own ET marks: it
is that of its writing (DESIGN CHOICE, log entry 90). -/
def Dev.droppedRec (d : Dev) : EventRec :=
  { code := 0x901, sev := 3, et := d.time.et, opSec := d.evr.opSec, cycles := d.evr.cycles,
    source := pageIdOf (pg bEVR 0),
    payload := payloadOf [(0, d.evr.drops % 2 ^ 32), (8, d.evr.dropFirst), (16, d.evr.dropLast)],
    seed := false, etUnset := d.rd F.timState_state 0 == 0 }

/-- Write one record to flash. Where records were dropped, the next record carries DROPS_BEFORE and a DROPPED record follows
it, or is it where none is staged; else it is the oldest staged one (R508). None where nothing waits, or no erased block is
there. -/
def Dev.writeOne (d : Dev) : Option Dev :=
  if d.evr.drops ≠ 0 ∧ (!d.evr.dropped || d.evr.staged.isEmpty) then
    if d.logRoom then
      match d.writeCirc d.droppedRec true with
      | some d => some ({ d with evr := { d.evr with drops := 0 } }.syncRecorder.syncRdData)
      | none => none
    else none
  else match d.evr.staged with
    | [] => none
    | e :: rest =>
      let d' : Dev := { d with evr := { d.evr with staged := rest } }
      if e.seed then some (d'.writeSeed e).syncRecorder.syncRdData
      else if d.logRoom then
        match d'.writeCirc e false with
        | some d => some d.syncRecorder.syncRdData
        | none =>
          let d := d'.bump F.evrDropped_count 0 1
          some ({ d with evr := d.evr.drop e.et }.syncRecorder)
      else none

/-- The recorder runs: supplies are good and the engine is out of E4. -/
def Dev.recorderRuns (d : Dev) : Bool := d.pow.good && d.rd F.pwrState_state 0 != 4

/-- The recorder writes one record (R501, R508). -/
def execRecordFlashWrite (s : State) : Host.Outcome State Fault Refusal :=
  transact (do
    let d ← dev
    need d.recorderRuns
    let d' ← have! d.writeOne
    modDev fun _ => d') s

/-- Write everything that is staged (R510, R467), as far as flash has room. -/
def emptyStaging : M Unit := repeatM 8192 do
  match (← dev).writeOne with
  | some d => do modDev fun _ => d; return true
  | none => return false

/-- Checkpoint OP_SECONDS and POWER_CYCLES in the directory (R500). -/
def Dev.checkpoint (d : Dev) : Dev := { d with evr := { d.evr with ckSec := d.evr.opSec, ckCycles := d.evr.cycles } }

/-- The 60 s checkpoint. -/
def execDirectoryCheckpoint (s : State) : Host.Outcome State Fault Refusal :=
  transact (do
    let d ← dev
    need (d.recorderRuns && decide (d.evr.ckSec + 60 ≤ d.evr.opSec))
    modDev Dev.checkpoint) s

/-- A whole second has passed out of E4. -/
def execOpSecondsTick (s : State) : Host.Outcome State Fault Refusal :=
  transact (do
    need (← dev).recorderRuns
    modDev fun d => { d with evr := { d.evr with opSec := (d.evr.opSec + 1) % 2 ^ 40 } }.syncRecorder) s

/-- A write of EVR_SW_CTL: the fields, and with WRITE a software record (R513). -/
def swWrite (code sev : Nat) (w : RegAcc) : M Unit := do
  if code < 0xF000 then w.ignore
  else
    wr F.evrSwCtl_code 0 code
    wr F.evrSwCtl_sev 0 sev
    let d ← dev
    record code sev (pg bEVR 0) (payloadOf ((List.range 8).map fun n => (4 * n, d.rd F.evrSwData_data 0 n)))

/-- A software record. -/
def execEvrSwWrite (code : BitVec 16) (sev : BitVec 3) (a : Agent) (s : State) : Host.Outcome State Fault Refusal :=
  transact (let w := regAcc .evrSwCtl 0 0 (code.toNat + sev.toNat * 2 ^ 16 + 2 ^ 31) a
    w.run (swWrite code.toNat sev.toNat w)) s

/-! ### Compaction (R509) -/

/-- A compaction begins. -/
def Dev.startCompaction (d : Dev) : Dev := { d with evr := { d.evr with compacting := true } }.syncRecorder

/-- Copy live records to the head of the log, byte for byte, and clear LIVE in the originals. -/
def Dev.copyLive (d : Dev) : List (Nat × Nat) → Dev
  | [] => d
  | (k, v) :: l =>
    let d := (d.setSlot (circKey d.evr.head) v).setSlot k (v - 2 ^ 47)
    let newest := decide (slotSeq v = d.rd F.evrNewest_seq 0)
    let d := if newest then d.wr F.evrNewestSlot_slot 0 (d.evr.head % storeSlots) else d
    { d with evr := { d.evr with head := d.evr.head + 1 } }.copyLive l

/-- The compaction of the oldest block of the store ends. A store whose only block is still being written has nothing to
compact. -/
def Dev.endCompaction (d : Dev) : Dev :=
  let d : Dev := { d with evr := { d.evr with compacting := false } }
  if d.evr.head < (d.evr.tail + 1) * 2048 then d.syncRecorder
  else
    let lo := circKey (d.evr.tail * 2048)
    let live := d.liveRecords.filter fun e => decide (lo ≤ e.1) && decide (e.1 < lo + 2048)
    let blk := 6 + d.evr.tail % 2042
    let d := (d.copyLive live).eraseSlots lo (lo + 2048)
    let d : Dev := { d with evr := { d.evr with tail := d.evr.tail + 1 } }
    let d := d.bump F.evrCompacts_count 0 1
    (d.event 0x902 0 (pg bEVR 0) (payloadOf [(0, blk), (2, live.length)])).syncRecorder.syncRdData

/-- The head of the log can take what the oldest block holds. -/
def Dev.canCompact (d : Dev) : Bool :=
  let lo := circKey (d.evr.tail * 2048)
  decide ((d.liveRecords.filter fun e => decide (lo ≤ e.1) && decide (e.1 < lo + 2048)).length ≤ d.logSlots)

/-! ### The flash port (R3, R512) -/

/-- What the management controller reads at its flash port, by the layout of R503: a record slot of blocks 1 to 2,047, while
the engine is in E4 or held in cold reset; none at any other time, which the controller leaves it idle. Block 0 holds the
checkpoints, whose form is not given. -/
def Dev.flashPort (d : Dev) (block slot : Nat) : Option Nat :=
  if d.recorderRuns || 2048 ≤ block || block == 0 || 2048 ≤ slot then none
  else if block < 6 then some (d.slot ((block - 1) * 2048 + slot))
  else some (d.slot (circKey ((block - 6) * 2048 + slot)))

/-! ### The trace ring (R519) -/

/-- Records of the trace ring (R524). -/
def Dev.traceEntries (d : Dev) : Nat := 2 ^ (d.rd F.trcRingCfg_size 0 + 12)

/-- Records of the trace ring that have not been read. -/
def Dev.traceUsed (d : Dev) : Nat := (d.rd F.trcRingTail_index 0 + 2 ^ 32 - d.rd F.trcRingHead_index 0) % 2 ^ 32

/-- A STOP ring is full (R519, R524). -/
def Dev.ringFull (d : Dev) : Bool := d.rd F.trcCtl_mode 0 == 0 && decide (d.traceEntries ≤ d.traceUsed)

/-- Write one record at TRC_RING_TAIL. The unit's own writes pass no tap, so tracing stands still for them. -/
def traceWrite (r : Nat) : M Unit := do
  let d ← dev
  let on := d.rd F.trcCtl_enable 0
  let tail := d.rd F.trcRingTail_index 0
  let n := d.traceEntries
  let who ← structWho 8 0 4 (pg bTRC 0) 1024 0
  wr F.trcCtl_enable 0 0
  match ← caught (writeLocal who ((d.rd F.trcRingBase_base 0 * 4096 + tail % n * 32) % 2 ^ 46) (toBytes 32 r)) with
  | .ok _ =>
    bump F.trcRecords_count 0
    wr F.trcRingTail_index 0 (wrap32 (tail + 1))
    if (tail + 1) % n = 0 && d.rd F.trcCtl_mode 0 = 1 then bump F.trcWraps_count 0
  | .error _ =>
    captureEngine (pg bTRC 0) kREFUSED 0x108
    bump F.trcLost_count 0
    modDev fun d => { d with trace := { d.trace with lost := d.trace.lost + 1 } }
  wr F.trcCtl_enable 0 on
where
  /-- Free-running indices (R51). -/
  wrap32 (n : Nat) : Nat := n % 2 ^ 32

/-- The trace unit writes one record from its buffer: after a loss first a DROP record; into a full STOP ring none, and
the record is lost. -/
def execTraceRingWrite (s : State) : Host.Outcome State Fault Refusal :=
  transact (do
    let d ← dev
    need (!d.asleep && d.rd F.pageState_state (pg bTRC 0) != 0)
    match d.trace.buffer with
    | [] => skip
    | r :: rest =>
      if d.ringFull then
        bump F.trcLost_count 0
        modDev fun d => { d with trace := { d.trace with buffer := rest, lost := d.trace.lost + 1 } }
      else if d.trace.lost ≠ 0 then
        modDev fun d => { d with trace := { d.trace with lost := 0 } }
        traceWrite (traceRec d.time.et 0 0 0 15 (d.pageWorld (pg bTRC 0)) 0 0 d.trace.lost 0)
      else
        modDev fun d => { d with trace := { d.trace with buffer := rest } }
        traceWrite r) s

/-- The hottest region sensor of a die is read (R521). How long traffic has waited for the bridge since the last reading, and
how many flits its link has sent again, are free (R549). -/
def execDieTempReading (die : Fin 2) (t : BitVec 8) (s : State) : Host.Outcome State Fault Refusal :=
  transact (do
    let (f, g) := if die.val = 0 then (F.trcTemp_die0, F.trcTemp_peak0) else (F.trcTemp_die1, F.trcTemp_peak1)
    wr f 0 t.toNat
    wr g 0 (max (← rd g 0) t.toNat)
    countOpen [(F.brgWait_count, die.val), (F.brgRetries_count, die.val)]) s

end Sys2Proof.Machine
end

