-- ==== Sys2Proof/Machine/Maint.lean ====
section
/-! DEFINITION. The memory system's own events (R300 to R320) and the maintenance arbiter (R489 to R493): temperatures,
training, capo windows, uncorrectable errors, tokens, and the MAINT activities. -/

namespace Sys2Proof.Machine

/-! ### Uncorrectable errors (R493) -/

/-- Mark a line. `scrub` says that a scrub or a generator run found it. -/
def markLine (line : Nat) (lls scrub : Bool) : M Unit := do
  let a := line * 64
  if !(← dev).ms.marks.contains line then
    modDev fun d => { d with ms := { d.ms with marks := line :: d.ms.marks } }
    bump F.mntUe_count 0
    let (tier, count) : Nat × M Unit := match homeOf a with
      | .hbm r o => (if lls then 2 else 0, bump F.hbcUe_count (hbmPlace r o).1)
      | .cap r o => (if lls then 2 else 1, bump F.ctpUe_count (capPlace r o).1)
      | _ => (2, pure ())
    if !lls then count
    if (← rd F.mntUeInfo_valid 0) = 0 then
      wr F.mntUeAddr_addr 0 a
      wr F.mntUeInfo_tier 0 tier
      wr F.mntUeInfo_valid 0 1
      wr F.mntUeInfo_scrub 0 (b2n scrub)
      raise (pg bMNT 0) 0
    record 0x401 4 (pg bMNT 0) (payloadOf [(0, a), (8, tier), (9, b2n scrub)])

/-- An uncorrectable ECC error is found in a line of HBM, the capacity tier or the LLS. -/
def execUeDetect (addr : BitVec 46) (lls : Bool) (scrub : Bool) (s : State) : Host.Outcome State Fault Refusal :=
  transact (do
    need ((← dev).populatedAt addr.toNat)
    markLine (addr.toNat / 64) lls scrub) s

/-! ### Temperatures (R306 to R309) -/

/-- The step of a stack's temperature, and the threshold of a step (R306). -/
def hbmStep (t : Nat) : Nat := if 105 ≤ t then 3 else if 95 ≤ t then 2 else if 85 ≤ t then 1 else 0
def hbmThreshold (step : Nat) : Nat := [0, 85, 95, 105].getD step 0

/-- The step of a capacity port's temperature (R309). -/
def capStep (t : Nat) : Nat := if 95 ≤ t then 3 else if 85 ≤ t then 1 else 0
def capThreshold (step : Nat) : Nat := [0, 85, 85, 95].getD step 0

/-- The step after a reading, with the readings in a row that ask for a step down: up at once, down after eight. -/
def stepAfter (raw cur cool threshold below : Nat) (t : Nat) : Nat × Nat :=
  if cur < raw then (raw, 0)
  else if cur ≠ 0 ∧ t + 3 ≤ threshold then
    (if cool + 1 = 8 then (below, 0) else (cur, cool + 1))
  else (cur, 0)

/-- The refresh step in force: the larger of the temperature's and firmware's (R307). -/
def Dev.syncRef (d : Dev) (stack : Nat) : Dev :=
  d.wr F.hbcState_ref stack (max (SMap.get 0 d.ms.steps stack) (SMap.get 0 d.ms.minRef stack))

/-- Keep a new step of a stack (its number) or port (16 + its number). -/
def takeStep (key : Nat) (n : Nat × Nat) : M Unit := do
  let d ← dev
  if n.1 ≠ SMap.get 0 d.ms.steps key then bump F.mntTempSteps_count 0
  modDev fun d => { d with ms := { d.ms with
    steps := SMap.set 0 d.ms.steps key n.1, cool := SMap.set 0 d.ms.cool key n.2 } }

/-- A stack leaves a state for READY, or for MAINT while an activity holds one of its channels (R334). -/
def Dev.stackReady (d : Dev) (stack : Nat) : Nat :=
  if (List.range 32).any fun n =>
      let act := d.rd F.mntSlot_activity 0 n
      (act == 4 || act == 5 || act == 6) && d.rd F.mntSlot_state 0 n != 0 && d.rd F.mntSlot_target 0 n == stack
  then 4 else 2

/-- Critical self-refresh begins or ends (R308, R309). -/
def setHot (key : Nat) (on : Bool) : M Unit := do
  modDev fun d => { d with ms := { d.ms with hot := (if on then [key] else []) ++ d.ms.hot.filter fun k => k != key } }
  if on then modDev Dev.syncHeld else modDev Dev.releaseHeld

/-- A reading of a stack's temperature. -/
def execHbmTempReading (stack : Fin 16) (t : BitVec 8) (s : State) : Host.Outcome State Fault Refusal :=
  transact (do
    let p := stack.val
    let t := t.toNat
    let d ← dev
    need d.pow.good
    wr F.hbcTemp_temp p t
    wr F.hbcTemp_peak p (max (d.rd F.hbcTemp_peak p) t)
    let cur := SMap.get 0 d.ms.steps p
    takeStep p (stepAfter (hbmStep t) cur (SMap.get 0 d.ms.cool p) (hbmThreshold cur) (cur - 1) t)
    modDev fun d => d.syncRef p
    let crit := d.rd F.hbcTemp_crit p
    let st := d.rd F.hbcState_state p
    if crit ≤ t ∧ (st = 2 ∨ st = 4) then
      wr F.hbcState_state p 3
      setHot p true
      record 0x402 5 (pg bHBC p) (payloadOf [(0, 0), (1, p), (2, t)])
    else if t + 10 ≤ crit ∧ d.ms.hot.contains p then
      if st = 3 ∧ d.rd F.pwrState_state 0 ≤ 2 ∧ d.pow.phase < 4 then wr F.hbcState_state p (d.stackReady p)
      setHot p false
    countOpen ((F.hbcCe_count, p) :: (F.hbcConflicts_count, p) :: (range' (4 * p) 4).map fun s => (F.llsCe_count, s))) s

/-- A reading of a capacity port's temperature. -/
def execCapTempReading (port : Fin 16) (t : BitVec 8) (s : State) : Host.Outcome State Fault Refusal :=
  transact (do
    let p := port.val
    let key := 16 + p
    let t := t.toNat
    let d ← dev
    need d.pow.good
    wr F.ctpTemp_temp p t
    wr F.ctpTemp_peak p (max (d.rd F.ctpTemp_peak p) t)
    let cur := SMap.get 0 d.ms.steps key
    takeStep key (stepAfter (capStep t) cur (SMap.get 0 d.ms.cool key) (capThreshold cur) (if cur = 3 then 1 else 0) t)
    wr F.ctpState_ref p (SMap.get 0 (← dev).ms.steps key)
    let crit := d.rd F.ctpTemp_crit p
    let st := d.rd F.ctpState_state p
    if crit ≤ t ∧ st = 2 then
      wr F.ctpState_state p 3
      setHot key true
      record 0x402 5 (pg bCTP p) (payloadOf [(0, 1), (1, p), (2, t)])
    else if t + 10 ≤ crit ∧ d.ms.hot.contains key then
      if st = 3 ∧ d.rd F.pwrState_state 0 ≤ 2 ∧ d.pow.phase < 4 then wr F.ctpState_state p 2
      setHot key false
    countOpen [(F.ctpCe_count, p)]) s

/-! ### Training (R310 to R312, R331) -/

/-- The training of a cold reset begins with the first cycle after it (R310, R334; log entry 157). -/
def startTraining : M Unit := do
  if (← dev).pow.untrained then
    modDev fun d => { d with pow := { d.pow with untrained := false } }
    each (List.range 16) fun k => do
      if (← rd F.hbcState_state k) = 0 then wr F.hbcState_state k 1
      if (← rd F.ctpState_state k) = 0 then wr F.ctpState_state k 1

/-- The training of a stack ends. A result without the map of its 32 channels is that of a stack that does not identify
under R300. -/
def execHbmTrainingDone (stack : Fin 16) (res : TrainResult) (s : State) : Host.Outcome State Fault Refusal :=
  transact (do
    let p := stack.val
    let d ← dev
    need (d.pow.good && (d.rd F.hbcState_state p == 0 || d.rd F.hbcState_state p == 1))
    let failed := res.failed.toNat
    let fail : M Unit := do
      wr F.hbcState_state p 5
      modDev fun d => { d with ms := { d.ms with out := (p / 2) :: d.ms.out.filter fun r => r != p / 2 } }
    if res.repairs.length ≠ 32 then fail
    else
      -- a channel fails only at the lowest rate, and three rates exist
      need (decide (res.rate.toNat ≤ 2) && (failed == 0 || res.rate.toNat == 2))
      wr F.hbcState_rate p res.rate.toNat
      wr F.hbcState_from_map p (b2n res.fromMap)
      wr F.hbcChFail_failed p failed
      if !res.fromMap then
        each (res.repairs.zip (List.range 32)) fun r => do
          if !bit failed r.2 then
            wr F.hbcRepair_lane0 p r.1.1.toNat r.2
            wr F.hbcRepair_lane1 p r.1.2.toNat r.2
            wr F.hbcRepair_valid p 1 r.2
      each ((List.range 32).filter fun c => bit failed c) fun c =>
        record 0x404 5 (pg bHBC p) (payloadOf [(0, 0), (1, p), (2, c)])
      if failed ≠ 0 then fail else wr F.hbcState_state p 2
      modDev Dev.releaseHeld) s

/-- The training of a capacity port ends. One where no module is found shows ABSENT (R337). -/
def execCapacityTrainingDone (port : Fin 16) (ok : Bool) (sizeGib : BitVec 8) (s : State) :
    Host.Outcome State Fault Refusal :=
  transact (do
    let p := port.val
    let d ← dev
    need (d.pow.good && (d.rd F.ctpState_state p == 0 || d.rd F.ctpState_state p == 1))
    wr F.ctpState_size_gib p sizeGib.toNat
    if ok && sizeGib.toNat == 192 then wr F.ctpState_state p 2
    else
      wr F.ctpState_state p (if sizeGib.toNat = 0 then 0 else 4)
      record 0x404 5 (pg bCTP p) (payloadOf [(0, 1), (1, p), (2, 0)])) s

/-! ### Tokens (R489 to R491) -/

/-- Kind of target of an activity: 0 stack, 1 region, 2 recorder, 3 package migration, 4 package translation, 5 memory
region. -/
def targetKind (act : Nat) : Nat :=
  if act = 2 ∨ act = 7 then 1
  else if act = 8 then 2
  else if act = 9 then 3
  else if act = 10 then 4
  else if act = 11 then 5
  else 0

/-- The target of the activity that holds a slot: the whole number of a memory region, which its field cuts. -/
def Dev.slotTarget (d : Dev) (n : Nat) : Nat :=
  match d.wipes.find? fun w => w.slot == n with
  | some w => w.region
  | none => d.rd F.mntSlot_target 0 n

/-- Two activities on one target may run together (R490). -/
def mayMeet (a b ch ch' : Nat) : Bool :=
  (a == 1 && b == 3) || (a == 3 && b == 1) ||
  ((a == 4 || a == 5) && (b == 4 || b == 5) && ch != ch') || (a == 10 && b == 10)

/-- A slot's activity keeps another from starting. -/
def Dev.slotMeets (d : Dev) (n act target ch : Nat) : Bool :=
  let a := d.rd F.mntSlot_activity 0 n
  d.rd F.mntSlot_state 0 n != 0 && targetKind a == targetKind act &&
  (targetKind act == 2 || targetKind act == 3 || targetKind act == 4 || d.slotTarget n == target) &&
  !mayMeet a act (d.rd F.mntSlot_channel 0 n) ch

/-- The arbiter refuses a start (R315, R490, R491): the same target, a running wipe, a running reset, a generator run that
would destroy live data, or no free slot. -/
def Dev.refusesStart (d : Dev) (act target ch : Nat) : Bool :=
  (List.range 32).any (fun n => d.slotMeets n act target ch) ||
  (act != 11 && !d.wipes.isEmpty) || d.pow.phase != 0 ||
  (act == 6 && (d.rd F.hbcTgCfg_op target == 0 || d.rd F.hbcTgCfg_op target == 2) &&
    !d.regionFenced (target / 2) && d.rd F.pwrState_ready 0 == 1) ||
  (List.range 32).all (fun n => d.rd F.mntSlot_state 0 n != 0)

/-- Ask for a token: the lowest free slot, or none where the start is refused. -/
def takeToken (act target ch q : Nat) : M (Option Nat) := do
  let d ← dev
  if d.refusesStart act target ch then
    bump F.mntRefused_count 0
    return none
  else
    match (List.range 32).find? fun n => d.rd F.mntSlot_state 0 n == 0 with
    | none => return none
    | some n =>
      bump F.mntGrants_count 0
      modDev fun d => d.setWord .mntSlot 0 n (act + target % 32 * 2 ^ 4 + ch % 32 * 2 ^ 9 + 2 ^ 14 + q * 2 ^ 16)
      return some n

/-- An activity is being aborted (R491). -/
def Dev.aborting (d : Dev) : Bool := (List.range 32).any fun n => d.rd F.mntSlot_state 0 n == 2

/-- Wipes that were granted begin when every aborted activity has reached its safe point (R470, R491). -/
def beginWipes : M Unit := do
  if !(← dev).aborting then
    each ((← dev).wipes.filter fun w => !w.begun) fun w => do
      wr F.secWipeStat_kind 0 4
      wr F.secWipeStat_busy 0 1
      wr F.secWipeStat_region 0 w.region
      wr F.secWipeStartEt_et 0 (← now)
      modDev fun d => { d with wipes := d.wipes.map fun v =>
        if v == w then { v with begun := true, start := d.time.et } else v }

/-- A slot becomes FREE (R492). -/
def freeSlot (n : Nat) : M Unit := do
  modDev fun d => d.setWord .mntSlot 0 n 0
  raise (pg bMNT 0) 1
  beginWipes

/-! ### MAINT (R492) -/

def Desc.mtActivity (x : Desc) : Nat := x.bytesAt 16 1
def Desc.mtTarget (x : Desc) : Nat := x.field 17 0 5
def Desc.mtChannel (x : Desc) : Nat := x.field 18 0 5
def Desc.mtLane (x : Desc) : Nat := x.field 19 0 7

/-- A MAINT of an activity; values that name none go with the first. -/
def maintIs (act raw : Nat) : Bool :=
  raw % 256 == 0x70 && (if act = 1 then !(decide (2 ≤ byteField raw 16 1) && decide (byteField raw 16 1 ≤ 8))
    else byteField raw 16 1 == act)

/-- Stacks and ports of an activity that holds a channel show MAINT (R334). -/
def holdStack (stack : Nat) : M Unit := do
  if (← rd F.hbcState_state stack) = 2 then wr F.hbcState_state stack 4

/-- What an activity does as it starts. -/
def activityStart (act target : Nat) : M Unit := do
  if act = 3 then
    modDev fun d => { d with ms := { d.ms with minRef := SMap.set 0 d.ms.minRef target (d.rd F.hbcRefCtl_min target) } }
    wr F.hbcRefCtl_applied target 1
    modDev fun d => d.syncRef target
  else if act = 4 ∨ act = 5 then holdStack target
  else if act = 6 then
    holdStack target
    modDev fun d => { d with ms := { d.ms with tg := SMap.clear d.ms.tg (target * 64) (target * 64 + 64) } }
    modDev fun d => (d.wr F.hbcTgErrs_count target 0).setWord .hbcTgFirst target 0 0
  else if act = 7 then modDev fun d => { d with ms := { d.ms with capoNext := d.ms.capoNext ++ [target] } }
  else if act = 8 then modDev Dev.startCompaction
  else pure ()

/-- Dispatch of a MAINT. -/
def maint (x : Desc) : M Unit := do
  let act := x.mtActivity
  x.formChecks ([(17, 5, 3), (18, 5, 3), (19, 7, 1)] ++ (range' 20 44).map fun b => (b, 0, 8)) [] false
  malformedIf (act == 0 || decide (8 < act)) rOPERAND
  malformedIf (targetKind act == 1 && decide (7 < x.mtTarget)) rOPERAND
  malformedIf (targetKind act == 0 && decide (15 < x.mtTarget)) rOPERAND
  malformedIf (x.mtChannel != 0 && act != 4 && act != 5) rOPERAND
  malformedIf (x.mtLane != 0 && act != 5) rOPERAND
  malformedIf (decide (63 < x.mtLane)) rOPERAND
  malformedIf (x.length != 1 && act != 1 && act != 2 && act != 6) rOPERAND
  if (← dev).queueWorld x.q = 0 then fail sWORLD_VIOLATION rWORLD
  if x.length = 0 then zeroCount x
  else
    match ← takeToken act (if act = 8 then 0 else x.mtTarget) x.mtChannel x.q with
    | none => fail sMAINT_CONFLICT rNONE
    | some n =>
      setWork x.q x.seq (.maint ⟨n⟩)
      activityStart act x.mtTarget

/-- MAINT SCRUB_HBM. -/
def execMaintScrubHbm (q : Fin 1024) (s : State) : Host.Outcome State Fault Refusal :=
  transact (launch q.val (maintIs 1) maint) s

/-- MAINT SCRUB_LLS. -/
def execMaintScrubLls (q : Fin 1024) (s : State) : Host.Outcome State Fault Refusal :=
  transact (launch q.val (maintIs 2) maint) s

/-- MAINT REFRESH. -/
def execMaintRefresh (q : Fin 1024) (s : State) : Host.Outcome State Fault Refusal :=
  transact (launch q.val (maintIs 3) maint) s

/-- MAINT RETRAIN. -/
def execMaintRetrain (q : Fin 1024) (s : State) : Host.Outcome State Fault Refusal :=
  transact (launch q.val (maintIs 4) maint) s

/-- MAINT SPARE_SWAP. -/
def execMaintSpareSwap (q : Fin 1024) (s : State) : Host.Outcome State Fault Refusal :=
  transact (launch q.val (maintIs 5) maint) s

/-- MAINT TRAFFIC_GEN. -/
def execMaintTrafficGen (q : Fin 1024) (s : State) : Host.Outcome State Fault Refusal :=
  transact (launch q.val (maintIs 6) maint) s

/-- MAINT CAPO. -/
def execMaintCapo (q : Fin 1024) (s : State) : Host.Outcome State Fault Refusal :=
  transact (launch q.val (maintIs 7) maint) s

/-- MAINT COMPACT. -/
def execMaintCompact (q : Fin 1024) (s : State) : Host.Outcome State Fault Refusal :=
  transact (launch q.val (maintIs 8) maint) s

/-! ### The traffic generator (R314 to R316, R335, R336) -/

/-- Local address of granule `k` of a pseudo-channel of a stack (R301). -/
def granuleAddr (stack pc k : Nat) : Nat :=
  let p := pc % 2 * 64 + pc / 2 * 2 + stack % 2
  let low := Nat.xor (Nat.xor p k) (k / 128) % 128
  stack / 2 * 2 ^ 38 + (k * 128 + low) * 512

/-- The 32 lanes of a beat of a pattern (R336). A pseudo-channel has 32 lanes, so a beat is the four bytes at its address
(log entry 155). -/
def patternBeat (pattern seed beat : Nat) : Nat :=
  if pattern = 0 then 0
  else if pattern = 1 then 2 ^ 32 - 1
  else if pattern = 2 then (if beat % 2 = 0 then 0x55555555 else 0xAAAAAAAA)
  else if pattern = 3 then 2 ^ ((Config.tgLane + beat) % 32)
  else if pattern = 5 then (if beat % 2 = 0 then beat * 4 else (beat - 1) * 4 / 2 ^ 32)
  else (Config.tgBeat pattern (if seed = 0 then 1 else seed) beat).toNat

/-- A granule of a pseudo-channel as the pattern has it. -/
def patternGranule (pattern seed k : Nat) : List Byte :=
  ((List.range 128).map fun j => toBytes 4 (patternBeat pattern seed (k * 128 + j))).flatten

/-- Write a granule with the pattern. Lines of it that a slice holds are updated with their homes (R325). -/
def writeGranule (stack pc k pattern seed : Nat) : M Unit := do
  let a := granuleAddr stack pc k
  clearMarks a 512
  each (linesOf a 512) fun n => do
    if ((← dev).line n).isSome then setLine n (some ⟨false, 0⟩)
  pokes false a (patternGranule pattern seed k)

/-- Show the results of the selected pseudo-channel (R316). -/
def Dev.syncTg (d : Dev) (stack : Nat) : Dev :=
  let r := SMap.get (0, 0, 0, 0) d.ms.tg (stack * 64 + d.rd F.hbcTgSel_pc stack)
  let d := d.wr F.hbcTgErrs_count stack r.1
  let d := d.wr F.hbcTgFirst_addr stack r.2.1
  let d := d.wr F.hbcTgFirst_lane stack r.2.2.1
  d.wr F.hbcTgFirst_valid stack r.2.2.2

/-- An error that the checker counts. -/
def Dev.tgError (d : Dev) (stack pc addr lane : Nat) : Dev :=
  let key := stack * 64 + pc
  let r := SMap.get (0, 0, 0, 0) d.ms.tg key
  let r' := ((r.1 + 1) % 2 ^ 32, if r.2.2.2 = 0 then addr else r.2.1, if r.2.2.2 = 0 then lane else r.2.2.1, 1)
  { d with ms := { d.ms with tg := SMap.set (0, 0, 0, 0) d.ms.tg key r' } }

/-- The lane of a beat's first mismatch, if there is one, counted over both pseudo-channels of the channel. -/
def firstLane (pc want got : Nat) : Option Nat :=
  ((List.range 32).find? fun i => bit want i != bit got i).map fun i => pc % 2 * 32 + i

/-- Read a granule. A marked line is an uncorrectable error (R316, R493); with `check`, each other beat that differs from the
pattern is a mismatch (log entry 155). -/
def checkGranule (stack pc k pattern seed : Nat) (check : Bool) : M Unit := do
  let a := granuleAddr stack pc k
  each (linesOf a 512) fun n => do
    let at' := k * 512 + (n * 64 - a)
    if (← dev).ms.marks.contains n then modDev fun d => d.tgError stack pc at' 127
    else if check then
      let bs ← peeks false (n * 64) 64
      each (List.range 16) fun j =>
        match firstLane pc (patternBeat pattern seed (at' / 4 + j)) (fromBytes ((bs.drop (4 * j)).take 4)) with
        | some lane => modDev fun d => d.tgError stack pc (at' + 4 * j) lane
        | none => pure ()
    else pure ()

/-- Pseudo-channels that HBC_TG_MASK selects. -/
def Dev.tgSelected (d : Dev) (stack : Nat) : List Nat :=
  (List.range 64).filter fun pc => bit (d.rd F.hbcTgMask_pc stack) pc

/-- Work of an activity that covers blocks or granules: rows and bytes. One that stops early has covered a part that the
spec does not fix: a free value. -/
def covered (x : Desc) (units size : Nat) : M Nat := do
  if x.status = sOK then
    progress x.q x.seq units (units * size) 0
    return units
  else
    let n := (← freeValue 64) % (units + 1)
    progress x.q x.seq n (n * size) 0
    return n

/-- A pass over pseudo-channels of a stack turns them to one direction. -/
def turnAll (stack : Nat) (pcs : List Nat) (dir : Nat) : M Unit :=
  modDev fun d => pcs.foldl (fun d pc => d.turnTo (stack * 64 + pc) dir) d

/-- Bytes that a generator run issues in a window: RATE/256 of the peak of each pseudo-channel, 40,000 bytes in a
microsecond (R314). -/
def Dev.tgShare (d : Dev) (stack bytes : Nat) : Nat :=
  min bytes ((d.tgSelected stack).length * ((d.rd F.hbcTgCfg_rate stack * 40000 + 255) / 256))

/-- A running row operation holds a row in the memory that a scrub passes over: the stack's region, or the region's slices
(R329). -/
def Dev.scrubHeld (d : Dev) (act target : Nat) : Bool :=
  d.calls.any fun c => c.held.any fun h =>
    if act = 1 then partitionOf h.1 == 0 && homeRegion h.1 == target / 2
    else act == 2 && homeRegion h.1 == target

/-- Granules that the generator of each pseudo-channel has covered, over all passes: all of them, or in a run that stops early a
number that the spec does not fix (R314). -/
def Desc.tgRuns (x : Desc) (pcs : List Nat) (count : Nat) : M (List (Nat × Nat)) := collect pcs fun pc => do
  let all := x.length * count
  if x.status = sOK then return (pc, all)
  else return (pc, (← freeValue 64) % (all + 1))

/-- What an activity leaves as it ends. -/
def activityEnd (x : Desc) (act target : Nat) (res : ActivityResult) : M Unit := do
  let d ← dev
  let mark (lls : Bool) : M Unit := each res.uncorrectable fun a => do
    if d.populatedAt a.toNat then markLine (a.toNat / 64) lls true else pure ()
  if act = 1 then
    if x.status = sOK then maintShare x.q x.seq (target / 2) 0 (x.length * (72 * 2 ^ 30))
    turnAll target (List.range 64) 1
    bump F.hbcCe_count target res.corrected.toNat
    mark false
    let n ← covered x (x.length * (72 * 2 ^ 14)) 65536
    bump F.hbcRdBytes_count target (n * 65536)
  else if act = 2 then
    if x.status = sOK then maintShare x.q x.seq target 2 (x.length * (8 * 96 * 2 ^ 20))
    each (res.errors.filter fun e => e.1.toNat / 8 == target) fun e => bump F.llsCe_count e.1.toNat
    mark true
    let _ ← covered x (x.length * (8 * 1536)) 65536
  else if act = 5 then
    let ch := x.mtChannel
    let lane := x.mtLane
    if d.rd F.hbcRepair_lane0 target ch = 127 then
      wr F.hbcRepair_lane0 target lane ch
      wr F.hbcRepair_valid target 1 ch
    else if d.rd F.hbcRepair_lane1 target ch = 127 then
      wr F.hbcRepair_lane1 target lane ch
      wr F.hbcRepair_valid target 1 ch
    else record 0x403 3 (pg bHBC target) (payloadOf [(0, target), (1, ch), (2, lane)])
  else if act = 6 then
    let op := d.rd F.hbcTgCfg_op target
    let pcs := d.tgSelected target
    let count := d.rd F.hbcTgCount_granules target
    let pattern := d.rd F.hbcTgCfg_pattern target
    let seed := d.rd F.hbcTgCfg_seed target
    if x.status = sOK then maintShare x.q x.seq (target / 2) 0 (d.tgShare target
      (x.length * pcs.length * count * (if op = 2 then 1024 else 512)))
    let runs ← x.tgRuns pcs count
    if op = 0 ∨ op = 2 then
      turnAll target pcs 2
      each runs fun e => each (List.range (min e.2 count)) fun k => writeGranule target e.1 k pattern seed
    if op ≠ 0 then
      turnAll target pcs 1
      each runs fun e => each (List.range (min e.2 count)) fun k => checkGranule target e.1 k pattern seed (op != 3)
      each (res.errors.filter fun e => pcs.contains e.1.toNat) fun e =>
        modDev fun d => d.tgError target e.1.toNat e.2.1.toNat e.2.2.toNat
    if op = 3 then mark false
    modDev fun d => d.syncTg target
    let n := (runs.map fun e => e.2).foldl (· + ·) 0
    progress x.q x.seq n (n * (if op = 2 then 1024 else 512)) 0
    if op ≠ 0 then bump F.hbcRdBytes_count target (n * 512)
    if op = 0 ∨ op = 2 then bump F.hbcWrBytes_count target (n * 512)
  else pure ()

/-- A stack whose activity has ended shows READY again. -/
def releaseStack (act target : Nat) : M Unit := do
  if act = 4 ∨ act = 5 ∨ act = 6 then
    if (← rd F.hbcState_state target) = 4 then wr F.hbcState_state target ((← dev).stackReady target)

/-- The descriptor of the MAINT that holds a slot. -/
def Dev.maintOf (d : Dev) (n : Nat) : Option Desc := d.descs.find? fun x => !x.ended && x.work == .maint ⟨n⟩

/-- The end of an activity: what it leaves, its token, its stack and its descriptor. -/
def finishActivity (x : Desc) (n act target : Nat) (res : ActivityResult) : M Unit := do
  activityEnd x act target res
  freeSlot n
  releaseStack act target
  endDesc x.q x.seq

/-- A maintenance activity ends, or reaches the safe point at which it stops; its token is released and its descriptor
completes. A CAPO ends once it has been applied, a COMPACT once its compaction has ended. -/
def execMaintActivityEnd (slot : Fin 32) (res : ActivityResult) (s : State) : Host.Outcome State Fault Refusal :=
  transact (do
    let n := slot.val
    let d ← dev
    let x ← have! (d.maintOf n)
    let act := d.rd F.mntSlot_activity 0 n
    let target := d.rd F.mntSlot_target 0 n
    need (!(act == 7 && d.ms.capoNext.contains target) && !(act == 8 && d.evr.compacting) && !d.scrubHeld act target)
    finishActivity x n act target res) s

/-- A MAINT is stopped: REFRESH has been applied and ends, CAPO is applied or not at all; the others stop at their next
safe point (R78, R489). -/
def stopMaint (x : Desc) (m : Maint) (st rs : Nat) : M Unit := do
  let d ← dev
  let act := d.rd F.mntSlot_activity 0 m.slot
  let target := d.rd F.mntSlot_target 0 m.slot
  if act = 3 ∨ act = 7 then
    modDev fun d => { d with ms := { d.ms with capoNext := d.ms.capoNext.filter fun r => !(act == 7 && r == target) } }
    freeSlot m.slot
    endWith x.q x.seq st rs
  else
    meet x.q x.seq st rs
    modDesc x.q x.seq fun y => { y with stopping := true }
    wr F.mntSlot_state 0 2 m.slot

/-! ### Recorder compaction (R509) -/

/-- Fewer than 8 erased blocks remain ahead of the log, and the recorder starts a compaction under a token. -/
def execRecorderCompactAuto (s : State) : Host.Outcome State Fault Refusal :=
  transact (do
    let d ← dev
    need (d.recorderRuns && decide (d.freeBlocks < 8) && !d.evr.compacting)
    match ← takeToken 8 0 0 0 with
    | some _ => modDev Dev.startCompaction
    | none => pure ()) s

/-- A compaction ends. One that the recorder started by itself releases its token. -/
def execCompactionEnd (s : State) : Host.Outcome State Fault Refusal :=
  transact (do
    let d ← dev
    need (d.evr.compacting && d.canCompact)
    modDev Dev.endCompaction
    match (List.range 32).find? fun n => d.rd F.mntSlot_activity 0 n == 8 && d.rd F.mntSlot_state 0 n != 0 with
    | some n => if (d.maintOf n).isNone then freeSlot n else pure ()
    | none => pure ()) s

/-! ### Capo windows (R318, R319) -/

/-- The staged settings of a region are sound: floors of each partition sum to at most 256, no floor exceeds its ceiling. -/
def Dev.capoSound (d : Dev) (r : Nat) : Bool :=
  (List.range 4).all fun p =>
    decide (((List.range 5).map fun c => d.rd F.rgnCapo_floor r (8 * p + c)).foldl (· + ·) 0 ≤ 256) &&
    (List.range 5).all fun c => decide (d.rd F.rgnCapo_floor r (8 * p + c) ≤ d.rd F.rgnCapo_ceil r (8 * p + c))

/-- The staged settings of a region come into force, or none of them. -/
def applyCapo (r : Nat) : M Unit := do
  let d ← dev
  if d.capoSound r then
    each ((List.range 4).map fun p => (List.range 5).map fun c => 8 * p + c).flatten fun i => do
      wr F.rgnCapoAct_floor r (d.rd F.rgnCapo_floor r i) i
      wr F.rgnCapoAct_ceil r (d.rd F.rgnCapo_ceil r i) i
  else captureEngine (pg bRGN r) kREFUSED 0x100

/-- A 1 µs window boundary of ET. -/
def execCapoWindow (s : State) : Host.Outcome State Fault Refusal :=
  transact (do
    let d ← dev
    need (decide (d.ms.capoEt / usTicks < d.time.et / usTicks))
    modDev fun d =>
      let d := d.mapCapo fun e => { e with age := min 2 (e.age + 1) }
      { d with ms := { d.ms with capo := [], capoEt := d.time.et, capoNext := [] } }
    each d.ms.capoNext applyCapo) s

end Sys2Proof.Machine
end

