-- ==== Sys2Proof/Machine/Migrate.lean ====
section
/-! DEFINITION. Walks that end (R344, R352 to R358), fault batches and their replies (R360 to R367), invalidation (R369 to
R372), heat epochs (R374), and MIGRATE (R376 to R380). -/

namespace Sys2Proof.Machine

/-! ### Walks -/

/-- A request of a walk that found a leaf: usable, or refused by world or permission (R348, R349). -/
def WalkReq.served (r : WalkReq) (leaf : Nat) : Bool :=
  bits leaf 2 1 == r.world && Nat.land (bits leaf 3 3) r.need == r.need

/-- A walk ends: the buffers are filled where the leaf serves a request, and the other requests fault or fail. -/
def walkEnds (die : Nat) (k : Walk) (c : AsidCtx) (e : WalkEnd) : M Unit := do
  let va := k.gran * 65536
  bump F.trnWalks_count (64 + die)
  match e with
  | .leaf size pte =>
    let t : Tlb := ⟨64 + die, k.asid, c.gen, va, size, pte⟩
    if k.reqs.isEmpty || k.reqs.any fun r => r.served pte then modDev fun d => d.tlbFill t
    each k.reqs fun r => do
      if r.served pte then
        match r.w.rq with
        | .cluster n => modDev fun d => (d.ctxFill { c with buf := n }).tlbFill { t with buf := n }
        | _ => pure ()
      else if bits pte 2 1 ≠ r.world then modDev fun d => d.answer r.w k.asid k.gran sWORLD_VIOLATION rWORLD
      else modDev fun d => d.raiseFault r.w k.asid k.gran 1 (3 - size) c.world r.world r.need c.gen pte
  | .fault kind level pte =>
    each k.reqs fun r => modDev fun d =>
      d.raiseFault r.w k.asid k.gran kind level (if kind = 4 then r.world else c.world) r.world r.need c.gen pte
  | .failed st rs => each k.reqs fun r => modDev fun d => d.answer r.w k.asid k.gran st rs

/-- What a walk reads: the context of its ASID, and its entries to the end. -/
def walkFor (k : Walk) : M (AsidCtx × WalkEnd) := do
  let (q, seq) := match k.reqs.head? with
    | some r => (r.w.q, r.w.seq)
    | none => (1024, 0)
  let c ← asidCtx (64 + k.die) k.asid q seq
  let e ← walkAll c (k.gran * 65536) q seq
  return (c, e)

/-- A walk is done. -/
def endWalk (k : Walk) : M Unit := do
  modDev fun d => { d with xl := { d.xl with walks := d.xl.walks.filter (fun x => !(x == k)) } }
  match ← caught (walkFor k) with
  | .ok (c, e) => walkEnds k.die k c e
  | .error (st, rs) => walkEnds k.die k ⟨64 + k.die, k.asid, false, 0, 0, 0⟩ (.failed st rs)

/-- A walk completes. -/
def execPageWalk (die : Fin 2) (asid : BitVec 16) (va : BitVec 52) (s : State) : Host.Outcome State Fault Refusal :=
  transact (do
    let die := die.val
    let asid := asid.toNat
    let gran := va.toNat / 65536
    let k ← have! ((← dev).xl.walks.find? fun k => k.die == die && k.asid == asid && k.gran == gran)
    endWalk k) s

/-! ### Fault batches -/

/-- The bytes of a fault record (R359). -/
def FaultRec.bytes (r : FaultRec) : List Byte :=
  toBytes 64 (payloadOf [(0, r.gran * 65536), (8, r.asid), (10, r.kind), (11, r.level + 4 * r.world), (12, r.need),
    (14, r.gen), (16, r.raised), (24, r.pte), (32, r.bits % 2 ^ 64), (40, r.bits / 2 ^ 64), (44, r.merged)])

/-- A record is answered FATAL: every waiter's next attempt ends so (R365). -/
def fatalRecord (die : Nat) (r : FaultRec) : M Unit := do
  bump F.trnFatal_count (64 + die)
  each r.waiters fun w => modDev fun d => d.answer w r.asid r.gran sFAULT_FATAL rFAULT

/-- Faults that waited unrecorded enter the next batch (R360). -/
def recordLater (die : Nat) : M Unit := do
  let b := (← dev).batcher die
  modDev fun d => d.setBatcher die { b with later := [] }
  each b.later fun r => modDev fun d => d.newRecord die r

/-- The window of the open batch ends. -/
def execBatchWindowExpiry (die : Fin 2) (s : State) : Host.Outcome State Fault Refusal :=
  transact (do
    let die := die.val
    let d ← dev
    let o ← have! (d.batcher die).opened
    need (d.pow.phase == 0)
    need (decide (o.openEt + d.rd F.trnBatchCfg_window (64 + die) * usTicks ≤ d.time.et))
    modDev fun d => d.setBatcher die ((d.batcher die).close d.time.et 1)) s

/-- TRN_BATCH_CFG.FLUSH closes the open batch at once. -/
def batchFlush (die : Nat) : M Unit := modDev fun d => d.setBatcher die ((d.batcher die).close d.time.et 2)

/-- A write of FLUSH. -/
def execTrnBatchFlush (die : Fin 2) (a : Agent) (s : State) : Host.Outcome State Fault Refusal :=
  transact (do
    let page := 64 + die.val
    let v := setBits ((← dev).word .trnBatchCfg page 0) 9 1 1
    (regAcc .trnBatchCfg page 0 v a).run (batchFlush die.val)) s

/-- The ring of a die's batches: who writes it, whether it lies in host memory, and its entries. -/
def writeFaultRing (die idx : Nat) (bs : List Byte) : M Unit := do
  let page := 64 + die
  let n := 2 ^ ((← rd F.trnFqCfg_size page) + 9)
  let a := (← rd F.trnFqBase_base page) * 4096 + idx % n * 64
  if (← rd F.trnFqCfg_loc page) = 1 then
    need (← hostReady)
    bump F.hlkTxBytes_count 0 64
    hostPut none false a bs
  else
    let who ← structWho 8 0 5 (pg bTRN page) 1024 0
    writeLocal who (a % 2 ^ 46) bs

/-- The header of a batch (R361). -/
def batchHeader (b : FaultBatch) (die num phase : Nat) : List Byte :=
  toBytes 64 (payloadOf [(0, num % 2 ^ 32), (4, b.recs.length), (6, die), (7, phase + 2 * b.cause), (8, b.openEt),
    (16, b.closeEt)])

/-- A closed batch is written at the tail of the fault ring. -/
def writeBatch (die : Nat) (c : FaultBatch) : M Unit := do
  let page := 64 + die
  let d ← dev
  let b := d.batcher die
  let n := 2 ^ (d.rd F.trnFqCfg_size page + 9)
  let tail := d.rd F.trnFqTail_index page
  match ← caught (do
      each (c.recs.zip (List.range c.recs.length)) fun r => writeFaultRing die (wrap32 (tail + 1 + r.2)) r.1.bytes
      writeFaultRing die tail (batchHeader c die b.next (1 - tail / n % 2))) with
  | .ok _ =>
    wr F.trnFqTail_index page (wrap32 (tail + 1 + c.recs.length))
    bump F.trnBatches_count page
    modDev fun d => d.setBatcher die
      { b with closed := none, pending := b.pending ++ [{ c with num := b.next }], next := wrap32 (b.next + 1) }
    raise (pg bTRN page) 0
  | .error _ =>
    modDev fun d => d.setBatcher die { b with closed := none }
    each c.recs (fatalRecord die)
    raise (pg bTRN page) 1
    captureEngine (pg bTRN page) kREFUSED 0x100
  recordLater die
  modDev fun d => d.retireBatches die

/-- A closed batch is written to the fault ring, or its write fails and every record is answered FATAL. -/
def execFaultBatchWrite (die : Fin 2) (s : State) : Host.Outcome State Fault Refusal :=
  transact (do
    let die := die.val
    let page := 64 + die
    let d ← dev
    let b := d.batcher die
    let c ← have! b.closed
    let n := 2 ^ (d.rd F.trnFqCfg_size page + 9)
    let tail := d.rd F.trnFqTail_index page
    need (d.pow.phase == 0)
    need (decide (b.pending.length < 4) &&
      decide (diff32 tail (d.rd F.trnFqHead_index page) + 1 + c.recs.length ≤ n))
    writeBatch die c) s

/-! ### Removal of translations (R364, R370, R378) -/

/-- A buffered entry overlaps a range of virtual addresses, its CONTIG group included. -/
def Tlb.overlaps (t : Tlb) (va len : Nat) : Bool :=
  let p := if bit t.leaf 7 then pageBits t.size + 4 else pageBits t.size
  let base := t.va / 2 ^ p * 2 ^ p
  decide (base < va + len) && decide (va < base + 2 ^ p)

/-- A cached non-leaf entry serves some address of a range (log entry 17). -/
def Upper.overlaps (u : Upper) (va len : Nat) : Bool :=
  decide (u.va * 2 ^ (43 - 9 * u.level) < va + len) && decide (va < (u.va + 1) * 2 ^ (43 - 9 * u.level))

/-- Walkers forget the non-leaf entries that a test selects. -/
def Dev.dropUpper (d : Dev) (p : Upper → Bool) : Dev :=
  { d with xl := { d.xl with upper := d.xl.upper.filter fun u => !p u } }

/-- Remove the entries that a test selects; the answer is what was removed. -/
def takeTlbs (p : Tlb → Bool) : M (List Tlb) := do
  let gone := (← dev).xl.tlbs.filter p
  modDev fun d => { d with xl := { d.xl with tlbs := d.xl.tlbs.filter (fun t => !p t) } }
  return gone

/-- Remove the entries that a test selects, counting those of L1s (R382). -/
def removeTlbs (p : Tlb → Bool) : M (List Tlb) := do
  let gone ← takeTlbs p
  each (gone.filter fun t => decide (t.buf < 64)) fun t => bump F.trnL1Removed_count t.buf
  return gone

/-! ### FAULT_REPLY (R362 to R366) -/

def Desc.frDie (x : Desc) : Nat := x.field 16 0 1
def Desc.frBatch (x : Desc) : Nat := x.bytesAt 20 4
def Desc.frFirst (x : Desc) : Nat := x.bytesAt 24 1

/-- The action of record FIRST + i. -/
def Desc.frAction (x : Desc) (i : Nat) : Nat := bits x.raw (512 + 2 * i) 2

/-- One action on a record of a pending batch; whether it took effect. -/
def replyAction (die batch i act : Nat) : M Bool := do
  let b := (← dev).batcher die
  match b.pending.find? fun x => x.num == batch with
  | none => return false
  | some x =>
    match x.recs[i]? with
    | none => return false
    | some r =>
      if r.answered then
        bump F.trnReplyLate_count (64 + die)
        return false
      else if act = 2 then return false
      else
        let x' : FaultBatch := { x with recs := x.recs.set i { r with answered := true, waiters := [] } }
        modDev fun d => d.setBatcher die { b with pending := b.pending.map fun y => if y.num == batch then x' else y }
        if act = 0 then
          let bufs := r.waiters.filterMap fun w => match w.rq with
            | .cluster c => some c
            | _ => none
          let _ ← removeTlbs fun t => t.asid == r.asid && t.overlaps (r.gran * 65536) 65536 &&
            (t.buf == 64 + die || bufs.contains t.buf)
          modDev fun d => d.dropUpper fun u => u.die == die && u.asid == r.asid && u.overlaps (r.gran * 65536) 65536
          modDev fun d => { d with xl := { d.xl with
            retried := r.waiters.map (fun w => (w, r.asid, r.gran)) ++ d.xl.retried } }
        else fatalRecord die r
        return true

/-- Dispatch of a FAULT_REPLY: it acts at once. -/
def faultReply (x : Desc) : M Unit := do
  x.formChecks ([(16, 1, 7), (17, 0, 8), (18, 0, 8), (19, 0, 8)] ++ (range' 25 39).map fun b => (b, 0, 8)) [] true
  malformedIf (!x.long || x.inlineLen != (x.length + 3) / 4) rLONG
  malformedIf (decide (256 < x.length) || (List.range x.length).any fun i => x.frAction i == 3) rOPERAND
  let d ← dev
  malformedIf (d.queueAsid x.q != 0) rOPERAND
  if x.length = 0 then zeroCount x
  else
    let die := x.frDie
    if d.queueWorld x.q ≠ d.pageWorld (pg bTRN (64 + die)) then fail sWORLD_VIOLATION rWORLD
    match (d.batcher die).pending.find? fun b => b.num == x.frBatch with
    | none => bump F.trnReplyLate_count (64 + die)
    | some b =>
      malformedIf (decide (b.recs.length < x.frFirst + x.length)) rOPERAND
      let done ← collect (List.range x.length) fun i => replyAction die x.frBatch (x.frFirst + i) (x.frAction i)
      progress x.q x.seq (done.filter fun b => b).length 0 0
      modDev fun d => d.retireBatches die
    endDesc x.q x.seq

/-- FAULT_REPLY. -/
def execFaultReply (q : Fin 1024) (s : State) : Host.Outcome State Fault Refusal :=
  transact (launch q.val (opcodeIs 0x51) faultReply) s

/-! ### INV_RANGE (R369 to R372) -/

def Desc.irVa (x : Desc) : Nat := x.field 16 0 52
def Desc.irAsid (x : Desc) : Nat := x.bytesAt 24 2
def Desc.irGen (x : Desc) : Bool := x.field 26 0 1 == 1
def Desc.irGlobal (x : Desc) : Bool := x.field 26 1 1 == 1

/-- The issuer rule for an opcode that names an ASID (R343). -/
def Dev.mayName (d : Dev) (q asid : Nat) : Bool := d.queueAsid q == 0 || d.queueAsid q == asid

/-- The contexts of an ASID are read again in every buffer that holds one; the new generation (R341, R371). -/
def reloadCtx (q seq asid : Nat) : M Nat := do
  let (v, w, root, gen) ← readAsid asid q seq
  modDev fun d => { d with xl := { d.xl with ctxs := d.xl.ctxs.map fun c =>
    if c.asid == asid then { c with valid := v, world := w, root := root, gen := gen } else c } }
  return gen

/-- The invalidation itself: the entries that were removed. An ASID entry that was not valid has no world and is read again
with those of the queue's world (R341, R342). -/
def invalidate (x : Desc) : M (List Tlb) := do
  let d ← dev
  let world := d.queueWorld x.q
  let mine := ((d.xl.ctxs.filter fun c => !c.valid || c.world == world).map fun c => c.asid).eraseDups
  let asids := if x.irGlobal then mine else [x.irAsid]
  let gone ← removeTlbs fun t => asids.contains t.asid && t.overlaps x.irVa x.length
  modDev fun d => d.dropUpper fun u => asids.contains u.asid && u.overlaps x.irVa x.length
  if x.irGlobal then
    each mine fun a => do
      let _ ← reloadCtx x.q x.seq a
    return gone
  else if x.irGen then
    let gen ← reloadCtx x.q x.seq x.irAsid
    let more ← removeTlbs fun t => t.asid == x.irAsid && t.gen == gen
    modDev fun d => d.dropUpper fun u => u.asid == x.irAsid && u.gen == gen
    return gone ++ more
  else return gone

/-- Physical addresses that a buffered entry translates to. -/
def Tlb.reaches (t : Tlb) (pa len : Nat) : Bool :=
  let p := if bit t.leaf 7 then pageBits t.size + 4 else pageBits t.size
  let base := leafPa t.leaf / 2 ^ p * 2 ^ p
  decide (base < pa + len) && decide (pa < base + 2 ^ p)

/-- Accesses in flight through removed entries: remote ones without an answer, and rows that a handler works on (R370). -/
def Dev.inFlight (d : Dev) (gone : List Tlb) : List Nat × List Nat :=
  let near (a len : Nat) : Bool := gone.any fun t => t.reaches a len
  ((d.remotes.filter fun r => r.answer.isNone && near r.pa r.len).map fun r => r.tag,
   (d.calls.filter fun c => c.held.any fun h => near (d.self * 2 ^ 46 + h.1) h.2).map fun c => c.id)

/-- The end of an INV_RANGE: stuck drains are tried again (R372). -/
def endInval (x : Desc) (slot st rs : Nat) : M Unit := do
  freeSlot slot
  endWith x.q x.seq st rs
  modDev Dev.retryStuck

/-- An INV_RANGE has every acknowledgement (R370). -/
def Dev.invalDone (d : Dev) (i : Inval) : Bool :=
  !(d.remotes.any fun r => r.answer.isNone && i.tags.contains r.tag) && !d.calls.any fun c => i.calls.contains c.id

/-- INV_RANGEs that have every acknowledgement end. -/
def finishInvals : M Unit := do
  each (← dev).descs fun x => do
    match x.work with
    | .inval i => if !x.ended && (← dev).invalDone i then endInval x i.slot sOK rNONE else pure ()
    | _ => pure ()

/-- Dispatch of an INV_RANGE: its entries go at once, and it ends once every access translated through one of them has
finished. -/
def invRange (x : Desc) : M Unit := do
  x.formChecks ([(16, 52, 12), (26, 2, 6)] ++ (range' 27 37).map fun b => (b, 0, 8)) [] false
  let d ← dev
  let zero := x.length == 0
  if !zero && (x.length % 65536 != 0 || x.irVa % 65536 != 0) then failBounds
  if !zero && decide (2 ^ 52 < x.irVa + x.length) then failBounds
  malformedIf (x.irGlobal && (x.irGen || x.irAsid != 0)) rOPERAND
  malformedIf (if x.irGlobal then d.queueAsid x.q != 0 else !d.mayName x.q x.irAsid) rOPERAND
  if zero then zeroCount x
  else
    if !x.irGlobal && d.rd F.trnAsid_enable 66 == 1 then
      let (v, w, _, _) ← readAsid x.irAsid x.q x.seq
      if v && w != d.queueWorld x.q then fail sWORLD_VIOLATION rWORLD
    match ← takeToken 10 0 0 x.q with
    | none => fail sMAINT_CONFLICT rNONE
    | some slot =>
      match ← caught (invalidate x) with
      | .ok gone =>
        progress x.q x.seq gone.length 0 0
        let (tags, calls) := (← dev).inFlight gone
        setWork x.q x.seq (.inval ⟨slot, tags, calls⟩)
        finishInvals
      | .error (st, rs) => endInval x slot st rs

/-- INV_RANGE. -/
def execInvRange (q : Fin 1024) (s : State) : Host.Outcome State Fault Refusal :=
  transact (launch q.val (opcodeIs 0x50) invRange) s

/-! ### Heat epochs (R374) -/

/-- An epoch boundary of a die's counters. -/
def execHeatEpoch (die : Fin 2) (s : State) : Host.Outcome State Fault Refusal :=
  transact (do
    let die := die.val
    let d ← dev
    need (decide (SMap.get 0 d.xl.epochEt die + d.rd F.migCfg_epoch die * msTicks ≤ d.time.et))
    modDev fun d => { d with xl := { d.xl with
      heat := d.xl.heat.map (fun h => if h.die == die then { h with count := h.count / 2, told := false } else h),
      epochEt := SMap.set 0 d.xl.epochEt die d.time.et } }) s

/-! ### MIGRATE (R376 to R380) -/

def Desc.mgList (x : Desc) : Nat := x.field 16 0 52
def Desc.mgAsid (x : Desc) : Nat := x.bytesAt 24 2

/-- The MIGRATE work of a descriptor. -/
def Desc.mig (x : Desc) : Option Migrate :=
  match x.work with
  | .migrate g => some g
  | _ => none

/-- The address of the leaf entry that a walk ends at, with its size code and contents: no fault is raised. -/
def leafAt (w : Who) (va : Nat) : Nat → Nat → Nat → M (Option (Nat × Nat × Nat))
  | 0, _, _ => return none
  | fuel + 1, table, level => do
    match ← readEntry w table va level with
    | none => return none
    | some pte =>
      if !bit pte 0 then return none
      else if bit pte 1 then
        return if leafOk va level pte then some ((table + vaIndex va level * 8) % 2 ^ 46, 3 - level, pte) else none
      else if nonLeafOk level pte then leafAt w va fuel (bits pte 12 44 * 4096) (level + 1)
      else return none

/-- The leaf of a page of the ASID that a MIGRATE names. -/
def migrateLeaf (x : Desc) (va : Nat) : M (Option (Nat × Nat × Nat)) := do
  let c ← asidCtx 64 x.mgAsid x.q x.seq
  if !c.valid || decide (2 ^ 52 ≤ va) then return none
  leafAt ⟨8, 0, 5, c.world, x.q, x.seq, pg bTRN 64, 0⟩ va 4 c.root 0

/-- Resident slots whose table's rows lie in a listed page are DROPPED (R150, R377). -/
def dropListed (x : Desc) (list : List (Nat × Nat)) : M Unit := do
  let d ← dev
  let live := (List.range 8).filter fun n => d.rd F.gclResCfg_state 64 n == 1 || d.rd F.gclResCfg_state 64 n == 2
  if !live.isEmpty then
    let pages ← collect list fun e => do
      match ← migrateLeaf x e.1 with
      | some (_, size, _) => return (e.1, 2 ^ pageBits size)
      | none => return (e.1, 65536)
    each live fun n => do
      let t := (← dev).rd F.gclResCfg_table 64 n
      match ← caught (readTable 1024 0 t true) with
      | .ok tab => if rangesMeet (tab.storage (← dev).self) pages then dropResident t else pure ()
      | .error _ => dropResident t

/-- Read the list of a MIGRATE. -/
def readList (x : Desc) (g : Migrate) : M Unit := do
  let d ← dev
  let bs ← readVa (dispatchWaiter x.q x.seq) (dispatchWho (d.queueWorld x.q) x.q x.seq) (d.queueAsid x.q) x.mgList
    (16 * x.length)
  let n := fromBytes bs
  let list := (List.range x.length).map fun i => (byteField n (16 * i) 8, bits n (128 * i + 64) 56)
  setWork x.q x.seq (.migrate { g with list := list })
  dropListed x list

/-- The blocks of a range lie in ACTIVE memory regions of a world. -/
def Dev.inWorld (d : Dev) (world a len : Nat) : Bool :=
  (blocksOf a len).all fun b => match d.regionHolding b with
    | some i => d.mr F.secMrLimit_state i == 2 && d.mr F.secMrBase_world i == world
    | none => false

/-- Every line of a page is copied at class MAINT, from the slice where it is held; then the source's lines leave the LLS
(R378; log entry 60). -/
def copyPage (x : Desc) (m : PageMove) : M Unit := do
  let who : Who := ⟨8, 0, 4, (← dev).queueWorld x.q, x.q, x.seq, pg bQUE 0, 0⟩
  clear! who true m.src m.size
  clear! who false m.dst m.size
  maintShare x.q x.seq (homeRegion m.src) 2 m.size
  if partitionOf m.src ≠ 2 then maintShare x.q x.seq (homeRegion m.src) (partitionOf m.src) m.size
  maintShare x.q x.seq (homeRegion m.dst) 2 m.size
  if partitionOf m.dst ≠ 2 then maintShare x.q x.seq (homeRegion m.dst) (partitionOf m.dst) m.size
  let bs ← peeks false m.src m.size
  each (linesOf m.src m.size) fun n => do
    countHit who (n * 64) 64
    writeBack n
    setLine n none
  meter who true m.dst m.size
  homeTraffic who true m.dst m.size
  carry (homeRegion m.src) (homeRegion m.dst) m.size
  each (linesOf m.dst m.size) fun n => do
    if ((← dev).line n).isSome then setLine n (some ⟨false, 0⟩)
  if (← dev).outOfService m.dst then pure () else
    clearMarks m.dst m.size
    pokes false m.dst bs

/-- An image of parts of a resident table follows a page that moves: look-ups that run against it reach its bytes by the new
translation (R150). -/
def followPage (m : PageMove) (img : List Host.Cell) : List Host.Cell :=
  let stays := img.filter fun e => !(decide (m.dst ≤ e.1) && decide (e.1 < m.dst + m.size))
  img.foldl (fun l e => if m.src ≤ e.1 ∧ e.1 < m.src + m.size then writeByte l (e.1 - m.src + m.dst) e.2 else l) stays

/-- The next page of a MIGRATE is checked and held (R377, steps 1 and 2 of R378). -/
def holdPage (x : Desc) (g : Migrate) : M Unit := do
  let d ← dev
  let (va, dst) ← have! g.list[g.next]?
  match ← migrateLeaf x va with
  | none => failBounds
  | some (entry, size, pte) =>
    let p := 2 ^ pageBits size
    let src := leafPa pte
    if size = 2 || bit pte 6 || src / 2 ^ 46 != d.self || bit pte 7 || va % p != 0 then failBounds
    if dst / 2 ^ 46 != d.self || dst % p != 0 then failBounds
    let a := src % 2 ^ 46
    let b := dst % 2 ^ 46
    if !d.populatedRange b p || (decide (a < b + p) && decide (b < a + p)) then failBounds
    if !d.inWorld (d.queueWorld x.q) b p then fail sWORLD_VIOLATION rWORLD
    need !d.rowHeld a p
    modDev fun d => { d with ms := { d.ms with moving := some (a, p) } }
    setWork x.q x.seq (.migrate { g with move := some ⟨va, a, b, entry, pte, p⟩ })

/-- A fetched row that waits to be consumed is counted at its page's new place (R227, R378). -/
def PageMove.follow (m : PageMove) (self : Nat) (i : Item) : Item :=
  { i with paged := i.paged.map fun p =>
      let a := p.1 - self * 2 ^ 46
      if p.1 / 2 ^ 46 = self ∧ m.src ≤ a ∧ a < m.src + m.size then (p.1 - m.src + m.dst, p.2) else p }

/-- The leaf entry of a held page is written with its new place (step 4 of R378). -/
def writeEntry (x : Desc) (m : PageMove) : M Unit := do
  let d ← dev
  let c ← asidCtx 64 x.mgAsid x.q x.seq
  writeChecked ⟨8, 0, 5, c.world, x.q, x.seq, pg bTRN 64, 0⟩ m.entry
    (toBytes 8 (setBits m.leaf 16 40 ((d.self * 2 ^ 46 + m.dst) / 65536)))

/-- A page has moved: its cached translations go, and its hold ends (steps 5 and 6 of R378). -/
def endMove (x : Desc) (g : Migrate) (m : PageMove) : M Unit := do
  let _ ← takeTlbs fun t => t.asid == x.mgAsid && t.overlaps m.va m.size
  let die := dieOfRegion (homeRegion m.dst)
  bump F.migMovedBytes_count die m.size
  bump F.migMovedPages_count die
  modDev fun d => { d with ms := { d.ms with moving := none }
                           clusters := d.clusters.map fun e => (e.1, { e.2 with
                             items := e.2.items.map (m.follow d.self), taken := e.2.taken.map (m.follow d.self) })
                           residents := d.residents.map fun e => (e.1, { e.2 with image := followPage m e.2.image }) }
  progress x.q x.seq 1 m.size (← now)
  setWork x.q x.seq (.migrate { g with next := g.next + 1, move := none })

/-- A held page moves (steps 3 to 6 of R378), and the hold ends. -/
def movePage (x : Desc) (g : Migrate) (m : PageMove) : M Unit := do
  copyPage x m
  writeEntry x m
  endMove x g m

/-- A MIGRATE ends: its hold and its token are released, and stuck drains are tried again. -/
def endMigrate (x : Desc) (g : Migrate) (st rs : Nat) : M Unit := do
  modDev fun d => { d with ms := { d.ms with moving := none } }
  freeSlot g.slot
  endWith x.q x.seq st rs
  modDev Dev.retryStuck

/-- A MIGRATE stops at its next page: a page that is held moves if its copy can run, and otherwise stays at its source (R78,
R493). -/
def stopMigrate (x : Desc) (g : Migrate) (st rs : Nat) : M Unit := do
  match g.move with
  | some m => attempt (do let _ ← caught (movePage x g m))
  | none => pure ()
  let y ← getDesc x.q x.seq
  endMigrate y g st rs

/-- Part of a MIGRATE's work; a failure ends it. -/
def orEndMigrate (x : Desc) (g : Migrate) (m : M Unit) : M Unit := do
  match ← caught m with
  | .ok _ => pure ()
  | .error (st, rs) => endMigrate x g st rs

/-- After a page, or the list: the next page's turn comes, or the MIGRATE is done. A page that cannot be held yet is tried
again at the next step. -/
def nextPage (x : Desc) : M Unit := do
  let y ← getDesc x.q x.seq
  match y.mig with
  | some g =>
    if g.next = x.length then endMigrate y g sOK rNONE
    else attempt (orEndMigrate y g (holdPage y g))
  | none => pure ()

/-- Dispatch of a MIGRATE. -/
def migrate (x : Desc) : M Unit := do
  x.formChecks ([(16, 52, 12)] ++ (range' 26 38).map fun b => (b, 0, 8)) [] false
  malformedIf (decide (2 ^ 20 < x.length)) rOPERAND
  let d ← dev
  malformedIf (!d.mayName x.q x.mgAsid) rOPERAND
  if x.length = 0 then zeroCount x
  else
    let (v, w, _, _) ← readAsid x.mgAsid x.q x.seq
    malformedIf (v && w != d.queueWorld x.q) rOPERAND
    if x.mgList % 16 ≠ 0 then failBounds
    match ← takeToken 9 0 0 x.q with
    | none => fail sMAINT_CONFLICT rNONE
    | some slot =>
      let g : Migrate := ⟨slot, [], 0, none⟩
      setWork x.q x.seq (.migrate g)
      attempt (do
        match ← caught (readList x g) with
        | .ok _ => nextPage x
        | .error (st, rs) => endMigrate x g st rs)

/-- MIGRATE. -/
def execMigrate (q : Fin 1024) (s : State) : Host.Outcome State Fault Refusal :=
  transact (launch q.val (opcodeIs 0x32) migrate) s

/-- The next step of a MIGRATE: its list is read, or a page of it moves. -/
def migrateStep (x : Desc) (g : Migrate) : M Unit := do
  if g.list.isEmpty then readList x g
  else
    if g.move.isNone then holdPage x g
    let y ← getDesc x.q x.seq
    let g' ← have! y.mig
    movePage y g' (← have! g'.move)

/-- A MIGRATE moves its next page, or reads its list if it has not yet. -/
def execMigratePage (q : Fin 1024) (seq : BitVec 32) (s : State) : Host.Outcome State Fault Refusal :=
  transact (do
    let x ← getDesc q.val seq.toNat
    need (!x.ended)
    let g ← have! x.mig
    match ← caught (migrateStep x g) with
    | .ok _ => nextPage x
    | .error (st, rs) => endMigrate x g st rs) s

end Sys2Proof.Machine
end

