-- ==== Sys2Proof/Machine/Reorder.lean ====
section
/-! DEFINITION. Deltas from peers (R272, R286 to R289, R553): their receipt, the reorder store, the application of released
items, refusals, and the spill rings as they are resent (R291). -/

namespace Sys2Proof.Machine

/-! ### Order keys (R286) -/

/-- Key (origin ET, site, sending node, batch sequence) of one delta comes before that of another. -/
def Delta.before (a b : Delta) : Bool :=
  decide (a.origin < b.origin) || (a.origin == b.origin && (decide (a.site < b.site) || (a.site == b.site &&
    (decide (a.node < b.node) || (a.node == b.node && decide (a.bseq < b.bseq))))))

/-- The item of the lowest key. -/
def firstItem : List RoItem → Option RoItem
  | [] => none
  | i :: l => match firstItem l with
    | none => some i
    | some j => if j.d.before i.d then some j else some i

/-- The item is another form of the same record: same sender and sequence. -/
def RoItem.same (a b : RoItem) : Bool := a.port == b.port && a.d.node == b.d.node && a.d.bseq == b.d.bseq

/-- Replace an item. -/
def putItem (i : RoItem) : M Unit := modDev fun d => { d with reorder := d.reorder.map fun j => if j.same i then i else j }

/-! ### Release (R286) -/

/-- Every peer whose flow is up has its watermark at or above an origin ET. -/
def Dev.watermarked (d : Dev) (origin : Nat) : Bool :=
  d.peers.all fun e => !e.2.session' || decide (origin ≤ e.2.mark)

/-- Release what the watermarks allow, and at each port the lowest keys beyond the limit of its store. -/
def releaseItems : M Unit := do
  modDev fun d => { d with reorder := d.reorder.map fun i =>
    if !i.released && d.watermarked i.d.origin then { i with released := true } else i }
  each (List.range 8) fun p => do
    repeatM 65536 do
      let d ← dev
      let held := d.reorder.filter fun i => i.port == p && !i.released
      if d.rd F.mrgRoCfg_limit p * 2 ^ 20 < (held.map fun i => i.charge).foldl (· + ·) 0 then
        match firstItem held with
        | some i =>
          putItem { i with released := true }
          bump F.mrgEarly_count 8
          return true
        | none => return false
      else return false

/-- The window of an item ends (R286). -/
def execReorderDeadline (r : Fin 8) (s : State) : Host.Outcome State Fault Refusal :=
  transact (do
    let d ← dev
    let due (i : RoItem) : Bool := i.port == r.val && !i.released && decide (i.due ≤ d.time.et)
    need (d.reorder.any due)
    modDev fun d => { d with reorder := d.reorder.map fun i => if due i then { i with released := true } else i }) s

/-! ### Receipt (R272, R288, R289) -/

/-- Refuse a batch or unit record (R272, R403). -/
def refuseDelta (m : InMsg) (bseq reason : Nat) : M Unit := do
  bump F.mrgMisrouted_count 8
  modDev fun d => d.post m.node 0x15 (payloadOf [(0, bseq), (8, reason), (9, m.kind)]) []

/-- A batch or unit record has come to its home. -/
def receiveDelta (m : InMsg) : M Unit := do
  let d ← dev
  let x := Delta.ofMessage m.node (m.kind == 0x11) m.hdr m.body
  if !d.rmtOn then refuseDelta m x.bseq 2
  else
    match ← caught (do
        let t ← readTable 1024 0 x.table true
        readShards 1024 0 0 t) with
    | .error _ => refuseDelta m x.bseq 1
    | .ok t =>
      if t.form = 0 then refuseDelta m x.bseq 1
      else if t.tag ≠ x.tag then refuseDelta m x.bseq 0
      else if x.entries.any fun e => decide (t.rows ≤ e.1) || t.home d.self e.1 != d.self then refuseDelta m x.bseq 1
      else
        let applied ← rmtRead m.node 0
        if x.bseq ≤ applied || d.reorder.any (fun i => i.d.node == m.node && i.d.bseq == x.bseq) then
          bump F.mrgRxDup_count m.port
        else
          let due := x.origin + t.wUs * usTicks
          let late := t.wUs != 0 && decide (due < d.time.et)
          if late then bump F.mrgRxLate_count m.port
          let i : RoItem := { port := m.port, d := x, tab := t, due := due, released := late || t.wUs == 0, late := late,
                              next := 0, charge := m.charge, stuck := false }
          modDev fun d => { d with reorder := d.reorder ++ [i] }
          releaseItems

/-! ### Application (R287, R553) -/

/-- The optimiser stage of the receiving port's region applies items, as non-secure (R458, R551). -/
def applyWho (r : Nat) : Who := ⟨7, r, 3, 0, 1024, 0, pg bOPT r, 2⟩

/-- What the application of a row's entries works with. -/
def RoItem.merge (i : RoItem) (self et : Nat) (es : List (Nat × Nat × List Nat)) : Merge :=
  { tabs := [i.tab], row := (es.headD (0, 0, [])).1, kind := i.d.kind, k := 0, q := 1024, seq := 0, world := 0,
    asid := (Config.homeAsid false).toNat, node := self, vals := [], count := es.length, step := i.d.step, et := et,
    users := [], stuck := 0, cause := (0, 0), append := false, origin := some (i.d.origin, i.d.site, i.d.node, i.d.bseq) }

/-- Apply the entries of one row. -/
def applyRow (r : Nat) (i : RoItem) (es : List (Nat × Nat × List Nat)) : M Unit := do
  let d ← dev
  let m := i.merge d.self d.time.et es
  let lanes := groupLanes i.tab.elems (es.map fun e => (e.2.1, e.2.2))
  let w : Waiter := ⟨.stage r, 1024, 2 ^ 64 + m.kind + 4 * (m.row + 2 ^ 40 * i.tab.num)⟩
  if m.kind = 0 then
    let (_, _, g) ← readCompanions 1024 0 i.tab
    let m : Merge := { m with tabs := [i.tab, g] }
    let _ ← drainSum r w (applyWho r) m lanes es.length
    pure ()
  else
    need (!(d.loading && d.loadTouches i.tab))
    drainRow r w (applyWho r) m lanes es.length
    dropResident i.tab.num

/-- Entries that cannot be applied are held as a stuck drain of the region that applied them. -/
def holdEntries (r : Nat) (i : RoItem) (es : List (Nat × Nat × List Nat)) : M Unit := do
  let d ← dev
  let m := i.merge d.self d.time.et es
  let g ← if m.kind = 0 then caught (readCompanions 1024 0 i.tab) else pure (.error (0, 0))
  let m : Merge := match g with
    | .ok (_, _, g) => { m with tabs := [i.tab, g] }
    | .error _ => m
  let l := d.merges r
  need (decide (l.length + es.length ≤ 32768))
  modMerges r fun l => l ++ es.map fun e => { m with k := e.2.1, vals := e.2.2, stuck := 1 }
  let page := 64 + dieOfRegion r
  bump F.trnStuck_count page
  raise (pg bTRN page) 2

/-- Entries of a flow are held at their home. -/
def Dev.heldFrom (d : Dev) (node bseq : Nat) : Bool :=
  (List.range 8).any fun r => (d.merges r).any fun m => match m.origin with
    | some o => o.2.2.1 == node && decide (o.2.2.2 < bseq)
    | none => false

/-- An item may be applied: a unit record only after every earlier item of its flow, and not while it is held. -/
def Dev.applicable (d : Dev) (i : RoItem) : Bool :=
  i.released && !i.stuck && (!i.d.unit ||
    (!d.heldFrom i.d.node i.d.bseq && !d.reorder.any fun j => j.d.node == i.d.node && decide (j.d.bseq < i.d.bseq)))

/-- The sequence of an item counts as applied (R289). -/
def itemApplied (i : RoItem) : M Unit := do
  let applied ← rmtRead i.d.node 0
  rmtWrite i.d.node 0 (max applied i.d.bseq)

/-- An item has been applied whole: its sequence counts as applied, and its charge is released. -/
def itemDone (i : RoItem) : M Unit := do
  modDev fun d => { d with reorder := d.reorder.filter fun j => !j.same i }
  itemApplied i
  settlePort i.port

/-- The next row of a released item is applied, or its unit record. A unit record that cannot be added is held until the
events of R552, and counts as applied meanwhile (R553). -/
def applyNext (r : Nat) (i : RoItem) : M Unit := do
  if i.d.unit then
    match ← caught (addUnit 1024 0 i.tab.num i.d.step i.late) with
    | .ok _ =>
      bump F.mrgUnitsRx_count 8
      itemDone i
    | .error _ =>
      captureEngine (pg bOPT 8) kREFUSED 0x108
      putItem { i with stuck := true }
      itemApplied i
  else
    match i.d.entries.drop i.next with
    | [] =>
      bump F.mrgRxBatches_count 8
      itemDone i
    | e :: rest =>
      let es := e :: rest.takeWhile fun f => f.1 == e.1
      match ← caught (applyRow r i es) with
      | .ok _ => pure ()
      | .error _ => holdEntries r i es
      let i := { i with next := i.next + es.length }
      if i.next < i.d.entries.length then putItem i
      else
        bump F.mrgRxBatches_count 8
        itemDone i

/-- Apply the next row of the first released item of a region, or its unit record. -/
def applyItem (r : Nat) : M Unit := do
  let d ← dev
  need (d.stageRuns r)
  let i ← have! (firstItem (d.reorder.filter fun i => i.port == r && d.applicable i))
  applyNext r i

/-- A released item is applied, one row a command. -/
def execReleasedItemApply (r : Fin 8) (s : State) : Host.Outcome State Fault Refusal :=
  transact (applyItem r.val) s

/-! ### At the sender (R289, R290, R291) -/

/-- A peer has applied up to a batch sequence: records up to it are no longer kept (R395, R397). -/
def dropApplied (n upto : Nat) : M Unit := do
  modPeer n fun x => { x with
    unapplied := x.unapplied.filter fun u => decide (upto < u.bseq)
    owed := x.owed.filter fun u => u.bseq == 0 || decide (upto < u.bseq)
    retained := x.retained.filter fun f => !(f.bseq != 0 && decide (f.bseq ≤ upto) && decide (0 < diff32 x.acked f.seq) &&
      decide (diff32 x.acked f.seq < 2 ^ 31)) }
  syncRetain ((← dev).peer n).port

/-- A REFUSE comes back: the record goes to the spill ring, marked (R291). It waits while the ring has no room. -/
def receiveRefuse (m : InMsg) : M Unit := do
  let bseq := byteField m.hdr 0 8
  let x := (← dev).peer m.node
  match x.unapplied.find? fun u => u.bseq == bseq with
  | none => pure ()
  | some u =>
    need (← spill x.port u true)
    modPeer m.node fun x => { x with unapplied := x.unapplied.filter fun v => v.bseq != bseq,
                                     retained := x.retained.filter fun f => f.bseq != bseq }
    syncRetain x.port

/-- Two records belong to one batch. -/
def sameBatch (a b : Nat) : Bool :=
  byteField a 0 5 == byteField b 0 5 && byteField a 16 28 == byteField b 16 28 && !bit a 34 && !bit b 34

/-- Records at the head of a ring that belong to one batch, at most `n`. -/
def spillRun (r i first : Nat) : Nat → M (List Nat)
  | 0 => pure []
  | n + 1 => do
    let v ← readSpill r i
    if sameBatch first v then return v :: (← spillRun r (i + 1) first n) else return []

/-- Lanes of a lane group of a table. -/
def Table.groupLen (t : Table) (k : Nat) : Nat := min 128 (t.elems - 128 * k)

/-- The run of records at the head of a ring as one delta, with its sequence, and their number. -/
def takeRun (n r v : Nat) : M (Delta × Nat) := do
  let d ← dev
  let get := d.rd F.mrgSpillPtr_get r
  let unit := bit v 34
  let more ← if unit then pure [] else spillRun r (get + 1) v (d.spillHeld r - 1)
  let run := v :: more
  let t ← caught (readTable 1024 0 (byteField v 2 2) true)
  let entry (v : Nat) : Nat × Nat × List Nat :=
    let k := bits v 40 5
    let len := match t with
      | .ok t => t.groupLen k
      | .error _ => 128
    (bits v 64 40, k, (List.range len).map fun i => byteField v (64 + 4 * i) 4)
  let bseq ← if byteField v 32 8 = 0 then nextBseq n else pure (byteField v 32 8)
  let x : Delta := { node := n, table := byteField v 2 2, kind := bits v 32 2, unit := unit, step := byteField v 28 4,
                     origin := byteField v 16 8, site := byteField v 24 1, bseq := bseq, tag := byteField v 40 4,
                     fmt := 0, scale := 0, entries := if unit then [] else run.map entry, users := [] }
  return (x, run.length)

/-- A run of `k` records leaves its ring as one delta. -/
def postRun (r : Nat) (x : Delta) (k : Nat) : M Unit := do
  postDelta x
  bump F.mrgResent_count 8 k
  let d ← dev
  wr F.mrgSpillPtr_get r ((d.rd F.mrgSpillPtr_get r + k) % max (d.rd F.mrgSpillCfg_entries 8) 1)

/-- The run of records at the head of a ring is resent. -/
def resendRun (n r v : Nat) : M Unit := do
  let (x, k) ← takeRun n r v
  postRun r x k

/-- What a node's ring had no room for follows the records of the ring (R291). -/
def sendOwed (n : Nat) : M Unit := do
  let d ← dev
  let p := d.peer n
  if p.state = nUP ∧ !p.owed.isEmpty then
    if !(← ringOwes p.port n (d.rd F.mrgSpillPtr_get p.port) (d.spillHeld p.port)) then
      modPeer n fun x => { x with owed := [] }
      each p.owed fun u => do
        let bseq ← if u.bseq = 0 then nextBseq n else pure u.bseq
        postDelta { u with bseq := bseq, users := [] }

/-- The records of a node that is up again are resent from the head of a ring, one batch or unit record a command. Lanes
travel as FP32, as the ring holds them (log entry 24). -/
def execSpillResend (n : BitVec 10) (s : State) : Host.Outcome State Fault Refusal :=
  transact (do
    let n := n.toNat
    let d ← dev
    need ((d.peer n).state == nUP && d.rmtOn)
    let rings := (List.range 8).filter fun r => d.spillHeld r != 0
    let heads ← collect rings fun r => do return (r, ← readSpill r (d.rd F.mrgSpillPtr_get r))
    let (r, v) ← have! (heads.find? fun h => bits h.2 0 10 == n && !bit h.2 35)
    resendRun n r v
    sendOwed n) s

/-- A write of MRG_SPILL_SKIP passes over a REFUSED record at the head of a ring (R294). -/
def spillSkip (r : Nat) (w : RegAcc) : M Unit := do
  let d ← dev
  let get := d.rd F.mrgSpillPtr_get r
  let refused ← if d.spillHeld r = 0 then pure false else do pure (bit (← readSpill r get) 35)
  if refused then wr F.mrgSpillPtr_get r ((get + 1) % max (d.rd F.mrgSpillCfg_entries 8) 1) else w.ignore

/-- A write of MRG_SPILL_SKIP.SKIP. -/
def execMrgSpillSkip (r : Fin 8) (a : Agent) (s : State) : Host.Outcome State Fault Refusal :=
  transact (let w := regAcc .mrgSpillSkip r.val 0 1 a
    w.run (spillSkip r.val w)) s

end Sys2Proof.Machine
end

