-- ==== Sys2Proof/Machine/Copy.lean ====
section
/-! DEFINITION. COPY and FILL (R424 to R433), ingest COPYs (R406, R407), and the host-write journal (R441 to R447). -/

namespace Sys2Proof.Machine

/-! ### Fields (R425, R429) -/

/-- The descriptor is a FILL. -/
def Desc.isFill (x : Desc) : Bool := x.opcode == 0x31

def Desc.cpSrc (x : Desc) : Nat := x.bytesAt 16 8
def Desc.cpDst (x : Desc) : Nat := if x.isFill then x.bytesAt 16 8 else x.bytesAt 24 8
def Desc.cpPattern (x : Desc) : Nat := x.bytesAt 24 8
def Desc.cpSrcSpace (x : Desc) : Nat := x.field 32 0 2
def Desc.cpDstSpace (x : Desc) : Nat := x.field 32 2 2

/-- The source is an ingest stream (R426). -/
def Desc.isIngest (x : Desc) : Bool := x.opcode == 0x30 && x.cpSrcSpace == 3

/-- HOST space is named. -/
def Desc.namesHost (x : Desc) : Bool := x.cpDstSpace == 1 || (!x.isFill && x.cpSrcSpace == 1)

/-- The copy work of a descriptor. -/
def Desc.copy (x : Desc) : Option Copy :=
  match x.work with
  | .copy c => some c
  | _ => none

/-- Replace it. -/
def setCopy (q seq : Nat) (c : Copy) : M Unit := setWork q seq (.copy c)

/-- A copy engine as requester and access source (R551, R459). -/
def copyWaiter (e q seq : Nat) : Waiter := ⟨.copy e, q, seq⟩
def copyWho (e world q seq : Nat) : Who := ⟨6, e, 2, world, q, seq, pg bCPE e, 0⟩

/-! ### Engines (R424) -/

/-- Descriptors that wait for an engine, or run on it. -/
def Dev.copiesOf (d : Dev) (e : Nat) : List Desc := d.descs.filter fun x => !x.ended && (match x.copy with
  | some c => c.engine == e
  | none => false)

/-- Descriptors that wait for an engine, in dispatch order. -/
def Dev.copyWaiting (d : Dev) (e : Nat) : List Desc := (d.copiesOf e).filter fun x => match x.copy with
  | some c => !c.running
  | none => false

/-- The descriptor that an engine runs. -/
def Dev.copyRunning (d : Dev) (e : Nat) : Option Desc := (d.copiesOf e).find? fun x => match x.copy with
  | some c => c.running
  | none => false

/-- The engine that a descriptor goes to: of its group those in service, with the fewest waiting, the lowest on a tie. -/
def Dev.pickEngine (d : Dev) (host : Bool) : Nat :=
  let group := if host then range' 8 8 else range' 0 8
  let live := group.filter fun e => d.inService (pg bCPE e)
  (argMin (fun e => (d.copyWaiting e).length) (if live.isEmpty then group else live)).getD (group.headD 0)

/-- A dispatched descriptor has host accesses outstanding or to make: it names HOST space, or moves SHARED pages (R438). -/
def Desc.usesHost (x : Desc) : Bool :=
  (x.opcode == 0x30 || x.opcode == 0x31) && (x.namesHost || (match x.copy with
    | some c => c.srcHost == some true || c.dstHost == some true
    | none => false))

/-- Show an engine (R447): one that moves host data waits for its link while that is HELD (R436). -/
def Dev.syncCopy (d : Dev) (e : Nat) : Dev :=
  let d := d.wr F.cpeStatus_waiting e (min (d.copyWaiting e).length 255)
  match d.copyRunning e with
  | none => (((d.wr F.cpeStatus_state e 0).wr F.cpeStatus_queue e 0).wr F.cpeSeq_seq e 0).wr F.cpeDone_bytes e 0
  | some x =>
    let st := d.rd F.cpeStatus_state e
    let d :=
      if x.usesHost && d.rd F.hlkState_state 0 == 2 then d.wr F.cpeStatus_state e 2
      else if st = 0 ∨ st = 2 then d.wr F.cpeStatus_state e 1
      else d
    (d.wr F.cpeStatus_queue e x.q).wr F.cpeSeq_seq e x.seq

/-- Show an engine. -/
def syncCopy (e : Nat) : M Unit := modDev fun d => d.syncCopy e

/-! ### The journal (R441 to R445) -/

/-- The local address of an entry. -/
def Dev.jrnAddr (d : Dev) (i : Nat) : Nat := (d.rd F.cpeJrn_base 16 * 4096 + 64 * i) % 2 ^ 46

/-- An entry as a number, and its fields. -/
abbrev JrnEntry := Nat

def JrnEntry.stop (j : JrnEntry) : Nat := byteField j 8 8
def JrnEntry.confirmed (j : JrnEntry) : Nat := byteField j 16 8
def JrnEntry.state (j : JrnEntry) : Nat := bits j 336 2

/-- Read an entry. -/
def readJrn (i : Nat) : M JrnEntry := do return fromBytes (← peeks false ((← dev).jrnAddr i) 64)

/-- Show the entry that is selected (R445). -/
def showJrn : M Unit := do
  let d ← dev
  let sel := d.rd F.cpeJrnSel_entry 16
  let j ← if sel < d.rd F.cpeJrnCfg_entries 16 && d.rd F.cpeJrn_enable 16 == 1 then readJrn sel else pure 0
  modDev fun d => (List.range 16).foldl (fun d n => d.wr F.cpeJrnData_data 16 (byteField j (4 * n) 4) n) d

/-- Write an entry by one aligned 64-byte write, keeping the counts of R447. -/
def writeJrn (i : Nat) (j : JrnEntry) : M Unit := do
  let old ← readJrn i
  let who ← structWho 8 0 2 (pg bCPE 16) 1024 0
  writeLocal who ((← dev).jrnAddr i) (toBytes 64 j)
  let d ← dev
  let used := d.rd F.cpeJrnStat_in_use 16 + b2n (JrnEntry.state j != 0) - b2n (JrnEntry.state old != 0)
  let un := d.rd F.cpeJrnStat_unconfirmed 16 + b2n (JrnEntry.state j == 3) - b2n (JrnEntry.state old == 3)
  wr F.cpeJrnStat_in_use 16 used
  wr F.cpeJrnStat_unconfirmed 16 un
  if d.rd F.cpeJrnSel_entry 16 = i then showJrn

/-- The lowest FREE entry from `i` on, among `n`. -/
def freeJrn (i : Nat) : Nat → M (Option Nat)
  | 0 => return none
  | n + 1 => do
    if JrnEntry.state (← readJrn i) = 0 then return some i
    else freeJrn (i + 1) n

/-- Take an entry for a host destination (R441, R443): none where the journal is full. -/
def takeJrn (x : Desc) (c : Copy) : M (Option Nat) := do
  let d ← dev
  match ← freeJrn 0 (d.rd F.cpeJrnCfg_entries 16) with
  | none => return none
  | some i =>
    writeJrn i (payloadOf [(0, x.cpDst), (8, if x.isIngest then x.length else c.len), (24, x.issued), (40, x.q),
      (42, 1 + 4 * b2n (x.cpDstSpace == 0)), (44, x.seq), (48, d.queueAsid x.q), (52, d.rd F.hlkLosses_count 0)])
    return some i

/-- Change an entry; a journal that cannot be written is recorded in its page. -/
def modJrn (i : Nat) (f : JrnEntry → JrnEntry) : M Unit := do
  match ← caught (do writeJrn i (f (← readJrn i))) with
  | .ok _ => pure ()
  | .error _ => captureEngine (pg bCPE 16) kREFUSED 0x100

/-- The confirmed offset of an entry rises (R442); a CLOSING entry that reaches its end becomes FREE (R444). -/
def confirmJrn (i upto : Nat) : M Unit := do
  let et ← now
  modJrn i fun j =>
    let j := if JrnEntry.confirmed j < upto then setBits (setBits j 128 64 upto) 256 64 et else j
    if JrnEntry.state j = 2 ∧ JrnEntry.stop j ≤ JrnEntry.confirmed j then setBits j 336 2 0 else j

/-- END of an entry (R443): what the descriptor has written where it stops early. -/
def shortenJrn (i upto : Nat) : M Unit := modJrn i fun j => setBits j 64 64 upto

/-- The descriptor's record is written (R444): its entry becomes FREE or CLOSING; an UNCONFIRMED one stays. -/
def journalRecorded (x : Desc) : M Unit :=
  match x.copy with
  | some c => match c.jrn with
    | some i => modJrn i fun j =>
        if JrnEntry.state j = 1 then setBits j 336 2 (if JrnEntry.stop j ≤ JrnEntry.confirmed j then 0 else 2) else j
    | none => pure ()
  | none => pure ()

/-! ### The end of a descriptor -/

/-- A COPY or FILL ends: its engine is free. -/
def finishCopy (x : Desc) : M Unit := do
  match x.copy with
  | none => pure ()
  | some c =>
    bump F.cpeDescs_count c.engine
    endDesc x.q x.seq
    syncCopy c.engine

/-- The last write has been issued, or no more will be: what is still out comes first (R432, R433, R442). -/
def closeCopy (x : Desc) (c : Copy) : M Unit := do
  let hostWrote := x.cpDstSpace == 1 && c.done != 0
  if c.stopped then
    match c.jrn with
    | some i => shortenJrn i c.done
    | none => pure ()
  if hostWrote && x.flush && !c.flushing then setCopy x.q x.seq { c with flushing := true }
  else
    if hostWrote && !x.flush then
      match c.jrn with
      | some i =>
        if (← dev).confirms.any fun f => f.entry == i && f.upto == c.done then pure ()
        else modDev fun d => { d with confirms := d.confirms ++ [⟨i, c.done, c.engine⟩] }
      | none => pure ()
    if c.gos.isEmpty && !c.flushing then finishCopy x

/-- A COPY or FILL stops between two blocks (R78, R81, R428). -/
def stopCopy (x : Desc) (st rs : Nat) : M Unit := do
  match x.copy with
  | none => endWith x.q x.seq st rs
  | some c =>
    meet x.q x.seq st rs
    let c : Copy := { c with stopped := true }
    setCopy x.q x.seq c
    closeCopy x c

/-! ### Blocks (R427, R428) -/

/-- Host-bound traffic may pass: true while the link is UP, false while it is HELD; a host that is gone fails it. -/
def hostGate : M Bool := do
  let st ← rd F.hlkState_state 0
  if st = 1 then hostReady
  else if st = 2 then return false
  else fail sHOST_LOST rNONE

/-- The checks of a page reached through a SHARED leaf, in the order of R427: the journal, CXL.cache (R421), the world. -/
def sharedCheck (world : Nat) (write : Bool) : M Unit := do
  let d ← dev
  if write then malformedIf (d.rd F.cpeJrn_enable 16 == 0) rOPERAND
  if d.rd F.hlkState_cache_en 0 = 0 then failBounds
  if world = 1 then fail sWORLD_VIOLATION rWORLD

/-- The kind of the pages of one side, which all have the kind of the first; host leaves are checked. -/
def sideKind (world : Nat) (write : Bool) (first : Option Bool) (segs : List Seg) : M Bool := do
  let k := first.getD ((segs.head?.map Seg.shared).getD false)
  each segs fun s => do
    if s.shared then sharedCheck world write
    if s.shared != k then failBounds
  return k

/-- Read through SHARED leaves. -/
def hostSegs (segs : List Seg) : M (List Byte) := do
  let bs ← collect segs fun s => peeks true s.pa s.len
  return bs.flatten

/-- Write through SHARED leaves. -/
def hostWrite (mark : Option (Nat × Nat)) : List Seg → List Byte → M Unit
  | [], _ => pure ()
  | s :: ss, bs => do
    hostPut mark true s.pa (bs.take s.len)
    hostWrite mark ss (bs.drop s.len)

/-- What a copy from HOST space through SHARED leaves writes: bytes that also lie in its source are unspecified (R427;
free values). -/
def overlapped (lo hi : Nat) : List Seg → List Byte → M (List Byte)
  | [], _ => return []
  | s :: ss, bs => do
    let one ← collect ((bs.take s.len).zip (List.range s.len)) fun b => do
      if lo ≤ s.pa + b.2 ∧ s.pa + b.2 < hi then
        let v ← freeValue 8
        return BitVec.ofNat 8 v
      else return b.1
    return one ++ (← overlapped lo hi ss (bs.drop s.len))

/-- What a copy that returns shows to have arrived: what was issued up to a write of its own (R431, R442). -/
def Dev.arrived (d : Dev) (p : Posted → Bool) : Dev :=
  let later := (d.path.out.reverse.takeWhile fun w => !p w).reverse
  let sooner := d.path.out.take (d.path.out.length - later.length)
  { d with path := { d.path with out := sooner.filter (fun w => w.cache) ++ later } }

/-- Write host memory and count it. -/
def hostOut (n : Nat) : M Unit := bump F.hlkTxBytes_count 0 n

/-- The next block of a running COPY or FILL; false while the link is HELD. -/
def moveBlock (x : Desc) (c : Copy) : M Bool := do
  let d ← dev
  let e := c.engine
  let world := d.queueWorld x.q
  let asid := d.queueAsid x.q
  let w := copyWaiter e x.q x.seq
  let who := copyWho e world x.q x.seq
  let a := x.cpDst + c.done
  let n := min (c.len - c.done) (4096 - a % 4096)
  let srcVa := !x.isFill && c.data.isNone && x.cpSrcSpace == 0
  let srcSegs ← if srcVa then do
      let s ← translate w world asid .rd (x.cpSrc + c.done) n
      pure (mergeSegs s)
    else pure []
  let dstSegs ← if x.cpDstSpace = 0 then do
      let s ← translate w world asid .wr a n
      pure (mergeSegs s)
    else pure []
  let dk ← if x.cpDstSpace = 0 then sideKind world true c.dstHost dstSegs else pure true
  let sk ← if srcVa then sideKind world false c.srcHost srcSegs
    else pure (!x.isFill && c.data.isNone && x.cpSrcSpace == 1)
  if dk && srcVa && sk then failBounds
  let go ← if dk || sk then hostGate else pure true
  if !go then return false
  let bs ← match c.data with
    | some l => pure ((l.drop c.done).take n)
    | none =>
      if x.isFill then pure ((List.range n).map fun i => BitVec.ofNat 8 (byteField x.cpPattern ((c.done + i) % 8) 1))
      else if x.cpSrcSpace = 1 then peeks true (x.cpSrc + c.done) n
      else if sk then hostSegs srcSegs
      else readSegs w who false srcSegs
  if sk then bump F.hlkRxBytes_count 0 n
  let done := c.done + n
  let c : Copy := { c with done := done, dstHost := some dk, srcHost := if srcVa then some sk else c.srcHost }
  let mut c' := c
  if x.cpDstSpace = 1 then
    hostPut (c.jrn.map fun i => (i, done)) false a bs
    hostOut n
    progress x.q x.seq 0 n d.time.et
    match c.jrn with
    | some i =>
      let step := d.rd F.cpeJrnCfg_flush_kib 16 * 1024
      if done / step ≠ (done - n) / step && done != c.len then
        modDev fun d => { d with confirms := d.confirms ++ [⟨i, done, e⟩] }
    | none => pure ()
  else if dk then
    let bs ← if !x.isFill && c.data.isNone && x.cpSrcSpace = 1 then overlapped x.cpSrc (x.cpSrc + x.length) dstSegs bs
      else pure bs
    hostWrite (c.jrn.map fun i => (i, done)) dstSegs bs
    hostOut n
    progress x.q x.seq 0 n 0
    c' := { c with gos := c.gos ++ [done] }
  else
    let et ← writeSegs w who dstSegs bs
    progress x.q x.seq 0 n et
  bump F.cpeBytes_count e n
  wr F.cpeDone_bytes e done
  setCopy x.q x.seq c'
  return true

/-- Run part of an engine's work, showing what it waits for (R447). -/
def engineTry (e : Nat) (w : Waiter) (m : M Unit) : M Unit := do
  let t ← get
  let show' (d : Dev) : Dev :=
    let waits := [d.batcher 0, d.batcher 1].any fun b => (b.unanswered ++ b.later).any fun r => r.waiters.contains w
    d.wr F.cpeStatus_state e (if waits then 3 else 1)
  tryCatch m fun s =>
    match s with
    | .wait reg => do set t; modDev fun d => show' (reg d)
    | .skip => do set t; modDev show'
    | s => throw s

/-- One block of the descriptor that an engine runs. -/
def engineBlock (e : Nat) (x : Desc) (c : Copy) : M Unit := do
  if !c.stopped && decide (c.done < c.len) then
    engineTry e (copyWaiter e x.q x.seq) do
      match ← caught (moveBlock x c) with
      | .error (st, rs) => stopCopy x st rs
      | .ok false => wr F.cpeStatus_state e 2
      | .ok true =>
        wr F.cpeStatus_state e 1
        let x ← getDesc x.q x.seq
        match x.copy with
        | some c => if c.len ≤ c.done then closeCopy x c else pure ()
        | none => pure ()
  else pure ()

/-- A running engine goes on, unless its page is out of service. -/
def Dev.engineRuns (d : Dev) (e : Nat) : Bool :=
  d.inService (pg bCPE e) && d.pow.phase == 0 && decide (d.rd F.pwrState_state 0 < 3)

/-- The oldest waiting descriptor of an engine starts, or waits for a journal entry. -/
def startCopy (e : Nat) (x : Desc) (c : Copy) : M Unit := do
  let host := x.cpDstSpace == 1 || c.dstHost == some true
  let j ← if host && c.jrn.isNone then takeJrn x c else pure c.jrn
  if host && j.isNone then
    need (!c.waited)
    bump F.cpeJrnWaits_count 16
    setCopy x.q x.seq { c with waited := true }
  else
    setCopy x.q x.seq { c with running := true, jrn := j }
    wr F.cpeDone_bytes e 0
    syncCopy e

/-- A copy engine starts its oldest waiting descriptor once it is free and a journal entry is at hand; while it runs, it
goes on with the next block (log entry 25). -/
def execCopyEngineStart (e : Fin 16) (s : State) : Host.Outcome State Fault Refusal :=
  transact (do
    let e := e.val
    let d ← dev
    need (d.engineRuns e)
    match d.copyRunning e with
    | some x =>
      let c ← have! x.copy
      need (!c.stopped && decide (c.done < c.len))
      engineBlock e x c
    | none =>
      let x ← have! (d.copyWaiting e).head?
      let c ← have! x.copy
      startCopy e x c) s

/-! ### Dispatch -/

/-- The checks of R427 that concern HOST space and the destination; with LENGTH 0 only the one that needs nothing but the
queue's world (R71). -/
def hostChecks (x : Desc) : M Unit := do
  let d ← dev
  if x.namesHost then
    if x.length ≠ 0 then
      if x.cpDstSpace = 1 then malformedIf (d.rd F.cpeJrn_enable 16 == 0) rOPERAND
      if !bit (d.word .hlkHostq 0 0) (x.q / 16) then failBounds
    if d.queueWorld x.q = 1 then fail sWORLD_VIOLATION rWORLD
    if x.length ≠ 0 ∧ d.rd F.hlkState_state 0 ≠ 1 then fail sHOST_LOST rNONE

/-- Give a checked descriptor to an engine, with its journal entry if it has a host destination. -/
def assignCopy (x : Desc) (len : Nat) (data : Option (List Byte)) : M Unit := do
  let d ← dev
  let world := d.queueWorld x.q
  let kind ← if x.cpDstSpace = 1 then pure true
    else do
      let n := min (max len 1) (4096 - x.cpDst % 4096)
      let segs ← translate (copyWaiter (d.pickEngine false) x.q x.seq) world (d.queueAsid x.q) .wr x.cpDst n
      sideKind world true none segs
  let e := (← dev).pickEngine kind
  let c : Copy := { engine := e, running := false, len := len, done := 0, jrn := none, waited := false, srcHost := none,
                    dstHost := if x.cpDstSpace = 0 then some kind else none, data := data, gos := [],
                    flushing := false, stopped := false }
  let j ← if kind then takeJrn x c else pure none
  if kind && j.isNone then bump F.cpeJrnWaits_count 16
  setCopy x.q x.seq { c with jrn := j, waited := kind && j.isNone }
  syncCopy e

/-- COPY from an address or from its payload. -/
def copyBody (x : Desc) : M Unit := do
  let inline := x.cpSrcSpace == 2
  x.formChecks ([(32, 4, 4), (33, 0, 248)] ++ (if x.cpSrcSpace = 0 then [(16, 52, 12)] else []) ++
    (if inline then [(16, 0, 64)] else []) ++ (if x.cpSrcSpace = 3 then [(16, 10, 54)] else []) ++
    (if x.cpDstSpace = 0 then [(24, 52, 12)] else [])) [] true
  malformedIf ((x.long != inline) || (inline && x.inlineLen != x.length)) rLONG
  let ends := decide (x.cpSrc < x.cpDst + x.length) && decide (x.cpDst < x.cpSrc + x.length)
  malformedIf (decide (2 ^ 40 < x.length) || decide (1 < x.cpDstSpace) || (x.cpSrcSpace == 1 && x.cpDstSpace == 1)) rOPERAND
  if x.cpSrcSpace = 3 ∧ x.length ≠ 0 then
    let ent ← peerEntry x.cpSrc
    malformedIf (!bit ent 0 || !bit ent 1 || bits ent 16 10 != x.q) rOPERAND
  malformedIf (x.cpSrcSpace == 0 && x.cpDstSpace == 0 && ends) rOPERAND
  hostChecks x
  if x.length = 0 then zeroCount x
  else if x.cpSrcSpace = 3 then assignCopy x 0 none
  else assignCopy x x.length (if inline then some (toBytes x.length (x.bytesAt 64 x.length)) else none)

/-- Dispatch of a COPY. -/
def execCopy (q : Fin 1024) (s : State) : Host.Outcome State Fault Refusal :=
  transact (launch q.val (fun raw => opcodeIs 0x30 raw && bits raw 256 2 != 3) copyBody) s

/-- Dispatch of a COPY from an ingest stream. -/
def execCopyIngest (q : Fin 1024) (s : State) : Host.Outcome State Fault Refusal :=
  transact (launch q.val (fun raw => opcodeIs 0x30 raw && bits raw 256 2 == 3) copyBody) s

/-- FILL (R429). -/
def fillBody (x : Desc) : M Unit := do
  x.formChecks ([(32, 0, 2), (32, 4, 4), (33, 0, 248)] ++ (if x.cpDstSpace = 0 then [(16, 52, 12)] else [])) [] false
  malformedIf (decide (1 < x.cpDstSpace)) rOPERAND
  hostChecks x
  if x.length = 0 then zeroCount x
  else assignCopy x x.length none

/-- Dispatch of a FILL. -/
def execFill (q : Fin 1024) (s : State) : Host.Outcome State Fault Refusal :=
  transact (launch q.val (opcodeIs 0x31) fillBody) s

/-! ### Ingest (R406, R407) -/

/-- The header of a delivered batch. -/
def ingestHeader (node : Nat) (b : IngestBatch) : List Byte :=
  toBytes 64 (payloadOf [(0, b.num), (8, b.bytes), (12, node), (16, b.firstSent), (24, b.lastRx)])

/-- The oldest ingest COPY of a stream that has taken no batch. -/
def Dev.ingestFirst (d : Dev) (node : Nat) : Option Desc := d.descs.find? fun x => !x.ended && x.isIngest &&
  x.cpSrc == node && (match x.copy with
    | some c => c.data.isNone && !c.stopped
    | none => false)

/-- A waiting ingest COPY meets the lowest batch of its stream. -/
def takeBatch (x : Desc) (c : Copy) (b : IngestBatch) : M Unit := do
  let n := x.cpSrc
  let p := (← dev).peer n
  let leave (k : Nat) : M Unit := do
    modPeer n fun p => { p with batches := p.batches.drop k }
    settlePort p.port
  if b.state = 1 then
    if 64 + b.bytes ≤ x.length then
      setCopy x.q x.seq { c with len := 64 + b.bytes, data := some (ingestHeader n b ++ b.data) }
      match c.jrn with
      | some i => shortenJrn i (64 + b.bytes)
      | none => pure ()
      progress x.q x.seq 1 0 0
      leave 1
    else stopCopy x sBOUNDS rBOUNDS_ADDR
  else if b.state = 3 then
    leave 1
    stopCopy x sLINK_LOST rNONE
  else
    need (b.state == 2 && b.closed)
    let torn := p.batches.takeWhile fun b => b.state == 2 && b.closed
    progress x.q x.seq ((torn.map fun b => b.count).foldl (· + ·) 0) 0 0
    leave torn.length
    stopCopy x sRUNOUT_GAP rNONE

/-- A waiting ingest COPY takes the lowest batch of its stream once that is complete or torn. -/
def execIngestBatchTake (q : Fin 1024) (seq : BitVec 32) (s : State) : Host.Outcome State Fault Refusal :=
  transact (do
    let x ← getDesc q.val seq.toNat
    let c ← have! x.copy
    need (x.isIngest && !x.ended && c.running && c.data.isNone && !c.stopped)
    let d ← dev
    need (d.engineRuns c.engine)
    need ((d.ingestFirst x.cpSrc).map (fun y => (y.q, y.seq)) == some (x.q, x.seq))
    let b ← have! (d.peer x.cpSrc).batches.head?
    takeBatch x c b) s

/-! ### What comes back from the host (R432, R433, R442) -/

/-- The GO response of the oldest write through a SHARED leaf that is out. -/
def execGoResponse (q : Fin 1024) (seq : BitVec 32) (s : State) : Host.Outcome State Fault Refusal :=
  transact (do
    let x ← getDesc q.val seq.toNat
    let c ← have! x.copy
    need (!x.ended && (← hostReady))
    match c.gos with
    | [] => skip
    | o :: rest =>
      let c : Copy := { c with gos := rest }
      modDev fun d => { d with path := { d.path with out := d.path.out.filter fun w =>
        !(w.cache && w.mark == c.jrn.map fun i => (i, o)) } }
      setCopy x.q x.seq c
      progress x.q x.seq 0 0 (← now)
      match c.jrn with
      | some i => confirmJrn i o
      | none => pure ()
      if c.stopped || decide (c.len ≤ c.done) then closeCopy (← getDesc x.q x.seq) c) s

/-- The read-back of FLUSH returns: it is the final confirmation read as well (R442). -/
def execFlushReadDone (q : Fin 1024) (seq : BitVec 32) (s : State) : Host.Outcome State Fault Refusal :=
  transact (do
    let x ← getDesc q.val seq.toNat
    let c ← have! x.copy
    need (!x.ended && c.flushing && (← hostReady))
    bump F.cpeConfirms_count c.engine
    modDev fun d => d.arrived fun w => !w.cache && w.mark == c.jrn.map fun i => (i, c.done)
    progress x.q x.seq 0 0 (← now)
    match c.jrn with
    | some i => confirmJrn i c.done
    | none => pure ()
    let x ← getDesc x.q x.seq
    setCopy x.q x.seq { c with flushing := false }
    finishCopy x) s

/-- A confirmation read returns: the confirmed offset of its entry rises. -/
def execConfirmReadDone (entry upto : Nat) (s : State) : Host.Outcome State Fault Refusal :=
  transact (do
    let f ← have! ((← dev).confirms.find? fun f => f.entry == entry && f.upto == upto)
    need (← hostReady)
    modDev fun d => { d with confirms := d.confirms.erase f }
    bump F.cpeConfirms_count f.engine
    modDev fun d => d.arrived fun w => !w.cache && w.mark == some (entry, upto)
    confirmJrn entry upto) s

/-! ### CPE_JRN_CTL (R447) -/

/-- A write of CLEAR_SEL or CLEAR_ALL. -/
def journalClear (all : Bool) (w : RegAcc) : M Unit := do
  let d ← dev
  if all then
    each (List.range <| if d.rd F.cpeJrnStat_unconfirmed 16 = 0 then 0 else d.rd F.cpeJrnCfg_entries 16) fun i => do
      if JrnEntry.state (← readJrn i) = 3 then modJrn i fun j => setBits j 336 2 0 else pure ()
  else
    let i := d.rd F.cpeJrnSel_entry 16
    if d.rd F.cpeJrnStat_unconfirmed 16 != 0 && i < d.rd F.cpeJrnCfg_entries 16 && JrnEntry.state (← readJrn i) == 3 then modJrn i fun j => setBits j 336 2 0
    else w.ignore

/-- A write of CPE_JRN_CTL.CLEAR_SEL. -/
def execJournalClearSel (a : Agent) (s : State) : Host.Outcome State Fault Refusal :=
  transact (let w := regAcc .cpeJrnCtl 16 0 1 a
    w.run (journalClear false w)) s

/-- A write of CPE_JRN_CTL.CLEAR_ALL. -/
def execJournalClearAll (a : Agent) (s : State) : Host.Outcome State Fault Refusal :=
  transact (let w := regAcc .cpeJrnCtl 16 0 2 a
    w.run (journalClear true w)) s

end Sys2Proof.Machine
end

