-- ==== Sys2Proof/Machine/Optim.lean ====
section
/-! DEFINITION. OPTIMIZE (R253 to R258): arming and firing, claims, the update of a row, and CUSTOM handlers. -/

namespace Sys2Proof.Machine

/-! ### Hyperparameter records (R234) -/

/-- A hyperparameter record as a number of 64 bytes. -/
abbrev HypRec := Nat

def HypRec.lr (h : HypRec) : F32 := byteField h 0 4
def HypRec.wd (h : HypRec) : F32 := byteField h 4 4
def HypRec.b1 (h : HypRec) : F32 := byteField h 8 4
def HypRec.b2 (h : HypRec) : F32 := byteField h 12 4
def HypRec.eps (h : HypRec) : F32 := byteField h 16 4
def HypRec.gradMul (h : HypRec) : F32 := byteField h 20 4
def HypRec.clip (h : HypRec) : F32 := byteField h 24 4
def HypRec.nesterov (h : HypRec) : Bool := bit h 224
def HypRec.decoupled (h : HypRec) : Bool := bit h 225
def HypRec.bias (h : HypRec) : Bool := bit h 226

/-- Reserved bytes and bits of a record. -/
def HypRec.reserved (h : HypRec) (kind : Nat) : Bool :=
  bits h 227 29 != 0 || (kind != 5 && bits h 256 256 != 0)

/-! ### Firing (R253 to R255) -/

/-- EXPECTED agrees with ARM. -/
def Desc.expectOk (x : Desc) : Bool := if x.opArm then x.opExpected != 0 else x.opExpected == 0

/-- The OPTIMIZE work of a descriptor. -/
def Desc.optimize (x : Desc) : Option Optimize :=
  match x.work with
  | .optimize o => some o
  | _ => none

/-- Set it. -/
def setOpt (x : Desc) (o : Optimize) : M Unit := setWork x.q x.seq (.optimize o)

/-- No work yet. -/
def Optimize.idle : Optimize := ⟨false, false, 0, 0, 0, 0, 0, none, none, Stats.zero⟩

/-- The end of an OPTIMIZE. -/
def endOpt (q seq : Nat) : M Unit := do
  let x ← getDesc q seq
  match x.optimize with
  | some o => endStats q seq x.opResult x.opTable x.table.mseLimit false o.stats
  | none => skip

/-- An OPTIMIZE fires (R254, R255). -/
def fireOptimize (x : Desc) : M Unit := do
  let t ← useTable x.q x.seq x.opTable true
  let t ← useShards x.q x.seq ((← dev).queueWorld x.q) t
  malformedIf (!x.expectOk) rOPERAND
  let (a, b, g) ← readCompanions x.q x.seq t
  let r ← usableURec x.q x.seq x.opTable
  if (← rd F.optHpcnt_count 8) ≤ t.hp then failBounds
  let who ← structWho 8 0 5 (pg bOPT 8) x.q x.seq
  let h : HypRec := fromBytes (← readLocal who (((← rd F.optHpdir_base 8) * 4096 + 64 * t.hp) % 2 ^ 46) 64)
  malformedIf (HypRec.bias h && x.opBiasT == 0) rOPERAND
  malformedIf (HypRec.reserved h t.optKind) rRESERVED_SET
  if x.opResult % 32 ≠ 0 then failBounds
  setTables x.q x.seq (t :: g :: a.toList ++ b.toList)
  setOpt x { Optimize.idle with ready := true, fired := true, mark := URec.tappend r, hp := h, tlist := URec.tlist r,
                                tcap := URec.tcap r }
  bump F.optFired_count 8
  modDev Dev.syncArmed
  countHold x.q x.seq [0, 1]
  if URec.tconsume r = URec.tappend r then attempt (endOpt x.q x.seq)

/-- OPTIMIZE (R255). -/
def optimize (x : Desc) : M Unit := do
  x.formChecks [(18, 1, 7), (19, 0, 8), (32, 52, 12), (40, 0, 192)] [] false
  malformedIf (decide (2 ^ 40 ≤ x.length)) rOPERAND
  if x.length = 0 then
    malformedIf (!x.expectOk) rOPERAND
    zeroCount x
  else if x.opArm then
    dropResident x.opTable
    if (← rd F.optUrec_enable 8) = 1 then
      let r ← readURec x.q x.seq x.opTable
      setOpt x { Optimize.idle with ready := URec.reached r x.opStep x.opExpected }
    else setOpt x Optimize.idle
    modDev Dev.syncArmed
  else
    fireOptimize x
    dropResident x.opTable

/-- Dispatch of an OPTIMIZE. -/
def execOptimize (q : Fin 1024) (s : State) : Host.Outcome State Fault Refusal :=
  transact (launch q.val (opcodeIs 0x22) optimize) s

/-- An armed OPTIMIZE whose units have come fires (R253). -/
def execOptimizeFire (q : Fin 1024) (seq : BitVec 32) (s : State) : Host.Outcome State Fault Refusal :=
  transact (do
    let x ← getDesc q.val seq.toNat
    let o ← have! x.optimize
    need (x.armed && o.ready)
    orEnd x.q x.seq (attemptWork x.q x.seq (fireOptimize x))
    modDev Dev.syncArmed) s

/-! ### The update of a row (R256) -/

/-- Weights, first and second state, and the husk scalar. -/
structure OptVals where
  w : List F32
  v : List F32
  s : List F32
  a : F32
  deriving DecidableEq, Repr

/-- Lane by lane. -/
def zip2 (f : F32 → F32 → F32) (a b : List F32) : List F32 := List.zipWith f a b

/-- The sum of squares under the FP-path runs of R133, as one FP32 value. -/
def sumsq (g : List F32) : F32 :=
  let p := sumRuns 32 (g.map fun x => f32Mul x x)
  f32Add p.1 p.2

/-- An exact power. -/
def Val.powNat (v : Val) (n : Nat) : Val :=
  match v with
  | .nan => .nan
  | .inf s => if n = 0 then .fin false 1 0 else .inf (s && n % 2 == 1)
  | .fin s m e => .fin (s && n % 2 == 1) (m ^ n) (e * (n : Int))

/-- rne32(1 − b^T), rounded once. -/
def biasTerm (b : F32) (t : Nat) : F32 := rne32 ((Val.ofInt 1).add (Val.powNat b.val t).neg)

/-- The gradient after GRAD_MUL, CLIP and folded weight decay. -/
def shapeGrad (h : HypRec) (g w0 : List F32) : List F32 :=
  let g := g.map fun x => f32Mul x (HypRec.gradMul h)
  let g :=
    if f32Lt 0 (HypRec.clip h) then
      let nrm := f32Sqrt (sumsq g)
      if f32Lt (HypRec.clip h) nrm then
        let k := f32Div (HypRec.clip h) nrm
        g.map fun x => f32Mul x k
      else g
    else g
  if HypRec.decoupled h then g else zip2 (fun x w => f32Add x (f32Mul (HypRec.wd h) w)) g w0

/-- The weights after decoupled decay. -/
def decay (h : HypRec) (w w0 : List F32) : List F32 :=
  if HypRec.decoupled h then zip2 (fun x y => f32Sub x (f32Mul (f32Mul (HypRec.lr h) (HypRec.wd h)) y)) w w0 else w

/-- The switch over KIND: new weights, states and scalar. -/
def optKernel (kind : Nat) (h : HypRec) (biasT n : Nat) (g : List F32) (o : OptVals) : OptVals :=
  let lr := HypRec.lr h
  let b1 := HypRec.b1 h
  let b2 := HypRec.b2 h
  if kind = 1 then { o with w := zip2 (fun w g => f32Sub w (f32Mul lr g)) o.w g }
  else if kind = 2 then
    let v := zip2 (fun v g => f32Add (f32Mul b1 v) g) o.v g
    let d := if HypRec.nesterov h then zip2 (fun g v => f32Add g (f32Mul b1 v)) g v else v
    { o with w := zip2 (fun w d => f32Sub w (f32Mul lr d)) o.w d, v := v }
  else if kind = 3 then
    let a := f32Add o.a (f32Div (sumsq g) (f32OfInt (n : Int)))
    let k := f32Div lr (f32Add (f32Sqrt a) (HypRec.eps h))
    { o with w := zip2 (fun w g => f32Sub w (f32Mul k g)) o.w g, a := a }
  else if kind = 4 then
    let m := zip2 (fun m g => f32Add (f32Mul b1 m) (f32Mul (f32Sub f32One b1) g)) o.v g
    let s := zip2 (fun s g => f32Add (f32Mul b2 s) (f32Mul (f32Sub f32One b2) (f32Mul g g))) o.s g
    let c1 := if HypRec.bias h then biasTerm b1 biasT else f32One
    let c2 := if HypRec.bias h then biasTerm b2 biasT else f32One
    let step := zip2 (fun m s => f32Div (f32Div m c1) (f32Add (f32Sqrt (f32Div s c2)) (HypRec.eps h))) m s
    { o with w := zip2 (fun w d => f32Sub w (f32Mul lr d)) o.w step, v := m, s := s }
  else o

/-! ### Row operations of an OPTIMIZE -/

/-- The tables of a fired OPTIMIZE: GSUM, and the states by their place. -/
def Desc.optGsum (x : Desc) : Table := x.tabs.getD 1 ⟨0, 0, 0, []⟩
def Desc.optStates (x : Desc) : List Table := x.tabs.drop 2

/-- The first and second state values of a row: zeros where a state table is absent. -/
def stateVals (t : Table) (states : List (List F32)) : List F32 × List F32 :=
  let zeros := List.replicate t.elems 0
  if t.state1 ≠ 0 then (states.getD 0 zeros, if t.state2 ≠ 0 then states.getD 1 zeros else zeros)
  else (zeros, if t.state2 ≠ 0 then states.getD 0 zeros else zeros)

/-- A row taken for its row operation: its pieces, husk, payload, sum header and lanes, and states. -/
structure OptRow where
  main : List (List Seg)
  sum : List (List Seg)
  states : List (List Seg)
  husk : Nat
  payload : List Byte
  hdr : Nat
  grad : List F32
  vals : List (List F32)

/-- Open a row with its companions (R233, R249). -/
def openOptRow (x : Desc) (r row : Nat) : M OptRow := do
  let d ← dev
  let t := x.table
  let g := x.optGsum
  let w := stageWaiter r x.q x.seq
  let who := optWho r (d.queueWorld x.q) x.q x.seq
  let asid := d.queueAsid x.q
  let main ← openRanges w who asid .at (t.ranges (t.localRow row))
  let sum ← openRanges w who asid .at (g.ranges (g.localRow row))
  let states ← openRanges w who asid .at ((x.optStates.map fun s => s.ranges (s.localRow row)).flatten)
  checkRow who .at (main ++ sum ++ states)
  let (h, p) ← readRow t main
  let (hdr, sp) ← readRow g sum
  let vals ← collect (x.optStates.zip states) fun c => do
    let bs ← groupRead c.2
    return (List.range c.1.elems).map fun i => (fpOf c.1.format).widen (elemAt c.1.format bs i)
  return ⟨main, sum, states, h, p, hdr, (List.range g.elems).map (elemAt fFP32 sp), vals⟩

/-- Clear the sum of a row (R235): a write of its row operation at the LLS bank (R44). -/
def clearSum (x : Desc) (o : OptRow) : M Unit := do
  groupWrite 3 (o.sum.headD []) (toBytes 32 (SumHdr.cleared o.hdr) ++ List.replicate x.optGsum.payload 0)
  progress x.q x.seq 0 0 (← now)

/-- The last lines of R256: re-quantise, write states and SCALAR, clear the sum, set the version. -/
def finishRow (x : Desc) (o : Optimize) (r : Nat) (row : OptRow) (v : OptVals) : M Optimize := do
  let d ← dev
  let t := x.table
  let die := dieOfRegion r
  let e := d.encodeRow die t row.husk t.reqFit v.w
  countEncode die t.elems e
  match e with
  | none =>
    clearSum x row
    raiseFlag x.q x.seq fNONFINITE
    return o
  | some e =>
    let h := ((e.husk row.husk).put 16 4 v.a).changed d.time.et (d.rd F.optSite_site 8)
    writeRow t row.main (h.marked (d.queueWorld x.q)) (packElems t.format e.codes)
    let news := if t.state1 ≠ 0 then [v.v, v.s] else [v.s]
    each ((x.optStates.zip row.states).zip news) fun c =>
      groupWrite 3 c.1.2 (packElems c.1.1.format (convertAll c.1.1.format false c.2).1)
    clearSum x row
    bump F.optRows_count r
    progress x.q x.seq 1 (t.storedBytes + (x.optStates.map fun s => s.payload).foldl (· + ·) 0) d.time.et
    return { o with stats := o.stats.addRow e.errors }

/-- How a row operation of an OPTIMIZE goes on. -/
inductive RowEnd where
  | done (o : Optimize)
  | call (o : Optimize) (c : Call)
  | refused (home : Nat)

/-- The row operation of a claimed row (R256, R257). -/
def optimizeRow (x : Desc) (o : Optimize) (r row : Nat) : M RowEnd := do
  let d ← dev
  let t := x.table
  need (d.stageRuns r && !d.scaleHeld x)
  let k ← openOptRow x r row
  if !SumHdr.pending k.hdr then
    bump F.optDup_count r
    return .done o
  let who := optWho r (d.queueWorld x.q) x.q x.seq
  secureCheck who t k.husk k.main
  issueRow who 3 (k.main ++ k.sum ++ k.states)
  heatRow (d.queueAsid x.q) k.main
  if t.husk != 0 && Husk.frozen k.husk then
    clearSum x k
    bump F.optFrozen_count r
    return .done o
  let bad := k.grad.any fun v => !f32Finite v
  if bad then raiseFlag x.q x.seq fNONFINITE
  if bad && t.nfPolicy = 0 then
    clearSum x k
    bump F.optSkipNf_count r
    return .done o
  let g := if bad && t.nfPolicy = 1 then k.grad.map (fun v => if f32Finite v then v else 0) else k.grad
  let w0 := d.decodeRow (dieOfRegion r) t k.husk 0 k.payload
  let g := shapeGrad o.hp g w0
  let (v, s) := stateVals t k.vals
  if t.optKind = 5 then
    -- the control core of the row's home region runs the handler, under its region's OPT_CUSTOM (R258)
    let home := (oneHome k.main).getD 0
    if (← rdB F.optCustom_ready home) then
      let put (l : List F32) : List Byte := (l.map (toBytes 4)).flatten
      let buffer := put w0 ++ put g ++ put v ++ put s ++ toBytes 4 (Husk.scalar k.husk) ++ toBytes 4 x.opBiasT ++
        toBytes 32 (byteField o.hp 32 32)
      return .call o ⟨d.nextCall, home, x.q, x.seq, row, d.time.et, buffer, (k.main ++ k.sum ++ k.states).flatten.map Seg.at'⟩
    else return .refused home
  else
    let new := optKernel t.optKind o.hp x.opBiasT t.elems g ⟨w0, v, s, Husk.scalar k.husk⟩
    return .done (← finishRow x o r k { new with w := decay o.hp new.w w0 })

/-- A row that keeps its sum is appended to the touched list again (R254). -/
def reappend (x : Desc) (r row : Nat) : M Unit := do
  match ← caught (appendOrWait r x.q x.seq x.opTable row) with
  | .ok _ => pure ()
  | .error _ => captureEngine (pg bOPT 8) kREFUSED 0x108

/-- The stage of the row that an OPTIMIZE has claimed last. -/
def Optimize.stage (o : Optimize) : Nat := stageOf (o.claims - 1)

/-- An OPTIMIZE stops (R78, R253, R254): an armed one at once, a fired one after appending its claimed row again. -/
def stopOptimize (x : Desc) (st rs : Nat) : M Unit := do
  match x.optimize with
  | none => endWith x.q x.seq st rs
  | some o =>
    if !o.fired then
      endWith x.q x.seq st rs
      modDev Dev.syncArmed
    else
      match o.cur with
      | some row => reappend x o.stage row
      | none => pure ()
      modDev fun d => { d with calls := d.calls.filter fun c => !(c.q == x.q && c.seq == x.seq) }.releaseHeld
      modDesc x.q x.seq fun x =>
        { (x.met st rs) with stopping := true, work := .optimize { o with cur := none, call := none } }
      attempt (endOpt x.q x.seq)

/-- A CUSTOM row that no handler returned (R258): it stays PENDING, and the descriptor goes on to complete TIMEOUT. -/
def customFailed (x : Desc) (o : Optimize) (home row : Nat) : M Unit := do
  bump F.optCustomTo_count home
  reappend x o.stage row
  meet x.q x.seq sTIMEOUT rNONE
  setOpt x { o with cur := none, call := none }

/-- Claim the next entry (R254): the row, or none where the entry is skipped. -/
def claimEntry (x : Desc) (o : Optimize) : M (Optimize × Option Nat) := do
  let old ← urecAtomic x.q x.seq x.opTable fun r => URec.put r 24 8 ((URec.tconsume r + 1) % 2 ^ 64)
  let who ← structWho 8 0 5 (pg bOPT 8) x.q x.seq
  let bs ← readLocal who ((o.tlist + 8 * (URec.tconsume old % max o.tcap 1)) % 2 ^ 46) 8
  let row := fromBytes bs % 2 ^ 40
  let o := { o with claims := o.claims + 1 }
  let t := x.table
  let self := (← dev).self
  if t.rows ≤ row || t.home self row != self then
    bump F.optDup_count o.stage
    return (o, none)
  else return (o, some row)

/-- TCONSUME has come to the mark of an OPTIMIZE, or another OPTIMIZE of the table has taken it past (R254). -/
def Optimize.reached (o : Optimize) (r : URec) : Bool :=
  let n := (o.mark + 2 ^ 64 - URec.tconsume r) % 2 ^ 64
  n == 0 || decide (2 ^ 63 ≤ n)

/-- After its last row an OPTIMIZE has reached its last point of coherence: it is not stopped any more (R77), and ends with
its RESULT copy. -/
def finishOpt (q seq : Nat) : M Unit := attempt do
  let x ← getDesc q seq
  let o ← have! x.optimize
  match ← caught (readURec q seq x.opTable) with
  | .error _ => pure ()
  | .ok r =>
    if x.length ≤ x.rows || o.reached r then
      modDesc q seq fun x => { x with stopping := true }
      attempt (endOpt q seq)

/-- The work on a claimed row, kept where it has to wait. -/
def runClaimed (x : Desc) (o : Optimize) (row : Nat) : M Unit := do
  match ← caught (optimizeRow x o o.stage row) with
  | .error (st, rs) => stopOptimize x st rs
  | .ok (.done o) => do
    setOpt x { o with cur := none }
    finishOpt x.q x.seq
  | .ok (.refused home) => customFailed x o home row
  | .ok (.call o c) => do
    modDev fun d => { d with calls := d.calls ++ [c], nextCall := d.nextCall + 1 }
    setOpt x { o with call := some c.id }

/-- The next row of an OPTIMIZE, or its end (R254). -/
def execOptimizeRowUpdate (q : Fin 1024) (seq : BitVec 32) (s : State) : Host.Outcome State Fault Refusal :=
  transact (do
    let x ← getDesc q.val seq.toNat
    let o ← have! x.optimize
    need (!x.ended && o.fired && o.call.isNone)
    match o.cur with
    | some row => runClaimed x o row
    | none =>
      match ← caught (readURec x.q x.seq x.opTable) with
      | .error (st, rs) => if x.stopping then endOpt x.q x.seq else stopOptimize x st rs
      | .ok r =>
      if x.stopping || o.reached r || x.length ≤ x.rows then endOpt x.q x.seq
      else
        match ← caught (claimEntry x o) with
        | .error (st, rs) => stopOptimize x st rs
        | .ok (o, none) => setOpt x o
        | .ok (o, some row) =>
          setOpt x { o with cur := some row }
          attempt (do runClaimed (← getDesc q.val seq.toNat) { o with cur := some row } row)) s

/-- A row is finished with what its CUSTOM handler has returned. -/
def handlerRow (x : Desc) (o : Optimize) (row : Nat) (data : List Byte) : M Optimize := do
  let n := x.table.elems
  let at' (i : Nat) : F32 := fromBytes ((data.drop (4 * i)).take 4)
  let vec (k : Nat) : List F32 := (List.range n).map fun i => at' (k * n + i)
  let k ← openOptRow x o.stage row
  let w0 := (← dev).decodeRow (dieOfRegion o.stage) x.table k.husk 0 k.payload
  finishRow x o o.stage k ⟨decay o.hp (vec 0) w0, vec 1, vec 2, at' (3 * n)⟩

/-- A call is over: its row operation holds the row no longer. -/
def dropCall (id : Nat) : M Unit := modDev fun d => { d with calls := d.calls.filter fun y => y.id != id }.releaseHeld

/-- A CUSTOM handler returns new weights, states and SCALAR (R258). While the row's stage or region is fenced the row
operation is held (R27), and the return is not taken. -/
def execCustomHandlerReturn (r : Fin 8) (call : Nat) (ok : Bool) (data : List Byte) (s : State) :
    Host.Outcome State Fault Refusal :=
  transact (do
    let d ← dev
    let c ← have! (d.calls.find? fun c => c.id == call && c.region == r.val)
    let x ← getDesc c.q c.seq
    let o ← have! x.optimize
    need (ok && data.length == 12 * x.table.elems + 4 && d.stageRuns o.stage && !d.regionFenced c.region)
    dropCall call
    match ← caught (handlerRow x o c.row data) with
    | .error (st, rs) => stopOptimize x st rs
    | .ok o =>
      setOpt x { o with cur := none, call := none }
      finishOpt c.q c.seq) s

/-- A CUSTOM handler does not return within OPT_CUSTOM.LIMIT (R258). -/
def execCustomHandlerTimeout (r : Fin 8) (call : Nat) (s : State) : Host.Outcome State Fault Refusal :=
  transact (do
    let d ← dev
    let c ← have! (d.calls.find? fun c => c.id == call && c.region == r.val)
    let limit := d.rd F.optCustom_limit r.val
    need (limit != 0 && decide (c.et + limit * usTicks ≤ d.time.et))
    let x ← getDesc c.q c.seq
    let o ← have! x.optimize
    dropCall call
    customFailed x o c.region c.row) s

end Sys2Proof.Machine
end

