-- ==== Sys2Proof/Machine/Transport.lean ====
section
/-! DEFINITION. The Tipra transport (R391 to R414): messages handed on and served, frames sent and received, sessions,
timers, losses, and the commands of ports and nodes. -/

namespace Sys2Proof.Machine

/-! ### Messages handed on (R403, R404) -/

/-- Do part of some work, as `attempt` does; whether it was done. -/
def tried (m : M Unit) : M Bool := do
  let t ← get
  tryCatch (do m; return true) fun e =>
    match e with
    | .wait reg => do set t; modDev reg; return false
    | .skip => do set t; return false
    | e => throw e

/-- Access source of a remote access served (R317, R459). -/
def remoteWho (port world : Nat) : Who := ⟨5, port, 3, world, 1024, 0, pg bTXP port, 2⟩

/-- Answer a peer, if it can still be reached. -/
def reply (node kind hdr : Nat) (body : List Byte) : M Unit := do
  if !(← dev).unreachable node then modDev fun d => d.post node kind hdr body else pure ()

/-- Serve a READ_REQ. -/
def serveRead (m : InMsg) : M Unit := do
  let pa := byteField m.hdr 0 7
  let len := byteField m.hdr 8 4
  let tag := byteField m.hdr 12 4
  let who := remoteWho m.port (bits m.hdr 128 1)
  let a := pa % 2 ^ 46
  match ← caught (do
      if pa / 2 ^ 46 ≠ (← dev).self ∨ len = 0 ∨ 16416 < len then failBounds
      localCheck who .rd a len
      readChecked who false a len) with
  | .ok bs => reply m.node 0x19 (payloadOf [(12, tag)]) bs
  | .error (st, _) => reply m.node 0x19 (payloadOf [(12, tag), (16, st)]) []

/-- Serve a WRITE. -/
def serveWrite (m : InMsg) : M Unit := do
  let pa := byteField m.hdr 0 7
  let len := byteField m.hdr 8 4
  let tag := byteField m.hdr 12 4
  let who := remoteWho m.port (bits m.hdr 128 1)
  let a := pa % 2 ^ 46
  match ← caught (do
      if pa / 2 ^ 46 ≠ (← dev).self ∨ len = 0 ∨ 16384 < len ∨ m.body.length ≠ len then failBounds
      localCheck who .wr a len
      writeChecked who a m.body) with
  | .ok _ => reply m.node 0x1B (payloadOf [(12, tag), (24, ← now)]) []
  | .error (st, _) => reply m.node 0x1B (payloadOf [(12, tag), (16, st)]) []

/-- A READ_RESP or WRITE_ACK is written locally: the access it answers goes on at its requester's next attempt. -/
def receiveAnswer (m : InMsg) : M Unit := do
  let tag := byteField m.hdr 12 4
  let st := byteField m.hdr 16 1
  let et ← now
  modDev fun d => { d with remotes := d.remotes.map fun r =>
    if r.tag == tag && r.pa / 2 ^ 46 == m.node && r.answer.isNone && r.write == (m.kind == 0x1B) then
      { r with answer := some (st, m.body, et) } else r }

/-- Take one message. -/
def serve (m : InMsg) : M Unit := do
  if m.kind = 0x10 ∨ m.kind = 0x11 then receiveDelta m
  else if m.kind = 0x12 then serveVisit m.port (Chain.ofMessage m.hdr m.body)
  else if m.kind = 0x13 then
    let c := Chain.ofMessage m.hdr m.body
    match (← dev).awaits c with
    | some x => deliverBag x c
    | none => bump F.mrgReplyDiscard_count 8
  else if m.kind = 0x14 then bagFailed (Chain.ofMessage m.hdr []) (byteField m.hdr 29 1)
  else if m.kind = 0x15 then receiveRefuse m
  else if m.kind = 0x18 then serveRead m
  else if m.kind = 0x1A then serveWrite m
  else receiveAnswer m

/-- A message waits behind an earlier one of its node: a delta behind any other, and a READ_REQ or WRITE behind one whose
range overlaps its own (R404). -/
def InMsg.follows (m k : InMsg) : Bool :=
  let delta (x : InMsg) : Bool := x.kind == 0x10 || x.kind == 0x11
  let sided (x : InMsg) : Bool := x.kind == 0x18 || x.kind == 0x1A
  let pa (x : InMsg) : Nat := byteField x.hdr 0 7
  let len (x : InMsg) : Nat := byteField x.hdr 8 4
  m.node == k.node && ((delta m && delta k) ||
    (sided m && sided k && decide (pa m < pa k + len k) && decide (pa k < pa m + len m)))

/-- Take what can be taken of a list of messages, in order; the rest. -/
def serveAll (held : List InMsg) : List InMsg → M (List InMsg)
  | [] => return []
  | m :: ms => do
    -- the port of a fenced region holds what it has received (R27)
    let blocked := (← dev).regionFenced m.port || held.any m.follows
    let done ← if blocked then pure false
      else tried do
        match ← caught (serve m) with
        | .ok _ => pure ()
        | .error _ => pure ()
    if done then serveAll held ms
    else
      let rest ← serveAll (m :: held) ms
      return m :: rest

/-- Take every message that can be taken now. -/
def pump : M Unit := do
  let ms := (← dev).inbox
  modDev fun d => { d with inbox := [] }
  let rest ← serveAll [] ms
  modDev fun d => { d with inbox := rest ++ d.inbox }
  each (List.range 8) settlePort

/-! ### Losses (R292, R412, R413) -/

/-- Ingest COPYs of a stream that wait for a batch. -/
def Dev.ingestWaiting (d : Dev) (n : Nat) : Nat := (d.descs.filter fun x => !x.ended && x.isIngest && x.cpSrc == n &&
  (match x.copy with
   | some c => c.data.isNone && !c.stopped
   | none => false)).length

/-- COPYs that the batches before the one in progress serve: torn ones that follow each other serve one. -/
def groupsBefore : List IngestBatch → Bool → Nat
  | [], _ => 0
  | b :: bs, torn =>
    if b.state = 0 then 0
    else if b.state = 2 then (if torn then 0 else 1) + groupsBefore bs true
    else 1 + groupsBefore bs false

/-- The records of a lost peer go to the spill ring in sequence order, as far as it has room; the rest are owed (R291). -/
def spillAll (n : Nat) (us : List Delta) : M Unit := do
  modPeer n fun x => { x with unapplied := [], owed := x.owed ++ us }
  each us fun u => usersLost u.users
  let _ ← tried do
    match ← caught (spillOwed n ((← dev).peer n).owed) with
    | .ok _ => pure ()
    | .error _ => skip
  pure ()

/-- Messages that wait for a lost node. -/
def dropMessage (m : OutMsg) : M Unit := do
  if m.kind = 0x12 then failVisit (Chain.ofMessage m.hdr m.body) sLINK_LOST m.node
  else if m.kind = 0x13 ∨ m.kind = 0x14 then bump F.mrgReplyDiscard_count 8
  else usersLost m.users

/-- An armed OPTIMIZE whose table's shard list names a lost node ends (R292). The table is read at the loss. -/
def optimizeLost (n : Nat) : M Unit := do
  each ((← dev).descs.filter fun x => x.armed && x.opArm) fun x => do
    let d ← dev
    let now' ← caught (do
      let t ← readTable x.q x.seq x.opTable true
      readShards x.q x.seq (d.queueWorld x.q) t)
    let t := match now' with
      | .ok t => t
      | .error _ => x.table
    if t.form != 0 && (t.nodes d.self).contains n then stopOptimize x sLINK_LOST rNONE else pure ()

/-- The loss of a peer, with its reason (R514). -/
def losePeer (n reason : Nat) : M Unit := do
  let before ← dev
  let x := before.peer n
  if !x.session' then pure ()
  else
    let p := x.port
    bump F.txpLosses_count 8
    raise (pg bTXP p) 0
    record 0x702 3 (pg bTXP p) (payloadOf [(0, n), (2, p), (3, reason)])
    closeTear n true
    let waits := decide (groupsBefore x.batches false < (← dev).ingestWaiting n)
    modPeer n fun x => { x with
      state := nLOST, lastSession := x.session, retained := [], kept := [], parts := [], nakEt := none, unackedEt := none,
      tear := none,
      batches := x.batches.filterMap fun b =>
        if b.state = 0 then (if waits then some { b with state := 3, data := [], charge := 0 } else none) else some b }
    let d ← dev
    let out := d.outbox.filter fun m => m.node == n
    modDev fun d => { d with outbox := d.outbox.filter (fun m => m.node != n), remotes := d.remotes.map fun r =>
      if r.pa / 2 ^ 46 == n && r.answer.isNone then { r with answer := some (sLINK_LOST, [], d.time.et) } else r }
    spillAll n x.unapplied
    each out dropMessage
    each ((out.map fun m => m.users).flatten.eraseDups) fun u => scatterCheck u.1 u.2
    exchangeLost before n
    optimizeLost n
    modDev Dev.syncPeer
    releaseItems
    syncRetain p
    settlePort p

/-! ### Sessions (R393) -/

/-- A new session: both flows start at sequence 0. -/
def Peer.fresh (x : Peer) (window et : Nat) : Peer :=
  { x with state := nUP, nextSeq := 0, retained := [], sentUnits := 0, limit := window, acked := 0, rtt := 0, rtoEt := et,
           retries := 0, expect := 0, seen := 0, kept := [], parts := [], rxUnits := 0, granted := window,
           live := .none, tear := .none, unackedEt := .none, nakEt := .none, lastTxEt := et, lastRxEt := et, met := true }

/-- A session begins: the node is UP, and records that it has applied are no longer kept. -/
def sessionBegins (n applied : Nat) : M Unit := do
  let d ← dev
  let p := (d.peer n).port
  modPeer n fun x => x.fresh (d.window p) d.time.et
  bump F.txpAttaches_count 8
  raise (pg bTXP p) 0
  raise (pg bTXP 8) 0
  let x := (← dev).peer n
  record 0x705 2 (pg bTXP p) (payloadOf [(0, n), (2, p), (4, x.session), (6, x.peerSession)])
  modDev Dev.syncPeer
  dropApplied n applied

/-- A node becomes UP. Records that it has not applied are sent again. -/
def peerUp (n applied : Nat) : M Unit := do
  sessionBegins n applied
  if (← dev).rmtOn then
    if (← rmtRead n 8) < applied then rmtWrite n 8 applied
    sendOwed n

/-- A new session number: not zero, and not the last one (R393). The engine chooses it; nothing is said of how. -/
def newSession (last : Nat) : M Nat := do
  let v ← freeValue 16
  return if v = 0 ∨ v = last then last % 65535 + 1 else v

/-! ### Received frames (R391) -/

/-- KIND is a control frame. -/
def isControl (kind : Nat) : Bool := decide (kind < 0x10)

/-- The body length agrees with KIND. -/
def bodyAgrees (kind : Nat) (f : Frame) : Bool :=
  let n := f.body.length
  if kind = 0x01 then n == 8
  else if kind = 0x02 then
    let c := (f.body.headD 0).toNat
    decide (1 ≤ c) && decide (c ≤ 16) && n == 8 + 8 * c
  else if kind = 0x03 then n == 0
  else if kind = 0x04 ∨ kind = 0x05 then n == 16
  else if kind = 0x06 then decide (1 ≤ n)
  else if kind = 0x11 ∨ kind = 0x14 ∨ kind = 0x15 ∨ kind = 0x18 ∨ kind = 0x1B then n == 0
  else decide (n ≤ 8192)

/-- The link of a port carries frames. -/
def Dev.linkUp (d : Dev) (p : Nat) : Bool := d.rd F.txpState_state p == pNO_KEY || d.rd F.txpState_state p == pUP

/-- Checks 7 to 11 of R391, and that a receive association is installed (check 2). -/
def frameOk (p kind : Nat) (f : Frame) : M Bool := do
  let d ← dev
  let n := f.src.toNat
  if d.rd F.txpMacsec_rx_valid p = 0 ∨ f.dst.toNat ≠ d.self then return false
  let ent ← peerEntry n
  if !bit ent 0 || bits ent 2 3 != p then return false
  let x := d.peer n
  if kind = 0x04 then return bodyAgrees kind f
  else if kind = 0x05 then
    return f.peerSession.toNat == x.session && x.session != 0 && bodyAgrees kind f
  else
    return x.session' && f.session.toNat == x.peerSession && f.peerSession.toNat == x.session && bodyAgrees kind f

/-- Acknowledgement and credit that a header carries (R395, R396, R399). -/
def takeHeader (n : Nat) (f : Frame) : M Unit := do
  let d ← dev
  let x := d.peer n
  let a := f.ack.toNat
  let new := diff32 a x.acked
  if new ≠ 0 ∧ new ≤ diff32 x.nextSeq x.acked then
    let below (s : Nat) : Bool := decide (0 < diff32 a s) && decide (diff32 a s < 2 ^ 31)
    let covered := x.retained.filter fun t => below t.seq && !(decide (0 < diff32 x.acked t.seq) && decide (diff32 x.acked t.seq < 2 ^ 31))
    let rtt := match covered.getLast? with
      | some t => d.time.et - t.sentEt
      | none => x.rtt
    modPeer n fun x => { x with
      acked := a, retries := 0, rtoEt := d.time.et, rtt := rtt,
      retained := x.retained.filter fun t => !below t.seq || (t.bseq != 0 && x.unapplied.any fun u => u.bseq == t.bseq) }
    syncRetain x.port
  if diff32 f.limit.toNat x.limit < 2 ^ 31 then modPeer n fun x => { x with limit := f.limit.toNat }

/-- The one-way delay of an in-sequence frame (R410). -/
def measureDelay (p n sent : Nat) : M Unit := do
  let d ← dev
  if d.rd F.txpOwdCfg_node p = n ∧ d.rd F.timState_state 0 = 2 ∧ sent < d.time.et then
    let delay := d.time.et - sent
    let h := d.ph p
    let h : PortHidden := { h with owdCount := h.owdCount + 1, owdSum := h.owdSum + delay,
                                   owdMin := if h.owdCount = 0 then delay else min h.owdMin delay,
                                   owdMax := max h.owdMax delay }
    if 2 ^ d.rd F.txpOwdCfg_log_win p ≤ h.owdCount then
      wr F.txpOwdMin_ticks p (min h.owdMin (2 ^ 32 - 1))
      wr F.txpOwdMean_ticks p (min (h.owdSum / h.owdCount) (2 ^ 32 - 1))
      wr F.txpOwdMax_ticks p (min h.owdMax (2 ^ 32 - 1))
      modDev fun d => d.setPh p { h with owdCount := 0, owdSum := 0, owdMin := 0, owdMax := 0 }
    else modDev fun d => d.setPh p h

/-- A sequence becomes known to exist. -/
def Peer.see (x : Peer) (next : Nat) : Peer :=
  if diff32 next x.seen < 2 ^ 31 then { x with seen := next } else x

/-- A control frame that is in sequence moves the watermark (R394). -/
def controlMark (p n : Nat) (f : Frame) : M Unit := do
  let x := (← dev).peer n
  modPeer n fun x => x.see f.seq.toNat
  if f.seq.toNat = x.expect then
    modPeer n fun x => { x with mark := f.sentEt.toNat }
    measureDelay p n f.sentEt.toNat

/-! ### Data frames in sequence (R394, R401, R405) -/

/-- Batches whose numbers were passed over stand as one torn entry. -/
def passedOver (last : Option Nat) (num : Nat) : List IngestBatch :=
  match last with
  | some l => if l + 1 < num then [⟨l + 1, num - l - 1, 0, [], 0, 0, 2, true, 0⟩] else []
  | none => []

/-- Change the newest batch of a stream. -/
def lastBatchMod (f : IngestBatch → IngestBatch) (l : List IngestBatch) : List IngestBatch :=
  match l.reverse with
  | [] => []
  | b :: bs => (f b :: bs).reverse

/-- A frame of an ingest stream, in sequence. -/
def Peer.ingest (x : Peer) (f : RxFrame) : Peer :=
  let torn (b : IngestBatch) : IngestBatch :=
    if b.state = 0 then { b with state := 2, data := [], closed := x.tear.isNone } else b
  if f.kind = 0 then { x with batches := lastBatchMod torn x.batches }
  else
    let x := if !f.start then x else
      let num := byteField f.hdr 0 8
      let size := byteField f.hdr 8 4
      let ok := (match x.lastBatch with
        | some l => decide (l < num)
        | .none => true) && decide (2 ^ 20 ≤ size) && decide (size ≤ 60 * 2 ^ 20)
      let b : IngestBatch := { num := num, count := 1, bytes := size, data := [], firstSent := f.sentEt, lastRx := 0,
                               state := if ok then 0 else 2, closed := true, charge := 0 }
      { x with batches := lastBatchMod torn x.batches ++ passedOver x.lastBatch num ++ [b],
               lastBatch := some (max num (x.lastBatch.getD 0)) }
    let add (b : IngestBatch) : IngestBatch :=
      let b : IngestBatch := { b with data := if b.state = 0 then b.data ++ f.body else b.data,
                                      charge := b.charge + chargeOf f.body.length, lastRx := f.rxEt }
      if f.last && b.state == 0 then
        (if b.data.length = b.bytes then { b with state := 1 } else { b with state := 2, data := [], closed := true })
      else b
    { x with batches := lastBatchMod add x.batches }

/-- The next frame of a flow in sequence: its message is handed on with its last frame. -/
def takeFrame (p n : Nat) (f : RxFrame) : M Unit := do
  modPeer n fun x => { x with expect := wrap32 (x.expect + 1), mark := f.sentEt }
  if f.kind = 0x20 ∨ f.kind = 0 then modPeer n fun x => x.ingest f
  else
    let x := (← dev).peer n
    let parts := (if f.start then [] else x.parts) ++ [f]
    if f.last then
      modPeer n fun x => { x with parts := [] }
      match parts with
      | [] => pure ()
      | g :: _ =>
        let m : InMsg := { port := p, node := n, kind := g.kind, hdr := g.hdr,
                           body := (parts.map fun f => f.body).flatten,
                           charge := (parts.map fun f => chargeOf f.body.length).foldl (· + ·) 0,
                           firstSent := g.sentEt, lastRx := f.rxEt }
        modDev fun d => { d with inbox := d.inbox ++ [m] }
    else modPeer n fun x => { x with parts := parts }

/-- Take every frame that is in sequence now. -/
def advanceFlow (p n : Nat) : M Unit := do
  repeatM 65536 do
    let x := (← dev).peer n
    match x.kept with
    | [] => return false
    | f :: rest =>
      if f.seq = x.expect then
        modPeer n fun x => { x with kept := rest }
        takeFrame p n f
        return true
      else return false

/-- Put a frame among those held, by sequence. -/
def insertFrame (expect : Nat) (f : RxFrame) : List RxFrame → List RxFrame
  | [] => [f]
  | g :: gs => if diff32 f.seq expect < diff32 g.seq expect then f :: g :: gs else g :: insertFrame expect f gs

/-- Discard a frame at or past a tear line (R400, R401). A LIVE flow acknowledges it as if received. -/
def tearFrame (p n : Nat) (f : Frame) (charge : Nat) : M Unit := do
  let et ← now
  let x := (← dev).peer n
  let s := f.seq.toNat
  let t : Tear := match x.tear with
    | some t => { t with last := s, frames := t.frames + 1, bytes := t.bytes + charge, lastEt := et }
    | none => ⟨s, s, 1, charge, et⟩
  modPeer n fun x => { x with tear := some t }
  if x.live == some true then
    let g : RxFrame := ⟨s, 0, f.start, f.last, 0, [], f.sentEt.toNat, et⟩
    modPeer n fun x => { x with kept := insertFrame x.expect g x.kept, rxUnits := wrap32 (x.rxUnits + charge / 64) }
    advanceFlow p n

/-- A data frame of a flow (R394 to R401). -/
def receiveData (p kind : Nat) (f : Frame) : M Unit := do
  let n := f.src.toNat
  let d ← dev
  let x := d.peer n
  let s := f.seq.toNat
  let ahead := diff32 s x.expect
  let discard : M Unit := bump F.txpRxDiscard_count p
  if (x.live.getD f.live) != f.live || (kind == 0x20) != (x.cls == 1) || (f.live && x.cls == 0) then discard
  else if 2 ^ 31 ≤ ahead || x.kept.any (fun g => g.seq == s) then discard
  else
    modPeer n fun x => { (x.see (wrap32 (s + 1))) with live := some f.live, unackedEt := some (x.unackedEt.getD d.time.et) }
    let charge := chargeOf f.body.length
    let units := charge / 64
    if 2 ^ 31 ≤ diff32 x.granted (wrap32 (x.rxUnits + units)) then bump F.txpCreditViol_count p
    if ahead = 0 then measureDelay p n f.sentEt.toNat
    let occ := d.occupancy p
    let closes := x.tear.isSome && f.live && kind == 0x20 && f.start && decide (occ ≤ d.rd F.txpMarks_low_mark p * 2 ^ 20)
    if closes then closeTear n false
    let past := match x.tear with
      | some t => !closes && decide (diff32 s t.first < 2 ^ 31)
      | none => false
    if past || decide (runoutBytes < occ + charge) then tearFrame p n f charge
    else
      modDev fun d => d.capoCount (capoKey p 3 3) charge  -- both directions count (R317)
      tap 5 p 7 0 1024 0 f.body.length (n + kind * 2 ^ 16 + s * 2 ^ 32)
      let g : RxFrame := ⟨s, kind, f.start, f.last, f.hdr.toNat, f.body, f.sentEt.toNat, d.time.et⟩
      modPeer n fun x => { x with kept := insertFrame x.expect g x.kept, rxUnits := wrap32 (x.rxUnits + units) }
      advanceFlow p n
      let x := (← dev).peer n
      if x.missing.isEmpty then modPeer n fun x => { x with nakEt := none }
      else if x.nakEt.isNone && !x.kept.isEmpty then sendNak n
    settlePort p

/-! ### Control frames -/

/-- Send a retained frame again. -/
def resend (n : Nat) (t : TxFrame) : M Unit := do
  let x := (← dev).peer n
  if !(← dev).portRuns x.port then return
  bump F.txpRetx_count x.port
  sendFrame n t.kind t.start t.last true t.seq t.hdr t.body
  let et ← now
  modPeer n fun x => { x with retained := x.retained.map fun u => if u.seq = t.seq then { u with sentEt := et } else u }

/-- A NAK: each named range once. -/
def receiveNak (n : Nat) (body : List Byte) : M Unit := do
  let c := (body.headD 0).toNat
  each (List.range c) fun i => do
    let r := fromBytes ((body.drop (8 + 8 * i)).take 8)
    let lo := r % 2 ^ 32
    let hi := r / 2 ^ 32
    each (((← dev).peer n).retained.filter fun t => decide (diff32 t.seq lo ≤ diff32 hi lo)) (resend n)

/-- A HELLO (R393). A node that is neither CONNECTING nor UP leaves it unanswered. As a control frame it moves the watermark
where it is in sequence: a new session's first frame has sequence 0 (R286, R394). -/
def receiveHello (p n : Nat) (f : Frame) : M Unit := do
  let x := (← dev).peer n
  if x.state = nUP ∧ f.session.toNat ≠ x.peerSession then losePeer n 4
  else if x.state = nCONNECTING ∧ x.session ≠ 0 ∨ x.state = nUP then
    let et ← now
    modPeer n fun x => { x with peerSession := f.session.toNat, lastRxEt := et }
    if x.state = nUP then controlMark p n f
    else modPeer n fun x => { x with mark := if f.seq.toNat = 0 then f.sentEt.toNat else x.mark }
    sendHello n 0x05

/-- A HELLO_ACK that answers our session. -/
def receiveHelloAck (n : Nat) (f : Frame) : M Unit := do
  let x := (← dev).peer n
  if x.state = nCONNECTING then
    modPeer n fun x => { x with
      peerSession := f.session.toNat, mark := if f.seq.toNat = 0 then f.sentEt.toNat else x.mark }
    peerUp n (byteField (fromBytes f.body) 8 8)

/-- A frame that passes its checks: its header, its effect, and what messages can then be taken. -/
def acceptFrame (p kind : Nat) (f : Frame) : M Unit := do
  let n := f.src.toNat
  let et ← now
  if et ≤ f.sentEt.toNat then bump F.txpStampBad_count p
  if kind = 0x04 then receiveHello p n f
  else if kind = 0x05 then receiveHelloAck n f
  else
    modPeer n fun x => { x with lastRxEt := et }
    takeHeader n f
    if kind = 0x06 then losePeer n 3
    else if isControl kind then
      controlMark p n f
      if kind = 0x01 then dropApplied n (fromBytes f.body)
      else if kind = 0x02 then receiveNak n f.body
    else receiveData p kind f
    releaseItems
    pump

/-- A received Tipra frame of a KIND: it is counted, and checked. -/
def receiveFrame (p kind : Nat) (f : Frame) : M Unit := do
  need ((← dev).linkUp p)
  bump F.txpRxBytes_count p (frameBytes f.start f.body.length)
  if !(← frameOk p kind f) then bump F.txpRxDiscard_count p
  else acceptFrame p kind f

/-- A received ACK. -/
def execAck (p : Fin 8) (f : Frame) (s : State) : Host.Outcome State Fault Refusal :=
  transact (receiveFrame p.val 0x01 f) s

/-- A received NAK. -/
def execNak (p : Fin 8) (f : Frame) (s : State) : Host.Outcome State Fault Refusal :=
  transact (receiveFrame p.val 0x02 f) s

/-- A received IDLE. -/
def execIdle (p : Fin 8) (f : Frame) (s : State) : Host.Outcome State Fault Refusal :=
  transact (receiveFrame p.val 0x03 f) s

/-- A received HELLO. -/
def execHello (p : Fin 8) (f : Frame) (s : State) : Host.Outcome State Fault Refusal :=
  transact (receiveFrame p.val 0x04 f) s

/-- A received HELLO_ACK. -/
def execHelloAck (p : Fin 8) (f : Frame) (s : State) : Host.Outcome State Fault Refusal :=
  transact (receiveFrame p.val 0x05 f) s

/-- A received BYE. -/
def execBye (p : Fin 8) (f : Frame) (s : State) : Host.Outcome State Fault Refusal :=
  transact (receiveFrame p.val 0x06 f) s

/-- A received frame of a BATCH. -/
def execBatch (p : Fin 8) (f : Frame) (s : State) : Host.Outcome State Fault Refusal :=
  transact (receiveFrame p.val 0x10 f) s

/-- A received UNIT. -/
def execUnit (p : Fin 8) (f : Frame) (s : State) : Host.Outcome State Fault Refusal :=
  transact (receiveFrame p.val 0x11 f) s

/-- A received frame of a CHAIN. -/
def execChain (p : Fin 8) (f : Frame) (s : State) : Host.Outcome State Fault Refusal :=
  transact (receiveFrame p.val 0x12 f) s

/-- A received frame of a CHAIN_DONE. -/
def execChainDone (p : Fin 8) (f : Frame) (s : State) : Host.Outcome State Fault Refusal :=
  transact (receiveFrame p.val 0x13 f) s

/-- A received CHAIN_FAIL. -/
def execChainFail (p : Fin 8) (f : Frame) (s : State) : Host.Outcome State Fault Refusal :=
  transact (receiveFrame p.val 0x14 f) s

/-- A received REFUSE. -/
def execRefuse (p : Fin 8) (f : Frame) (s : State) : Host.Outcome State Fault Refusal :=
  transact (receiveFrame p.val 0x15 f) s

/-- A received READ_REQ. -/
def execReadReq (p : Fin 8) (f : Frame) (s : State) : Host.Outcome State Fault Refusal :=
  transact (receiveFrame p.val 0x18 f) s

/-- A received frame of a READ_RESP. -/
def execReadResp (p : Fin 8) (f : Frame) (s : State) : Host.Outcome State Fault Refusal :=
  transact (receiveFrame p.val 0x19 f) s

/-- A received frame of a WRITE. -/
def execWrite (p : Fin 8) (f : Frame) (s : State) : Host.Outcome State Fault Refusal :=
  transact (receiveFrame p.val 0x1A f) s

/-- A received WRITE_ACK. -/
def execWriteAck (p : Fin 8) (f : Frame) (s : State) : Host.Outcome State Fault Refusal :=
  transact (receiveFrame p.val 0x1B f) s

/-- A received frame of an INGEST. -/
def execIngest (p : Fin 8) (f : Frame) (s : State) : Host.Outcome State Fault Refusal :=
  transact (receiveFrame p.val 0x20 f) s

/-- A received frame that fails a check before its KIND is known. FEC codewords corrected and not corrected since the last such
frame count with it (log entry 160). -/
def execFrameCheckFail (p : Fin 8) (bytes : Nat) (s : State) : Host.Outcome State Fault Refusal :=
  transact (do
    need ((← dev).linkUp p.val)
    bump F.txpRxBytes_count p.val bytes
    bump F.txpRxDiscard_count p.val
    countOpen [(F.txpFecCorr_count, p.val), (F.txpFecUncorr_count, p.val)]) s

/-- A received PAUSE frame is discarded and counted (R384). Its length is 64 bytes. -/
def execPauseFrame (p : Fin 8) (s : State) : Host.Outcome State Fault Refusal :=
  transact (do
    need ((← dev).linkUp p.val)
    bump F.txpRxBytes_count p.val 64
    bump F.txpPauseRx_count p.val) s

/-- A received EAPOL frame passes to firmware (R386). -/
def execEapolFrame (p : Fin 8) (body : List Byte) (s : State) : Host.Outcome State Fault Refusal :=
  transact (do
    need ((← dev).linkUp p.val)
    bump F.txpRxBytes_count p.val (18 + body.length)
    modDev fun d => { d with eapol := (p.val, body) :: d.eapol }) s

/-! ### Data frames sent (R397 to R399) -/

/-- Capo class of a requester (R317, R551). -/
def Requester.capoClass (r : Requester) : Nat :=
  match r with
  | .cluster _ => 0
  | .stage _ => 1
  | .copy _ => 2
  | .dispatch => 5

/-- Capo class of a message at its port (R317; log entry 26): batches and unit records come from drains, and a READ_REQ or WRITE
from the requester that waits for it. -/
def Dev.sendClass (d : Dev) (m : OutMsg) : Nat :=
  if m.kind = 0x10 ∨ m.kind = 0x11 then 1
  else if m.kind = 0x18 ∨ m.kind = 0x1A then
    match d.remotes.find? fun r => r.tag == byteField m.hdr 12 4 with
    | some r => r.w.rq.capoClass
    | none => 3
  else 3

/-- The next data frame of a message is sent and kept. -/
def sendData (p : Nat) (m : OutMsg) : M Unit := do
  let d ← dev
  let x := d.peer m.node
  let body := (m.body.drop m.sent).take 8192
  let charge := chargeOf body.length
  capoIssue (remoteWho p 0) p 3 (d.sendClass m) charge
  let last := decide (m.body.length ≤ m.sent + body.length)
  sendFrame m.node m.kind (!m.begun) last false x.nextSeq (if m.begun then 0 else m.hdr) body
  tap 5 p 6 0 1024 0 body.length (m.node + m.kind * 2 ^ 16 + x.nextSeq * 2 ^ 32)
  let t : TxFrame := { seq := x.nextSeq, kind := m.kind, start := !m.begun, last := last,
                       hdr := if m.begun then 0 else m.hdr, body := body, bseq := m.bseq, tag := 0, sentEt := d.time.et }
  modPeer m.node fun x => { x with
    nextSeq := wrap32 (x.nextSeq + 1), sentUnits := wrap32 (x.sentUnits + charge / 64), retained := x.retained ++ [t],
    rtoEt := if x.acked = x.nextSeq then d.time.et else x.rtoEt }
  modDev fun d => { d with outbox :=
    (if last then d.outbox.erase m
     else d.outbox.map (fun k => if k == m then { k with sent := k.sent + body.length, begun := true } else k)) }
  syncRetain p
  if last then
    each m.users fun u => do
      progress u.1 u.2 0 0 d.time.et
      scatterCheck u.1 u.2

/-- A port sends the next data frame of the oldest message that credit and retain space allow, and keeps it. With a
message's last frame the results that its departure commits are committed (R44). -/
def execDataFrameSend (p : Fin 8) (s : State) : Host.Outcome State Fault Refusal :=
  transact (do
    let p := p.val
    let d ← dev
    need (d.portRuns p)
    let m ← have! (d.outbox.find? fun m => d.sendable p m &&
      decide (d.retainUsed p + chargeOf (min 8192 (m.body.length - m.sent)) ≤ d.rd F.txpRetainCfg_size p * 2 ^ 20))
    sendData p m) s

/-! ### Timers -/

/-- A node in session on a port that runs. -/
def sessionOf (n : Nat) : M Peer := do
  let d ← dev
  let x := d.peer n
  need (x.session' && d.portRuns x.port)
  return x

/-- A field of a port's timers in ticks. -/
def portTicks (f : Fld) (p unit : Nat) : M Nat := do return (← rd f p) * unit

/-- ACK_US have passed with a frame unacknowledged. -/
def execAckTimer (n : BitVec 10) (s : State) : Host.Outcome State Fault Refusal :=
  transact (do
    let n := n.toNat
    let x ← sessionOf n
    let t ← have! x.unackedEt
    need (decide (t + (← portTicks F.txpTimers_ack_us x.port usTicks) ≤ (← now)))
    sendAck n) s

/-- No frame has been sent to a node for IDLE_US. -/
def execIdleTimer (n : BitVec 10) (s : State) : Host.Outcome State Fault Refusal :=
  transact (do
    let n := n.toNat
    let x ← sessionOf n
    need (x.state == nUP && decide (x.lastTxEt + (← portTicks F.txpTimers_idle_us x.port usTicks) ≤ (← now)))
    sendControl n 0x03 []) s

/-- RTO_MIN has passed with ranges missing. -/
def execNakRepeatTimer (n : BitVec 10) (s : State) : Host.Outcome State Fault Refusal :=
  transact (do
    let n := n.toNat
    let x ← sessionOf n
    let t ← have! x.nakEt
    need (!x.missing.isEmpty && decide (t + (← portTicks F.txpRetxCfg_rto_min x.port usTicks) ≤ (← now)))
    sendNak n) s

/-- No acknowledgement has advanced for an RTO (R396). -/
def execRtoExpiry (n : BitVec 10) (s : State) : Host.Outcome State Fault Refusal :=
  transact (do
    let n := n.toNat
    let x ← sessionOf n
    let et ← now
    let rto := max (← portTicks F.txpRetxCfg_rto_min x.port usTicks) (2 * x.rtt)
    need (x.acked != x.nextSeq && decide (x.rtoEt + rto ≤ et))
    if (← rd F.txpRetxCfg_retry_max x.port) ≤ x.retries + 1 then losePeer n 2
    else
      modPeer n fun x => { x with retries := x.retries + 1, rtoEt := et }
      match x.retained.find? fun t => decide (diff32 t.seq x.acked < 2 ^ 31) with
      | some t => resend n t
      | none => pure ()) s

/-- A CONNECTING node sends HELLO, at once and then every 1 ms (R393). -/
def execHelloTimer (n : BitVec 10) (s : State) : Host.Outcome State Fault Refusal :=
  transact (do
    let n := n.toNat
    let d ← dev
    let x := d.peer n
    need (x.state == nCONNECTING && d.portRuns x.port)
    need (x.session == 0 || decide (x.helloEt + msTicks ≤ d.time.et))
    if x.session = 0 then
      let v ← newSession x.lastSession
      modPeer n fun x => { x with session := v }
      modDev Dev.syncPeer
    modPeer n fun x => { x with helloEt := d.time.et }
    sendHello n 0x04) s

/-- No valid frame for PEER_MS. -/
def execPeerSilenceTimeout (n : BitVec 10) (s : State) : Host.Outcome State Fault Refusal :=
  transact (do
    let x ← sessionOf n.toNat
    need (decide (x.lastRxEt + (← portTicks F.txpTimers_peer_ms x.port msTicks) ≤ (← now)))
    losePeer n.toNat 1) s

/-- Every node in session on a port is lost. -/
def losePort (p : Nat) : M Unit := do
  each ((← dev).peersOn p) fun e => losePeer e.1 0

/-- A port has not been UP for PORT_MS (R411, R412). A port that is DOWN leaves that state (R418). -/
def execPortDownTimeout (p : Fin 8) (s : State) : Host.Outcome State Fault Refusal :=
  transact (do
    let p := p.val
    let d ← dev
    let t ← have! (d.ph p).down
    need (!d.portRuns p && decide (t + d.rd F.txpTimers_port_ms p * msTicks ≤ d.time.et))
    if d.rd F.txpState_state p = pDOWN then
      setPortState p (if d.rd F.txpModule_present p = 1 then pTRAINING else pNO_MODULE)
    losePort p) s

/-- A DETACH ends: everything has been applied-acknowledged, or PEER_MS have passed (R414). -/
def execDetachTimeout (n : BitVec 10) (s : State) : Host.Outcome State Fault Refusal :=
  transact (do
    let n := n.toNat
    let d ← dev
    let x := d.peer n
    need (x.state == nDETACHING)
    need (x.unapplied.isEmpty || decide (x.detachEt + d.rd F.txpTimers_peer_ms x.port * msTicks ≤ d.time.et))
    if d.portRuns x.port then sendControl n 0x06 [0]
    losePeer n 5
    raise (pg bTXP 8) 0) s

/-! ### Ports and modules (R411) -/

/-- A port that is enabled goes as far up as its module, link and association allow. -/
def climb (p : Nat) : M Unit := do
  if (← rd F.txpState_state p) = pOFF then setPortState p pNO_MODULE
  if (← rd F.txpState_state p) = pNO_MODULE ∧ (← rd F.txpModule_present p) = 1 then setPortState p pMODULE_INIT
  if (← rd F.txpState_state p) = pMODULE_INIT ∧ (← rd F.txpModule_ready p) = 1 then setPortState p pTRAINING
  if (← rd F.txpState_state p) = pTRAINING ∧ (← rd F.txpModule_fec_lock p) = 1 then setPortState p pNO_KEY
  if (← rd F.txpState_state p) = pNO_KEY ∧ (← rd F.txpMacsec_tx_valid p) = 1 then setPortState p pUP

/-- A module is inserted. -/
def execModuleInsert (p : Fin 8) (s : State) : Host.Outcome State Fault Refusal :=
  transact (do
    let p := p.val
    need ((← rd F.txpModule_present p) == 0)
    wr F.txpModule_present p 1
    if (← rd F.txpState_state p) = pDOWN then setPortState p pMODULE_INIT
    if (← rd F.txpState_state p) ≠ pOFF then climb p) s

/-- Firmware has brought the module up. -/
def execModuleReady (p : Fin 8) (s : State) : Host.Outcome State Fault Refusal :=
  transact (do
    let p := p.val
    need ((← rd F.txpModule_present p) == 1 && (← rd F.txpModule_ready p) == 0)
    wr F.txpModule_ready p 1
    if (← rd F.txpState_state p) ≠ pOFF then climb p) s

/-- Lanes, PCS and FEC lock; a link that returns passes TRAINING again. -/
def execLinkLock (p : Fin 8) (s : State) : Host.Outcome State Fault Refusal :=
  transact (do
    let p := p.val
    let st ← rd F.txpState_state p
    need ((st == pTRAINING || st == pDOWN) && (← rd F.txpModule_ready p) == 1)
    wr F.txpModule_lock p 255
    wr F.txpModule_fec_lock p 1
    setPortState p pTRAINING
    climb p) s

/-- The module is removed, or the signal or PCS lock is lost. -/
def execLinkLoss (p : Fin 8) (removed : Bool) (s : State) : Host.Outcome State Fault Refusal :=
  transact (do
    let p := p.val
    let st ← rd F.txpState_state p
    need ((← rd F.txpModule_present p) == 1)
    wr F.txpModule_lock p 0
    wr F.txpModule_fec_lock p 0
    if removed then
      wr F.txpModule_present p 0
      wr F.txpModule_ready p 0
    if st = pUP then setPortState p pDOWN
    else if st ≠ pOFF ∧ st ≠ pDOWN ∧ removed then setPortState p pNO_MODULE
    else if st = pNO_KEY then setPortState p pTRAINING) s

/-- A write of TXP_STATE.ENABLE (R411, R416); the port comes up only while its page is enabled too (R531). -/
def portEnable (p : Nat) (on : Bool) (w : RegAcc) : M Unit := do
  if on then
    if (← rd F.txpRetainCfg_size p) = 0 then w.ignore
    else
      wr F.txpState_enable p 1
      if (← rd F.txpState_state p) = pOFF ∧ (← rd F.pageCtrl_enable (pg bTXP p)) = 1 then climb p
  else
    wr F.txpState_enable p 0
    losePort p
    setPortState p pOFF

/-- A write of TXP_STATE.ENABLE. -/
def execTxpEnable (p : Fin 8) (on : Bool) (a : Agent) (s : State) : Host.Outcome State Fault Refusal :=
  transact (let w := regAcc .txpState p.val 0 (8 * b2n on) a
    w.run (portEnable p.val on w)) s

/-! ### Peer commands (R393, R414, R416) -/

/-- An UP node is detached: what has been routed to it still goes out (R414). -/
def detach (n : Nat) : M Unit := do
  let et ← now
  modPeer n fun x => { x with state := nDETACHING, detachEt := et }
  modDev fun d => { d with outbox := d.outbox.map (fun m => if m.node = n then { m with routed := true } else m) }
  modDev Dev.syncPeer

/-- A peer command: 1 ATTACH, 2 DETACH. -/
def peerCommand (n op : Nat) (w : RegAcc) : M Unit := do
  wr F.txpPeerCmd_node 8 n
  wr F.txpPeerCmd_op 8 op
  let d ← dev
  let x := d.peer n
  let ent ← peerEntry n
  if !bit ent 0 then w.ignore
  else if op = 1 ∧ (x.state = nNONE ∨ x.state = nLOST) then
    modPeer n fun x => { x with
      state := nCONNECTING, cls := bits ent 1 1, port := bits ent 2 3, queue := bits ent 16 10,
      lastSession := if x.session = 0 then x.lastSession else x.session, session := 0, helloEt := d.time.et, mark := 0 }
  else if op = 2 ∧ x.state = nUP then
    detach n
  else if op = 2 ∧ x.state = nCONNECTING then
    modPeer n fun x => { x with state := nNONE, session := 0, lastSession := if x.session = 0 then x.lastSession else x.session }
    let out := (← dev).outbox.filter fun m => m.node == n
    modDev fun d => { d with outbox := d.outbox.filter fun m => m.node != n }
    spillAll n x.unapplied
    each out dropMessage
    each ((out.map fun m => m.users).flatten.eraseDups) fun u => scatterCheck u.1 u.2
    modDev fun d => { d with remotes := d.remotes.map fun r =>
      if r.pa / 2 ^ 46 == n && r.answer.isNone then { r with answer := some (sLINK_LOST, [], d.time.et) } else r }
    raise (pg bTXP 8) 0
  else w.ignore
  modDev Dev.syncPeer

/-- An ATTACH written to TXP_PEER_CMD. -/
def execAttach (n : BitVec 10) (a : Agent) (s : State) : Host.Outcome State Fault Refusal :=
  transact (let w := regAcc .txpPeerCmd 8 0 (n.toNat + 2 ^ 12 + 2 ^ 31) a
    w.run (peerCommand n.toNat 1 w)) s

/-- A DETACH written to TXP_PEER_CMD. -/
def execDetach (n : BitVec 10) (a : Agent) (s : State) : Host.Outcome State Fault Refusal :=
  transact (let w := regAcc .txpPeerCmd 8 0 (n.toNat + 2 ^ 13 + 2 ^ 31) a
    w.run (peerCommand n.toNat 2 w)) s

end Sys2Proof.Machine
end

