-- ==== Sys2Proof/Machine/Control.lean ====
section
/-! DEFINITION. The queues' own commands: doorbells, enables, drains and resets (R52, R54, R70, R82, R83), stops of
running work (R77, R78, R81), the control opcodes (R62, R64, R75 to R80), and completion records (R63 to R68). -/

namespace Sys2Proof.Machine

/-! ### Stops (R77, R78, R81) -/

/-- A dispatched descriptor stops at its next cancel point with a status. -/
def stopWork (x : Desc) (st rs : Nat) : M Unit :=
  if x.ended then pure () else
  match x.work with
  | .none | .start | .cancel _ _ | .stamp _ | .intake _ => endWith x.q x.seq st rs
  | .lookup _ => stopLookup x st rs
  | .interact _ _ => stopInteract x st rs
  | .requant n s => stopRequant x n s st rs
  | .scatter _ => stopScatter x st rs
  | .optimize _ => stopOptimize x st rs
  | .exchange _ => stopExchange x st rs
  | .copy _ => stopCopy x st rs
  | .maint m => stopMaint x m st rs
  | .migrate g => stopMigrate x g st rs
  | .inval _ => pure ()

/-- INV_RANGE and FAULT_REPLY have no cancel point (R78). -/
def Desc.unstoppable (x : Desc) : Bool := x.opcode == 0x50 || x.opcode == 0x51

/-- A descriptor has reached the last point of coherence of its results, or its cancel point, and has only its RESULT copy,
the fold of its statistics or the unit of its update still to come, which are no results (R45, R248). -/
def Dev.coherent (d : Dev) (x : Desc) : Bool :=
  match x.work with
  | .requant n _ => x.stopping || decide (x.length ≤ n)
  | .optimize _ => x.stopping
  | .intake g => g.committing
  | .scatter s => s.taken && !d.draining x.q x.seq
  | _ => false

/-- A descriptor that a CANCEL or its time limit can stop (R77, R78, R81). -/
def Dev.stoppable (d : Dev) (x : Desc) : Bool := !x.ended && !x.unstoppable && !d.coherent x

/-- Stop every descriptor of a list that can be stopped. -/
def stopAll (xs : List Desc) (st rs : Nat) : M Unit :=
  each xs fun x => do
    let d ← dev
    match d.desc x.q x.seq with
    | some y => if d.stoppable y then stopWork y st rs else pure ()
    | none => pure ()

/-! ### Queue states -/

/-- The completion ring of a queue cannot be reached: it is in host memory and the host is lost (R67, R83), or it is in
engine memory that the queue's world has no longer, and the queue is being reset (R82; log entry 44). -/
def Dev.ringGone (d : Dev) (q : Nat) : Bool :=
  if d.qrd F.queCplCfg_loc q = 1 then
    d.rd F.hlkState_state 0 == 3 || d.rd F.hlkState_state 0 == 4 || d.qrd F.queState_state q == qLOST
  else (d.qh q).resetting && !d.inWorld (d.queueWorld q) (d.qrd F.queCplBase_base q * 4096 % 2 ^ 46)
    (32 * ringEntries (d.qrd F.queCplCfg_size q))

/-- A DRAINING queue with nothing in flight is DISABLED (R82, R83). -/
def Dev.drained (d : Dev) (q : Nat) : Dev :=
  if d.qrd F.queState_state q == qDRAINING && (d.descsOf q).isEmpty then
    (d.setQState q qDISABLED).setQh q { d.qh q with resetting := false }
  else d

/-- A queue's rings lie in ACTIVE memory regions of its world, where they are local (R50, R54). -/
def Dev.ringsInWorld (d : Dev) (q : Nat) : Bool :=
  let world := d.queueWorld q
  (d.qrd F.queRingCfg_loc q == 1 ||
    d.inWorld world (d.qrd F.queRingBase_base q * 4096 % 2 ^ 46) (64 * ringEntries (d.qrd F.queRingCfg_size q))) &&
  (d.qrd F.queCplCfg_loc q == 1 ||
    d.inWorld world (d.qrd F.queCplBase_base q * 4096 % 2 ^ 46) (32 * ringEntries (d.qrd F.queCplCfg_size q)))

/-- A write of QUE_TAIL (R52). -/
def tailWrite (q v : Nat) (w : RegAcc) : M Unit := do
  let head ← qrd F.queHead_head q
  let n := diff32 v head
  if (← qrd F.queState_state q) = qDISABLED ||
      (decide (n ≤ ringEntries (← qrd F.queRingCfg_size q)) && decide (diff32 (← qrd F.queTail_tail q) head ≤ n)) then
    qwr F.queTail_tail q v
  else w.ignore

/-- The doorbell. -/
def execQueTailWrite (q : Fin 1024) (v : BitVec 32) (a : Agent) (s : State) : Host.Outcome State Fault Refusal :=
  transact (let w := queAcc .queTail q.val v.toNat a
    w.run (tailWrite q.val v.toNat w)) s

/-- ENABLE is written with 1 (R54). -/
def enableQueue (q : Nat) (w : RegAcc) : M Unit := do
  let d ← dev
  let st := d.qrd F.queState_state q
  if st = qRUNNING ∨ st = qSTOPPED then pure ()
  else if st ≠ qDISABLED then w.ignore
  else if 10 < d.qrd F.queRingCfg_size q || 10 < d.qrd F.queCplCfg_size q || !d.ringsInWorld q then w.refuse
  else
    let tail := d.qrd F.queTail_tail q
    qwr F.queHead_head q tail
    qwr F.queCplTail_index q (d.qrd F.queCplHead_index q)
    qwr F.queState_enable q 1
    modDev fun d => (d.consumeMarks q tail).setQState q qRUNNING

/-- QUE_STATE.ENABLE is set. -/
def execQueEnable (q : Fin 1024) (a : Agent) (s : State) : Host.Outcome State Fault Refusal :=
  transact (let w := queAcc .queState q.val 0x100 a
    w.run (enableQueue q.val w)) s

/-- ENABLE is cleared (R83). -/
def drainQueue (q : Nat) : M Unit := do
  let st ← qrd F.queState_state q
  if st = qRUNNING ∨ st = qSTOPPED then
    qwr F.queState_enable q 0
    modDev fun d => (d.setQState q qDRAINING).drained q

/-- QUE_STATE.ENABLE is cleared. -/
def execQueDrain (q : Fin 1024) (a : Agent) (s : State) : Host.Outcome State Fault Refusal :=
  transact (let w := queAcc .queState q.val 0 a
    w.run (drainQueue q.val)) s

/-- RESUME is written (R70). -/
def resumeQueue (q : Nat) : M Unit := do
  if (← qrd F.queState_state q) = qSTOPPED then modDev fun d => d.setQState q qRUNNING

/-- QUE_STATE.RESUME is written. -/
def execQueResume (q : Fin 1024) (a : Agent) (s : State) : Host.Outcome State Fault Refusal :=
  transact (let w := queAcc .queState q.val 0x300 a
    w.run (resumeQueue q.val)) s

/-! ### Completion records (R63 to R68) -/

/-- The record of a descriptor (R65, R66): `j` is its completion index and `et` its stamp. -/
def completionRecord (x : Desc) (j entries et : Nat) : List Byte :=
  toBytes 32 (payloadOf [(0, x.q + (1 - j / entries % 2) * 2 ^ 15), (2, x.status), (3, x.flags), (4, x.seq),
    (8, et % 2 ^ 64), (16, x.rows % 2 ^ 64), (24, x.bytes % 2 ^ 64)])

/-- Set the queue's bit in its doorbell page (R68). -/
def signalQueue (q : Nat) : M Unit := do
  modDev fun d => d.setQh q { d.qh q with unsignalled := 0 }
  raise (queuePage q) (q % 16)

/-- Write a descriptor's record, and signal it as R68 says; whether it was written. In a ring that fails its check no record
is lost: it waits for the next try (R67, R457; log entry 44). -/
def writeRecord (x : Desc) : M Bool := do
  let d ← dev
  let j := d.qrd F.queCplTail_index x.q
  let entries := ringEntries (d.qrd F.queCplCfg_size x.q)
  let et := if x.coh = 0 then d.time.et else x.coh
  match ← caught (writeRing x.q x.seq (d.qrd F.queCplCfg_loc x.q == 1)
      (d.qrd F.queCplBase_base x.q * 4096 + j % entries * 32) (completionRecord x j entries et)) with
  | .error _ =>
    captureEngine (queuePage x.q) kREFUSED (x.q % 16 * 256 + 0xA0)
    return false
  | .ok _ =>
    tap 0 0 5 (d.queueWorld x.q) x.q x.seq 0 et
    qwr F.queCplTail_index x.q (wrap32 (j + 1))
    bump F.queCompleted_count 0
    if x.status = sTIMEOUT then bump F.queTimeouts_count 0
    let h := d.qh x.q
    modDev fun d => d.setQh x.q { h with
      unsignalled := h.unsignalled + 1, firstEt := if h.unsignalled = 0 then d.time.et else h.firstEt,
      delay := d.qrd F.queCplCfg_irq_delay x.q }
    let count := d.qrd F.queCplCfg_irq_count x.q
    if x.irq || (count != 0 && decide (count ≤ h.unsignalled + 1)) then signalQueue x.q
    return true

/-- Write the ET value of a STAMP whose stamp is taken (R64). -/
def writeStamp (x : Desc) (et : Nat) : M Unit := do
  let d ← dev
  let addr := x.bytesAt 16 8
  if addr % 8 ≠ 0 then failBounds
  let _ ← writeVa (dispatchWaiter x.q x.seq) (dispatchWho (d.queueWorld x.q) x.q x.seq) (d.queueAsid x.q) addr
    (toBytes 8 et)
  progress x.q x.seq 0 8 et
  endDesc x.q x.seq

/-- A STAMP takes its stamp and writes it, or waits for the address. -/
def takeStamp (x : Desc) (et : Nat) : M Unit := do
  setWork x.q x.seq (.stamp et)
  attempt (writeStamp x et)

/-- A FENCE, or a STAMP with AFTER_PRIOR, retires once it is the oldest of its queue (R62, R64). -/
def retireHead (q : Nat) : M Unit := do
  match ((← dev).descsOf q).head? with
  | none => pure ()
  | some x =>
    if !x.ended && x.work == .start then
      if x.opcode = 1 then endDesc q x.seq
      else if x.opcode = 2 then
        let et ← now
        orEnd q x.seq (takeStamp x et)

/-! ### CANCEL (R75 to R80) -/

def Desc.cnTarget (x : Desc) : Nat := x.bytesAt 16 2
def Desc.cnRunning (x : Desc) : Bool := x.field 18 0 1 == 1
def Desc.cnFirst (x : Desc) : Nat := x.bytesAt 20 4
def Desc.cnLast (x : Desc) : Nat := x.bytesAt 24 4

/-- The undispatched slots of a queue that a range covers, as first and last sequence. -/
def Dev.undispatched (d : Dev) (q first last : Nat) : Option (Nat × Nat) :=
  let head := d.qrd F.queHead_head q
  let n := if d.qrd F.queState_state q = qDISABLED then 0 else diff32 (d.qrd F.queTail_tail q) head
  let lo := if diff32 head first ≤ diff32 last first then 0 else diff32 first head
  if lo < n then some (wrap32 (head + lo), wrap32 (head + min (n - 1) (diff32 last head))) else none

/-- What is left of a range of slots that a CANCEL found, once HEAD has moved: the slots from HEAD to its last. -/
def Dev.leftOf (d : Dev) (q lo hi : Nat) : Option (Nat × Nat) :=
  let head := d.qrd F.queHead_head q
  let n := diff32 (wrap32 (hi + 1)) head
  if n = 0 ∨ 2 ^ 31 ≤ n then none else some (if diff32 lo head < n then lo else head, hi)

/-- Descriptors of a queue whose sequences lie in a marked range, walking the ring from an index for `n` slots. -/
def countMarked (q : Nat) (m : Nat × Nat) : Nat → Nat → Nat → M Nat
  | 0, _, k => return k
  | fuel + 1, idx, k => do
    let d ← dev
    if d.qrd F.queTail_tail q = idx then return k
    else countMarked q m fuel (wrap32 (idx + (if d.longAt (← read) q idx then 4 else 1))) (if inMark idx m then k + 1 else k)

/-- Mark what is left of a range, if its queue has room for it: the descriptors that it marks, or none where it has to
wait. -/
def markRange (m : Nat × Nat × Nat) : M (Option Nat) := do
  let (q, lo, hi) := m
  let d ← dev
  match d.leftOf q lo hi with
  | none => return some 0
  | some r =>
    if 4 ≤ (d.qh q).marks.length then return none
    else
      modDev fun d => d.setQh q { d.qh q with marks := (d.qh q).marks ++ [r] }
      return some (← countMarked q r 65536 (d.qrd F.queHead_head q) 0)

/-- A CANCEL goes on: it marks what it has still to mark, and completes when it has and its targets have stopped. -/
def cancelGo (q seq : Nat) : M Unit := do
  match (← dev).desc q seq with
  | none => pure ()
  | some x =>
    match x.work with
    | .cancel marks targets =>
      if !x.ended then
        let left ← foldM' (fun (left : List (Nat × Nat × Nat)) m => do
          match ← markRange m with
          | none => return left ++ [m]
          | some n => do
            progress q seq n 0 0
            return left) [] marks
        let d ← dev
        let run := targets.filter fun t => match d.desc t.1 t.2 with
          | some y => !y.ended
          | none => false
        setWork q seq (.cancel left run)
        if left.isEmpty && run.isEmpty then endDesc q seq
    | _ => pure ()

/-- Every CANCEL goes on. -/
def settleCancels : M Unit := do
  each ((← dev).descs.filter fun x => x.opcode == 0x60) fun x => cancelGo x.q x.seq

/-- Dispatch of a CANCEL: what runs in the range stops if RUNNING_TOO asks for it, what is not dispatched is marked. -/
def cancel (x : Desc) : M Unit := do
  x.formChecks [(8, 0, 64), (18, 1, 7), (19, 0, 8), (28, 0, 288)] [] false
  let t := x.cnTarget
  malformedIf (decide (2 ^ 31 ≤ diff32 x.cnLast x.cnFirst) || decide (1023 < t)) rOPERAND
  let d ← dev
  if d.queueWorld t ≠ d.queueWorld x.q then fail sWORLD_VIOLATION rWORLD
  malformedIf (d.queueAsid t != d.queueAsid x.q) rCANCEL_SCOPE
  let mine := if x.cnRunning then (d.descsOf t).filter fun y =>
      inMark y.seq (x.cnFirst, x.cnLast) && d.stoppable y && !(y.q == x.q && y.seq == x.seq) else []
  stopAll mine sCANCELLED rNONE
  let d ← dev
  let run := mine.filter fun y => match d.desc y.q y.seq with
    | some z => !z.ended && (match z.work with
      | .maint _ => true
      | _ => false)
    | none => false
  let marks := ((d.undispatched t x.cnFirst x.cnLast).map fun r => (t, r.1, r.2)).toList
  setWork x.q x.seq (.cancel marks (run.map fun y => (y.q, y.seq)))
  progress x.q x.seq mine.length 0 0
  cancelGo x.q x.seq

/-- CANCEL, or the continuation of one that waits. -/
def execCancel (q : Fin 1024) (s : State) : Host.Outcome State Fault Refusal :=
  transact (do
    match (← dev).descs.find? fun x => x.q == q.val && x.opcode == 0x60 && !x.ended with
    | some x => if x.work == .start then launch q.val (opcodeIs 0x60) cancel else cancelGo x.q x.seq
    | none => launch q.val (opcodeIs 0x60) cancel) s

/-! ### The end of a descriptor -/

/-- A descriptor leaves its queue: its tiles and its journal entry are let go, and what waited for it goes on. -/
def leaveQueue (x : Desc) : M Unit := do
  modDev fun d => d.releaseTiles x (x.status == sCANCELLED || x.status == sTIMEOUT)
  journalRecorded x
  modDev fun d => { d with descs := d.descs.filter fun y => !(y.q == x.q && y.seq == x.seq) }.syncInflight x.q
  retireHead x.q
  settleCancels
  modDev fun d => d.drained x.q

/-- A descriptor leaves its queue once its record is written, or its ring cannot be reached (R67). -/
def retire (x : Desc) : M Unit := do
  if (← dev).ringGone x.q then leaveQueue x
  else if ← writeRecord x then leaveQueue x
  else pure ()

/-- A completion record is written, in its place (R63). -/
def execCompletionRecordWrite (q : Fin 1024) (seq : BitVec 32) (s : State) : Host.Outcome State Fault Refusal :=
  transact (do
    let x ← getDesc q.val seq.toNat
    let d ← dev
    need x.ended
    need (x.relaxed || (((d.descsOf q.val).head?.map fun y => y.seq) == some x.seq))
    retire x) s

/-- Descriptors of a queue whose records are not written any more leave it (R67, R438). -/
def dropUnwritten (q : Nat) : M Unit := do
  if (← dev).ringGone q then
    each (((← dev).descsOf q).filter fun x => x.ended) fun x => retire x

/-- QRESET (R82): what is dispatched is cancelled, pending marks are discarded, and tiles that the queue has kept are let
go (R142). -/
def resetQueue (q : Nat) : M Unit := do
  if (← qrd F.queState_state q) ≠ qDISABLED then
    qwr F.queState_enable q 0
    modDev fun d => (d.setQState q qDRAINING).setQh q { d.qh q with marks := [], resetting := true }
    stopAll ((← dev).descsOf q) sCANCELLED rNONE
    dropUnwritten q
    modDev fun d => (d.dropKept q).drained q
  else pure ()

/-- QUE_STATE.QRESET is written. -/
def execQreset (q : Fin 1024) (a : Agent) (s : State) : Host.Outcome State Fault Refusal :=
  transact (let w := queAcc .queState q.val 0x400 a
    w.run (resetQueue q.val)) s

/-- A write of QUE_STATE: QRESET first, then RESUME, then ENABLE. -/
def queueStateWrite (q v : Nat) (w : RegAcc) : M Unit := do
  if bit v 10 then resetQueue q
  else
    if bit v 9 then resumeQueue q
    if bit v 8 then enableQueue q w else drainQueue q

/-! ### NOP, FENCE, STAMP, and an opcode that is not defined -/

/-- NOP. -/
def execNop (q : Fin 1024) (s : State) : Host.Outcome State Fault Refusal :=
  transact (dispatch q.val (opcodeIs 0) fun x => do
    x.formChecks [(8, 0, 448)] [] false
    endDesc x.q x.seq) s

/-- A descriptor is the oldest of its queue. -/
def needOldest (x : Desc) : M Unit := do
  need ((((← dev).descsOf x.q).head?.map fun y => y.seq) == some x.seq)

/-- FENCE: it waits for the records of everything before it (R62). -/
def execFence (q : Fin 1024) (s : State) : Host.Outcome State Fault Refusal :=
  transact (launch q.val (opcodeIs 1) fun x => do
    x.formChecks [(8, 0, 448)] [] false
    needOldest x
    endDesc x.q x.seq) s

/-- Dispatch of a STAMP (R64): without AFTER_PRIOR it takes the stamp at its dispatch. -/
def stamp (x : Desc) : M Unit := do
  x.formChecks [(8, 0, 64), (24, 1, 7), (25, 0, 312)] [] false
  if x.field 24 0 1 = 1 then needOldest x
  let et ← now
  takeStamp x (if x.field 24 0 1 = 1 then et else x.issued)

/-- The stamp that a STAMP has taken and not yet written. -/
def Desc.stamped (x : Desc) : Option Nat :=
  match x.work with
  | .stamp et => some et
  | _ => none

/-- STAMP, or the continuation of one that waits for its address. -/
def execStamp (q : Fin 1024) (s : State) : Host.Outcome State Fault Refusal :=
  transact (do
    match (← dev).descs.find? fun x => x.q == q.val && !x.ended && x.stamped.isSome with
    | some x => orEnd q.val x.seq (do writeStamp x (← have! x.stamped))
    | none => launch q.val (opcodeIs 2) stamp) s

/-- The opcodes of R10. -/
def definedOpcodes : List Nat :=
  [0, 1, 2, 0x10, 0x11, 0x12, 0x20, 0x21, 0x22, 0x23, 0x30, 0x31, 0x32, 0x40, 0x41, 0x50, 0x51, 0x60, 0x70]

/-- Dispatch of a descriptor whose opcode is not defined (R60). -/
def execOpcodeNotDefined (q : Fin 1024) (s : State) : Host.Outcome State Fault Refusal :=
  transact (dispatch q.val (fun raw => !definedOpcodes.contains (raw % 256)) fun _ => fail sMALFORMED rOPCODE) s

/-! ### Timers -/

/-- A descriptor exceeds its time limit (R81). -/
def execDescriptorTimeout (q : Fin 1024) (seq : BitVec 32) (s : State) : Host.Outcome State Fault Refusal :=
  transact (do
    let x ← getDesc q.val seq.toNat
    let d ← dev
    need (d.stoppable x && x.limit != 0 && decide (x.issued + x.limit * usTicks < d.time.et))
    stopWork x sTIMEOUT rNONE) s

/-- IRQ_DELAY, as the last record written took it (R49), has passed since the first record not yet signalled (R68). -/
def execIrqDelayExpiry (q : Fin 1024) (s : State) : Host.Outcome State Fault Refusal :=
  transact (do
    let d ← dev
    let h := d.qh q.val
    need (h.delay != 0 && h.unsignalled != 0 && decide (h.firstEt + h.delay * usTicks ≤ d.time.et))
    signalQueue q.val) s

end Sys2Proof.Machine
end

