-- ==== Sys2Proof/Machine/HostLink.lean ====
section
/-! DEFINITION. The host link (R419 to R440): link events, the loss of the host, and its return. -/

namespace Sys2Proof.Machine

/-- States of the link (R435). -/
def hDOWN : Nat := 0
def hUP : Nat := 1
def hHELD : Nat := 2
def hLOST : Nat := 3
def hWAIT : Nat := 4

/-! ### The loss of the host (R438, R439) -/

/-- A copy that depends on the host ends at once: nothing more comes back for it. -/
def dropHostCopy (x : Desc) : M Unit := do
  meet x.q x.seq sHOST_LOST rNONE
  match x.copy with
  | none => endDesc x.q x.seq
  | some c =>
    setCopy x.q x.seq { c with stopped := true, gos := [], flushing := false }
    match c.jrn with
    | some i => shortenJrn i c.done
    | none => pure ()
    finishCopy x

/-- One of a queue's rings is in host memory. -/
def Dev.hostQueue (d : Dev) (q : Nat) : Bool := d.qrd F.queRingCfg_loc q == 1 || d.qrd F.queCplCfg_loc q == 1

/-- Queues with a host-memory ring become LOST; what they have dispatched stops. -/
def loseQueues : M Unit := do
  let d ← dev
  each ((List.range 1024).filter fun q => d.hostQueue q && d.qrd F.queState_state q != qDISABLED) fun q => do
    qwr F.queState_enable q 0
    modDev fun d => d.setQState q qLOST
    stopAll ((← dev).descsOf q) sHOST_LOST rNONE
    dropUnwritten q

/-- Fault batches of a die that the host services: the open batch closes, and every record is answered FATAL. -/
def loseBatches (die : Nat) : M Unit := do
  if (← rd F.trnFqCfg_servicer (64 + die)) = 1 then
    let et ← now
    modDev fun d => d.setBatcher die ((d.batcher die).close et 2)
    let b := (← dev).batcher die
    each (b.closed.toList ++ b.opened.toList ++ b.pending) fun k =>
      each (k.recs.filter fun r => !r.answered) (fatalRecord die)
    modDev fun d => d.setBatcher die { b with closed := none, opened := none, pending := [] }

/-- Journal entries that are not confirmed whole become UNCONFIRMED (R444). -/
def loseJournal : M Unit := do
  let d ← dev
  if d.rd F.cpeJrnStat_in_use 16 ≠ 0 then
    each (List.range (d.rd F.cpeJrnCfg_entries 16)) fun i => do
      let j ← readJrn i
      if (JrnEntry.state j = 1 ∨ JrnEntry.state j = 2) ∧ JrnEntry.confirmed j < JrnEntry.stop j then
        modJrn i fun j => setBits j 336 2 3
        bump F.cpeJrnMarked_count 16

/-- A write that has not arrived is undone, where the host has not written the place since. -/
def unput (w : Posted) : M Unit := do
  each (List.range w.new.length) fun i => do
    if (← peek true (w.addr + i)) = w.new.getD i 0 then poke true (w.addr + i) (w.old.getD i 0)
  match w.msg with
  | some m => modDev fun d => { d with irqs := d.irqs.erase m }
  | none => pure ()

/-- A write that was kept is sent again. -/
def reput (w : Posted) : M Unit := do
  pokes true w.addr w.new
  match w.msg with
  | some m => modDev fun d => { d with irqs := m :: d.irqs }
  | none => pure ()

/-- The data link layer goes down (R437): of the posted writes that are out the host has not received the newest, how many
it does not show (a free value; log entry 162); the adapter keeps them. -/
def cutLink : M Unit := do
  let posted := (← dev).path.out.filter fun w => !w.cache
  let n := posted.length - (← freeValue 32) % (posted.length + 1)
  each (posted.drop n).reverse unput
  modDev fun d => { d with path := { d.path with
    out := d.path.out.filter (fun w => w.cache) ++ posted.take n, kept := posted.drop n, down := true } }

/-- The link is lost: what was kept is discarded, and a write through a SHARED leaf whose GO is still out may not have
arrived (R437, R442). -/
def losePath : M Unit := do
  if (← rd F.hlkState_state 0) = hUP then cutLink
  each ((← dev).path.out.filter fun w => w.cache).reverse fun w => do
    if (← freeValue 1) = 1 then unput w
  modDev fun d => { d with path := ⟨[], [], [], false⟩ }

/-- The host is declared lost, with its CAUSE. -/
def loseHost (cause : Nat) : M Unit := do
  losePath
  wr F.hlkState_state 0 hLOST
  wr F.hlkState_cause 0 cause
  wr F.hlkLossEt_et 0 (← now)
  bump F.hlkLosses_count 0
  raise (pg bHLK 0) 1
  record 0x703 4 (pg bHLK 0) (payloadOf [(0, cause)])
  each ((← dev).descs.filter fun x => !x.ended && x.usesHost) dropHostCopy
  loseQueues
  loseJournal
  modDev fun d => { d with confirms := [] }
  each [0, 1] loseBatches
  each (range' 0 16) syncCopy
  if (← rd F.glbHostloss_continue 0) = 0 then
    each (List.range 1024) drainQueue
    each ((← dev).peers.filter fun e => e.2.state == nUP) fun e => detach e.1

/-! ### Link events (R436, R437, R440) -/

/-- The data link layer goes down, or Bus Master Enable is cleared. A link that goes down before RESUME is lost again
without a second loss of the host. -/
def execDlDown (cause : HostCause) (s : State) : Host.Outcome State Fault Refusal :=
  transact (do
    let st ← rd F.hlkState_state 0
    let et ← now
    match cause with
    | .dlDown | .bmeClear | .surpriseRemoval =>
      if st = hUP then
        if cause != .bmeClear then cutLink
        wr F.hlkState_state 0 hHELD
        modDev fun d => { d with heldEt := et }
        each (range' 0 16) syncCopy
      else if st = hWAIT then wr F.hlkState_state 0 hLOST
      else skip) s

/-- Non-posted reads that are out: confirmation and FLUSH reads (R437). -/
def Dev.readsOut (d : Dev) : Nat :=
  d.confirms.length + (d.descs.filter fun x => match x.copy with
    | some c => c.flushing
    | none => false).length

/-- The link is back in time (R437): what was kept is sent again, ahead of the messages of HELD, and counted with the reads
that are out; of how many TLPs the kept writes consisted is not said (a free value). -/
def replay : M Unit := do
  let d ← dev
  if d.path.down then
    each d.path.kept reput
    let n ← if d.path.kept.isEmpty then pure 0 else freeValue 32
    bump F.hlkReplayed_count 0 (d.readsOut + n)
  let late := d.path.late
  modDev fun e => { e with
    irqs := late.reverse ++ e.irqs
    path := ⟨e.path.out ++ e.path.kept ++ late.map (fun m => ⟨none, 0, [], [], some m, false⟩), [], [], false⟩ }

/-- The loss timer of HELD has run out. -/
def Dev.lossDue (d : Dev) : Bool := decide (d.heldEt + d.rd F.hlkCfg_timeout_ms 0 * msTicks ≤ d.time.et)

/-- The link is up with Bus Master Enable set. -/
def execDlUp (s : State) : Host.Outcome State Fault Refusal :=
  transact (do
    let d ← dev
    let st := d.rd F.hlkState_state 0
    if st = hHELD then
      need (!d.lossDue)
      wr F.hlkState_state 0 hUP
      bump F.hlkDowns_count 0
      replay
      raise (pg bHLK 0) 0
      each (range' 0 16) syncCopy
    else if st = hLOST then wr F.hlkState_state 0 hWAIT
    else if st = hDOWN then wr F.hlkState_state 0 hUP
    else skip) s

/-- Recovery returns to L0: counted, and nothing else. -/
def execLinkRecovery (s : State) : Host.Outcome State Fault Refusal :=
  transact (do
    let st ← rd F.hlkState_state 0
    need (st == hUP || st == hWAIT)
    bump F.hlkRecoveries_count 0) s

/-- TIMEOUT_MS has passed in HELD. -/
def execHeldTimeout (s : State) : Host.Outcome State Fault Refusal :=
  transact (do
    let d ← dev
    need (d.rd F.hlkState_state 0 == hHELD && d.lossDue)
    loseHost 1) s

/-- CAUSE of a host reset (R449). -/
def resetCause (c : HostReset) : Nat :=
  match c with
  | .hotReset => 2
  | .perst => 3
  | .flr => 4
  | .linkDisable => 5

/-- A reset of the host link is received: the host is lost at once. The reset also clears what the host configured in
the function: Cache_Enable and D3hot. -/
def execHostResetReceived (cause : HostReset) (s : State) : Host.Outcome State Fault Refusal :=
  transact (do
    loseHost (resetCause cause)
    wr F.hlkState_cache_en 0 0
    modDev fun d => { d with d3hot := false }) s

/-- RESUME (R440). -/
def hostResume (w : RegAcc) : M Unit := do
  if (← rd F.hlkState_state 0) = hWAIT then
    wr F.hlkState_state 0 hUP
    raise (pg bHLK 0) 2
    each (range' 0 16) syncCopy
  else w.ignore

/-- HLK_CTL.RESUME is written. -/
def execHlkResume (a : Agent) (s : State) : Host.Outcome State Fault Refusal :=
  transact (let w := regAcc .hlkCtl 0 0 1 a
    w.run (hostResume w)) s

/-- A host snoop is answered RspIHitI: the engine holds no host line, and nothing changes (R421). -/
def execHostSnoop (_addr : BitVec 64) (s : State) : Host.Outcome State Fault Refusal :=
  transact (pure ()) s

/-- The host sets or clears Cache_Enable. -/
def execCacheEnable (on : Bool) (s : State) : Host.Outcome State Fault Refusal :=
  transact (wr F.hlkState_cache_en 0 (b2n on)) s

/-- The host moves the function between D0 and D3hot. -/
def execD3hotTransition (toD3 : Bool) (s : State) : Host.Outcome State Fault Refusal :=
  transact (modDev fun d => { d with d3hot := toD3 }) s

end Sys2Proof.Machine
end

