-- ==== Sys2Proof/Machine/Lls.lean ====
section
/-! DEFINITION. The last-level store as its registers shape it: ways of the slices (R323, R324) and pin ranges (R327). -/

namespace Sys2Proof.Machine

/-- Bytes of a way (R323). -/
def wayBytes : Nat := 6 * 2 ^ 20

/-- Lines that a slice set holds, selected by a test on their addresses, are written back and freed. -/
def flushLines (p : Nat → Bool) : M Unit := do
  each (((← dev).ms.lines.map fun e => e.1).filter fun n => p (n * 64)) fun n => do
    writeBack n
    setLine n none

/-- Lines, marks and bytes of a range are gone: what it holds is zero. -/
def wipeRange (lo hi : Nat) : M Unit := do
  modDev fun d => { d with ms := { d.ms with
    lines := SMap.clear d.ms.lines (lo / 64) (hi / 64),
    marks := d.ms.marks.filter fun n => !(decide (lo ≤ n * 64) && decide (n * 64 < hi)) } }.releaseHeld
  wipe lo hi

/-! ### Pin ranges -/

/-- Blocks of a pin range that a slice owns (R322). -/
def Dev.pinBlocks (d : Dev) (r n slice : Nat) : Nat :=
  ((range' (d.pinBase r n / 65536) (d.pinBytes r n / 65536)).filter fun b => owningSlice (b * 65536) == slice).length

/-- The engine can pin a range (R327): it lies in the region's windows, overlaps no other, and fits in every slice. No
region's slices can pin more than 12,288 blocks. Ranges that release their lines still hold them. -/
def Dev.pinFits (d : Dev) (r n : Nat) : Bool :=
  let a := d.pinBase r n
  let len := d.pinBytes r n
  let others := (List.range 16).filter fun m => m != n && d.pinLive r m
  let enabled := (List.range 16).filter fun m => m != n && (d.pinLive r m || d.rd F.llsPinCtl_enable (64 + r) m == 1)
  decide (len ≤ 12288 * 65536) && decide (a + len ≤ 2 ^ 46) && d.populatedRange a len && homeRegion a == r &&
  (match homeOf a with
   | .hbm _ _ => true
   | .cap _ _ => true
   | _ => false) &&
  enabled.all (fun m => decide (a + len ≤ d.pinBase r m) || decide (d.pinBase r m + d.pinBytes r m ≤ a)) &&
  (range' (8 * r) 8).all fun s =>
    decide ((((n :: others).map fun m => d.pinBlocks r m s).foldl (· + ·) 0) * 65536 + d.residentBytes (List.range 8) ≤
      d.rd F.llsPart_pinned (64 + r) * wayBytes)

/-- A range is released: its dirty lines are written back and its lines freed. -/
def releasePin (r n : Nat) : M Unit := do
  let d ← dev
  wr F.llsPinCtl_enable (64 + r) 0 n
  if d.rd F.llsPinCtl_state (64 + r) n = 3 then wr F.llsPinCtl_state (64 + r) 0 n
  else if d.pinLive r n then
    flushLines (d.inPin r n)
    wr F.llsPinCtl_state (64 + r) 4 n

/-- A write of LLS_PIN_CTL.ENABLE. A range that is still being released takes no new ENABLE. -/
def pinWrite (r n : Nat) (on : Bool) (w : RegAcc) : M Unit := do
  let st ← rd F.llsPinCtl_state (64 + r) n
  if !on then releasePin r n
  else if st = 4 then w.ignore
  else if st = 1 ∨ st = 2 then pure ()
  else
    wr F.llsPinCtl_enable (64 + r) 1 n
    if (← dev).pinFits r n then wr F.llsPinCtl_state (64 + r) 1 n
    else
      wr F.llsPinCtl_state (64 + r) 3 n
      w.refuse

/-- LLS_PIN_CTL.ENABLE is set. -/
def execLlsPinEnable (r : Fin 8) (n : Fin 16) (a : Agent) (s : State) : Host.Outcome State Fault Refusal :=
  transact (let w := regAcc .llsPinCtl (64 + r.val) n.val 1 a
    w.run (pinWrite r.val n.val true w)) s

/-- LLS_PIN_CTL.ENABLE is cleared. -/
def execLlsPinRelease (r : Fin 8) (n : Fin 16) (a : Agent) (s : State) : Host.Outcome State Fault Refusal :=
  transact (let w := regAcc .llsPinCtl (64 + r.val) n.val 0 a
    w.run (pinWrite r.val n.val false w)) s

/-- The lines of a FILLING range have been read in. -/
def execPinFillDone (r : Fin 8) (n : Fin 16) (s : State) : Host.Outcome State Fault Refusal :=
  transact (do
    let d ← dev
    let a := d.pinBase r.val n.val
    let len := d.pinBytes r.val n.val
    need (d.rd F.llsPinCtl_state (64 + r.val) n.val == 1 && !d.mustWait true a len)
    maintShare 1024 0 r.val 2 len
    maintShare 1024 0 r.val (partitionOf a) len
    meter ⟨8, 0, 4, 0, 1024, 0, 0, 0⟩ false a len
    homeTraffic ⟨8, 0, 4, 0, 1024, 0, 0, 0⟩ false a len
    bringIn a len
    wr F.llsPinCtl_state (64 + r.val) 2 n.val) s

/-- The lines of a RELEASING range have been written back. -/
def execPinReleaseDone (r : Fin 8) (n : Fin 16) (s : State) : Host.Outcome State Fault Refusal :=
  transact (do
    need ((← rd F.llsPinCtl_state (64 + r.val) n.val) == 4)
    wr F.llsPinCtl_state (64 + r.val) 0 n.val) s

/-! ### Ways -/

/-- First byte of a slice's scratchpad window (R298). -/
def scratchBase (s : Nat) : Nat := 0x080000000000 + s * 2 ^ 27

/-- New ways of a region's slices (R324): dirty lines of ways that leave CACHE are written back, pins and resident parts
of ways that leave PINNED are released, and ways that leave or join SCRATCH are wiped. -/
def setWays (r cache scratch pinned : Nat) : M Unit := do
  let d ← dev
  let oldScratch := d.rd F.llsPart_scratch (64 + r)
  if pinned < d.rd F.llsPart_pinned (64 + r) then
    each (List.range 16) fun n => releasePin r n
    each (List.range 8) fun m => do
      let st ← rd F.gclResCfg_state 64 m
      if st = 1 ∨ st = 2 then setSlot m 3
  if cache < d.rd F.llsPart_cache (64 + r) then
    let d ← dev
    flushLines fun a => homeRegion a == r && partitionOf a != 2 &&
      !(List.range 16).any fun n => d.pinLive r n && d.inPin r n a
  let lo := min scratch oldScratch * wayBytes
  let hi := max scratch oldScratch * wayBytes
  if lo ≠ hi then each (range' (8 * r) 8) fun s => wipeRange (scratchBase s + lo) (scratchBase s + hi)
  wr F.llsPart_cache (64 + r) cache
  wr F.llsPart_scratch (64 + r) scratch
  wr F.llsPart_pinned (64 + r) pinned

/-- A write of LLS_PART (R324): the region is fenced, the ways sum to 16 and CACHE keeps one. -/
def partWrite (r v : Nat) (w : RegAcc) : M Unit := do
  let d ← dev
  let cache := bits v 0 5
  let scratch := bits v 5 5
  let pinned := bits v 10 5
  if !d.regionFenced r || cache + scratch + pinned != 16 || cache == 0 then w.ignore
  else setWays r cache scratch pinned

/-- A write of LLS_PART. -/
def execLlsPartWrite (r : Fin 8) (v : BitVec 32) (a : Agent) (s : State) : Host.Outcome State Fault Refusal :=
  transact (let w := regAcc .llsPart (64 + r.val) 0 v.toNat a
    w.run (partWrite r.val v.toNat w)) s

end Sys2Proof.Machine
end

