-- ==== Sys2Proof/Machine/Worlds.lean ====
section
/-! DEFINITION. Memory regions and their wipes (R455 to R463, R491), and the keys of the Tipra ports (R464, R465). -/

namespace Sys2Proof.Machine

/-! ### Memory regions -/

/-- Set a field of a memory region. -/
def wrMr (f : Fld) (i v : Nat) : M Unit := wr f (mrPage i) v (i % 128)

/-- A region enters a state; stuck drains may then succeed (R552). -/
def setRegion (i st : Nat) : M Unit := do
  wrMr F.secMrLimit_state i st
  modDev Dev.retryStuck

/-- First byte and length of a region. -/
def Dev.mrRange (d : Dev) (i : Nat) : Nat × Nat :=
  let b := d.mr F.secMrBase_base i
  (b * 65536, (d.mr F.secMrLimit_limit i + 1 - b) * 65536)

/-- The checks of an enable but for the arbiter's (R456). -/
def Dev.mrSound (d : Dev) (i : Nat) : Bool :=
  let b := d.mr F.secMrBase_base i
  let l := d.mr F.secMrLimit_limit i
  let (a, len) := d.mrRange i
  decide (b ≤ l) && d.populatedRange a len &&
  (List.range 256).all (fun j =>
    let st := d.mr F.secMrLimit_state j
    j == i || st == 0 || st == 4 || decide (d.mr F.secMrLimit_limit j < b) || decide (l < d.mr F.secMrBase_base j)) &&
  !(d.pow.lifeCycle == 3 && d.mr F.secMrBase_world i == 1)

/-- The activity of a slot is aborted by a wipe (R491): logged, and stopped at its safe point. -/
def abortSlot (region n : Nat) : M Unit := do
  let d ← dev
  let act := d.rd F.mntSlot_activity 0 n
  bump F.mntAborted_count 0
  record 0x405 3 (pg bMNT 0) (payloadOf [(0, act), (1, d.rd F.mntSlot_target 0 n), (2, d.rd F.mntSlot_channel 0 n),
    (3, region), (4, d.rd F.mntSlot_queue 0 n)])
  let mover := d.descs.find? fun x => !x.ended && (match x.mig with
    | some g => g.slot == n
    | none => false)
  match d.maintOf n, mover with
  | some x, _ => stopMaint x ⟨n⟩ sCANCELLED rNONE
  | none, some x => match x.mig with
    | some g => stopMigrate x g sCANCELLED rNONE
    | none => pure ()
  | none, none => wr F.mntSlot_state 0 2 n

/-- A wipe of a region that holds its token: every other activity is aborted, and it begins when they have stopped. -/
def startWipe (i slot : Nat) : M Unit := do
  modDev fun d => { d with wipes := d.wipes ++ [⟨i, slot, false, 0⟩] }
  setRegion i 1
  let d ← dev
  each ((List.range 32).filter fun n => d.rd F.mntSlot_state 0 n == 1 && d.rd F.mntSlot_activity 0 n != 11) (abortSlot i)
  beginWipes

/-- ENABLE = 1 on a region that is OFF or REFUSED (R456). -/
def enableRegion (i : Nat) (w : RegAcc) : M Unit := do
  let d ← dev
  let refuse : M Unit := do
    setRegion i 4
    w.refuse
  if !d.mrSound i then refuse
  else if d.mr F.secMrBase_world i = 0 then
    wrMr F.secMrBase_enable i 1
    setRegion i 2
  else
    match ← takeToken 11 i 0 0 with
    | none => refuse
    | some n =>
      wrMr F.secMrBase_enable i 1
      startWipe i n

/-- A write of SEC_MR_BASE (R456, R462). -/
def mrWrite (i v : Nat) (w : RegAcc) : M Unit := do
  let d ← dev
  let st := d.mr F.secMrLimit_state i
  let same := bits v 16 30 == d.mr F.secMrBase_base i && bits v 1 1 == d.mr F.secMrBase_world i &&
    bits v 2 1 == d.mr F.secMrBase_rd i && bits v 3 1 == d.mr F.secMrBase_wr i && bits v 4 1 == d.mr F.secMrBase_at i
  if st = 1 ∨ st = 3 then w.ignore
  else if st = 2 then
    if !same then w.ignore
    else if !bit v 0 then
      wrMr F.secMrBase_enable i 0
      setRegion i 3
  else
    wrMr F.secMrBase_base i (bits v 16 30)
    wrMr F.secMrBase_world i (bits v 1 1)
    wrMr F.secMrBase_rd i (bits v 2 1)
    wrMr F.secMrBase_wr i (bits v 3 1)
    wrMr F.secMrBase_at i (bits v 4 1)
    if bit v 0 then enableRegion i w

/-- SEC_MR_BASE is written with ENABLE = 1, whatever bit 0 of the operand holds. -/
def execMrEnable (i : Fin 256) (v : BitVec 64) (a : Agent) (s : State) : Host.Outcome State Fault Refusal :=
  transact (
    let v := setBits v.toNat 0 1 1
    let w := regAcc .secMrBase (mrPage i.val) (i.val % 128) v a
    w.run (mrWrite i.val v w)) s

/-- ENABLE is cleared, with the other fields as they stand. -/
def execMrDisable (i : Fin 256) (a : Agent) (s : State) : Host.Outcome State Fault Refusal :=
  transact (do
    let v := setBits ((← dev).word .secMrBase (mrPage i.val) (i.val % 128)) 0 1 0
    let w := regAcc .secMrBase (mrPage i.val) (i.val % 128) v a
    w.run (mrWrite i.val v w)) s

/-- No access checked before the disable is still out: none that waits under R308 or R493 touches the range, and no row
operation holds a row there. -/
def Dev.regionIdle (d : Dev) (i : Nat) : Bool :=
  let (a, len) := d.mrRange i
  !d.rowHeld a len && d.ms.held.all fun e => !(decide (a ≤ e.2.2.2.2 * 64) && decide (e.2.2.2.2 * 64 < a + len))

/-- A region has drained (R462). -/
def execMrDrainEnd (i : Fin 256) (s : State) : Host.Outcome State Fault Refusal :=
  transact (do
    let i := i.val
    let d ← dev
    need (d.mr F.secMrLimit_state i == 3 && d.regionIdle i)
    if d.mr F.secMrBase_world i = 0 then setRegion i 0
    else
      let n ← have! (← takeToken 11 i 0 0)
      startWipe i n) s

/-- What a wipe of a range leaves (R463): no line, no pin, no resident part, and zeros. A residency slot names its rows
by virtual address, so every live slot is dropped. -/
def wipeMemory (a len : Nat) : M Unit := do
  wipeRange a (a + len)
  let r := homeRegion a
  each (List.range 16) fun n => do
    let d ← dev
    if d.pinLive r n && decide (d.pinBase r n < a + len) && decide (a < d.pinBase r n + d.pinBytes r n) then releasePin r n
  each (List.range 8) fun m => do
    let st ← rd F.gclResCfg_state 64 m
    if st = 1 ∨ st = 2 then setSlot m 3

/-- The stamps of a wipe that has ended (R470). -/
def wipeEnds (busy : Bool) : M Unit := do
  wr F.secWipeEndEt_et 0 (← now)
  wr F.secWipeStat_busy 0 (b2n busy)
  bump F.secWipes_count 0

/-- The end of a region wipe: its bytes are zero, and it is OFF or, where it was enabled, ON. -/
def finishWipe (i : Nat) (w : Wipe) : M Unit := do
  let d ← dev
  let (a, len) := d.mrRange i
  wipeMemory a len
  modDev fun d => { d with wipes := d.wipes.filter fun v => v != w }
  wipeEnds ((← dev).wipes.any fun v => v.begun)
  setRegion i (if d.mr F.secMrBase_enable i = 1 then 2 else 0)
  raise (pg bSEC (mrPage i)) 1
  record 0x202 2 (pg bSEC (mrPage i)) (payloadOf [(0, 4), (1, i), (8, w.start), (16, d.time.et)])
  freeSlot w.slot

/-- A region wipe ends. -/
def execRegionWipeEnd (i : Fin 256) (s : State) : Host.Outcome State Fault Refusal :=
  transact (do
    let i := i.val
    let d ← dev
    need (d.pow.phase == 0)
    let w ← have! (d.wipes.find? fun w => w.region == i && w.begun)
    finishWipe i w) s

/-! ### Keys (R464, R465) -/

/-- Key bytes, or salt bytes, as one number. -/
def Dev.keyNumber (d : Dev) : Nat := payloadOf ((List.range 8).map fun n => (4 * n, d.rd F.secKey_key 0 n))
def Dev.saltNumber (d : Dev) : Nat := payloadOf ((List.range 3).map fun n => (4 * n, d.rd F.secSalt_salt 0 n))

/-- The association that the key registers describe. -/
def Dev.keyAssoc (d : Dev) : Assoc :=
  let xpn := d.rd F.secKeyCtl_xpn 0 == 1
  { port := d.rd F.secKeyCtl_port 0, rx := d.rd F.secKeyCtl_dir 0 == 1, an := d.rd F.secKeyCtl_an 0, xpn := xpn,
    key := d.keyNumber, salt := if xpn then d.saltNumber else 0, ssci := if xpn then d.rd F.secKeySsci_ssci 0 else 0,
    sci := d.rd F.secKeySci_sci 0, pn := if xpn then d.rd F.secKeyPn_pn 0 else d.rd F.secKeyPn_pn 0 % 2 ^ 32 }

/-- The association of a direction and number is installed. -/
def Dev.installed (d : Dev) (k : Assoc) : Bool := d.assocs.any fun a => a.port == k.port && a.rx == k.rx && a.an == k.an

/-- A key command ends: the key, salt and SSCI registers are cleared. -/
def endKey (ok : Bool) : M Unit := do
  wr F.secKeyCmd_done 0 (b2n ok)
  wr F.secKeyCmd_err 0 (b2n !ok)
  each (List.range 8) fun n => wr F.secKey_key 0 0 n
  each (List.range 3) fun n => wr F.secSalt_salt 0 0 n
  wr F.secKeySsci_ssci 0 0

/-- What bars every key command. -/
def Dev.noKeys (d : Dev) (p : Nat) : Bool :=
  d.pow.lifeCycle == 0 || d.pow.lifeCycle == 3 || d.rd F.txpState_state p == pOFF

/-- INSTALL: a transmit association replaces the one before it. -/
def installKey : M Unit := do
  let d ← dev
  let k := d.keyAssoc
  if d.noKeys k.port || (!k.rx && d.installed k) then endKey false
  else
    let before := d.portRuns k.port
    let rest := d.assocs.filter fun a => !(a.port == k.port && a.rx == k.rx && (!k.rx || a.an == k.an))
    modDev fun d => { d with assocs := rest ++ [k] }
    if k.rx then wr F.txpMacsec_rx_valid k.port (Nat.lor (d.rd F.txpMacsec_rx_valid k.port) (2 ^ k.an))
    else
      wr F.txpMacsec_tx_an k.port k.an
      wr F.txpMacsec_tx_valid k.port 1
      portEdge k.port before
      climb k.port
    endKey true

/-- REMOVE. A port without a transmit association has no key. -/
def removeKey : M Unit := do
  let d ← dev
  let k := d.keyAssoc
  if d.noKeys k.port || !d.installed k then endKey false
  else
    modDev fun d => { d with assocs := d.assocs.filter fun a => !(a.port == k.port && a.rx == k.rx && a.an == k.an) }
    if k.rx then wr F.txpMacsec_rx_valid k.port (d.rd F.txpMacsec_rx_valid k.port - 2 ^ k.an)
    else
      wr F.txpMacsec_tx_valid k.port 0
      portEdge k.port (d.portRuns k.port)
      if d.rd F.txpState_state k.port = pUP then setPortState k.port pNO_KEY
    endKey true

/-- SEC_KEY_CMD.INSTALL. -/
def execSecKeyInstall (a : Agent) (s : State) : Host.Outcome State Fault Refusal :=
  transact ((regAcc .secKeyCmd 0 0 1 a).run installKey) s

/-- SEC_KEY_CMD.REMOVE. -/
def execSecKeyRemove (a : Agent) (s : State) : Host.Outcome State Fault Refusal :=
  transact ((regAcc .secKeyCmd 0 0 2 a).run removeKey) s

end Sys2Proof.Machine
end

