-- ==== Sys2Proof/Machine/Pages.lean ====
section
/-! DEFINITION. The common layout of the pages (R525 to R535): interrupts, counters, enables, fences (R27, R107, R495),
function resets (R480, R481) and world changes (R452, R454). -/

namespace Sys2Proof.Machine

/-! ### The registers of a page -/

/-- Every register of a page but PAGE_WORLD, with the page and index that name it. -/
def pageRegs (page : Nat) : List (RegName × Nat × Nat) :=
  (RegName.all.map fun r =>
    let i := r.info
    if r = .pageWorld then []
    else if i.blk = 0 then [(r, page, 0)]
    else if i.blk = page / 256 ∧ i.first ≤ page % 256 ∧ page % 256 ≤ i.last then
      (List.range i.count).map fun n => (r, page % 256, n)
    else []).flatten

/-- The register at an offset of a page, with the page and index that name it (R525). -/
def regAt (page off : Nat) : Option (RegName × Nat × Nat) :=
  RegName.all.findSome? fun r =>
    let i := r.info
    if (r = .rgnCapo ∨ r = .rgnCapoAct) ∧ 5 ≤ (off - i.off) / 4 % 8 then none  -- classes are 0 to 4 (R332)
    else if i.blk = 0 then (if i.off = off then some (r, page, 0) else none)
    else if i.blk = page / 256 ∧ i.first ≤ page % 256 ∧ page % 256 ≤ i.last ∧ i.off ≤ off then
      let n := (off - i.off) / max i.stride 1
      if n < i.count ∧ i.off + n * i.stride = off then some (r, page % 256, n) else none
    else none

/-- Fields that show live hardware state, which no reset of their block changes (R21). -/
def liveFields : List Fld :=
  [F.mrgOcc_used, F.mrgRoUsed_kib, F.mrgRoUsed_items, F.optArmed_count,
   F.hbcState_state, F.hbcState_rate, F.hbcState_ref, F.hbcState_from_map, F.hbcTemp_temp, F.hbcChFail_failed,
   F.ctpState_state, F.ctpState_ref, F.ctpState_size_gib, F.ctpTemp_temp,
   F.trnBatchState_open, F.trnBatchState_pending, F.trnBatchState_waiting,
   F.txpRunout_used, F.txpRunout_withheld, F.txpRetainUsed_kib, F.txpPtpState_state,
   F.txpModule_present, F.txpModule_ready, F.txpModule_lock, F.txpModule_fec_lock,
   F.txpPeerStat_state, F.txpPeerStat_session, F.txpPtpClock_source, F.txpPtpClock_source_valid,
   F.cpeJrnData_data, F.hlkState_state, F.hlkState_cache_en, F.secLcState_state, F.secLcState_pending,
   F.secWipeStat_busy, F.pwrState_state, F.pwrState_busy, F.pwrAvs_vddc0, F.pwrAvs_vddc1,
   F.mntSlot_activity, F.mntSlot_target, F.mntSlot_channel, F.mntSlot_state, F.mntSlot_queue, F.mntUeInfo_waiters,
   F.evrState_mode, F.evrState_startup, F.evrState_staged, F.evrState_compacting, F.evrState_free_blocks,
   F.evrNewest_seq, F.evrNewestSlot_slot, F.evrNewestSlot_seed, F.evrRdData_data,
   F.trcTemp_die0, F.trcTemp_die1, F.timState_state, F.timBound_ticks, F.timRateInt_int,
   F.timRateFrac_frac, F.queInflight_count, F.brgState_state, F.brgState_spares_used]

/-- A field of a register as a name. -/
def Field.fld (f : Field) (r : RegName) : Fld := ⟨r, f.lo, f.len⟩

/-- One register with the fields that a test selects at their reset values (R20). -/
def Dev.resetFields (d : Dev) (p : Field → Bool) (e : RegName × Nat × Nat) : Dev :=
  let r := e.1
  let w := (r.info.fields.filter fun f => p f && !liveFields.contains (f.fld r)).foldl (fun w f =>
    setBits w f.lo f.len (bits (r.resetWord e.2.1 e.2.2) f.lo f.len)) (d.word r e.2.1 e.2.2)
  d.setWord r e.2.1 e.2.2 w

/-- The registers of a page with the fields that a test selects at their reset values. -/
def Dev.resetPage (d : Dev) (p : Field → Bool) (page : Nat) : Dev :=
  (pageRegs page).foldl (fun d e => d.resetFields p e) d

/-- Every register with the fields that a test selects at their reset values. A register that is not listed stands at its
reset value already. -/
def Dev.resetAll (d : Dev) (p : Field → Bool) : Dev :=
  d.regs.foldl (fun d e => match regAt (e.1 / 4096) (e.1 % 4096) with
    | some r => d.resetFields p r
    | none => d) d

/-! ### Page states (R530, R531) -/

/-- Pages whose FENCE bit acts: clusters and regions (R529). -/
def fenceable (page : Nat) : Bool :=
  (page / 256 == bGCL && decide (page % 256 < 64)) || (page / 256 == bRGN && decide (page % 256 < 8))

/-- Pages whose ENABLE can be written (R529). -/
def enableable (page : Nat) : Bool :=
  let t := page / 256
  !(t == bGLB || t == bTIM || page == pg bQUE 0 || t == bHLK || t == bSEC || t == bPWR || t == bEVR || t == bMNT || t == bCCX)

/-- A page is fenced, by its own bit or with its region (R531). -/
def Dev.fenceHeld (d : Dev) (page : Nat) : Bool :=
  d.rd F.pageCtrl_fence page == 1 ||
    (page / 256 == bGCL && decide (page % 256 < 64) && d.regionFenced (page % 256 / 8))

/-- The state of a page with no work in it. -/
def Dev.restState (d : Dev) (page : Nat) : Nat :=
  if d.fenceHeld page then 3
  else if d.rd F.pageCtrl_enable page = 0 then 0
  else if d.rd F.evrState_startup 0 = 0 then 2 else 1

/-- Show it. -/
def rest (page : Nat) : M Unit := modDev fun d => d.wr F.pageState_state page (d.restState page)

/-! ### Users of a block (R529) -/

/-- A descriptor uses an instance of a block. -/
def Dev.uses (d : Dev) (page : Nat) (x : Desc) : Bool :=
  let t := page / 256
  let i := page % 256
  let op := x.opcode
  let mask := match x.work with
    | .interact _ _ => x.itMask
    | _ => 0
  !x.ended &&
  (if t = bQUE then decide (1 ≤ i) && x.q / 16 == i - 1
   else if (t = bGCL ∧ i < 64) ∨ t = bSEQ ∨ t = bACM then x.lookup.isSome && x.clusterSet.contains i
   else if t = bGCL then x.lookup.any fun l => l.slot.isSome
   else if t = bQNT then decide (i < 2) && !x.tabs.isEmpty && (x.lookup.isNone || x.lookupDies.contains i)
   else if t = bMRG then op == 0x21 || (i == 8 && (op == 0x40 || op == 0x41))
   else if t = bOPT then op == 0x20 || op == 0x22 || op == 0x23
   else if t = bINT then bit mask i
   else if t = bMIG then op == 0x32
   else if t = bCPE then (match x.copy with
     | some c => if i = 16 then c.jrn.isSome else c.engine == i
     | none => false)
   else if t = bHLK then x.usesHost
   else if t = bHBC ∨ t = bRGN ∨ t = bMNT ∨ t = bEVR then (match x.work with
     | .maint m =>
       let kind := targetKind (d.rd F.mntSlot_activity 0 m.slot)
       t == bMNT || (t == bHBC && kind == 0 && d.rd F.mntSlot_target 0 m.slot == i) ||
         (t == bRGN && kind == 1 && d.rd F.mntSlot_target 0 m.slot == i) || (t == bEVR && kind == 2)
     | .migrate _ => t == bMNT
     | .inval _ => t == bMNT
     | _ => false)
   else if t = bTXP then (if i = 8 then x.isIngest || op == 0x40 || op == 0x41
     else (x.isIngest && (d.peer x.cpSrc).port == i) || (x.exch.any fun e => e.away.any fun a => a.2.any fun n =>
       (d.peer n).port == i))
   else false)

/-- Descriptors that use an instance. -/
def Dev.users (d : Dev) (page : Nat) : List Desc := d.descs.filter (d.uses page)

/-! ### Function resets (R481) -/

/-- What a cluster holds is lost: its accumulators, and the owners of its tiles (R481, R486). -/
def loseTiles (c : Nat) : M Unit := do
  each (range' (c * 128) 128) fun tile => modDev fun d => d.setOwner tile none
  modDev fun d => { d with accs := { d.accs with
    lanes := SMap.clear d.accs.lanes (c * 2 ^ 21) ((c + 1) * 2 ^ 21),
    sides := SMap.clear d.accs.sides (c * 2 ^ 13) ((c + 1) * 2 ^ 13) } }
  modDev fun d => (List.range 4).foldl (fun d n => d.setWord .acmSat c n 0) d

/-- The work of a cluster ends: its slices are lost, and each descriptor with one there is cancelled. -/
def endCluster (c : Nat) : M Unit := do
  stopAll ((← dev).users (pg bGCL c)) sCANCELLED rNONE
  stopSlice c
  modDev fun d => d.dropWaiters fun w => w.rq == .cluster c
  loseTiles c

/-- The work of a port ends: its peers are lost and it goes to OFF. -/
def endPort (p : Nat) : M Unit := do
  losePort p
  setPortState p pOFF
  modDev fun d => d.setPh p { d.ph p with owdCount := 0, owdSum := 0, owdMin := 0, owdMax := 0 }

/-- The running work of a block instance ends at its cancel points. A region's work is that of its clusters and stages,
and its port's sessions (R494). -/
def endWork (page : Nat) : M Unit := do
  let t := page / 256
  let i := page % 256
  if t = bQUE then (if i = 0 then pure () else each (range' (16 * (i - 1)) 16) resetQueue)
  else if (t = bGCL ∧ i < 64) ∨ t = bSEQ ∨ t = bACM then endCluster i
  else if t = bTXP then (if i < 8 then endPort i else pure ())
  else if t = bRGN then
    each (range' (8 * i) 8) endCluster
    stopAll ((← dev).users (pg bINT i)) sCANCELLED rNONE
    losePort i
    stopAll ((← dev).users page) sCANCELLED rNONE
  else if t = bQNT ∧ i = 2 then
    if (← rd F.qntLoadStat_state 2) = 1 then endLoad 5 0 else pure ()
  else if t = bCPE then
    match (← dev).copyRunning i with
    | some x => if i < 16 then stopAll [x] sCANCELLED rNONE else pure ()
    | none => pure ()
  else if t = bTRN ∨ t = bLLS ∨ (t = bGCL ∧ i = 64) then pure ()
  else stopAll ((← dev).users page) sCANCELLED rNONE

/-- What a block shows after its None fields have been reset. -/
def reshow (page : Nat) : M Unit := do
  let t := page / 256
  let i := page % 256
  if t = bTXP ∧ i < 8 then
    modDev fun d => { d with assocs := d.assocs.filter fun a => a.port != i }
    modPtp i fun _ => PtpPort.none
    wr F.txpPtpState_state i 0
    syncPtp
    if (← rd F.pageCtrl_enable page) = 1 ∧ (← rd F.txpState_enable i) = 1 then climb i
  else if t = bINT then modDev Dev.syncInt
  else if t = bCPE then (if i < 16 then syncCopy i else showJrn)
  else if t = bCCX then
    wr F.ccxState_state i 1
    let et ← now
    modDev fun d => { d with pow := { d.pow with beatEt := SMap.set 0 d.pow.beatEt i et } }
  else if t = bTIM then modTime fun t => { t with skew := 0 }
  else if t = bEVR then modDev fun d => d.syncRecorder.syncRdData
  else if t = bTXP then modDev Dev.syncPeer
  else if t = bHBC then modDev fun d => d.syncTg i
  else if t = bSEQ then (match ((← dev).cl i).slice with
    | some _ => pure ()
    | none => wr F.seqStatus_state i qsIDLE)
  else pure ()

/-- A function reset of an instance: its work ends, its fields kept through None are reset, and its state follows from
FENCE and ENABLE (R481, R531). SEQ_ERR.KIND, which R117 reads as 'since the last function reset', and QNT_LOAD_STAT.STATE,
whose IDLE R197 reads so, are kept through E3 by R115 and R196 with R21: they are kept here (DESIGN CHOICE, log entry 153). -/
def functionReset (page : Nat) : M Unit := do
  endWork page
  modDev fun d => d.resetPage (fun f => f.kept == .none) page
  reshow page
  rest page

/-! ### Enables -/

/-- A write of PAGE_CTRL.ENABLE (R531). -/
def enableWrite (page : Nat) (on : Bool) : M Unit := do
  if enableable page && (← rdB F.pageCtrl_enable page) != on then
    wr F.pageCtrl_enable page (b2n on)
    if !on then endWork page
    else if page / 256 = bTXP ∧ page % 256 < 8 then
      if (← rd F.txpState_enable (page % 256)) = 1 then climb (page % 256) else pure ()
    rest page

/-! ### Fences (R27, R107, R495, R531) -/

/-- A cluster is fenced: nothing more is handed out, what is not delivered is dropped, and its slice is held (R107). The
open runs of its bags end with the last term that its units finish (R134). -/
def holdCluster (c st : Nat) : M Unit := do
  match ((← dev).cl c).slice with
  | some s =>
    if s.prog.isEmpty then pure () else dropItems c
    match (← dev).desc s.q s.seq with
    | some x => if (((← dev).cl c).taken.any fun i => i.kind == .row) then pure () else promoteOpen c x
    | none => pure ()
    modDev fun d => { d.dropWaiters (fun w => w.rq == .cluster c && w.q == s.q && w.seq == s.seq) with
      remotes := d.remotes.filter fun r => !(r.w.rq == .cluster c && r.w.q == s.q && r.w.seq == s.seq) }
    modDev fun d => (d.keepHeld fun e => !(e.1 == 1 && e.2.1 == c)).keepCapo fun e => !(e.kind == 1 && e.inst == c)
    modCl c fun k => { k with wait := none, fetching := false }
    wr F.seqStatus_state c qsHELD
  | none => pure ()
  wr F.pageState_state (pg bGCL c) st

/-- A cluster that no fence holds goes on: a held slice restarts at its committed resume point in a fetch phase (R107). The
first term after it starts a new run (R133). -/
def freeHeld (c : Nat) : M Unit := do
  rest (pg bGCL c)
  let d ← dev
  if !d.fenceHeld (pg bGCL c) && d.rd F.seqStatus_state c == qsHELD then
    match (d.cl c).slice with
    | none => wr F.seqStatus_state c qsIDLE
    | some s =>
      if s.prog.isEmpty then wr F.seqStatus_state c qsLOADING
      else
        match d.desc s.q s.seq with
        | some x => if x.isPool then promoteOpen c x else pure ()
        | none => pure ()
        let held := (d.cl c).taken.filter fun i => i.kind == .row && i.bag == s.committed.closes
        modCl c fun k => { k with slice := k.slice.map fun s =>
          { s with cur := s.committed, openRows := (s.run s.committed.closes).rows + held.length, stopped := false } }
        bump F.seqRestarts_count c
        toFetch c

/-- Set FENCE: 3 shows FENCED, 4 ERROR. -/
def fence (page st : Nat) : M Unit := do
  let i := page % 256
  wr F.pageCtrl_fence page 1
  if page / 256 = bGCL then holdCluster i st
  else
    wr F.pageState_state page st
    each (range' (8 * i) 8) fun c => do
      if (← rd F.pageState_state (pg bGCL c)) = 4 then pure () else holdCluster c 3
    modDev Dev.syncInt

/-- Clear FENCE. -/
def readmit (page : Nat) : M Unit := do
  let i := page % 256
  wr F.pageCtrl_fence page 0
  if page / 256 = bGCL then freeHeld i
  else
    rest page
    each (range' (8 * i) 8) fun c => do
      if (← rd F.pageCtrl_fence (pg bGCL c)) = 1 then pure () else freeHeld c
    modDev Dev.syncInt

/-- A write of PAGE_CTRL.FENCE; where the page has none, a write of 1 is ignored and recorded (R529). -/
def fenceWrite (page : Nat) (on : Bool) (w : RegAcc) : M Unit := do
  if !fenceable page then (if on then w.ignore else pure ())
  else if (← rdB F.pageCtrl_fence page) != on then
    if on then fence page 3 else readmit page

/-- A write of PAGE_CTRL: FENCE and ENABLE first, the function reset after (R531). -/
def ctrlWrite (page v : Nat) (w : RegAcc) : M Unit := do
  fenceWrite page (bit v 2) w
  enableWrite page (bit v 0)
  if bit v 1 then functionReset page

/-- The write of a register of the common layout. -/
def pageAcc (page off data : Nat) (a : Agent) : RegAcc := ⟨page, off, 2, data, a⟩

/-- PAGE_CTRL as it reads, with some of its bits set and others cleared. -/
def Dev.ctrlWith (d : Dev) (page set clear : Nat) : Nat :=
  let v := d.word .pageCtrl page 0
  Nat.lor (v - Nat.land v clear) set

/-- A write of PAGE_CTRL that changes some bits and leaves the others as they stand. -/
def ctrlChange (page set clear : Nat) (a : Agent) : M Unit := do
  let v := (← dev).ctrlWith page set clear
  let w := pageAcc page 0x10 v a
  w.run (ctrlWrite page v w)

/-- PAGE_CTRL.FUNCTION_RESET. -/
def execFunctionReset (page : Fin 8192) (a : Agent) (s : State) : Host.Outcome State Fault Refusal :=
  transact (ctrlChange page.val 2 0 a) s

/-- PAGE_CTRL.ENABLE. -/
def execPageEnable (page : Fin 8192) (on : Bool) (a : Agent) (s : State) : Host.Outcome State Fault Refusal :=
  transact (ctrlChange page.val (b2n on) (b2n !on) a) s

/-- PAGE_CTRL.FENCE is set. -/
def execPageFence (page : Fin 8192) (a : Agent) (s : State) : Host.Outcome State Fault Refusal :=
  transact (ctrlChange page.val 4 0 a) s

/-- PAGE_CTRL.FENCE is cleared. -/
def execPageReadmit (page : Fin 8192) (a : Agent) (s : State) : Host.Outcome State Fault Refusal :=
  transact (ctrlChange page.val 0 4 a) s

/-- An uncorrectable logic error fences its cluster or region, which shows ERROR (R26, R531). -/
def execLogicErrorFence (page : Fin 8192) (s : State) : Host.Outcome State Fault Refusal :=
  transact (do
    let p := page.val
    need (fenceable p)
    fence p 4
    modDev fun d => (d.wr F.evrCtl_recovery 0 1).syncRecorder
    record 0x801 4 p (payloadOf [(0, b2n (p / 256 == bRGN)), (1, p % 256)])) s

/-! ### Worlds of pages (R452, R454) -/

/-- What returning every register of a page to its reset value means for its block. -/
def afterWorld (page : Nat) : M Unit := do
  let t := page / 256
  let i := page % 256
  if t = bGCL ∧ i = 64 then modDev fun d => { d with residents := [] }
  else if t = bQNT ∧ i = 2 then modDev fun d => { d with quant := { d.quant with users := [] } }
  else pure ()
  reshow page

/-- The world of a page changes: a function reset, every register at its reset value, then the new world. -/
def changeWorld (page world : Nat) : M Unit := do
  functionReset page
  if page / 256 = bLLS ∧ 64 ≤ page % 256 then
    each (List.range 16) fun n => releasePin (page % 256 - 64) n
    setWays (page % 256 - 64) 12 0 4
  modDev fun d => d.resetPage (fun _ => true) page
  afterWorld page
  wr F.pageWorld_world page world
  rest page

/-- The pages whose world never changes. -/
def worldFixed (page : Nat) : Bool := page / 256 == bSEC || page / 256 == bCCX

/-- The conditions of a world change (R454). -/
def Dev.worldFree (d : Dev) (page : Nat) : Bool :=
  (d.users page).isEmpty &&
  !(page / 256 == bQUE && decide (1 ≤ page % 256) && d.descs.any fun x => x.q / 16 == page % 256 - 1) &&
  !((enableable page || fenceable page) && d.rd F.pageState_state page == 2)

/-- A write of PAGE_WORLD. -/
def worldWrite (page v : Nat) (w : RegAcc) : M Unit := do
  let d ← dev
  let new := bits v 0 1
  if !worldFixed page && new != d.pageWorld page then
    if d.rd F.pageWorld_lock page = 1 then w.capture kLOCKED
    else if !d.worldFree page then w.ignore
    else changeWorld page new
  if bit v 1 then wr F.pageWorld_lock page 1

/-- PAGE_WORLD.WORLD. -/
def execPageWorldWrite (page : Fin 8192) (secure : Bool) (a : Agent) (s : State) : Host.Outcome State Fault Refusal :=
  transact (let w := pageAcc page.val 8 (b2n secure) a
    w.run (worldWrite page.val (b2n secure) w)) s

/-- PAGE_WORLD.LOCK, with WORLD as it stands. -/
def execPageWorldLock (page : Fin 8192) (a : Agent) (s : State) : Host.Outcome State Fault Refusal :=
  transact (do
    let v := 2 + (← pageWorld page.val)
    let w := pageAcc page.val 8 v a
    w.run (worldWrite page.val v w)) s

/-! ### Interrupts (R529, R534) -/

/-- The bits of PAGE_IRQ_STAT that a page's block assigns. -/
def assignedBits (page : Nat) : Nat :=
  let t := page / 256
  let i := page % 256
  if t = bQUE then (if 1 ≤ i then 0xFFFF else 0)
  else if t = bQNT then (if i = 2 then 3 else 0)
  else if t = bTRN then (if i = 64 ∨ i = 65 then 7 else 0)
  else if t = bSEC then (if i = 0 then 3 else 2)
  else if t = bTXP then (if i < 8 then 15 else 1)
  else if t = bHLK then 7
  else if t = bPWR ∨ t = bMNT then 3
  else if t = bMIG ∨ t = bCCX then 1
  else 0

/-- PAGE_IRQ_STAT is written. -/
def irqStatWrite (page v : Nat) : M Unit := modDev fun d =>
  let stat := d.word .pageIrqStat page 0
  d.setIrq page (stat - Nat.land stat v) (d.word .pageIrqEn page 0) true

/-- PAGE_IRQ_EN is written. -/
def irqEnWrite (page v : Nat) : M Unit := modDev fun d => d.setIrq page (d.word .pageIrqStat page 0) v false

/-- PAGE_IRQ_FORCE is written. -/
def irqForceWrite (page v : Nat) : M Unit := modDev fun d =>
  d.setIrq page (Nat.lor (d.word .pageIrqStat page 0) (Nat.land v (assignedBits page))) (d.word .pageIrqEn page 0) false

/-- A W1C write of PAGE_IRQ_STAT. -/
def execPageIrqStatClear (page : Fin 8192) (v : BitVec 32) (a : Agent) (s : State) : Host.Outcome State Fault Refusal :=
  transact ((pageAcc page.val 0x18 v.toNat a).run (irqStatWrite page.val v.toNat)) s

/-- A write of PAGE_IRQ_EN. -/
def execPageIrqEnWrite (page : Fin 8192) (v : BitVec 32) (a : Agent) (s : State) : Host.Outcome State Fault Refusal :=
  transact ((pageAcc page.val 0x1C v.toNat a).run (irqEnWrite page.val v.toNat)) s

/-- A write of PAGE_IRQ_FORCE. -/
def execPageIrqForce (page : Fin 8192) (v : BitVec 32) (a : Agent) (s : State) : Host.Outcome State Fault Refusal :=
  transact ((pageAcc page.val 0x20 v.toNat a).run (irqForceWrite page.val v.toNat)) s

/-! ### Counters -/

/-- CTR_CTL of a page, where it has one. -/
def ctrCtl (page : Nat) : Option RegName :=
  let t := page / 256
  let i := page % 256
  if page = pg bQUE 0 then some .queCtrCtl
  else if t = bGCL ∧ i < 64 then some .gclCtrCtl
  else if t = bQNT ∧ i < 2 then some .qntCtrCtl
  else if t = bMRG then some (if i < 8 then .mrgCtrCtl else .mrgCtrCtl8)
  else if t = bLLS ∧ i < 64 then some .llsCtrCtl
  else if t = bTRN ∧ i < 64 then some .trnL1CtrCtl
  else if t = bTRN ∧ i < 66 then some .trnCtrCtl
  else if t = bMIG then some .migCtrCtl
  else if t = bTXP ∧ i = 8 then some .txpCtrCtl
  else none

/-- The counters of one page read zero. -/
def Dev.clearCounters (d : Dev) (page : Nat) : Dev :=
  ((pageRegs page).filter fun e => e.1.isCounter).foldl (fun d e => d.setWord e.1 e.2.1 e.2.2 0) d

/-- CLEAR: the counters of the page, and the peaks that go with them; on TXP page 8 those of every TXP page. -/
def counterClear (page : Nat) : M Unit := do
  let t := page / 256
  let i := page % 256
  if (ctrCtl page).isSome then
    if t = bTXP then
      each (List.range 9) fun p => modDev fun d => d.clearCounters (pg bTXP p)
      each (List.range 8) fun p => wr F.txpRunout_peak p 0
    else
      modDev fun d => d.clearCounters page
      if t = bMRG ∧ i < 8 then wr F.mrgOcc_peak i 0

/-- CTR_CTL.CLEAR, with FREEZE as it stands. A page without CTR_CTL has nothing there to write. -/
def execCounterClear (page : Fin 8192) (a : Agent) (s : State) : Host.Outcome State Fault Refusal :=
  transact (do
    let p := page.val
    let (off, v) ← match ctrCtl p with
      | some r => do pure (r.info.off, Nat.lor 1 ((← dev).word r (p % 256) 0))
      | none => pure (0x100, 1)
    (pageAcc p off v a).run (counterClear p)) s

/-- PEAK_CLEAR: the highest reading starts again at zero. -/
def peakClear (page : Nat) : M Unit := do
  if page / 256 = bHBC then wr F.hbcTemp_peak (page % 256) 0
  else if page / 256 = bCTP then wr F.ctpTemp_peak (page % 256) 0

/-- HBC_TEMP.PEAK_CLEAR or CTP_TEMP.PEAK_CLEAR, with CRIT as it stands. -/
def execPeakClear (page : Fin 8192) (a : Agent) (s : State) : Host.Outcome State Fault Refusal :=
  transact (do
    let p := page.val
    let d ← dev
    let v := 2 ^ 16 + 2 ^ 24 * (if p / 256 = bHBC then d.rd F.hbcTemp_crit (p % 256) else d.rd F.ctpTemp_crit (p % 256))
    (pageAcc p 0x104 v a).run (peakClear p)) s

end Sys2Proof.Machine
end

