-- ==== Sys2Proof/Machine/Power.lean ====
section
/-! DEFINITION. Supplies, power states, resets and life-cycle changes (R466 to R488), control cores (R547, R548) and the
bridge (R550). -/

namespace Sys2Proof.Machine

/-- A change of the power controller's own bookkeeping. -/
def modPow (f : Power → Power) : M Unit := modDev fun d => { d with pow := f d.pow }

/-! ### What a reset leaves (R482, R486) -/

/-- Kinds and causes of resets (R497, R498). -/
def rkENGINE : Nat := 1
def rkCOLD : Nat := 2
def rkLC : Nat := 3
def rcPOWER_ON : Nat := 0
def rcREQUEST : Nat := 1
def rcCONTROLLER : Nat := 2
def rcFATAL : Nat := 3
def rcLIFE_CYCLE : Nat := 4
def rcPOWER_LOSS : Nat := 5

/-- Fields that an engine reset clears, and those that a cold reset keeps (R21). -/
def Field.clearedByEr (f : Field) : Bool := f.kept == .none || f.kept == .e1 || f.kept == .e3
def Field.keptByCr (f : Field) : Bool := f.kept == .e4 || f.kept == .lc

/-- Nodes after a reset: no session, and nothing sent or received. -/
def Dev.resetPeers (d : Dev) : SMap Peer :=
  d.peers.foldl (fun m e => SMap.set Peer.none m e.1
    { Peer.none with lastSession := if e.2.session = 0 then e.2.lastSession else e.2.session, met := e.2.met }) []

/-- What an engine reset wipes beside registers and memory (R469, R486): everything in progress, accumulators, stream
buffers, codebooks, translations, merge tables, reorder stores, sessions and associations. -/
def Dev.wiped (d : Dev) : Dev :=
  { State.resetDev with
    regs := d.regs, time := d.time, evr := d.evr, pow := d.pow,
    ms := { State.resetDev.ms with
      marks := d.ms.marks, out := d.ms.out, cool := d.ms.cool, steps := d.ms.steps, hot := d.ms.hot,
      capoEt := d.ms.capoEt },
    nextTag := d.nextTag, peers := d.resetPeers, wire := d.wire, nextCall := d.nextCall, eapol := d.eapol,
    wipes := d.wipes, path := d.path, heldEt := d.heldEt, d3hot := d.d3hot, ptpOut := d.ptpOut, irqs := d.irqs, free := d.free }

/-- Fields that show live state, after a reset has emptied what they show. -/
def Dev.emptied (d : Dev) : Dev :=
  let d := (List.range 9).foldl (fun d p => (((d.setWord .mrgOcc p 0 0).setWord .mrgRoUsed p 0 0).setWord
    .txpRunout p 0 0).setWord .txpRetainUsed p 0 0) d
  let d := (List.range 32).foldl (fun d n =>
    if d.wipes.any fun w => w.slot == n then d else d.setWord .mntSlot 0 n 0) d
  let d := (List.range 16).foldl (fun d s =>
    let st := d.rd F.hbcState_state s
    let d := if st = 3 ∨ st = 4 then d.wr F.hbcState_state s (if d.ms.hot.contains s then 3 else 2) else d
    let ct := d.rd F.ctpState_state s
    let d := if ct = 3 then d.wr F.ctpState_state s (if d.ms.hot.contains (16 + s) then 3 else 2) else d
    d.syncRef s) d
  let d := [64, 65].foldl (fun d p => d.setWord .trnBatchState p 0 0) d
  let d := [0, 1].foldl (fun d p => if d.rd F.brgState_state p = 2 then d.wr F.brgState_state p 0 else d) d
  let d := (List.range 8).foldl (fun d k => d.wr F.ccxState_state k 1) d
  (((d.wr F.queInflight_count 0 0).wr F.optArmed_count 8 0).wr F.mntUeInfo_waiters 0 0).syncPeer

/-- The recorder is in its start-up condition from the start of a reset (R506). -/
def Dev.startup (d : Dev) (recovery : Bool) : Dev :=
  let d := d.wr F.evrState_startup 0 1
  (if recovery then d.wr F.evrCtl_recovery 0 1 else d).syncRecorder

/-- The wipe of a reset, with its stamps and its record (R470). -/
def resetWipe (kind : Nat) : M Unit := do
  let et ← now
  wr F.secWipeStat_kind 0 kind
  wr F.secWipeStartEt_et 0 et
  wr F.secWipeEndEt_et 0 et
  bump F.secWipes_count 0
  raise (pg bSEC 0) 1
  record 0x202 2 (pg bSEC 0) (payloadOf [(0, kind), (8, et), (16, et)])

/-! ### Quiesce and write-back (R482, R483) -/

/-- A reset ends every activity at once (R491). -/
def endActivities : M Unit := do
  each ((← dev).descs.filter fun x => !x.ended && (match x.work with
      | .maint _ => true
      | _ => false)) fun x => do
    match x.work with
    | .maint m => modDev fun d => d.setWord .mntSlot 0 m.slot 0
    | _ => pure ()
    endWith x.q x.seq sCANCELLED rNONE

/-- One pass over the merge tables: every unit that can drain drains. True where some entry left. -/
def drainPass : M Bool := do
  let total : M Nat := do
    let d ← dev
    return ((List.range 8).map fun r => (d.merges r).length).foldl (· + ·) 0
  let before ← total
  each (List.range 8) fun r => do
    each ((← dev).merges r) fun m => do
      if ((← dev).merges r).contains m && !m.append && m.stuck != 1 then
        let _ ← tried (drainUnit r m)
  return decide ((← total) < before)

/-- One pass over the reorder stores: true where some row was applied. -/
def applyPass : M Bool := do
  let done ← collect (List.range 8) fun r => tried (applyItem r)
  return done.any id

/-- Records of what has ended are written, where their rings can be reached. -/
def retireAll : M Unit := do
  each (← dev).descs fun x => do
    let d ← dev
    match d.desc x.q x.seq with
    | some y =>
      if y.ended && (y.relaxed || ((d.descsOf y.q).head?.map fun z => z.seq) == some y.seq) then
        let _ ← tried (retire y)
    | none => pure ()

/-- Nodes in session. -/
def Dev.inSession (d : Dev) : List Nat := (d.peers.filter fun e => e.2.session').map Prod.fst

/-- Phase 2: every descriptor is cancelled, merge tables and reorder stores drain, what the peers have not applied is
spilled, records are written. True where nothing is left but stuck drains. -/
def quiesce : M Bool := do
  endActivities
  stopAll (← dev).descs sCANCELLED rNONE
  each (← dev).batches closeBatch
  each (← dev).inSession fun n => losePeer n 5
  finishInvals
  repeatM 64 drainPass
  modDev fun d => { d with reorder := d.reorder.map fun i => { i with released := true } }
  repeatM 65536 applyPass
  each (← dev).batches closeBatch
  each (← dev).peers fun e => if e.2.unapplied.isEmpty && e.2.owed.isEmpty then pure () else spillAll e.1 e.2.unapplied
  retireAll
  retireAll
  let d ← dev
  return d.descs.isEmpty && d.reorder.isEmpty && d.batches.isEmpty && d.peers.all (fun e => e.2.unapplied.isEmpty && e.2.owed.isEmpty) &&
    (List.range 8).all fun r => (d.merges r).all fun m => m.stuck == 1

/-- Dirty lines outside SCRATCH ways. -/
def Dev.dirty (d : Dev) : List Nat :=
  (d.ms.lines.filter fun e => (match e.2 with
    | some l => l.dirty
    | none => false) && partitionOf (e.1 * 64) != 2).map Prod.fst

/-- Phase 3: dirty lines are written to their homes, where these are awake. True where none is left. -/
def writeAll : M Bool := do
  let d ← dev
  each (d.dirty.filter fun n => !d.inSelfRefresh (n * 64)) writeBack
  return (← dev).dirty.isEmpty

/-! ### Engine reset (R482, R483, R486) -/

/-- Region wipes that the reset has interrupted start again whole (R463). -/
def restartWipes : M Unit := do
  let et ← now
  modDev fun d => { d with wipes := d.wipes.map fun w => { w with begun := true, start := et } }
  match (← dev).wipes with
  | [] => wr F.secWipeStat_busy 0 0
  | w :: _ =>
    wr F.secWipeStat_kind 0 4
    wr F.secWipeStat_busy 0 1
    wr F.secWipeStat_region 0 w.region
    wr F.secWipeStartEt_et 0 et

/-- Every port is OFF, and its associations are gone. -/
def portsOff : M Unit := do
  each (List.range 8) fun p => do
    if (← rd F.txpState_state p) ≠ pOFF then setPortState p pOFF
  modDev fun d => { d with assocs := [] }
  syncPtp

/-- Phases 4 to 6: what has not drained or been written back is lost and counted; the wipe; registers. -/
def engineRestart : M Unit := do
  let d ← dev
  let lost := ((List.range 8).map fun r => (d.merges r).length).foldl (· + ·) 0
  let dirty := d.dirty
  each dirty discardLine
  wipe (scratchBase 0) (scratchBase 64)
  each d.inSession fun n => losePeer n 5
  portsOff
  modDev fun d => ((d.wiped.resetAll Field.clearedByEr).emptied.startup true)
  wr F.pwrDrainLost_count 0 ((← rd F.pwrDrainLost_count 0) + lost)
  wr F.pwrWbLost_count 0 ((← rd F.pwrWbLost_count 0) + dirty.length)
  if lost + dirty.length ≠ 0 then record 0x203 4 (pg bPWR 0) (payloadOf [(0, lost), (4, dirty.length)])
  calibrate
  resetWipe rkENGINE
  wr F.pwrResetEt_et 0 (← now)
  restartWipes
  wr F.pwrState_state 0 0
  wr F.pwrState_busy 0 0
  modPow fun p => { p with phase := 0, want := none, exitEt := 0, unsettled := [], clockHeld := [], beatEt := [] }

/-! ### Cold reset (R484) -/

/-- Fields that a cold reset does not change: those kept through it, and those that show what hardware finds. -/
def coldKeeps (maps : Bool) (r : RegName) (f : Field) : Bool :=
  (f.keptByCr && (maps || f.kept == .lc)) ||
    [F.txpModule_present, F.hbcTemp_temp, F.ctpTemp_temp, F.trcTemp_die0, F.trcTemp_die1, F.pwrAvs_vddc0,
     F.pwrAvs_vddc1, F.evrNewest_seq, F.evrNewestSlot_slot, F.evrNewestSlot_seed].contains (f.fld r)

/-- The machine after a cold or life-cycle reset: as right after reset, but for flash, fuses, the repair maps (`maps`), and
what lies outside the engine. -/
def Dev.cold (d : Dev) (maps : Bool) : Dev :=
  let base : Dev := { State.resetDev with
    regs := [], wire := d.wire, eapol := d.eapol, irqs := d.irqs, ptpOut := d.ptpOut, free := d.free
    pow := { State.resetDev.pow with lifeCycle := d.pow.lifeCycle, lcOld := d.pow.lcOld }
    evr := { d.evr with cycles := (d.evr.cycles + 1) % 2 ^ 24, compacting := false } }
  let n := d.regs.foldl (fun n e => match regAt (e.1 / 4096) (e.1 % 4096) with
    | some r => (r.1.info.fields.filter (coldKeeps maps r.1)).foldl (fun n f => n.wr (f.fld r.1) r.2.1
        (d.rd (f.fld r.1) r.2.1 r.2.2) r.2.2) n
    | none => n) base
  let n := (List.range 8).foldl (fun n k => n.wr F.ccxState_state k 1) n
  n.startup false

/-- What a cold reset shows of itself (R497, R498). -/
def showReset (kind cause : Nat) : M Unit := do
  wr F.pwrState_last 0 kind
  wr F.pwrState_cause 0 cause

/-- The circulating store is erased (R469). -/
def eraseStore : M Unit := modDev fun d =>
  ({ d.eraseSlots (2 ^ 22) (2 ^ 22 + storeSlots) with evr :=
    { (d.eraseSlots (2 ^ 22) (2 ^ 22 + storeSlots)).evr with head := 0, tail := 0 } }).syncRecorder.syncRdData

/-- The end of a life-cycle change: the wipe, and the DONE record. -/
def lifeCycleDone (old : Nat) (repeated : Bool) : M Unit := do
  eraseStore
  let new := (← dev).pow.lifeCycle
  resetWipe rkLC
  record 0x302 5 (pg bSEC 0) (payloadOf [(0, old), (1, new), (2, b2n repeated)])
  emptyStaging
  modPow fun p => { p with lcOld := none }

/-- A cold reset: all DRAM is wiped, and everything but flash, fuses and the repair maps returns to reset. A life-cycle
change that power interrupted is finished first, in the next cycle (R468). -/
def coldReset (cause : Nat) : M Unit := do
  wipe 0 (2 ^ 46)
  modDev fun d => d.cold d.pow.lcOld.isNone
  showReset rkCOLD cause
  if cause = rcPOWER_LOSS ∨ cause = rcFATAL then modDev fun d => d.startup true
  if (← dev).pow.lcOld.isSome then
    wr F.secLcState_pending 0 1
    wr F.pwrState_busy 0 1
    modPow fun p => { p with phase := 5 }
  else resetWipe rkCOLD

/-- A request of the secure world only (R480). -/
def secureOnly (a : Agent) (w : RegAcc) (m : M Unit) : M Unit := if worldOf a = 1 then m else w.ignore

/-- PWR_CTL.COLD_RESET (R484). A reset that runs is not interrupted (R482). -/
def coldRequest (w : RegAcc) : M Unit := secureOnly w.agent w do
  if (← dev).pow.phase ≠ 0 then w.ignore
  else
    record 0x201 2 (pg bPWR 0) (payloadOf [(0, rkCOLD), (1, rcREQUEST)])
    coldReset rcREQUEST

/-- The write of PWR_CTL with one of its start bits. -/
def pwrAcc (bitSet : Nat) (a : Agent) : M RegAcc := do return regAcc .pwrCtl 0 0 ((← rd F.pwrCtl_req 0) + bitSet) a

/-- A cold reset: requested, at power-up, or by the controller's reset input. Records staged before it survive it unless
power was lost. -/
def execColdReset (cause : ColdCause) (s : State) : Host.Outcome State Fault Refusal :=
  transact (do
    match cause with
    | .request a =>
      let w ← pwrAcc 0x200 a
      w.run (coldRequest w)
    | .resetInput =>
      let d ← dev
      need (d.pow.good && d.rd F.pwrState_state 0 != 4)
      record 0x201 2 (pg bPWR 0) (payloadOf [(0, rkCOLD), (1, rcCONTROLLER)])
      coldReset rcCONTROLLER
    | .powerUp =>
      let d ← dev
      need (!d.pow.good || d.rd F.pwrState_state 0 == 4)
      let cause := if d.pow.lost then rcPOWER_LOSS else rcPOWER_ON
      let lastSeq := d.evr.nextSeq
      let was := d.evr.cycles
      if d.pow.lost then
        modDev fun d => { d with evr := { d.evr with staged := [], drops := 0, dropped := false, opSec := d.evr.ckSec } }
      coldReset cause
      record 0x201 2 (pg bPWR 0) (payloadOf [(0, rkCOLD), (1, cause)])
      if d.pow.lost then
        record 0x204 4 (pg bEVR 0) (payloadOf [(0, was), (8, lastSeq - 1), (16, d.evr.ckSec)])) s

/-- A power-good signal falls: E4 at once (R477). What is staged is lost with the power. -/
def execPowerGoodLoss (s : State) : Host.Outcome State Fault Refusal :=
  transact (do
    let d ← dev
    need d.pow.good
    if d.rd F.pwrState_state 0 ≠ 4 then
      modPow fun p => { p with lost := true }
      modDev fun d => { d with evr := { d.evr with staged := [] } }.syncRecorder
    wr F.pwrState_state 0 4
    modPow fun p => { p with good := false, phase := 0, want := none, exitEt := 0 }) s

/-! ### Life-cycle changes (R466 to R468) -/

/-- The transitions that there are. -/
def lcTransition (old new : Nat) : Bool :=
  (old == 0 && (new == 1 || new == 2)) || (old == 1 && (new == 2 || new == 3)) || (old == 2 && new == 3)

/-- After phases 1 to 4: the START record, and the fuses. The wipe follows. -/
def lifeCycleStart (new : Nat) : M Unit := do
  let old := (← dev).pow.lifeCycle
  record 0x301 5 (pg bSEC 0) (payloadOf [(0, old), (1, new)])
  emptyStaging
  modPow fun p => { p with lifeCycle := new, lcOld := some old, phase := 5 }
  wr F.secLcState_state 0 new

/-- The wipe of a life-cycle change ends, and the engine restarts in the new state; of one that a power-up repeats, which
PENDING shows, only the wipe and the DONE record are left (R468). -/
def lifeCycleEnd : M Unit := do
  match (← dev).pow.lcOld with
  | none => pure ()
  | some old =>
   if (← rd F.secLcState_pending 0) = 1 then
    lifeCycleDone old true
    wr F.secLcState_pending 0 0
    wr F.pwrState_busy 0 0
    modPow fun p => { p with phase := 0 }
   else
    lifeCycleDone old false
    wipe 0 (2 ^ 46)
    modDev fun d => d.cold false
    showReset rkLC rcLIFE_CYCLE
    wr F.secWipeStat_kind 0 rkLC
    wr F.secWipes_count 0 1
    raise (pg bSEC 0) 1

/-! ### Running resets -/

/-- Phase 4: memory enters self-refresh (R482, R334). -/
def resetSleep : M Unit := do
  modPow fun p => { p with phase := 4 }
  each (List.range 16) fun s => do
    let st ← rd F.hbcState_state s
    if st = 2 ∨ st = 4 then wr F.hbcState_state s 3
    if (← rd F.ctpState_state s) = 2 then wr F.ctpState_state s 3

/-- After phase 4: the rest of an engine reset, or the START record of a life-cycle change. -/
def afterSleep : M Unit := do
  match (← dev).pow.lcNext with
  | none => engineRestart
  | some n => lifeCycleStart n

/-- A reset goes on: phases 2 and 3 as far as they get; once both are done, phase 4, which the next cycle ends (log entry
158). -/
def advanceReset : M Unit := do
  modPow fun p => { p with phase := 0 }
  let quiet ← quiesce
  let clean ← writeAll
  if quiet && clean then resetSleep
  else modPow fun p => { p with phase := 2 }

/-- An engine or life-cycle reset starts: phase 1. -/
def beginReset (kind cause : Nat) (next : Option Nat) : M Unit := do
  let et ← now
  record 0x201 2 (pg bPWR 0) (payloadOf [(0, kind), (1, cause)])
  showReset kind cause
  if kind = rkENGINE then bump F.pwrEngResets_count 0
  wr F.pwrState_busy 0 1
  wr F.pwrState_ready 0 0
  modDev fun d => d.startup (kind == rkENGINE)
  modPow fun p => { p with want := none, exitEt := 0, lcNext := next, quiesceEt := et, startEt := et }
  each (← dev).inSession fun n => do
    if (← dev).portRuns ((← dev).peer n).port then sendControl n 0x06 [1]
  advanceReset

/-- PWR_CTL.ENG_RESET. A reset that runs is not interrupted. -/
def engRequest (w : RegAcc) : M Unit := secureOnly w.agent w do
  if (← dev).pow.phase ≠ 0 then w.ignore else beginReset rkENGINE rcREQUEST none

/-- Rung 3 taken by hardware (R494). -/
def rungThree : M Unit := do
  if (← rd F.pwrCfg_auto_reset 0) = 1 ∧ (← dev).pow.phase = 0 then beginReset rkENGINE rcFATAL none

/-- An engine reset. -/
def execEngReset (cause : EngCause) (s : State) : Host.Outcome State Fault Refusal :=
  transact (match cause with
    | .request a => do
      let w ← pwrAcc 0x100 a
      w.run (engRequest w)
    | .rung3 => do
      let d ← dev
      need (d.rd F.pwrCfg_auto_reset 0 == 1 && d.pow.phase == 0 && d.pow.good && d.rd F.pwrState_state 0 != 4)
      rungThree) s

/-- The budget of phases 2 and 3 runs out (R483): what is left of both is abandoned. Descriptors end without a record. -/
def execQuiesceBudgetExpiry (s : State) : Host.Outcome State Fault Refusal :=
  transact (do
    let d ← dev
    need (d.pow.phase == 2 && decide (d.pow.quiesceEt + d.rd F.pwrCfg_quiesce_us 0 * usTicks ≤ d.time.et))
    resetSleep) s

/-- SEC_LC_CMD with START (R467). -/
def lcWrite (target confirm : Nat) (w : RegAcc) : M Unit := do
  let d ← dev
  if worldOf w.agent ≠ 1 ∨ d.pow.phase ≠ 0 then w.ignore
  else if confirm = 0x5A ∧ lcTransition d.pow.lifeCycle target then beginReset rkLC rcLIFE_CYCLE (some target)
  else w.ignore

/-- A life-cycle transition is requested. -/
def execLcTransition (target : BitVec 2) (confirm : BitVec 8) (a : Agent) (s : State) : Host.Outcome State Fault Refusal :=
  transact (let w := regAcc .secLcCmd 0 0 (target.toNat + confirm.toNat * 2 ^ 8 + 2 ^ 31) a
    w.run (lcWrite target.toNat confirm.toNat w)) s

/-- Phase 7 ends: firmware sets READY, once (R482). It cannot while a region wipe is repeated. -/
def readyWrite (w : RegAcc) : M Unit := do
  let d ← dev
  if d.rd F.pwrState_ready 0 = 1 then pure ()
  else if d.pow.phase ≠ 0 ∨ !d.wipes.isEmpty then w.ignore
  else
    wr F.pwrState_ready 0 1
    raise (pg bPWR 0) 0
    modDev fun d => (d.wr F.evrState_startup 0 0).syncRecorder
    each [0, 1] fun b => do
      if (← rd F.brgState_state b) = 0 then wr F.brgState_state b 1
    each (List.range 8) fun k => do
      if (← rd F.ccxState_state k) = 1 then
        wr F.ccxState_state k 2
        modPow fun p => { p with beatEt := SMap.set 0 p.beatEt k d.time.et }
    each allPages fun page => do
      if (← rd F.pageState_state page) = 1 then rest page
    record 0x206 1 (pg bPWR 0) (payloadOf [(0, d.pow.startEt)])

/-- PWR_STATE.READY. -/
def execPwrReady (a : Agent) (s : State) : Host.Outcome State Fault Refusal :=
  transact (let w := regAcc .pwrState 0 0 0x10 a
    w.run (readyWrite w)) s

/-! ### Power states (R478, R479) -/

/-- The condition of a state's entry. -/
def Dev.mayEnter (d : Dev) (st : Nat) : Bool :=
  if st = 1 ∨ st = 2 then (List.range 64).all fun c => (d.cl c).slice.isNone
  else
    (List.range 1024).all (fun q => d.qrd F.queState_state q == qDISABLED || d.qrd F.queState_state q == qLOST) &&
    (List.range 8).all (fun p => d.rd F.txpState_state p == pOFF) &&
    (List.range 16).all (fun e => (d.copyRunning e).isNone) &&
    [d.batcher 0, d.batcher 1].all (fun b => b.opened.isNone && b.closed.isNone && b.pending.isEmpty) &&
    (List.range 32).all fun n => d.rd F.mntSlot_state 0 n == 0

/-- Ticks of the exit from a state. -/
def exitTicks (st : Nat) : Nat := if st = 1 then usTicks else if st = 2 then 40 * usTicks else 2 * msTicks

/-- PWR_CTL.REQ: E0 leaves E1, E2 or E3, and withdraws a request that waits; E1 to E4 wait for their condition. From E3
only E0 can be asked for. -/
def reqWrite (req : Nat) (w : RegAcc) : M Unit := do
  let d ← dev
  let st := d.rd F.pwrState_state 0
  if 5 ≤ req then w.ignore
  else if req = 0 then
    wr F.pwrCtl_req 0 0
    modPow fun p => { p with want := none }
    if st ≠ 0 ∧ d.pow.exitEt = 0 then modPow fun p => { p with exitEt := d.time.et + exitTicks st }
    else if d.pow.want.isSome then wr F.pwrState_busy 0 0
    else pure ()
  else if st = 3 then w.ignore
  else if req = st then wr F.pwrCtl_req 0 req
  else
    wr F.pwrCtl_req 0 req
    wr F.pwrState_busy 0 1
    modPow fun p => { p with want := some req, wantEt := d.time.et }

/-- A write of PWR_CTL: the request, then the resets. A write that starts a reset and leaves REQ as it stands is no
request. -/
def pwrCtlWrite (v : Nat) (w : RegAcc) : M Unit := do
  let req ← rd F.pwrCtl_req 0
  if bits v 0 3 ≠ req ∨ bits v 8 2 = 0 then reqWrite (bits v 0 3) w
  if bit v 8 then engRequest w
  if bit v 9 then coldRequest w

/-- PWR_CTL.REQ. -/
def execPowerStateRequest (req : BitVec 3) (a : Agent) (s : State) : Host.Outcome State Fault Refusal :=
  transact (let w := regAcc .pwrCtl 0 0 req.toNat a
    w.run (reqWrite req.toNat w)) s

/-- What gated clusters lose (R478, R486). -/
def gateClusters : M Unit := do
  modDev fun d => { d with
    clusters := [], accs := ⟨[], [], []⟩,
    xl := { d.xl with tlbs := d.xl.tlbs.filter (fun t => decide (64 ≤ t.buf)),
                      ctxs := d.xl.ctxs.filter (fun c => decide (64 ≤ c.buf)) } }
  modDev fun d => d.resetAll fun f => f.kept == .e1

/-- Memory enters self-refresh, and associations are lost (R465, R478). -/
def sleepMemory : M Unit := do
  each (List.range 16) fun s => do
    let st ← rd F.hbcState_state s
    if st = 2 ∨ st = 4 then wr F.hbcState_state s 3
    if (← rd F.ctpState_state s) = 2 then wr F.ctpState_state s 3
  modDev fun d => { d with assocs := [] }
  each (List.range 8) fun p => modDev fun d => d.setWord .txpMacsec p 0 0

/-- The entry of a state. -/
def enterState (st : Nat) : M Unit := do
  if st ≠ 1 then gateClusters
  if 3 ≤ st then sleepMemory
  wr F.pwrState_busy 0 0
  modPow fun p => { p with want := none }
  raise (pg bPWR 0) 0
  if st = 4 then
    record 0x205 1 (pg bPWR 0) (payloadOf [(0, 4)])
    modDev Dev.checkpoint
    emptyStaging
  wr F.pwrState_state 0 st

/-- The requested state is entered. -/
def execPowerStateEntry (s : State) : Host.Outcome State Fault Refusal :=
  transact (do
    let d ← dev
    let st ← have! d.pow.want
    need (d.pow.phase == 0 && d.pow.exitEt == 0 && d.mayEnter st)
    enterState st) s

/-- A request whose condition is not met in time is abandoned. -/
def execPowerRequestAbandon (s : State) : Host.Outcome State Fault Refusal :=
  transact (do
    let d ← dev
    let st ← have! d.pow.want
    need (!d.mayEnter st && decide (d.pow.wantEt + d.rd F.pwrCfg_entry_ms 0 * msTicks ≤ d.time.et))
    modPow fun p => { p with want := none }
    wr F.pwrCtl_req 0 (d.rd F.pwrState_state 0)
    wr F.pwrState_busy 0 0
    captureEngine (pg bPWR 0) kREFUSED 0x100
    raise (pg bPWR 0) 1) s

/-- The end of the exit from a state. -/
def leaveState (st : Nat) : M Unit := do
  let d ← dev
  wr F.pwrState_state 0 0
  modPow fun p => { p with exitEt := 0 }
  modTime fun t => { t with reloadEt := t.et }
  if st = 2 then
    wr F.secWipeStat_kind 0 5
    wr F.secWipeStartEt_et 0 d.time.et
    wipeEnds (d.wipes.any fun w => w.begun)
    raise (pg bSEC 0) 1
  if st = 3 then
    each (List.range 16) fun s => do
      if (← rd F.hbcState_state s) = 3 ∧ !d.ms.hot.contains s then wr F.hbcState_state s 2
      if (← rd F.ctpState_state s) = 3 ∧ !d.ms.hot.contains (16 + s) then wr F.ctpState_state s 2
    modDev fun d => { d with xl := { d.xl with tlbs := [], upper := [], ctxs := [] } }
    modDev Dev.releaseHeld
  raise (pg bPWR 0) 0

/-- The exit from E1, E2 or E3 is complete: leaves have reloaded; clusters that were gated start wiped; memory leaves
self-refresh, and the L2s start empty. -/
def execPowerStateExit (s : State) : Host.Outcome State Fault Refusal :=
  transact (do
    let d ← dev
    let st := d.rd F.pwrState_state 0
    need (1 ≤ st && decide (st ≤ 3) && d.pow.exitEt != 0 && decide (d.pow.exitEt ≤ d.time.et))
    leaveState st) s

/-! ### Voltage and clocks (R31, R476) -/

/-- A write of GCL_CLOCK. The die's voltage request follows the clocks, to a value that the engine finds; until the
controller has met it, the clusters keep the step that they had. -/
def clockWrite (c step : Nat) (w : RegAcc) : M Unit := do
  let d ← dev
  let old := d.rd F.gclClock_step c
  if step = old then pure ()
  else if step = 7 ∨ !d.fenceHeld (pg bGCL c) then w.ignore
  else
    let die := c / 32
    let mv ← freeValue 10
    wr (if die = 0 then F.pwrAvs_vddc0 else F.pwrAvs_vddc1) 0 mv
    wr F.gclClock_step c step
    modPow fun p => { p with
      unsettled := if p.unsettled.contains die then p.unsettled else die :: p.unsettled,
      clockHeld := if p.clockHeld.any (fun e => e.1 == c) then p.clockHeld else (c, old) :: p.clockHeld }

/-- The clock step in force. -/
def Dev.clockStep (d : Dev) (c : Nat) : Nat :=
  match d.pow.clockHeld.find? fun e => e.1 == c with
  | some e => e.2
  | none => d.rd F.gclClock_step c

/-- The controller has met the request. -/
def execVddcSettled (die : Fin 2) (mv : BitVec 10) (s : State) : Host.Outcome State Fault Refusal :=
  transact (do
    let d ← dev
    let avs := if die.val = 0 then d.rd F.pwrAvs_vddc0 0 else d.rd F.pwrAvs_vddc1 0
    need (decide (mv.toNat ≤ avs + 10) && decide (avs ≤ mv.toNat + 10))
    modPow fun p => { p with
      unsettled := p.unsettled.filter fun k => k != die.val,
      clockHeld := p.clockHeld.filter fun e => e.1 / 32 != die.val }) s

/-! ### Control cores (R546 to R548) -/

/-- A core stops in FAULT. -/
def coreFault (k : Nat) : M Unit := do
  wr F.ccxState_state k 4
  wr F.pageState_state (pg bCCX k) 4

/-- The watchdog of a core expires. -/
def execWatchdogExpiry (k : Fin 8) (s : State) : Host.Outcome State Fault Refusal :=
  transact (do
    let k := k.val
    let d ← dev
    let limit := d.rd F.ccxWdog_limit_ms k
    need (d.rd F.ccxState_state k == 2 && limit != 0 &&
      decide (SMap.get 0 d.pow.beatEt k + limit * msTicks ≤ d.time.et))
    coreFault k
    bump F.ccxWdogExp_count k
    raise (pg bCCX k) 0) s

/-- An uncorrectable error in a core. -/
def execUncorrectableCoreError (k : Fin 8) (s : State) : Host.Outcome State Fault Refusal :=
  transact (do
    let st ← rd F.ccxState_state k.val
    need (st == 1 || st == 2)
    coreFault k.val) s

/-- A write of CCX_HEARTBEAT: a change restarts the watchdog. Firmware runs once it beats. -/
def heartbeatWrite (k v : Nat) : M Unit := do
  let et ← now
  if (← rd F.ccxHeartbeat_value k) ≠ v then
    modPow fun p => { p with beatEt := SMap.set 0 p.beatEt k et }
    wr F.ccxHeartbeat_value k v
  if (← rd F.ccxState_state k) ≤ 1 then wr F.ccxState_state k 2

/-- CCX_HEARTBEAT. -/
def execHeartbeatWrite (k : Fin 8) (v : BitVec 32) (a : Agent) (s : State) : Host.Outcome State Fault Refusal :=
  transact ((regAcc .ccxHeartbeat k.val 0 v.toNat a).run (heartbeatWrite k.val v.toNat)) s

/-! ### The bridge (R550) -/

/-- A lane of a bridge fails: a spare takes its place, or the bridge fails and rung 3 is taken. -/
def execBridgeLaneFail (die : Fin 2) (s : State) : Host.Outcome State Fault Refusal :=
  transact (do
    let b := die.val
    need ((← rd F.brgState_state b) == 1)
    let used ← rd F.brgState_spares_used b
    if used < 16 then
      wr F.brgState_spares_used b (used + 1)
      bump F.brgLaneRepairs_count b
    else
      wr F.brgState_state b 2
      rungThree) s

end Sys2Proof.Machine
end

