-- ==== Sys2Proof/Machine/RegWrite.lean ====
section
/-! DEFINITION. Writes of registers by their offset in the window (R18 to R23), for every register of the map: the field
access codes, the lock (R19), the conditions under which a register takes a write, and what the write does. -/

namespace Sys2Proof.Machine

/-! ### Fields -/

/-- A field after a write (R18). What a write-only field takes is held, though it reads zero. -/
def Field.after (f : Field) (old v : Nat) : Nat :=
  let o := bits old f.lo f.len
  let n := bits v f.lo f.len
  match f.acc with
  | .rw => n
  | .rwl => n
  | .wo => n
  | .w1c => o - Nat.land o n
  | .ro => o
  | .w1s => o

/-- A register after a write, every field under its own code; reserved bits read zero (R22). -/
def RegName.after (r : RegName) (old v : Nat) : Nat :=
  r.info.fields.foldl (fun w f => setBits w f.lo f.len (f.after old v)) 0

/-- The value written, with its lockable fields as they stand (R19). -/
def RegName.locked (r : RegName) (old v : Nat) : Nat :=
  (r.info.fields.filter fun f => f.acc == .rwl).foldl (fun w f => setBits w f.lo f.len (bits old f.lo f.len)) v

/-- A field keeps its value in a write. -/
def same (old v lo len : Nat) : Bool := bits old lo len == bits v lo len

/-- A field written lies in a range. -/
def within (v lo len a b : Nat) : Bool := decide (a ≤ bits v lo len) && decide (bits v lo len ≤ b)

/-! ### Conditions -/

/-- A descriptor of one of these opcodes is dispatched. -/
def Dev.dispatched (d : Dev) (ops : List Nat) : Bool := d.descs.any fun x => ops.contains x.opcode

/-- No descriptor of any kind is dispatched. -/
def Dev.noneDispatched (d : Dev) : Bool := d.descs.isEmpty

/-- R295. -/
def Dev.remoteQuiet (d : Dev) : Bool :=
  !d.dispatched [0x21, 0x40, 0x41] && (List.range 8).all fun r => d.spillHeld r == 0

/-- R262. -/
def Dev.updateQuiet (d : Dev) : Bool := !d.dispatched [0x12, 0x21, 0x22]

/-- A queue's binding can change (R49). -/
def Dev.unbound (d : Dev) (page idx : Nat) : Bool := d.rd F.queState_state page idx == qDISABLED

/-- Whether a register takes a write of `v`; otherwise the write is ignored as a whole and recorded. -/
def Dev.takes (d : Dev) (r : RegName) (page idx old v : Nat) : Bool :=
  match r with
  | .queRingBase => d.unbound page idx || r.after old v == old
  | .queCplBase => d.unbound page idx || r.after old v == old
  | .queRingCfg => d.unbound page idx || r.after old v == old
  | .queCplCfg => d.unbound page idx || (same old v 0 4 && same old v 7 1)
  | .seqShare => d.fenceHeld (pg bGCL page) && bits v 0 5 + bits v 5 5 + bits v 10 5 == 16
  | .seqPhase => within v 0 13 1 4096
  | .qntTabcnt => within v 0 17 0 65536
  | .qntLoadAddr => d.rd F.qntLoadStat_state 2 != 1 && d.rd F.qntLoadStat_state 2 != 2
  | .qntLoadCtl => d.rd F.qntLoadStat_state 2 != 1 && d.rd F.qntLoadStat_state 2 != 2
  | .qntLoadCount => d.rd F.qntLoadStat_state 2 != 1 && d.rd F.qntLoadStat_state 2 != 2
  | .optGsc => !d.dispatched [0x20]
  | .mrgCfg => within v 12 16 1 32768
  | .optUrec => d.updateQuiet
  | .optHpdir => d.updateQuiet
  | .optHpcnt => d.updateQuiet && within v 0 12 0 2048
  | .optStash => d.updateQuiet && bits v 0 2 != 3 && (bits v 0 2 != 1 || bit (d.rd F.pageCap_block (pg bOPT 8)) 0)
  | .optSite => d.noneDispatched
  | .mrgRoCfg => within v 0 6 1 32
  | .mrgShdir => d.remoteQuiet
  | .mrgShcnt => d.remoteQuiet && within v 0 17 0 65536
  | .mrgServe => d.remoteQuiet && bits v 8 4 != 0
  | .mrgRmt => d.remoteQuiet
  | .mrgSpillCfg => d.remoteQuiet && bits v 0 16 != 0
  | .hbcTemp => within v 24 8 100 125
  | .hbcRefCtl => bits v 0 2 != 3
  | .hbcTgCfg => within v 5 9 1 256
  | .hbcTgCount => within v 0 32 1 2359296
  | .ctpTemp => within v 24 8 90 115
  | .llsPinBase => d.rd F.llsPinCtl_enable page idx == 0
  | .llsPinLen => d.rd F.llsPinCtl_enable page idx == 0
  | .trnFqBase => (let b := d.batcher (page - 64); b.opened.isNone && b.closed.isNone && b.pending.isEmpty)
  | .trnFqCfg => (let b := d.batcher (page - 64); b.opened.isNone && b.closed.isNone && b.pending.isEmpty) &&
      within v 0 4 0 7
  | .trnBatchCfg => within v 0 9 1 256 && within v 16 10 1 1000
  | .trnAsid => d.noneDispatched
  | .migCfg => bits v 8 16 != 0 && bits v 24 8 != 0
  | .migRingBase => d.rd F.migCfg_enable page == 0
  | .migRingCfg => d.rd F.migCfg_enable page == 0 && within v 0 4 0 7
  | .txpMarks => d.rd F.txpState_state page == pOFF && decide (bits v 8 6 < bits v 0 6)
  | .txpRetxCfg => bits v 0 16 != 0
  | .txpRetainBase => d.rd F.txpState_state page == pOFF
  | .txpRetainCfg => d.rd F.txpState_state page == pOFF
  | .txpMacAddr => d.rd F.txpState_state page == pOFF
  | .txpIp6 => d.rd F.txpState_state page == pOFF
  | .txpOwdCfg => within v 16 4 4 15
  | .txpPeers => d.peers.all fun e => e.2.state == nNONE || e.2.state == nLOST
  | .txpUdp => d.peers.all fun e => e.2.state == nNONE || e.2.state == nLOST
  | .cpeJrn => d.rd F.cpeJrnStat_in_use 16 == 0
  | .cpeJrnCfg => d.rd F.cpeJrnStat_in_use 16 == 0 && bits v 0 16 != 0 && bits v 16 12 != 0
  | .hlkCfg => within v 0 10 1 1000
  | .secMrLimit => (let st := d.rd F.secMrLimit_state page idx; st == 0 || st == 4)
  | .pwrCfg => bits v 0 16 != 0
  | .evrCfg => bits v 0 3 != 7 && within v 4 3 1 6
  | .evrSwCtl => decide (0xF000 ≤ bits v 0 16)
  | .trcRingBase => d.rd F.trcCtl_enable 0 == 0
  | .trcRingCfg => d.rd F.trcCtl_enable 0 == 0 && within v 0 4 0 12
  | .trcFCtl => d.rd F.trcCtl_enable 0 == 0
  | .trcFInst => d.rd F.trcCtl_enable 0 == 0
  | .trcFQueue => d.rd F.trcCtl_enable 0 == 0
  | .trcFLo => d.rd F.trcCtl_enable 0 == 0
  | .trcFHi => d.rd F.trcCtl_enable 0 == 0
  | .glbNode => d.noneDispatched && (List.range 8).all fun p => d.rd F.txpState_state p == pOFF
  | _ => true

/-! ### Effects -/

/-- The fields of a register take a write. -/
def store (r : RegName) (page idx v : Nat) : M Unit := modDev fun d => d.setWord r page idx (r.after (d.word r page idx) v)

/-- A write of CTR_CTL: CLEAR, and FREEZE. -/
def ctrWrite (r : RegName) (page v : Nat) : M Unit := do
  if bit v 0 then counterClear (pg r.info.blk page)
  store r page 0 v

/-- A write of TIM_CTL: SERVO first. A time base that no longer follows its source holds over (R540). -/
def timCtlWrite (v : Nat) (w : RegAcc) : M Unit := do
  if !bit v 1 && (← dev).hasSource then sourceLost
  wr F.timCtl_servo 0 (b2n (bit v 1))
  if bit v 0 then timeSet w

/-- A write of PAGE_ERR_INFO.VALID re-arms the capture (R529). -/
def captureClear (page : Nat) : M Unit := modDev fun d =>
  ((d.wr F.pageErrInfo_valid page 0).wr F.pageErrInfo_count page 0).wr F.pageStat_capture page 0

/-- What a register does with a write that it takes: the registers with rows of their own as in their rows. -/
def regEffect (r : RegName) (page idx v : Nat) (w : RegAcc) : M Unit :=
  match r with
  | .queTail => tailWrite (16 * (page - 1) + idx) v w
  | .queState => queueStateWrite (16 * (page - 1) + idx) v w
  | .queClassWeight => do
    store r page idx v
    modDev fun d => { d with arb := { d.arb with left := [] } }
  | .gclClock => clockWrite page (bits v 0 3) w
  | .gclResCfg => residentWrite idx v w
  | .acmRelease => acmRelease page (bits v 0 7) w
  | .qntLoadCmd => do
    if bit v 0 then loadStart w
    if bit v 1 then loadAbort w
  | .mrgSpillSkip => if bit v 0 then spillSkip page w else pure ()
  | .hbcTemp => do
    store r page idx v
    if bit v 16 then peakClear (pg bHBC page)
  | .ctpTemp => do
    store r page idx v
    if bit v 16 then peakClear (pg bCTP page)
  | .hbcRefCtl => do
    store r page idx v
    let d ← dev
    wr F.hbcRefCtl_applied page (b2n (SMap.get 0 d.ms.minRef page == bits v 0 2))
  | .hbcTgSel => do
    store r page idx v
    modDev fun d => d.syncTg page
  | .llsPart => partWrite (page - 64) v w
  | .llsPinCtl => pinWrite (page - 64) idx (bit v 0) w
  | .trnBatchCfg => do
    store r page idx v
    if bit v 9 then batchFlush (page - 64)
  | .txpState => portEnable page (bit v 3) w
  | .txpPtpCfg => do
    store r page idx v
    syncPtp
  | .txpPtpClock => do
    store r page idx v
    syncPtp
  | .txpOwdCfg => do
    store r page idx v
    modDev fun d => d.setPh page { d.ph page with owdCount := 0, owdSum := 0, owdMin := 0, owdMax := 0 }
  | .txpPeerCmd =>
    if bit v 31 then peerCommand (bits v 0 10) (bits v 12 2) w
    else do
      store r page idx v
      modDev Dev.syncPeer
  | .cpeJrn => do
    store r page idx v
    showJrn
  | .cpeJrnCfg => do
    store r page idx v
    showJrn
  | .cpeJrnSel => do
    store r page idx v
    showJrn
  | .cpeJrnCtl => do
    if bit v 0 then journalClear false w
    if bit v 1 then journalClear true w
  | .hlkCtl => if bit v 0 then hostResume w else pure ()
  | .secLcCmd => if bit v 31 then lcWrite (bits v 0 2) (bits v 8 8) w else pure ()
  | .secKeyCmd => do
    if bit v 0 then installKey
    if bit v 1 then removeKey
  | .secMrBase => mrWrite (128 * (page - 1) + idx) v w
  | .pwrCtl => pwrCtlWrite v w
  | .pwrState => if bit v 4 then readyWrite w else pure ()
  | .evrCtl => do
    store r page idx v
    modDev Dev.syncRecorder
  | .evrRdSel => do
    store r page idx v
    modDev Dev.syncRdData
  | .evrSwCtl => if bit v 31 then swWrite (bits v 0 16) (bits v 16 3) w else store r page idx v
  | .timCtl => timCtlWrite v w
  | .ccxHeartbeat => heartbeatWrite page v
  | .pageWorld => worldWrite page v w
  | .pageCtrl => ctrlWrite page v w
  | .pageIrqStat => irqStatWrite page v
  | .pageIrqEn => irqEnWrite page v
  | .pageIrqForce => irqForceWrite page v
  | .pageErrInfo => if bit v 0 then captureClear page else pure ()
  | .queCtrCtl => ctrWrite r page v
  | .gclCtrCtl => ctrWrite r page v
  | .qntCtrCtl => ctrWrite r page v
  | .mrgCtrCtl => ctrWrite r page v
  | .mrgCtrCtl8 => ctrWrite r page v
  | .llsCtrCtl => ctrWrite r page v
  | .trnL1CtrCtl => ctrWrite r page v
  | .trnCtrCtl => ctrWrite r page v
  | .migCtrCtl => ctrWrite r page v
  | .txpCtrCtl => ctrWrite r page v
  | _ => store r page idx v

/-- A write of a whole register that has reached its page: lock, condition, effect; what stops it is captured once. A
register whose fields are all RO is left as it is. -/
def regPut (r : RegName) (page idx v : Nat) (w : RegAcc) : M Unit := do
  let d ← dev
  let old := d.word r page idx
  if r.info.fields.all fun f => f.acc == .ro then pure ()
  else
    let held := d.rd F.pageWorld_lock w.page = 1
    let v' := if held then r.locked old v else v
    if v' ≠ v then w.capture kLOCKED
    if (← dev).takes r page idx old v' then regEffect r page idx v' w else if v' ≠ v then pure () else w.ignore

/-! ### Offsets (R22, R23) -/

/-- The register that a write of this offset and size reaches, with its page and index, and the whole of the value that it
then takes: half of a 64-bit register leaves the other half as it stands. The inner `none` is a reserved offset; the outer
one is a size or alignment that is not supported. -/
def Dev.target (d : Dev) (page off size data : Nat) : Option (Option (RegName × Nat × Nat × Nat)) :=
  if size = 2 then
    if off % 4 ≠ 0 then none
    else match regAt page off with
      | some (r, p, n) => some (some (r, p, n, if r.info.wide then setBits (d.word r p n) 0 32 data else data % 2 ^ 32))
      | none => match if 4 ≤ off then regAt page (off - 4) else none with
        | some (r, p, n) => if r.info.wide then some (some (r, p, n, setBits (d.word r p n) 32 32 data)) else some none
        | none => some none
  else if size = 3 then
    if off % 8 ≠ 0 then none
    else match regAt page off with
      | some (r, p, n) => if r.info.wide then some (some (r, p, n, data % 2 ^ 64)) else none
      | none => none
  else none

/-- A write at an offset of the window. -/
def regWrite (w : RegAcc) : M Unit := do
  match (← dev).target w.page w.off w.size w.data with
  | none => w.capture kSIZE
  | some none => pure ()
  | some (some (r, page, idx, v)) => regPut r page idx v w

/-- A write of 2^size bytes at an offset of the window. -/
def execRegisterWrite (off : BitVec 25) (size : BitVec 2) (data : BitVec 64) (a : Agent) (s : State) :
    Host.Outcome State Fault Refusal :=
  transact (let w : RegAcc := ⟨off.toNat / 4096, off.toNat % 4096, size.toNat, data.toNat % 2 ^ (8 * 2 ^ size.toNat), a⟩
    w.run (regWrite w)) s

/-! ### What a read returns -/

/-- A one-bit-per-type summary over the pages of a world (R537). -/
def Dev.summary (d : Dev) (world : Nat) (p : Nat → Bool) : Nat :=
  (List.range 27).foldl (fun n t =>
    if (List.range (pageCount t)).any fun i => d.pageWorld (pg t i) == world && p (pg t i) then n + 2 ^ t else n) 0

/-- A page asserts its interrupt (R534). -/
def Dev.asserts (d : Dev) (page : Nat) : Bool :=
  Nat.land (d.word .pageIrqStat page 0) (d.word .pageIrqEn page 0) != 0

/-- What a read of a whole register returns to an access of a world: write-only fields read zero (R18), live fields their
state. -/
def Dev.view (d : Dev) (world : Nat) (r : RegName) (page idx : Nat) : Nat :=
  match r with
  | .glbIrqSum => d.summary world d.asserts
  | .glbCapSum => d.summary world fun p => d.rd F.pageStat_capture p == 1
  | .timNow => d.time.et
  | .timBound => d.timeBound
  | .timCal => d.time.skew
  | .pageState =>
    let w := d.word r page idx
    if enableable page && bits w 0 3 == 0 && !(d.users page).isEmpty then setBits w 0 3 2 else w
  | .queStopped => (range' 0 32).foldl (fun w b => setBits w b 1 (b2n (d.showsStopped (32 * idx + b)))) 0
  | .trcCtl => setBits (d.word r page idx) 2 1 (b2n d.ringFull)
  | .pageStat => setBits (d.word r page idx) 16 16 (min (d.users page).length 65535)
  | .acmOwn =>
    let id := page * 128 + d.rd F.acmOwnSel_tile page
    let busy := b2n (d.descs.any fun x => x.names id)
    match SMap.get none d.accs.owners id with
    | some (q, keep) => 1 + b2n keep * 2 + busy * 4 + q % 2 ^ 10 * 2 ^ 16
    | none => busy * 4
  | .qntLoadStat => setBits (d.word r page idx) 16 16
      (if d.rd F.qntLoadStat_state 2 = 1 then min 65535 d.waitedUsers.length else 0)
  | .seqStatus => setBits (d.word r page idx) 0 3 (d.seqShown page)
  | r => r.info.fields.foldl (fun w f => if f.acc == .wo then setBits w f.lo f.len 0 else w)
      (d.word r page idx)

/-- What a read of an offset of a page returns to an access of a world, by the base-2 logarithm of its size: half of a wide
register, zero at a reserved offset (R22). None is a size or alignment that is not supported (R23). -/
def Dev.readAt (d : Dev) (world page off size : Nat) : Option Nat :=
  if size = 2 then
    if off % 4 ≠ 0 then none
    else match regAt page off with
      | some (r, p, n) => some (d.view world r p n % 2 ^ 32)
      | none => match if 4 ≤ off then regAt page (off - 4) else none with
        | some (r, p, n) => some (if r.info.wide then d.view world r p n / 2 ^ 32 % 2 ^ 32 else 0)
        | none => some 0
  else if size = 3 ∧ off % 8 = 0 then
    match regAt page off with
    | some (r, p, n) => if r.info.wide then some (d.view world r p n) else none
    | none => none
  else none

/-- The checks before a read reaches its page: true if it goes on. A read that they stop returns zero: from the mailbox to
another page (R512), in E4, in a page that sleeps (R479, R535), of an unpopulated page (R527), of the other world (R453). -/
def RegAcc.passesRead (w : RegAcc) : M Bool := do
  let t := w.page / 256
  let world := worldOf w.agent
  if w.agent == .mailbox && !(t == bEVR || t == bTIM || t == bPWR || t == bTRC) then return false
  if (← rd F.pwrState_state 0) = 4 then return false
  if (← dev).asleep && !servedInSleep w.page then return false
  if !populated w.page then
    bump F.glbUnmapped_count 0
    modDev fun d => d.captured (pg bGLB 0) kIGNORED false world (agentSource w.agent) (agentReq w.agent)
      (w.page * 4096 + w.off) w.size 0
    return false
  if decide (12 ≤ w.off) && world != (← pageWorld w.page) then
    violation 1 world 0 none 0 (w.page * 4096 + w.off) w.page
    return false
  return true

/-- A read of 2^size bytes at an offset of a page: what it returns. A 32-bit read of TIM_NOW latches the upper word for its
requester, whose next read of that word takes it (R542). -/
def regRead (w : RegAcc) : M Nat := do
  if ← w.passesRead then
    let d ← dev
    let tim := decide (w.page = pg bTIM 0) && w.size == 2
    if tim && w.off == 0x100 then
      modTime fun t => { t with latch := (w.agent, t.et / 2 ^ 32 % 2 ^ 32) :: t.latch.filter fun e => e.1 != w.agent }
    match if tim && w.off == 0x104 then d.time.latch.find? fun e => e.1 == w.agent else none with
    | some e =>
      modTime fun t => { t with latch := t.latch.filter fun e => e.1 != w.agent }
      return e.2
    | none =>
      match d.readAt (worldOf w.agent) w.page w.off w.size with
      | some v => return v
      | none =>
        modDev fun d => d.captured w.page kSIZE false (worldOf w.agent) (agentSource w.agent) (agentReq w.agent)
          (w.page * 4096 + w.off) w.size 0
        return 0
  else return 0

/-- A 32-bit read of TIM_NOW at 0x100 (R542). -/
def execTimNowRead (a : Agent) (s : State) : Host.Outcome State Fault Refusal :=
  transact (do let _ ← regRead ⟨pg bTIM 0, 0x100, 2, 0, a⟩) s

end Sys2Proof.Machine
end

