-- ==== Sys2Proof/Machine/Dispatch.lean ====
section
/-! DEFINITION. The meaning of every command: one arm for each row of the opcode table. -/

namespace Sys2Proof.Machine

def exec (i : Instr) (s : State) : Host.Outcome State Fault Refusal :=
  match i with
  | .queTailWrite q v a => Sys2Proof.Machine.execQueTailWrite q v a s
  | .queEnable q a => Sys2Proof.Machine.execQueEnable q a s
  | .queDrain q a => Sys2Proof.Machine.execQueDrain q a s
  | .queResume q a => Sys2Proof.Machine.execQueResume q a s
  | .qreset q a => Sys2Proof.Machine.execQreset q a s
  | .nop q => Sys2Proof.Machine.execNop q s
  | .fence q => Sys2Proof.Machine.execFence q s
  | .stamp q => Sys2Proof.Machine.execStamp q s
  | .lookupPool q => Sys2Proof.Machine.execLookupPool q s
  | .lookupRows q => Sys2Proof.Machine.execLookupRows q s
  | .interact q => Sys2Proof.Machine.execInteract q s
  | .interactSample q seq sample => Sys2Proof.Machine.execInteractSample q seq sample s
  | .gradIntake q => Sys2Proof.Machine.execGradIntake q s
  | .intakeCountEnd q seq => Sys2Proof.Machine.execIntakeCountEnd q seq s
  | .intakeCommit q seq => Sys2Proof.Machine.execIntakeCommit q seq s
  | .scatterUpdateGrad q => Sys2Proof.Machine.execScatterUpdateGrad q s
  | .scatterUpdateDelta q => Sys2Proof.Machine.execScatterUpdateDelta q s
  | .scatterUpdateOverwrite q => Sys2Proof.Machine.execScatterUpdateOverwrite q s
  | .contributionTakeIn q seq => Sys2Proof.Machine.execContributionTakeIn q seq s
  | .mergeHoldExpiry r => Sys2Proof.Machine.execMergeHoldExpiry r s
  | .mergeDrain r entry => Sys2Proof.Machine.execMergeDrain r entry s
  | .touchedListAppend r => Sys2Proof.Machine.execTouchedListAppend r s
  | .unitAdd q seq => Sys2Proof.Machine.execUnitAdd q seq s
  | .optimize q => Sys2Proof.Machine.execOptimize q s
  | .optimizeFire q seq => Sys2Proof.Machine.execOptimizeFire q seq s
  | .optimizeRowUpdate q seq => Sys2Proof.Machine.execOptimizeRowUpdate q seq s
  | .customHandlerReturn r call ok data => Sys2Proof.Machine.execCustomHandlerReturn r call ok data s
  | .customHandlerTimeout r call => Sys2Proof.Machine.execCustomHandlerTimeout r call s
  | .requant q => Sys2Proof.Machine.execRequant q s
  | .requantRow q seq => Sys2Proof.Machine.execRequantRow q seq s
  | .copy q => Sys2Proof.Machine.execCopy q s
  | .copyIngest q => Sys2Proof.Machine.execCopyIngest q s
  | .ingestBatchTake q seq => Sys2Proof.Machine.execIngestBatchTake q seq s
  | .fill q => Sys2Proof.Machine.execFill q s
  | .copyEngineStart e => Sys2Proof.Machine.execCopyEngineStart e s
  | .confirmReadDone entry upto => Sys2Proof.Machine.execConfirmReadDone entry upto s
  | .flushReadDone q seq => Sys2Proof.Machine.execFlushReadDone q seq s
  | .goResponse q seq => Sys2Proof.Machine.execGoResponse q seq s
  | .migrate q => Sys2Proof.Machine.execMigrate q s
  | .migratePage q seq => Sys2Proof.Machine.execMigratePage q seq s
  | .exchange q => Sys2Proof.Machine.execExchange q s
  | .chainReduce q => Sys2Proof.Machine.execChainReduce q s
  | .invRange q => Sys2Proof.Machine.execInvRange q s
  | .faultReply q => Sys2Proof.Machine.execFaultReply q s
  | .cancel q => Sys2Proof.Machine.execCancel q s
  | .maintScrubHbm q => Sys2Proof.Machine.execMaintScrubHbm q s
  | .maintScrubLls q => Sys2Proof.Machine.execMaintScrubLls q s
  | .maintRefresh q => Sys2Proof.Machine.execMaintRefresh q s
  | .maintRetrain q => Sys2Proof.Machine.execMaintRetrain q s
  | .maintSpareSwap q => Sys2Proof.Machine.execMaintSpareSwap q s
  | .maintTrafficGen q => Sys2Proof.Machine.execMaintTrafficGen q s
  | .maintCapo q => Sys2Proof.Machine.execMaintCapo q s
  | .maintCompact q => Sys2Proof.Machine.execMaintCompact q s
  | .maintActivityEnd slot res => Sys2Proof.Machine.execMaintActivityEnd slot res s
  | .completionRecordWrite q seq => Sys2Proof.Machine.execCompletionRecordWrite q seq s
  | .descriptorTimeout q seq => Sys2Proof.Machine.execDescriptorTimeout q seq s
  | .irqDelayExpiry q => Sys2Proof.Machine.execIrqDelayExpiry q s
  | .sliceStart c => Sys2Proof.Machine.execSliceStart c s
  | .seqNop c => Sys2Proof.Machine.execSeqNop c s
  | .seqEnd c => Sys2Proof.Machine.execSeqEnd c s
  | .seqTrap c => Sys2Proof.Machine.execSeqTrap c s
  | .seqWait c => Sys2Proof.Machine.execSeqWait c s
  | .seqWaitExpiry c => Sys2Proof.Machine.execSeqWaitExpiry c s
  | .seqSkip c => Sys2Proof.Machine.execSeqSkip c s
  | .seqLoop c => Sys2Proof.Machine.execSeqLoop c s
  | .seqEndl c => Sys2Proof.Machine.execSeqEndl c s
  | .seqMovi c => Sys2Proof.Machine.execSeqMovi c s
  | .seqMovc c => Sys2Proof.Machine.execSeqMovc c s
  | .seqAdd c => Sys2Proof.Machine.execSeqAdd c s
  | .seqSub c => Sys2Proof.Machine.execSeqSub c s
  | .seqMul c => Sys2Proof.Machine.execSeqMul c s
  | .seqIdx c => Sys2Proof.Machine.execSeqIdx c s
  | .seqRow c => Sys2Proof.Machine.execSeqRow c s
  | .seqHash c => Sys2Proof.Machine.execSeqHash c s
  | .seqBnd c => Sys2Proof.Machine.execSeqBnd c s
  | .seqNext c => Sys2Proof.Machine.execSeqNext c s
  | .seqSeek c => Sys2Proof.Machine.execSeqSeek c s
  | .seqLd c => Sys2Proof.Machine.execSeqLd c s
  | .seqEmit c => Sys2Proof.Machine.execSeqEmit c s
  | .seqClose c => Sys2Proof.Machine.execSeqClose c s
  | .poolPhaseEnd c => Sys2Proof.Machine.execPoolPhaseEnd c s
  | .rowItemConsume c => Sys2Proof.Machine.execRowItemConsume c s
  | .bagDeliver c => Sys2Proof.Machine.execBagDeliver c s
  | .streamErrorEffect c => Sys2Proof.Machine.execStreamErrorEffect c s
  | .pageWalk die asid va => Sys2Proof.Machine.execPageWalk die asid va s
  | .batchWindowExpiry die => Sys2Proof.Machine.execBatchWindowExpiry die s
  | .trnBatchFlush die a => Sys2Proof.Machine.execTrnBatchFlush die a s
  | .faultBatchWrite die => Sys2Proof.Machine.execFaultBatchWrite die s
  | .residentEpochEnd slot => Sys2Proof.Machine.execResidentEpochEnd slot s
  | .residentLoad slot v a => Sys2Proof.Machine.execResidentLoad slot v a s
  | .residentLoadDone slot => Sys2Proof.Machine.execResidentLoadDone slot s
  | .acmRelease c tile a => Sys2Proof.Machine.execAcmRelease c tile a s
  | .qntLoadStart a => Sys2Proof.Machine.execQntLoadStart a s
  | .qntLoadAbort a => Sys2Proof.Machine.execQntLoadAbort a s
  | .qntLoadRun => Sys2Proof.Machine.execQntLoadRun s
  | .qntLoadEnd => Sys2Proof.Machine.execQntLoadEnd s
  | .batchCloseTimer r => Sys2Proof.Machine.execBatchCloseTimer r s
  | .dataFrameSend p => Sys2Proof.Machine.execDataFrameSend p s
  | .ack p f => Sys2Proof.Machine.execAck p f s
  | .nak p f => Sys2Proof.Machine.execNak p f s
  | .idle p f => Sys2Proof.Machine.execIdle p f s
  | .hello p f => Sys2Proof.Machine.execHello p f s
  | .helloAck p f => Sys2Proof.Machine.execHelloAck p f s
  | .bye p f => Sys2Proof.Machine.execBye p f s
  | .batch p f => Sys2Proof.Machine.execBatch p f s
  | .unit p f => Sys2Proof.Machine.execUnit p f s
  | .chain p f => Sys2Proof.Machine.execChain p f s
  | .chainDone p f => Sys2Proof.Machine.execChainDone p f s
  | .chainFail p f => Sys2Proof.Machine.execChainFail p f s
  | .refuse p f => Sys2Proof.Machine.execRefuse p f s
  | .readReq p f => Sys2Proof.Machine.execReadReq p f s
  | .readResp p f => Sys2Proof.Machine.execReadResp p f s
  | .write p f => Sys2Proof.Machine.execWrite p f s
  | .writeAck p f => Sys2Proof.Machine.execWriteAck p f s
  | .ingest p f => Sys2Proof.Machine.execIngest p f s
  | .ptpMessage p msg => Sys2Proof.Machine.execPtpMessage p msg s
  | .reorderDeadline r => Sys2Proof.Machine.execReorderDeadline r s
  | .releasedItemApply r => Sys2Proof.Machine.execReleasedItemApply r s
  | .spillResend n => Sys2Proof.Machine.execSpillResend n s
  | .ackTimer n => Sys2Proof.Machine.execAckTimer n s
  | .idleTimer n => Sys2Proof.Machine.execIdleTimer n s
  | .nakRepeatTimer n => Sys2Proof.Machine.execNakRepeatTimer n s
  | .rtoExpiry n => Sys2Proof.Machine.execRtoExpiry n s
  | .helloTimer n => Sys2Proof.Machine.execHelloTimer n s
  | .peerSilenceTimeout n => Sys2Proof.Machine.execPeerSilenceTimeout n s
  | .portDownTimeout p => Sys2Proof.Machine.execPortDownTimeout p s
  | .detachTimeout n => Sys2Proof.Machine.execDetachTimeout n s
  | .moduleInsert p => Sys2Proof.Machine.execModuleInsert p s
  | .moduleReady p => Sys2Proof.Machine.execModuleReady p s
  | .linkLock p => Sys2Proof.Machine.execLinkLock p s
  | .linkLoss p removed => Sys2Proof.Machine.execLinkLoss p removed s
  | .txpEnable p on a => Sys2Proof.Machine.execTxpEnable p on a s
  | .attach n a => Sys2Proof.Machine.execAttach n a s
  | .detach n a => Sys2Proof.Machine.execDetach n a s
  | .mrgSpillSkip r a => Sys2Proof.Machine.execMrgSpillSkip r a s
  | .secKeyInstall a => Sys2Proof.Machine.execSecKeyInstall a s
  | .secKeyRemove a => Sys2Proof.Machine.execSecKeyRemove a s
  | .syncLossTimeout => Sys2Proof.Machine.execSyncLossTimeout s
  | .slewEnd => Sys2Proof.Machine.execSlewEnd s
  | .leafReload => Sys2Proof.Machine.execLeafReload s
  | .treeCalibration skew => Sys2Proof.Machine.execTreeCalibration skew s
  | .timSet a => Sys2Proof.Machine.execTimSet a s
  | .timNowRead a => Sys2Proof.Machine.execTimNowRead a s
  | .dlDown cause => Sys2Proof.Machine.execDlDown cause s
  | .dlUp => Sys2Proof.Machine.execDlUp s
  | .linkRecovery => Sys2Proof.Machine.execLinkRecovery s
  | .heldTimeout => Sys2Proof.Machine.execHeldTimeout s
  | .hostResetReceived cause => Sys2Proof.Machine.execHostResetReceived cause s
  | .hlkResume a => Sys2Proof.Machine.execHlkResume a s
  | .hostSnoop addr => Sys2Proof.Machine.execHostSnoop addr s
  | .cacheEnable on => Sys2Proof.Machine.execCacheEnable on s
  | .journalClearSel a => Sys2Proof.Machine.execJournalClearSel a s
  | .journalClearAll a => Sys2Proof.Machine.execJournalClearAll a s
  | .hbmTempReading stack t => Sys2Proof.Machine.execHbmTempReading stack t s
  | .capTempReading port t => Sys2Proof.Machine.execCapTempReading port t s
  | .hbmTrainingDone stack res => Sys2Proof.Machine.execHbmTrainingDone stack res s
  | .capoWindow => Sys2Proof.Machine.execCapoWindow s
  | .llsPartWrite r v a => Sys2Proof.Machine.execLlsPartWrite r v a s
  | .llsPinEnable r n a => Sys2Proof.Machine.execLlsPinEnable r n a s
  | .llsPinRelease r n a => Sys2Proof.Machine.execLlsPinRelease r n a s
  | .pinFillDone r n => Sys2Proof.Machine.execPinFillDone r n s
  | .pinReleaseDone r n => Sys2Proof.Machine.execPinReleaseDone r n s
  | .ueDetect addr lls scrub => Sys2Proof.Machine.execUeDetect addr lls scrub s
  | .heatEpoch die => Sys2Proof.Machine.execHeatEpoch die s
  | .mrEnable idx v a => Sys2Proof.Machine.execMrEnable idx v a s
  | .mrDisable idx a => Sys2Proof.Machine.execMrDisable idx a s
  | .mrDrainEnd idx => Sys2Proof.Machine.execMrDrainEnd idx s
  | .regionWipeEnd idx => Sys2Proof.Machine.execRegionWipeEnd idx s
  | .lcTransition target confirm a => Sys2Proof.Machine.execLcTransition target confirm a s
  | .pageWorldWrite page secure a => Sys2Proof.Machine.execPageWorldWrite page secure a s
  | .pageWorldLock page a => Sys2Proof.Machine.execPageWorldLock page a s
  | .functionReset page a => Sys2Proof.Machine.execFunctionReset page a s
  | .pageEnable page on a => Sys2Proof.Machine.execPageEnable page on a s
  | .pageFence page a => Sys2Proof.Machine.execPageFence page a s
  | .pageReadmit page a => Sys2Proof.Machine.execPageReadmit page a s
  | .logicErrorFence page => Sys2Proof.Machine.execLogicErrorFence page s
  | .pageIrqStatClear page v a => Sys2Proof.Machine.execPageIrqStatClear page v a s
  | .pageIrqEnWrite page v a => Sys2Proof.Machine.execPageIrqEnWrite page v a s
  | .pageIrqForce page v a => Sys2Proof.Machine.execPageIrqForce page v a s
  | .counterClear page a => Sys2Proof.Machine.execCounterClear page a s
  | .peakClear page a => Sys2Proof.Machine.execPeakClear page a s
  | .registerWrite off size data a => Sys2Proof.Machine.execRegisterWrite off size data a s
  | .powerStateRequest req a => Sys2Proof.Machine.execPowerStateRequest req a s
  | .powerStateEntry => Sys2Proof.Machine.execPowerStateEntry s
  | .powerRequestAbandon => Sys2Proof.Machine.execPowerRequestAbandon s
  | .powerStateExit => Sys2Proof.Machine.execPowerStateExit s
  | .engReset cause => Sys2Proof.Machine.execEngReset cause s
  | .quiesceBudgetExpiry => Sys2Proof.Machine.execQuiesceBudgetExpiry s
  | .coldReset cause => Sys2Proof.Machine.execColdReset cause s
  | .powerGoodLoss => Sys2Proof.Machine.execPowerGoodLoss s
  | .vddcSettled die mv => Sys2Proof.Machine.execVddcSettled die mv s
  | .pwrReady a => Sys2Proof.Machine.execPwrReady a s
  | .watchdogExpiry k => Sys2Proof.Machine.execWatchdogExpiry k s
  | .heartbeatWrite k v a => Sys2Proof.Machine.execHeartbeatWrite k v a s
  | .bridgeLaneFail die => Sys2Proof.Machine.execBridgeLaneFail die s
  | .evrSwWrite code sev a => Sys2Proof.Machine.execEvrSwWrite code sev a s
  | .recordFlashWrite => Sys2Proof.Machine.execRecordFlashWrite s
  | .recorderCompactAuto => Sys2Proof.Machine.execRecorderCompactAuto s
  | .compactionEnd => Sys2Proof.Machine.execCompactionEnd s
  | .directoryCheckpoint => Sys2Proof.Machine.execDirectoryCheckpoint s
  | .opSecondsTick => Sys2Proof.Machine.execOpSecondsTick s
  | .traceRingWrite => Sys2Proof.Machine.execTraceRingWrite s
  | .opcodeNotDefined q => Sys2Proof.Machine.execOpcodeNotDefined q s
  | .eapolFrame p body => Sys2Proof.Machine.execEapolFrame p body s
  | .pauseFrame p => Sys2Proof.Machine.execPauseFrame p s
  | .frameCheckFail p bytes => Sys2Proof.Machine.execFrameCheckFail p bytes s
  | .ptpMessageInterval p kind => Sys2Proof.Machine.execPtpMessageInterval p kind s
  | .announceReceiptTimeout p => Sys2Proof.Machine.execAnnounceReceiptTimeout p s
  | .capacityTrainingDone port ok sizeGib => Sys2Proof.Machine.execCapacityTrainingDone port ok sizeGib s
  | .clientPortWrite port addr data secure => Sys2Proof.Machine.execClientPortWrite port addr data secure s
  | .clientPortBeatAccept port => Sys2Proof.Machine.execClientPortBeatAccept port s
  | .rowDataArrival c item => Sys2Proof.Machine.execRowDataArrival c item s
  | .dieTempReading die t => Sys2Proof.Machine.execDieTempReading die t s
  | .uncorrectableCoreError k => Sys2Proof.Machine.execUncorrectableCoreError k s
  | .d3hotTransition toD3 => Sys2Proof.Machine.execD3hotTransition toD3 s

end Sys2Proof.Machine
end

