-- ==== Sys2Proof/Machine/Tick.lean ====
section
/-! DEFINITION. What one cycle of the time base brings when no command waits (log entry 1): time, the counters that
measure time (R145, R245, R247, R320, R397, R399, R423), the running engines' next blocks, messages that can be taken, and the rest of a
running reset. -/

namespace Sys2Proof.Machine

/-- Cycles of a clock of num/den cycles for each tick that end between two times. -/
def cyclesIn (a b num den : Nat) : Nat := b * num / den - a * num / den

/-- Mesh cycles: one is 20/9 ticks. -/
def meshCycles (a b : Nat) : Nat := cyclesIn a b 9 20

/-- ET advances by the rate word in force; a correction by rate comes nearer to its end (R34, R38). -/
def TimeBase.advance (t : TimeBase) : TimeBase :=
  let sum := ((t.et * 2 ^ 32 + t.frac + rateNominal : Nat) : Int) + t.frozen + t.trim
  let n := sum.toNat
  { t with et := n / 2 ^ 32 % 2 ^ 64, frac := n % 2 ^ 32, slew := t.slew - t.trim }

/-! ### Stall cycles of a cluster (R145, R146) -/

/-- Where the pieces of a row item lie, as far as its cluster's buffers translate them. -/
def Dev.itemPas (d : Dev) (c asid : Nat) (i : Item) : List Nat :=
  i.ranges.filterMap fun r => ((d.tlbFind c asid r.1).or (d.tlbFind (64 + c / 32) asid r.1)).map fun t => t.pa r.1

/-- A walk holds a row item of a cluster. -/
def Dev.itemWalks (d : Dev) (c : Nat) (i : Item) : Bool :=
  d.xl.walks.any fun w => i.inGran w.gran && w.reqs.any fun r => r.w.rq == .cluster c

/-- A request that a test selects waits on a capo regulator. -/
def Dev.capoHolds (d : Dev) (p : CapoHold → Bool) : Bool :=
  d.ms.capoHeld.any fun e => e.age == 0 && decide (e.key < 256) && p e

/-- The cause that the head item of a cluster's stream gives for a stall (R145): causes 1 to 7, in their order. A row held
for its part of a resident table waits for it as for memory (R150). -/
def Dev.headStall (d : Dev) (c : Nat) (s : Slice) : Option Fld :=
  let k := d.cl c
  let asid := d.queueAsid s.q
  match k.items.head? with
  | none => if k.taken.any fun i => i.kind == .row then some F.gclStallRow_count else none
  | some i =>
    let waits := i.kind == .row && i.got.isNone && i.status == 0
    let pas := if waits then d.itemPas c asid i else []
    if pas.any fun a => a / 2 ^ 46 == d.self && d.channelHeld (a % 2 ^ 46) then some F.gclStallMaint_count
    else if waits && d.capoHolds (fun e => e.kind == 1 && e.inst == c) then some F.gclStallCapo_count
    else if d.itemFaulted c i || d.seqFaulted c then some F.gclStallFault_count
    else if waits && d.itemWalks c i then some F.gclStallXlate_count
    else if i.status == 0 && (d.desc s.q s.seq).any d.scaleHeld then some F.gclStallScale_count
    else if waits && pas.any (fun a => a / 2 ^ 46 != d.self) then some F.gclStallRemote_count
    else if waits then some F.gclStallRow_count
    else none

/-- The counter of the first cause, in the order of R145, that holds a busy cluster outside a fetch phase. -/
def Dev.stallCause (d : Dev) (c : Nat) : Option Fld :=
  let slice := (d.cl c).slice
  match slice.bind (d.headStall c) with
  | some f => some f
  | none =>
    if slice.isSome && d.seqFaulted c then some F.gclStallFault_count
    else if d.hazardWaits c then some F.gclStallAcc_count
    else if d.ports.any fun r => r.src == c then some F.gclStallCredit_count
    else none

/-- A waiter is a visit that a cluster serves: for a peer, or for an EXCHANGE or CHAIN_REDUCE of this package (R280). -/
def Dev.isVisit (d : Dev) (q seq : Nat) : Bool :=
  q == 1024 || (match d.desc q seq with
    | some x => x.exch.isSome
    | none => false)

/-- What a visit that a cluster serves waits for, in the order of R145: a capo regulator, a fault reply, translation, another
node, or memory (R280). -/
def Dev.visitStall (d : Dev) (c : Nat) : Option Fld :=
  let mine (w : Waiter) : Bool := w.rq == .cluster c && d.isVisit w.q w.seq
  if d.capoHolds (fun e => e.kind == 1 && e.inst == c && d.isVisit e.q e.seq) then some F.gclStallCapo_count
  else if [d.batcher 0, d.batcher 1].any (fun b => (b.unanswered ++ b.later).any fun r => r.waiters.any mine) then
    some F.gclStallFault_count
  else if d.xl.walks.any (fun w => w.reqs.any fun r => mine r.w) then some F.gclStallXlate_count
  else if d.remotes.any (fun r => mine r.w && r.answer.isNone) then some F.gclStallRemote_count
  else if d.ms.held.any (fun e => e.1 == 1 && e.2.1 == c && d.isVisit e.2.2.1 e.2.2.2.1) then some F.gclStallRow_count
  else none

/-- Busy, fetch and stall cycles of a cluster between two times (R145, R146): it is busy while it runs or holds a slice or
has one assigned; stall cycles count only while it is unfenced. -/
def Dev.countCluster (d : Dev) (c a b : Nat) : Dev :=
  let k := d.cl c
  let fenced := d.fenceHeld (pg bGCL c)
  let on := (d.clusterRuns c || fenced) && d.rd F.pwrState_state 0 == 0 && d.pow.phase == 0
  if !on || (k.slice.isNone && !d.assigned c && (d.visitStall c).isNone) then d
  else
    let n := cyclesIn a b (6 + d.clockStep c) 40
    let d := d.bump F.gclBusy_count c n
    if fenced then d
    else if k.fetching && k.slice.isSome then d.bump F.gclFetch_count c n
    else match (d.stallCause c).or (d.visitStall c) with
      | some f => d.bump f c n
      | none => d

/-! ### Other counters of time -/

/-- Mesh cycles of a region: its interaction stage busy (R162), its intake stalled on a full merge table (R245), drains that wait for a touched list (R247), and any request that a
capo holds (R320). -/
def Dev.countRegion (d : Dev) (r n : Nat) : Dev :=
  let busy := d.rd F.intStatus_state r == 1
  let d := if busy then d.bump F.intBusy_count r n else d
  let d := if busy then
      (if d.ports.any fun p => p.src == 64 + r then d.bump F.intWaitOut_count r n else d.bump F.intWaitIn_count r n)
    else d
  let d := if d.stalls.contains r then d.bump F.mrgStallFull_count r n else d
  let d := if (d.merges r).any fun m => m.append then d.bump F.mrgStallTlist_count r n else d
  if d.capoHolds fun e => e.key / 32 == r then d.bump F.rgnCapoHolds_count r n else d

/-- Microseconds of the ports and of the stacks. -/
def Dev.countMicros (d : Dev) (n : Nat) : Dev :=
  if n = 0 then d
  else
    let d := (List.range 8).foldl (fun d p =>
      let d := if d.rd F.txpRunout_withheld p = 1 then d.bump F.txpWithheldUs_count p n else d
      if d.retainFull p then d.bump F.txpRetainWaitUs_count p n else d) d
    (List.range 16).foldl (fun d s =>
      if d.rd F.hbcState_ref s = 3 || d.ms.hot.contains s then d.bump F.hbcThrottleUs_count s n else d) d

/-- Everything that counts time between two times. -/
def Dev.countTime (d : Dev) (a b : Nat) : Dev :=
  let d := (List.range 64).foldl (fun d c => d.countCluster c a b) d
  let d := (List.range 8).foldl (fun d r => d.countRegion r (meshCycles a b)) d
  d.countMicros (cyclesIn a b 1 usTicks)

/-! ### The cycle -/

/-- Every running copy engine moves its next block (R424). -/
def moveBlocks : M Unit := each (List.range 16) fun e => do
  let d ← dev
  match d.copyRunning e with
  | some x =>
    match x.copy with
    | some c => if d.engineRuns e then attempt (engineBlock e x c) else pure ()
    | none => pure ()
  | none => pure ()

/-- One cycle of the time base. Nothing moves in E4 or without power (R477, R479). -/
def cycle : M Unit := do
  let d ← dev
  need (d.pow.good && d.rd F.pwrState_state 0 != 4)
  let t := d.time.advance
  modTime fun _ => t
  modDev fun e => (e.countTime d.time.et t.et).syncRate
  if d.pow.untrained then calibrate
  startTraining
  moveBlocks
  pump
  finishInvals
  syncPtp
  let ph := (← dev).pow.phase
  if ph = 2 then advanceReset
  else if ph = 4 then afterSleep
  else if ph = 5 then lifeCycleEnd
  else pure ()

/-- The block with no command waiting. -/
def idleCycle (s : State) : Host.Outcome State Fault Refusal := transact cycle s

end Sys2Proof.Machine
end

