-- ==== Sys2Proof/Safety.lean ====
section
/-! DEFINITION. The notions in which statements about the block are made: a meaning that runs to its end, a register write
that reaches its register, the form of the memories, and a queue whose turn it is. -/

namespace Sys2Proof.Machine

/-- The machine with everything but its queue and its memories replaced. -/
def State.put (s : State) (d : Dev) : State := { s with dev := d }

/-- The memories that a command reads, and the transaction that it begins with. -/
def State.image (s : State) : Image := ⟨s.mem, s.host⟩
def State.start (s : State) : Tx := ⟨s.dev, []⟩

/-- A meaning runs to its end: it neither waits nor fails; its answer, and the transaction as it leaves it. -/
def Runs {α : Type} (m : M α) (i : Image) (t : Tx) (a : α) (t' : Tx) : Prop := m i t = .ok a t'

/-- The transaction as a meaning leaves it. -/
def ran {α : Type} (m : M α) (i : Image) (t : Tx) : Tx :=
  match m i t with
  | .ok _ t' => t'
  | .error _ t' => t'

/-- The machine as a meaning leaves it that begins with `d`. -/
def State.after (s : State) (d : Dev) (m : M Unit) : State := settle s (ran m s.image ⟨d, []⟩)

/-- A register write passes the checks of its page: not asleep (R479, R535), populated (R527), of the page's world (R453,
R452), and, from 0x040 on, a page that is not busy (R535); a mailbox reaches four types of page only (R512). -/
def RegAcc.reaches (w : RegAcc) (d : Dev) : Bool :=
  (w.agent != .mailbox || w.page / 256 == bEVR || w.page / 256 == bTIM || w.page / 256 == bPWR || w.page / 256 == bTRC) &&
  d.rd F.pwrState_state 0 != 4 && (!d.asleep || servedInSleep w.page) && populated w.page &&
  (if 8 ≤ w.off ∧ w.off < 12 then worldOf w.agent == 1 else worldOf w.agent == d.pageWorld w.page) &&
  (decide (w.off < 0x40) || d.rd F.pageStat_busy w.page == 0)

/-- A register read passes the checks of its page (R453, R479, R512, R527, R535). -/
def RegAcc.readable (w : RegAcc) (d : Dev) : Bool :=
  (w.agent != .mailbox || w.page / 256 == bEVR || w.page / 256 == bTIM || w.page / 256 == bPWR || w.page / 256 == bTRC) &&
  d.rd F.pwrState_state 0 != 4 && (!d.asleep || servedInSleep w.page) && populated w.page &&
  (decide (w.off < 12) || worldOf w.agent == d.pageWorld w.page)

/-- The machine after an interrupt bit of a page is set (R534). -/
def Dev.raised (d : Dev) (page b : Nat) : Dev :=
  d.setIrq page (Nat.lor (d.word .pageIrqStat page 0) (2 ^ b)) (d.word .pageIrqEn page 0) false

/-! ### Accesses that nothing holds -/

/-- An access of ring, table and record traffic to a range of local memory completes now: the range is populated, every
block of it passes the region check (R457), and no fence, self-refresh, swap, row operation, page move, marked line or
THROTTLE holds it (R27, R251, R306, R308, R309, R313, R326, R493). -/
def Dev.accessFree (d : Dev) (n : Need) (world a len : Nat) : Prop :=
  d.populatedAll a len = true ∧ (∀ b ∈ blocksOf a len, d.blockPasses world n b = true) ∧
  d.mustWait (n == .rd) a len = false ∧ d.moveHeld a len = false ∧ ∀ k, d.throttle k = none

/-- An atomic of record traffic to a range of local memory completes now: nothing holds a read or a write of it, and its
lines are in their slices (R325, R328). -/
def Dev.atomicFree (d : Dev) (world a len : Nat) : Prop :=
  d.accessFree .record world a len ∧ d.mustWait true a len = false ∧ d.linesHeld a len = true

/-- The lines of the pieces of a row operation are in their slices, so that it writes them at once (R323, R325). -/
def Dev.rowHere (d : Dev) (gs : List (List Seg)) : Prop := ∀ p ∈ gs.flatten.map Seg.at', d.linesHeld p.1 p.2 = true

/-- A completion record of a queue can be written now (R67): its ring is in host memory and the host link is UP, with the
function in D0, or it is in local memory and nothing holds the write. -/
def Dev.ringOpen (d : Dev) (q : Nat) : Prop :=
  let a := d.qrd F.queCplBase_base q * 4096 + d.qrd F.queCplTail_index q % ringEntries (d.qrd F.queCplCfg_size q) * 32
  if d.qrd F.queCplCfg_loc q = 1 then d.rd F.hlkState_state 0 = 1 ∧ d.d3hot = false
  else d.accessFree .wr (d.queueWorld q) (a % 2 ^ 46) 32

/-- A descriptor that a CANCEL or its time limit ends at once: it holds no slice, row, copy engine or page (R77). -/
def Desc.endsAtOnce (x : Desc) : Bool :=
  match x.work with
  | .none | .start | .cancel _ _ | .stamp _ | .intake _ => true
  | _ => false

/-- A field of a queue set (R47). -/
def Dev.qset (d : Dev) (f : Fld) (q v : Nat) : Dev := d.wr f (1 + q / 16) v (q % 16)

/-! ### Dispatch (R51 to R56) -/

/-- The machine `e` after the dispatch of a descriptor that was at HEAD in `d`: the grant is used, HEAD has passed the
descriptor, it is listed, and the dispatch is counted and traced. -/
def Dev.listed (e d : Dev) (q raw : Nat) : Dev :=
  let head := d.qrd F.queHead_head q
  let next := wrap32 (head + slotsOf raw)
  let e1 := (e.granted (d.qrd F.queRingCfg_class q) q).qset F.queHead_head q next
  let e2 := ({ e1 with descs := e1.descs ++ [d.fresh q raw] }.syncInflight q).consumeMarks q next
  (e2.bump F.queDispatched_count 0 1).traced 0 0 4 (d.queueWorld q) q head 0 0

/-- A queue has its turn (R55, R56), and the descriptor at its HEAD can be read and is not marked (R76); `t` is what reading
it leaves. -/
def State.atHead (s : State) (q raw : Nat) (t : Tx) : Prop :=
  let head := s.dev.qrd F.queHead_head q
  s.dev.turn s.image q = true ∧ (s.dev.qh q).marks.any (inMark head) = false ∧
  Runs (readDesc q head) s.image s.start raw t

/-- No descriptor of a queue that `sel` selects waits to start. -/
def Dev.noneWaits (d : Dev) (q : Nat) (sel : Nat → Bool) : Prop :=
  d.descs.find? (fun x => x.q == q && x.starting && sel x.raw) = none

/-- The transaction in which the body of a dispatched descriptor runs. -/
def State.opened (s : State) (q raw : Nat) (t : Tx) : Tx := { t with dev := t.dev.listed s.dev q raw }

/-- The machine after a descriptor has met a condition and ended (R69, R70). -/
def Dev.failed (d : Dev) (q seq st rs : Nat) : Dev :=
  (match d.desc q seq with
   | some x => d.putDesc (x.met st rs)
   | none => d).endDesc q seq

/-- The transaction after the set-up of a dispatched descriptor: work that has to wait leaves it listed with what it waits
for, and work that fails ends it with that status. -/
def State.launched (s : State) (q raw : Nat) (t : Tx) (body : Desc → M Unit) : Tx :=
  let x := s.dev.fresh q raw
  ran (orEnd q x.seq (attemptWork q x.seq (body x))) s.image (s.opened q raw t)

/-- A header and a body whose reserved fields are zero, and no inline data (R58, R60). -/
def Desc.plain (x : Desc) : Prop :=
  x.field 1 4 4 = 0 ∧ x.bytesAt 3 1 = 0 ∧ x.bytesAt 6 2 = 0 ∧ x.field 8 0 448 = 0 ∧ x.long = false ∧ x.inlineLen = 0

/-- The commands that only dispatch, or go on with a descriptor that waits to start, with the opcodes that each takes. -/
def dispatchCommands : List ((Nat → Bool) × (Fin 1024 → Instr)) :=
  [(opcodeIs 1, .fence), (opcodeIs 0x10, .lookupPool), (opcodeIs 0x11, .lookupRows), (opcodeIs 0x12, .interact),
   (opcodeIs 0x20, .gradIntake), (fun r => opcodeIs 0x21 r && (bits r 504 2 == 0 || bits r 504 2 == 3), .scatterUpdateGrad),
   (fun r => opcodeIs 0x21 r && bits r 504 2 == 1, .scatterUpdateDelta),
   (fun r => opcodeIs 0x21 r && bits r 504 2 == 2, .scatterUpdateOverwrite), (opcodeIs 0x22, .optimize),
   (opcodeIs 0x23, .requant), (fun r => opcodeIs 0x30 r && bits r 256 2 != 3, .copy),
   (fun r => opcodeIs 0x30 r && bits r 256 2 == 3, .copyIngest), (opcodeIs 0x31, .fill), (opcodeIs 0x32, .migrate),
   (opcodeIs 0x50, .invRange), (opcodeIs 0x51, .faultReply), (maintIs 1, .maintScrubHbm), (maintIs 2, .maintScrubLls),
   (maintIs 3, .maintRefresh), (maintIs 4, .maintRetrain), (maintIs 5, .maintSpareSwap), (maintIs 6, .maintTrafficGen),
   (maintIs 7, .maintCapo), (maintIs 8, .maintCompact)]

/-! ### Sequencers -/

/-- The sequencer of a cluster is about to execute the word `w` of its running slice `x`: its cluster runs, in a fetch
phase, not waiting and not stopped (R92, R101, R104). -/
def Dev.atWord (d : Dev) (c : Nat) (x : Slice) (w : Nat) : Prop :=
  d.clusterRuns c = true ∧ (d.cl c).fetching = true ∧ (d.cl c).wait = none ∧ (d.cl c).slice = some x ∧
  x.stopped = false ∧ x.prog[x.cur.pc]? = some w

/-- A cluster reads `n` bytes at a virtual address for its slice `x`: they can be read now, and are `bs`; `t` is what the read
leaves. -/
def State.clusterReads (s : State) (c : Nat) (x : Slice) (va n : Nat) (bs : List Byte) (t : Tx) : Prop :=
  Runs (clusterRead c x.q x.seq (s.dev.queueWorld x.q) (s.dev.queueAsid x.q) va n) s.image s.start (.ok bs) t

/-- The stream buffer of a cluster hands items out, for its running slice `x` (R101, R103, R107). -/
def Dev.inPool (d : Dev) (c : Nat) (x : Slice) : Prop := d.handsOut c = true ∧ (d.cl c).slice = some x

/-- The bytes of a row item of a cluster's slice can be read now; `t` is what the read leaves. -/
def State.rowReads (s : State) (c : Nat) (x : Slice) (i : Item) (bs : List Byte) (paged : Option (Nat × Nat)) (t : Tx) : Prop :=
  Runs (itemBytes c x i) s.image s.start (.ok (bs, paged)) t

/-- The vectors of a sample of an INTERACT can be read now; `t` is what the reads leave (R151). -/
def State.vectorsRead (s : State) (x : Desc) (srcs : List Nat) (r sample : Nat) (vecs : List Vec) (t : Tx) : Prop :=
  Runs (collect srcs fun e => readVec r x e sample) s.image s.start vecs t

/-- Table descriptor `n` and its shard map can be read now and pass their checks for the page of the residency slots, in a
machine that differs from `s` in `d` (R147, R169, R267). -/
def State.tableAt (s : State) (d : Dev) (n : Nat) (tab : Table) (t : Tx) : Prop :=
  Runs (readTable 1024 0 n true >>= fun y => Machine.dev >>= fun e => readShards 1024 0 (e.pageWorld (pg bGCL 64)) y)
    s.image ⟨d, []⟩ tab t

/-- An epoch of a residency slot may end (R148, R150): a descriptor needs the slot or it is to be emptied, no region is
fenced, and no cluster has anything left for the part beside it. -/
def Dev.epochOver (d : Dev) (n : Nat) : Prop :=
  (d.slotUsers n = true ∨ (d.resident n).emptying = true) ∧ d.anyFenced = false ∧ ∀ c, c < 64 → d.partDone n c = true

/-- The machine with the running slice of a cluster replaced. -/
def Dev.putSlice (d : Dev) (c : Nat) (x : Slice) : Dev := d.setCl c { d.cl c with slice := some x }

/-- A cluster in its pool phase (R101). -/
def Dev.pooled (d : Dev) (c : Nat) : Dev := (d.setCl c { d.cl c with fetching := false }).wr F.seqStatus_state c qsPOOL

/-- A cluster whose fetch phase ends where its reserved bytes reach the mark or its buffer holds 32,768 items (R101). -/
def Dev.limited (d : Dev) (c : Nat) : Dev :=
  if (d.cl c).mark ≤ (d.cl c).filled ∨ 32768 ≤ (d.cl c).items.length then d.pooled c else d

/-- The cluster with an item at the end of its stream buffer (R97). -/
def Dev.pushed (d : Dev) (c : Nat) (e : Item) : Dev :=
  let k := d.cl c
  d.setCl c { k with items := k.items ++ [{ e with id := k.nextId }], nextId := k.nextId + 1 }

/-- The row item that an EMIT of the word `w` makes (R96, R97). -/
def emitted (x : Slice) (d : Desc) (w id : Nat) : Item :=
  let t := d.table
  let row := (x.cur.reg (wS w) - t.base) / t.stride
  let off := if wF w then wImm w % 65536 * 16 else 0
  { Item.plain .row x.cur.pc { x.cur.next with emits := x.cur.emits + 1 } with
    id := id, row := row, va := t.payloadVa row + off, len := if wF w then wImm w / 65536 * 16 else t.payload, off := off,
    husk := t.huskVa row, pos := x.cur.ixc - 1 }

/-- The operands of an EMIT are in bounds (R96). -/
def emitFits (x : Slice) (d : Desc) (self w : Nat) : Prop :=
  let t := d.table
  let a := x.cur.reg (wS w)
  t.base ≤ a ∧ a < t.base + d.tableRows self * t.stride ∧ (a - t.base) % t.stride = 0 ∧
  (if wF w then wImm w / 65536 ≠ 0 ∧ wImm w % 65536 + wImm w / 65536 ≤ t.payload / 16 else wImm w = 0) ∧
  (if d.isPool then x.openRows < 2 ^ 24 - 1 else x.cur.emits < x.count) ∧
  (d.isPool = true → d.lkMode = 2 → x.cur.ixc ≠ 0)

/-- The sequencer after a failure at its instruction: an error item at that position of the stream, and a slice that
executes no more (R104). -/
def Dev.seqFailed (d : Dev) (c : Nat) (x : Slice) (status reason kind code : Nat) : Dev :=
  let k := d.cl c
  let e : Item := { Item.plain .error x.cur.pc x.cur with
    id := k.nextId, status := status, reason := reason, skind := kind, code := code }
  ((d.setCl c { k with items := k.items ++ [e], nextId := k.nextId + 1 }).putSlice c { x with stopped := true }).pooled c

/-- The stream commands that read no memory and ask for no row (R95). -/
def streamCommands : List (Fin 64 → Instr) :=
  [.seqNop, .seqEnd, .seqTrap, .seqWait, .seqSkip, .seqLoop, .seqEndl, .seqMovi, .seqMovc, .seqAdd, .seqSub, .seqMul,
   .seqIdx, .seqRow, .seqHash, .seqBnd, .seqSeek, .seqClose]

/-! ### Row work of the training opcodes -/

/-- The tensor of a GRAD_INTAKE can be read now, and counts `c` (R206, R215); `t` is what the counting pass leaves. -/
def State.tensorCounts (s : State) (x : Desc) (g : Intake) (c : GradCount) (t : Tx) : Prop :=
  Runs (countPass x g) s.image s.start c t

/-- The tensor of a GRAD_INTAKE can be read now and its codes under scale `e` written (R216, R217); `t` is what the writing
pass leaves. -/
def State.tensorWrites (s : State) (x : Desc) (e : Int) (recount : Bool) (w : Written) (t : Tx) : Prop :=
  Runs (writePass x e recount) s.image s.start w t

/-- The commit of a GRAD_INTAKE can be made now, with a header: its address is mapped and nothing holds its write, nor the
atomic on the scale-control record that follows it (R203, R218, R219). -/
def State.commitFree (s : State) (x : Desc) (header : List Byte) (t : Tx) : Prop :=
  let free (d : Dev) : Prop := d.atomicFree (d.pageWorld (pg bOPT 8)) (d.gscAddr x.giTable) 128
  free t.dev ∧ ∃ et t', Runs (writeHeader x header) s.image t et t' ∧ free t'.dev

/-- Both rows of a row of a REQUANT are mapped and pass their checks, and nothing holds their accesses (R192, R193): the
pieces of the source and of the destination. -/
def State.requantOpens (s : State) (x : Desc) (n : Nat) (src dst : List (List Seg)) (t : Tx) : Prop :=
  Runs (requantOpen x n) s.image s.start (src, dst) t

/-- The row of a claimed entry is mapped with its companions and passes its checks, nothing holds the row operation, and its
lines are in their slices (R233, R249): what the row holds. -/
def State.optOpens (s : State) (x : Desc) (o : Optimize) (row : Nat) (k : OptRow) (t : Tx) : Prop :=
  let who := optWho o.stage (s.dev.queueWorld x.q) x.q x.seq
  let gs := k.main ++ k.sum ++ k.states
  ∃ t1 : Tx, Runs (openOptRow x o.stage row) s.image s.start k t1 ∧ Runs (issueRow who 3 gs) s.image t1 () t ∧ t.dev.rowHere gs

/-- The sum of a row is mapped and passes its checks for the drain of an entry of a region's merge table, nothing holds the
atomic, and its lines are in their slices (R247): its pieces, header and bytes. -/
def State.sumOpens (s : State) (r : Nat) (m : Merge) (gs : List (List Seg)) (h : Husk) (p : List Byte) (t : Tx) : Prop :=
  let who := drainWho r m.world 1024 0
  ∃ t1 : Tx, Runs (openSum (drainWaiter r m) who m) s.image s.start (gs, h, p) t1 ∧
    Runs (issueRow who 2 gs) s.image t1 () t ∧ t.dev.rowHere gs

/-- The row of a contribution is mapped or has a port, and passes its checks (R28, R457): its region `r`; and the
contribution can be read (R241): its lanes. -/
def State.contributes (s : State) (x : Desc) (c : Scatter) (p row r : Nat) (lanes : List F32) (t : Tx) : Prop :=
  let b := if x.suKind = 2 then p else bagAt c.offs p
  ∃ t1 : Tx, Runs (mergeRegion x x.table b row) s.image s.start r t1 ∧ Runs (contribution x c b p) s.image t1 lanes t

/-- No statistics are folded into records (R190). -/
def Dev.foldsNothing (d : Dev) : Prop := d.rd F.qntStats_enable 2 = 0

/-! ### Copies, pages and translation -/

/-- The host link is UP, with the function in D0: host-bound traffic passes (R419, R436). -/
def Dev.hostOpen (d : Dev) : Prop := d.rd F.hlkState_state 0 = hUP ∧ d.d3hot = false

/-- Nothing that has been dispatched depends on the host (R438, R442): no descriptor that runs uses it, no queue with a ring in
its memory has one, and no entry of the journal is in use. -/
def Dev.hostQuiet (d : Dev) : Prop :=
  (∀ x ∈ d.descs, (x.ended = true ∨ x.usesHost = false) ∧ d.hostQueue x.q = false) ∧ d.rd F.cpeJrnStat_in_use 16 = 0

/-- An entry of the journal can be changed by `f` now, in a machine that differs from `s` in `d` (R441, R442). -/
def State.journalTakes (s : State) (d : Dev) (i : Nat) (f : JrnEntry → JrnEntry) (t : Tx) : Prop :=
  Runs (modJrn i f) s.image ⟨d, []⟩ () t

/-- The list of a MIGRATE can be read now, and is `bs` (R376). -/
def State.listReads (s : State) (x : Desc) (bs : List Byte) (t : Tx) : Prop :=
  Runs (readVa (dispatchWaiter x.q x.seq) (dispatchWho (s.dev.queueWorld x.q) x.q x.seq) (s.dev.queueAsid x.q) x.mgList
    (16 * x.length)) s.image s.start bs t

/-- The bytes of a held page can be copied now, and its leaf entry written (R378). -/
def State.pageCopies (s : State) (x : Desc) (m : PageMove) (t : Tx) : Prop :=
  ∃ t1 : Tx, Runs (copyPage x m) s.image s.start () t1 ∧ Runs (writeEntry x m) s.image t1 () t

/-- A walk that is no longer out can read its context and its entries now, and ends with `e` (R341, R344). -/
def State.walkReads (s : State) (k : Walk) (c : AsidCtx) (e : WalkEnd) (t : Tx) : Prop :=
  let d : Dev := { s.dev with xl := { s.dev.xl with walks := s.dev.xl.walks.filter (fun x => !(x == k)) } }
  Runs (walkFor k) s.image ⟨d, []⟩ (c, e) t

/-! ### Pages, regions and resets -/

/-- Nothing runs in the block of a page that a function reset would have to end (R481, R494). -/
def Dev.workFree (d : Dev) (page : Nat) : Prop :=
  let t := page / 256
  let i := page % 256
  let still (c : Nat) : Prop := (d.cl c).slice = none ∧ d.users (pg bGCL c) = []
  d.users page = [] ∧ (t = bQUE → ∀ x ∈ d.descs, x.q / 16 + 1 ≠ i) ∧
  ((t = bGCL ∧ i < 64) ∨ t = bSEQ ∨ t = bACM → still i) ∧ (t = bTXP ∨ t = bRGN → d.peersOn i = []) ∧
  (t = bRGN → d.users (pg bINT i) = [] ∧ ∀ c, c / 8 = i → still c) ∧ (t = bCPE → d.copyRunning i = none)

/-- PAGE_CTRL stands as it reads: FUNCTION_RESET as 0, and FENCE as 0 on a page that has no fence (R529, R531). -/
def Dev.ctrlSteady (d : Dev) (page : Nat) : Prop :=
  bit (d.word .pageCtrl page 0) 1 = false ∧ (fenceable page = true ∨ d.rd F.pageCtrl_fence page = 0)

/-- No maintenance activity runs that a wipe would abort (R491). -/
def Dev.noneAborts (d : Dev) : Prop :=
  ∀ n, n < 32 → d.rd F.mntSlot_state 0 n = 1 → d.rd F.mntSlot_activity 0 n = 11

/-- The ceiling of class MAINT lets the bytes of an activity move (R317, R319, R329). -/
def Dev.maintMoves (d : Dev) (act target : Nat) : Prop :=
  (act = 1 ∨ act = 6 → d.capoLimit (target / 2) 0 4 ≠ 0) ∧ (act = 2 → d.capoLimit target 2 4 ≠ 0)

/-- A reset finds nothing that is still to be drained or sent (R482): no descriptor, batch, item, message or entry of a merge
table. -/
def Dev.atRest (d : Dev) : Prop :=
  d.descs = [] ∧ d.batches = [] ∧ d.reorder = [] ∧ d.outbox = [] ∧ ∀ r, r < 8 → d.merges r = []

/-- A write of a register does no more than to set its fields (R18, R22): the registers that are named do something else, in
the rows and rules of their own. -/
def storedOnly (r : RegName) : Bool :=
  match r with
  | .queTail | .queState | .queClassWeight | .gclClock | .gclResCfg | .acmRelease | .qntLoadCmd | .mrgSpillSkip | .hbcTemp
  | .ctpTemp | .hbcRefCtl | .hbcTgSel | .llsPart | .llsPinCtl | .trnBatchCfg | .txpState | .txpPtpCfg | .txpPtpClock
  | .txpOwdCfg | .txpPeerCmd | .cpeJrn | .cpeJrnCfg | .cpeJrnSel | .cpeJrnCtl | .hlkCtl | .secLcCmd | .secKeyCmd | .secMrBase
  | .pwrCtl | .pwrState | .evrCtl | .evrRdSel | .evrSwCtl | .timCtl | .ccxHeartbeat | .pageWorld | .pageCtrl | .pageIrqStat
  | .pageIrqEn | .pageIrqForce | .pageErrInfo | .queCtrCtl | .gclCtrCtl | .qntCtrCtl | .mrgCtrCtl | .mrgCtrCtl8 | .llsCtrCtl
  | .trnL1CtrCtl | .trnCtrCtl | .migCtrCtl | .txpCtrCtl => false
  | _ => true

/-- A read latches or takes the upper word of TIM_NOW (R542). -/
def RegAcc.readsTime (w : RegAcc) : Bool := w.page == pg bTIM 0 && w.size == 2 && (w.off == 0x100 || w.off == 0x104)

/-! ### Numbers -/

/-- m × 2^x ≤ 57,344 × 2^(e − margin), exactly (R200). -/
def scaleFits (m : Nat) (x : Int) (margin : Nat) (e : Int) : Prop :=
  let k := min x (e - margin)
  m * 2 ^ (x - k).toNat ≤ 57344 * 2 ^ (e - margin - k).toNat

/-! ### Time -/

/-- The PTP ports that are disabled are those that cannot take part: no port has still to join or to leave (R408). -/
def Dev.ptpSettled (d : Dev) : Prop := ∀ p, p < 8 → (d.ptpOn p = true ↔ d.rd F.txpPtpState_state p ≠ 0)

/-! ### Transport -/

/-- The commands that receive a Tipra frame, with the KIND of each (R390). -/
def frameCommands : List (Nat × (Fin 8 → Frame → Instr)) :=
  [(0x01, .ack), (0x02, .nak), (0x03, .idle), (0x04, .hello), (0x05, .helloAck), (0x06, .bye), (0x10, .batch), (0x11, .unit),
   (0x12, .chain), (0x13, .chainDone), (0x14, .chainFail), (0x15, .refuse), (0x18, .readReq), (0x19, .readResp),
   (0x1A, .write), (0x1B, .writeAck), (0x20, .ingest)]

/-- A node in session, on a port that runs (R393). -/
def Dev.sessionRuns (d : Dev) (n : Nat) : Prop := (d.peer n).session' = true ∧ d.portRuns (d.peer n).port = true

/-- A received frame of a KIND has been counted and checked (R390, R391, R392): the entry of its node can be read now; whether
it passes; `t` is what this leaves. -/
def State.frameChecks (s : State) (p kind : Nat) (f : Frame) (ok : Bool) (t : Tx) : Prop :=
  Runs (frameOk p kind f) s.image ⟨s.dev.bump F.txpRxBytes_count p (frameBytes f.start f.body.length), []⟩ ok t

/-- The sequence applied from a node can be read now, from a transaction `t` (R289): `v`; `t'` is what the read leaves. -/
def State.appliedReads (s : State) (t : Tx) (n v : Nat) (t' : Tx) : Prop := Runs (appliedFrom n) s.image t v t'

/-- The sequence sent to a node can be read now, from a transaction `t` (R289): `v`; `t'` is what the read leaves. -/
def State.sentReads (s : State) (t : Tx) (n v : Nat) (t' : Tx) : Prop := Runs (rmtRead n 8) s.image t v t'

/-- The sequence applied from the node of an item can be raised now, from a transaction `t` (R289); `t'` is what this
leaves. -/
def State.appliedRaises (s : State) (t : Tx) (i : RoItem) (t' : Tx) : Prop := Runs (itemApplied i) s.image t () t'

/-- The row of a GRAD item's next entries is open for them (R247, R287): its companions are readable, its sum is mapped,
passes its checks, has the row listed already, and nothing holds the atomic. -/
def State.itemOpens (s : State) (r : Nat) (i : RoItem) (es : List (Nat × Nat × List Nat)) : Prop :=
  let m := i.merge s.dev.self s.dev.time.et es
  let w : Waiter := ⟨.stage r, 1024, 2 ^ 64 + m.kind + 4 * (m.row + 2 ^ 40 * i.tab.num)⟩
  ∃ (a b : Option Table) (g : Table) (gs : List (List Seg)) (h : Husk) (p : List Byte) (t1 t2 t3 : Tx),
    Runs (readCompanions 1024 0 i.tab) s.image s.start (a, b, g) t1 ∧
    Runs (openSum w (applyWho r) { m with tabs := [i.tab, g] }) s.image t1 (gs, h, p) t2 ∧ SumHdr.pending h = true ∧
    Runs (issueRow (applyWho r) 2 gs) s.image t2 () t3 ∧ t3.dev.rowHere gs

/-- The records at the heads of the spill rings that hold any can be read now (R291, R296). -/
def State.headsRead (s : State) (heads : List (Nat × Nat)) (t : Tx) : Prop :=
  Runs (collect ((List.range 8).filter fun r => s.dev.spillHeld r != 0) fun r => do
    return (r, ← readSpill r (s.dev.rd F.mrgSpillPtr_get r))) s.image s.start heads t

/-- The run of records at the head `v` of a ring can be read now, from a transaction `t` (R291): the delta, and the number of
records. -/
def State.runReads (s : State) (t : Tx) (n r v : Nat) (x : Delta) (k : Nat) (t' : Tx) : Prop :=
  Runs (takeRun n r v) s.image t (x, k) t'

/-- The record at a place of a spill ring can be read now (R291, R296). -/
def State.spillReads (s : State) (r i v : Nat) (t : Tx) : Prop := Runs (readSpill r i) s.image s.start v t

/-- The entry of a node in the peer table can be read now, in a machine that differs from `s` in `d` (R392). -/
def State.entryReads (s : State) (d : Dev) (n ent : Nat) (t : Tx) : Prop := Runs (peerEntry n) s.image ⟨d, []⟩ ent t

/-- The loss of a node leaves nothing that has to read memory (R292): no message waits for it, and no OPTIMIZE is armed. -/
def Dev.lossFree (d : Dev) (n : Nat) : Prop := (∀ m ∈ d.outbox, m.node ≠ n) ∧ ∀ x ∈ d.descs, x.armed = false

/-- The regulator of a class of a partition of a region passes `len` bytes of a requester now (R317, R318). -/
def Dev.capoPasses (d : Dev) (w : Who) (r p c len : Nat) : Prop :=
  5 ≤ c ∨ (d.capoYields r p c = false ∧
    d.capoMoved (capoKey r p c) + (len - d.capoCredit w (capoKey r p c)) ≤ d.capoLimit r p c)

/-- A closed batch goes to its home now: sent, or written to the spill ring (R284, R291); `t` is what this leaves. -/
def State.deltaGoes (s : State) (port : Nat) (x : Delta) (t : Tx) : Prop := Runs (sendDelta port x) s.image s.start true t

/-! ### Memories -/

/-- Both memories are in canonical form. -/
def State.wf (s : State) : Prop := Memory.wf s.mem = true ∧ Memory.wf s.host = true

/-- Commands that store nothing in either memory, whatever they find: those that act on registers, time, pages, ports, the
power states, the recorder's staging and the sequencers alone. -/
def storesNothing (i : Instr) : Bool :=
  match i with
  | .queTailWrite _ _ _ | .queEnable _ _ | .queDrain _ _ | .queResume _ _ | .irqDelayExpiry _ | .seqNop _ | .seqEnd _
  | .seqTrap _ | .seqWait _ | .seqWaitExpiry _ | .seqSkip _ | .seqLoop _ | .seqEndl _ | .seqMovi _ | .seqMovc _
  | .seqAdd _ | .seqSub _ | .seqMul _ | .seqIdx _ | .seqRow _ | .seqHash _ | .seqBnd _ | .seqSeek _ | .seqClose _
  | .seqNext _ | .seqLd _ | .seqEmit _ | .rowDataArrival _ _ | .poolPhaseEnd _ | .batchWindowExpiry _
  | .trnBatchFlush _ _ | .residentEpochEnd _ | .residentLoadDone _ | .acmRelease _ _ _ | .qntLoadStart _
  | .qntLoadAbort _ | .qntLoadRun | .ptpMessage _ _ | .reorderDeadline _ | .ackTimer _ | .idleTimer _
  | .nakRepeatTimer _ | .helloTimer _ | .moduleInsert _ | .moduleReady _ | .linkLock _ | .linkLoss _ _
  | .secKeyInstall _ | .secKeyRemove _ | .syncLossTimeout | .slewEnd | .leafReload | .treeCalibration _ | .timSet _
  | .timNowRead _ | .linkRecovery | .hlkResume _ | .hostSnoop _ | .cacheEnable _ | .hbmTempReading _ _
  | .capTempReading _ _ | .hbmTrainingDone _ _ | .capoWindow | .llsPinEnable _ _ _ | .llsPinRelease _ _ _
  | .pinFillDone _ _ | .pinReleaseDone _ _ | .ueDetect _ _ _ | .heatEpoch _ | .logicErrorFence _
  | .pageIrqStatClear _ _ _ | .pageIrqEnWrite _ _ _ | .pageIrqForce _ _ _ | .counterClear _ _ | .peakClear _ _
  | .powerStateRequest _ _ | .powerStateEntry | .quiesceBudgetExpiry | .powerRequestAbandon | .powerStateExit
  | .powerGoodLoss | .vddcSettled _ _ | .pwrReady _ | .watchdogExpiry _ | .heartbeatWrite _ _ _ | .evrSwWrite _ _ _
  | .recordFlashWrite | .recorderCompactAuto | .compactionEnd | .directoryCheckpoint | .opSecondsTick
  | .eapolFrame _ _ | .pauseFrame _ | .frameCheckFail _ _ | .ptpMessageInterval _ _ | .announceReceiptTimeout _
  | .capacityTrainingDone _ _ _ | .clientPortBeatAccept _ | .dieTempReading _ _ | .uncorrectableCoreError _
  | .d3hotTransition _ => true
  | _ => false

end Sys2Proof.Machine
end

