-- ==== Sys2Proof/Certificates/Slice0/Obligations.lean ====
section
/-! DEFINITION. The statements about the block. -/

open Sys2Proof Sys2Proof.Machine

/-- A step runs the command at the front of the queue: it is `exec` of that command, with the rest of the queue.
That commands wait in one queue and run whole, one after another, is the model's choice (log entry 141). -/
def Obligations.StepRunsFrontCommand : Prop :=
  ∀ (c : Instr) (rest : List Instr) (s : State), s.pending = c :: rest → step s = exec c { s with pending := rest }

/-- The model's choice (log entry 1), within R15 and R34: with no command waiting, a step is one cycle of the time base. At
the nominal rate ET moves on by four ticks; in E4, or without power, nothing moves (R477, R479). -/
def Obligations.IdleStep : Prop :=
  (∀ s : State, s.pending = [] → s.dev.pow.good = false ∨ s.dev.rd F.pwrState_state 0 = 4 → step s = .next s) ∧
  (∀ t : TimeBase, t.trim = 0 → t.frozen = 0 → t.frac < 2 ^ 32 → t.et + 4 < 2 ^ 64 → t.advance.et = t.et + 4 ∧ t.advance.frac = t.frac) ∧
  (∀ (s : State) (t : Tx), s.pending = [] → Runs cycle s.image s.start () t → step s = .next (settle s t))

/-- R10, R18, R60: every command is answered, in every state, and leaves the commands behind it in the queue as they are.
That a command whose condition does not hold answers too, and changes nothing, is the model's choice (log entry 2). -/
def Obligations.EveryCommandAnswers : Prop :=
  ∀ (c : Instr) (s : State), ∃ t, exec c s = .next t ∧ t.pending = s.pending

/-- Every step keeps both memories in canonical form: addresses strictly rising, and no byte listed that reads zero.
That an unlisted byte of host memory reads as zero is the model's choice (log entry 7). -/
def Obligations.StepKeepsMemoryForm : Prop :=
  ∀ s t : State, s.wf → step s = .next t → t.wf

/-- What memory holds once a command has run: each byte is the newest that the command wrote there, and every byte that it
did not write is as it was, in local and in host memory.
Two memories in canonical form that read alike at every address are the same data.
That an unlisted byte of host memory reads as zero is the model's choice (log entry 7). -/
def Obligations.MemoryLaws : Prop :=
  (∀ (s : State) (t : Tx) (a : Nat),
     readByte (settle s t).mem a = (logged false a t.log).getD (readByte s.mem a) ∧
     readByte (settle s t).host a = (logged true a t.log).getD (readByte s.host a)) ∧
  (∀ m n : List Host.Cell, Memory.wf m = true → Memory.wf n = true → (∀ a, readByte m a = readByte n a) → m = n)

/-- R2, R325: the commands that act on registers, time, ports, power and sequencers alone leave every byte of both memories
as it is. -/
def Obligations.StoresNothing : Prop :=
  ∀ (c : Instr) (s t : State), storesNothing c = true → exec c s = .next t → t.mem = s.mem ∧ t.host = s.host

/-- R20, R42, R52, R86, R452, R469, R484: the machine right after reset. ET is 0 in UNSET; both memories read zero
everywhere and are in canonical form; no command waits and no descriptor is listed; every page is of the secure world but
not locked; every queue is DISABLED with HEAD, TAIL and both ring indices 0; every memory region and every port is OFF.
The instant of the reset is the model's reading (log entry 13), and that host memory reads zero its choice (log entry
7). -/
def Obligations.ResetState : Prop :=
  let d := State.reset.dev
  d.time.et = 0 ∧ d.rd F.timState_state 0 = tUNSET ∧ State.reset.wf ∧ State.reset.pending = [] ∧ d.descs = [] ∧
  (∀ a, readByte State.reset.mem a = 0 ∧ readByte State.reset.host a = 0) ∧
  (∀ p, p < 8192 → d.rd F.pageWorld_world p = 1 ∧ d.rd F.pageWorld_lock p = 0) ∧
  (∀ q, q < 1024 → d.qrd F.queState_state q = qDISABLED ∧ d.qrd F.queHead_head q = 0 ∧ d.qrd F.queTail_tail q = 0 ∧
    d.qrd F.queCplHead_index q = 0 ∧ d.qrd F.queCplTail_index q = 0) ∧
  (∀ i, i < 256 → d.mr F.secMrLimit_state i = 0) ∧ (∀ p, p < 8 → d.rd F.txpState_state p = pOFF)

/-- R95, R92: stream instructions that compute a value, or take one of the look-up, put it into their destination register,
and the sequencer goes on at the next word; SEEK sets the index cursor; nothing else changes. -/
def Obligations.SeqComputes : Prop :=
  (∀ (s : State) (c : Fin 64) (x : Slice) (w : Nat), s.dev.atWord c.val x w →
     let go (v : Nat) : State := s.put (s.dev.putSlice c.val { x with cur := (x.cur.put (wD w) v).next })
     let S := x.cur.reg (wS w)
     let T := x.cur.reg (wT w)
     (wOp w = 0x10 → wF w = false → exec (.seqMovi c) s = .next (go (wSext w))) ∧
     (wOp w = 0x10 → wF w = true → exec (.seqMovi c) s = .next (go (x.cur.reg (wD w) % 2 ^ 32 + wImm w * 2 ^ 32))) ∧
     (wOp w = 0x12 → wF w = false → exec (.seqAdd c) s = .next (go (S + T + wSext w))) ∧
     (wOp w = 0x12 → wF w = true → exec (.seqAdd c) s = .next (go (S + wSext w))) ∧
     (wOp w = 0x13 → wF w = false → exec (.seqSub c) s = .next (go ((S + (2 ^ 64 - T)) % 2 ^ 64))) ∧
     (wOp w = 0x14 → exec (.seqMul c) s = .next (go (S * T))) ∧
     (wOp w = 0x18 → exec (.seqIdx c) s = .next (go (S + T * 2 ^ wX w + wSext w)))) ∧
  (∀ (s : State) (c : Fin 64) (x : Slice) (w : Nat) (d : Desc), s.dev.atWord c.val x w → s.dev.desc x.q x.seq = some d →
     let go (v : Nat) : State := s.put (s.dev.putSlice c.val { x with cur := (x.cur.put (wD w) v).next })
     let S := x.cur.reg (wS w)
     let T := x.cur.reg (wT w)
     let rows := d.tableRows s.dev.self
     (wOp w = 0x11 → exec (.seqMovc c) s = .next (go (contextValue s.dev c.val d x (wImm w % 256)))) ∧
     (wOp w = 0x19 → T < rows → exec (.seqRow c) s = .next (go (d.table.base + T * d.table.stride))) ∧
     (wOp w = 0x1A → rows ≠ 0 → exec (.seqHash c) s = .next (go (S * T % 2 ^ 64 / 2 ^ (wImm w % 64) % rows))) ∧
     (wOp w = 0x21 → S ≤ d.lkIndexCount →
       exec (.seqSeek c) s = .next (s.put (s.dev.putSlice c.val { x with cur := { x.cur.next with ixc := S } }))))

/-- R95, R100: stream instructions that steer the sequencer. -/
def Obligations.SeqSteers : Prop :=
  ∀ (s : State) (c : Fin 64) (x : Slice) (w : Nat), s.dev.atWord c.val x w →
    let go (r : Resume) : State := s.put (s.dev.putSlice c.val { x with cur := r })
    let S := x.cur.reg (wS w)
    let T := x.cur.reg (wT w)
    let n := if wF w then S else wImm w
    (wOp w = 0x00 → exec (.seqNop c) s = .next (go x.cur.next)) ∧
    (wOp w = 0x04 → skipHolds (wX w) S T = true → exec (.seqSkip c) s = .next (go x.cur.next.next)) ∧
    (wOp w = 0x04 → skipHolds (wX w) S T = false → exec (.seqSkip c) s = .next (go x.cur.next)) ∧
    (wOp w = 0x08 → 0 < n → n < 2 ^ 32 → exec (.seqLoop c) s = .next (go { x.cur.next with l := x.cur.l.set (wX w) n })) ∧
    (wOp w = 0x08 → n = 0 → exec (.seqLoop c) s =
      .next (go { x.cur with pc := skipLoop 0 (x.cur.pc + 1) (x.prog.drop (x.cur.pc + 1)) })) ∧
    (wOp w = 0x09 → 1 < x.cur.l.getD (wX w) 0 → exec (.seqEndl c) s =
      .next (go { x.cur with pc := loopOf x.prog x.cur.pc (wX w) + 1,
                             l := x.cur.l.set (wX w) (x.cur.l.getD (wX w) 0 - 1) })) ∧
    (wOp w = 0x09 → x.cur.l.getD (wX w) 0 ≤ 1 → exec (.seqEndl c) s =
      .next (go { x.cur with pc := x.cur.pc + 1, l := x.cur.l.set (wX w) 0 })) ∧
    (wOp w = 0x1B → S < T → exec (.seqBnd c) s = .next (go x.cur.next))

/-- R95, R101, R104: the ends of a phase. END of a slice whose bags or rows are complete stops the sequencer and enters the
pool phase; TRAP leaves its code at its position of the stream; WAIT enters the pool phase or waits for a time, and goes on
once it has come. -/
def Obligations.SeqPhases : Prop :=
  (∀ (s : State) (c : Fin 64) (x : Slice) (w : Nat) (d : Desc), s.dev.atWord c.val x w → s.dev.desc x.q x.seq = some d →
    wOp w = 0x01 → x.count ≤ (if d.isPool then x.cur.closes else x.cur.emits) →
    exec (.seqEnd c) s = .next (s.put ((s.dev.putSlice c.val { x with stopped := true }).pooled c.val))) ∧
  (∀ (s : State) (c : Fin 64) (x : Slice) (w : Nat), s.dev.atWord c.val x w →
    (wOp w = 0x02 → exec (.seqTrap c) s =
      .next (s.put (s.dev.seqFailed c.val x sBOUNDS rBOUNDS_ADDR ekTRAP (wImm w % 65536)))) ∧
    (let d := s.dev.putSlice c.val { x with cur := x.cur.next }
     let held (u : Nat) : State := s.put ((d.setCl c.val { d.cl c.val with wait := some u }).wr F.seqStatus_state c.val qsWAITING)
     (wOp w = 0x03 → wX w = 0 → exec (.seqWait c) s = .next (s.put (d.pooled c.val))) ∧
     (wOp w = 0x03 → wX w = 1 → exec (.seqWait c) s = .next (held (s.dev.time.et + wImm w))) ∧
     (wOp w = 0x03 → wX w = 2 → exec (.seqWait c) s = .next (held (x.cur.reg (wS w)))))) ∧
  (∀ (s : State) (c : Fin 64) (u : Nat), s.dev.clusterRuns c.val = true → (s.dev.cl c.val).wait = some u →
    u ≤ s.dev.time.et → exec (.seqWaitExpiry c) s =
      .next (s.put ((s.dev.setCl c.val { s.dev.cl c.val with wait := none }).wr F.seqStatus_state c.val qsFETCH)))

/-- R95, R104: an instruction whose operands break its bounds leaves a BOUNDS error at its position of the stream. -/
def Obligations.SeqBoundsErrors : Prop :=
  ∀ (s : State) (c : Fin 64) (x : Slice) (w : Nat) (d : Desc), s.dev.atWord c.val x w → s.dev.desc x.q x.seq = some d →
    let bad : Host.Outcome State Fault Refusal :=
      .next (s.put (s.dev.seqFailed c.val x sBOUNDS rBOUNDS_ADDR ekBOUNDS 0))
    let S := x.cur.reg (wS w)
    let T := x.cur.reg (wT w)
    (wOp w = 0x08 → 2 ^ 32 ≤ (if wF w then S else wImm w) → exec (.seqLoop c) s = bad) ∧
    (wOp w = 0x13 → wF w = true → 2 ^ 63 ≤ (S + (2 ^ 64 - T)) % 2 ^ 64 → exec (.seqSub c) s = bad) ∧
    (wOp w = 0x19 → d.tableRows s.dev.self ≤ T → exec (.seqRow c) s = bad) ∧
    (wOp w = 0x1B → T ≤ S → exec (.seqBnd c) s = bad) ∧
    (wOp w = 0x20 → d.lkIndexCount ≤ x.cur.ixc → exec (.seqNext c) s = bad) ∧
    (wOp w = 0x21 → d.lkIndexCount < S → exec (.seqSeek c) s = bad) ∧
    (wOp w = 0x01 → (if d.isPool then x.cur.closes else x.cur.emits) < x.count → exec (.seqEnd c) s = bad)

/-- R95, R96, R97: the stream instructions that read memory or put an item into the stream buffer. NEXT takes the next
entry of the index list, LD a value at an address, and each goes on at the next word; EMIT puts a row at the end of the
buffer and asks for it; CLOSE puts a close there. -/
def Obligations.SeqReadsAndItems : Prop :=
  (∀ (s : State) (c : Fin 64) (x : Slice) (w : Nat) (d : Desc) (bs : List Byte) (t : Tx), s.dev.atWord c.val x w →
    s.dev.desc x.q x.seq = some d → wOp w = 0x20 → x.cur.ixc < d.lkIndexCount →
    s.clusterReads c.val x (d.lkIndex + x.cur.ixc * nextWidth (wX w)) (nextWidth (wX w)) bs t →
    exec (.seqNext c) s = .next (settle s { t with
      dev := t.dev.putSlice c.val { x with cur := { (x.cur.put (wD w) (fromBytes bs)).next with ixc := x.cur.ixc + 1 } } })) ∧
  (∀ (s : State) (c : Fin 64) (x : Slice) (w : Nat) (bs : List Byte) (t : Tx), s.dev.atWord c.val x w → wOp w = 0x22 →
    let n := if wX w = 1 then 8 else if wX w = 3 then 1 else 4
    let va := (x.cur.reg (wS w) + wSext w) % 2 ^ 64
    let v := if wX w = 2 then ofSigned 64 (toSigned 32 (fromBytes bs)) else fromBytes bs
    va % n = 0 → s.clusterReads c.val x va n bs t →
    exec (.seqLd c) s = .next (settle s { t with dev := t.dev.putSlice c.val { x with cur := (x.cur.put (wD w) v).next } })) ∧
  (∀ (s : State) (c : Fin 64) (x : Slice) (w : Nat) (d : Desc), s.dev.atWord c.val x w →
    s.dev.desc x.q x.seq = some d → wOp w = 0x28 → emitFits x d s.dev.self w →
    let e := emitted x d w (s.dev.cl c.val).nextId
    let y : Slice := { x with cur := e.after, openRows := x.openRows + 1 }
    let d1 := s.dev.pushed c.val e
    let k := d1.cl c.val
    let d2 := (d1.setCl c.val { k with slice := some y, filled := k.filled + e.stored }).bump F.seqEmitted_count c.val 1
    let t := ran (attempt (askItem c.val y e)) s.image ⟨d2, []⟩
    exec (.seqEmit c) s = .next (settle s { t with dev := t.dev.limited c.val })) ∧
  (∀ (s : State) (c : Fin 64) (x : Slice) (w : Nat), s.dev.atWord c.val x w → wOp w = 0x29 → x.cur.closes < x.count →
    let r : Resume := { x.cur.next with closes := x.cur.closes + 1 }
    exec (.seqClose c) s = .next (s.put ((((s.dev.pushed c.val (Item.plain .close x.cur.pc r)).putSlice c.val
      { x with cur := r, openRows := 0 }).bump F.seqEmitted_count c.val 1).limited c.val)))

/-- R52: a doorbell that moves QUE_TAIL forward, to at most a ring ahead of HEAD, sets it; so does any write while the queue
is DISABLED.
R54, R70, R83: the writes of QUE_STATE. ENABLE of a DISABLED queue whose rings lie in its world empties both rings,
by HEAD to TAIL and the completion TAIL to its HEAD, and the queue runs; a cleared ENABLE drains a queue, which is DISABLED
at once where nothing is in flight; RESUME lets a stopped queue run.
R82: QRESET of a queue that is not DISABLED discards its pending marks, cancels what it has dispatched, and lets its tiles
go; the queue is DISABLED once nothing of it is left, and at once where nothing was dispatched. -/
def Obligations.QueueRegisters : Prop :=
  (∀ (s : State) (q : Fin 1024) (v : BitVec 32) (a : Agent), (queAcc .queTail q.val v.toNat a).reaches s.dev = true →
     let n := diff32 v.toNat (s.dev.qrd F.queHead_head q.val)
     s.dev.qrd F.queState_state q.val = qDISABLED ∨
       (n ≤ ringEntries (s.dev.qrd F.queRingCfg_size q.val) ∧
         diff32 (s.dev.qrd F.queTail_tail q.val) (s.dev.qrd F.queHead_head q.val) ≤ n) →
     exec (.queTailWrite q v a) s = .next (s.put (s.dev.qset F.queTail_tail q.val v.toNat))) ∧
  ((∀ (s : State) (q : Fin 1024) (a : Agent), (queAcc .queState q.val 0x100 a).reaches s.dev = true →
     s.dev.qrd F.queState_state q.val = qDISABLED → s.dev.qrd F.queRingCfg_size q.val ≤ 10 →
     s.dev.qrd F.queCplCfg_size q.val ≤ 10 → s.dev.ringsInWorld q.val = true →
     exec (.queEnable q a) s = .next (s.put ((((((s.dev.qset F.queHead_head q.val (s.dev.qrd F.queTail_tail q.val)).qset
       F.queCplTail_index q.val (s.dev.qrd F.queCplHead_index q.val)).qset F.queState_enable q.val 1).consumeMarks q.val
       (s.dev.qrd F.queTail_tail q.val))).setQState q.val qRUNNING))) ∧
   (∀ (s : State) (q : Fin 1024) (a : Agent), (queAcc .queState q.val 0 a).reaches s.dev = true →
     s.dev.qrd F.queState_state q.val = qRUNNING ∨ s.dev.qrd F.queState_state q.val = qSTOPPED →
     exec (.queDrain q a) s =
       .next (s.put (((s.dev.qset F.queState_enable q.val 0).setQState q.val qDRAINING).drained q.val))) ∧
   (∀ (s : State) (q : Fin 1024) (a : Agent), (queAcc .queState q.val 0x300 a).reaches s.dev = true →
     s.dev.qrd F.queState_state q.val = qSTOPPED →
     exec (.queResume q a) s = .next (s.put (s.dev.setQState q.val qRUNNING)))) ∧
  (∀ (s : State) (q : Fin 1024) (a : Agent), (queAcc .queState q.val 0x400 a).reaches s.dev = true →
     s.dev.qrd F.queState_state q.val ≠ qDISABLED →
     let d := (s.dev.qset F.queState_enable q.val 0).setQState q.val qDRAINING
     let d := d.setQh q.val { (s.dev.qset F.queState_enable q.val 0).qh q.val with marks := [], resetting := true }
     (s.dev.descsOf q.val = [] → exec (.qreset q a) s = .next (s.put ((d.dropKept q.val).drained q.val))) ∧
     (∀ t : Tx, Runs (stopAll (d.descsOf q.val) sCANCELLED rNONE) s.image ⟨d, []⟩ () t → t.dev.ringGone q.val = false →
       exec (.qreset q a) s = .next (settle s { t with dev := (t.dev.dropKept q.val).drained q.val })))

/-- R53, R62, R64, R60: the dispatch of a NOP ends it; of a FENCE that is the oldest of its queue, too; a STAMP takes its
stamp, and writes it where its address can be written; an undefined opcode is MALFORMED. In each case the descriptor is listed
and HEAD has passed it.
R75, R76: the dispatch of a CANCEL, with no CANCEL of its queue running.
That a stamp which waits for its address keeps its value is the model's reading (log entry 42). -/
def Obligations.DispatchControl : Prop :=
  (∀ (s : State) (q : Fin 1024) (raw : Nat) (t : Tx), s.atHead q.val raw t →
     let x := s.dev.fresh q.val raw
     let noStamp := s.dev.noneWaits q.val (opcodeIs 2) ∧
       ∀ y ∈ s.dev.descs, y.q = q.val → y.ended = true ∨ y.stamped = none
     (opcodeIs 0 raw = true → x.plain →
       exec (.nop q) s = .next (settle s { t with dev := (t.dev.listed s.dev q.val raw).endDesc q.val x.seq })) ∧
     (opcodeIs 1 raw = true → x.plain → s.dev.noneWaits q.val (opcodeIs 1) →
       (t.dev.listed s.dev q.val raw).descsOf q.val = [x] →
       exec (.fence q) s = .next (settle s { t with dev := (t.dev.listed s.dev q.val raw).endDesc q.val x.seq })) ∧
     (opcodeIs 2 raw = true → noStamp → exec (.stamp q) s = .next (settle s (s.launched q.val raw t stamp))) ∧
     (raw % 256 ∉ definedOpcodes → exec (.opcodeNotDefined q) s =
       .next (settle s { t with dev := (t.dev.listed s.dev q.val raw).failed q.val x.seq sMALFORMED rOPCODE }))) ∧
  (∀ (s : State) (q : Fin 1024) (raw : Nat) (t : Tx), s.atHead q.val raw t → opcodeIs 0x60 raw = true →
     (∀ y ∈ s.dev.descs, y.q = q.val → y.opcode ≠ 0x60 ∨ y.ended = true) →
     exec (.cancel q) s = .next (settle s (s.launched q.val raw t cancel)))

/-- R53, R156, R157, R158: the dispatch of the look-up opcodes lists the descriptor, HEAD passes it, and its set-up runs.
R53, R191, R210, R239 to R248, R253: the dispatch of the training opcodes lists the descriptor, HEAD passes it, and its
set-up runs. The three kinds of SCATTER_UPDATE differ in KIND (byte 63, bits 0 and 1).
The grant that lets a queue dispatch is the model's choice (log entry 8). -/
def Obligations.DispatchWork : Prop :=
  (∀ (s : State) (q : Fin 1024) (raw : Nat) (t : Tx), s.atHead q.val raw t →
     let opens (sel : Nat → Bool) : Prop := sel raw = true ∧ s.dev.noneWaits q.val sel
     (opens (opcodeIs 0x10) → exec (.lookupPool q) s = .next (settle s (s.launched q.val raw t lookupPool))) ∧
     (opens (opcodeIs 0x11) → exec (.lookupRows q) s = .next (settle s (s.launched q.val raw t lookupRows))) ∧
     (opens (opcodeIs 0x12) → exec (.interact q) s = .next (settle s (s.launched q.val raw t interact)))) ∧
  (∀ (s : State) (q : Fin 1024) (raw : Nat) (t : Tx), s.atHead q.val raw t →
     let opens (sel : Nat → Bool) : Prop := sel raw = true ∧ s.dev.noneWaits q.val sel
     (opens (opcodeIs 0x20) → exec (.gradIntake q) s = .next (settle s (s.launched q.val raw t gradIntake))) ∧
     (opens (fun r => opcodeIs 0x21 r && (bits r 504 2 == 0 || bits r 504 2 == 3)) →
       exec (.scatterUpdateGrad q) s = .next (settle s (s.launched q.val raw t scatterUpdate))) ∧
     (opens (fun r => opcodeIs 0x21 r && bits r 504 2 == 1) →
       exec (.scatterUpdateDelta q) s = .next (settle s (s.launched q.val raw t scatterUpdate))) ∧
     (opens (fun r => opcodeIs 0x21 r && bits r 504 2 == 2) →
       exec (.scatterUpdateOverwrite q) s = .next (settle s (s.launched q.val raw t scatterUpdate))) ∧
     (opens (opcodeIs 0x22) → exec (.optimize q) s = .next (settle s (s.launched q.val raw t optimize))) ∧
     (opens (opcodeIs 0x23) → exec (.requant q) s = .next (settle s (s.launched q.val raw t requant))))

/-- R53, R273, R282, R376, R424: the dispatch of the opcodes that move data lists the descriptor, HEAD passes it, and its
set-up runs; EXCHANGE and CHAIN_REDUCE where none of their queue has bags still to begin.
R53, R489, R490: the dispatch of the eight activities of MAINT lists the descriptor, HEAD passes it, and its set-up
runs.
That EXCHANGE and CHAIN_REDUCE also stand for their bags, and the engine of a COPY, are the model's choices (log
entries 23 and 68). -/
def Obligations.DispatchMoves : Prop :=
  (∀ (s : State) (q : Fin 1024) (raw : Nat) (t : Tx), s.atHead q.val raw t →
     let opens (sel : Nat → Bool) : Prop := sel raw = true ∧ s.dev.noneWaits q.val sel
     let idle (op : Nat) : Prop := ∀ y ∈ s.dev.descs, y.q = q.val → y.opcode = op → y.ended = true
     (opens (fun r => opcodeIs 0x30 r && bits r 256 2 != 3) →
       exec (.copy q) s = .next (settle s (s.launched q.val raw t copyBody))) ∧
     (opens (fun r => opcodeIs 0x30 r && bits r 256 2 == 3) →
       exec (.copyIngest q) s = .next (settle s (s.launched q.val raw t copyBody))) ∧
     (opens (opcodeIs 0x31) → exec (.fill q) s = .next (settle s (s.launched q.val raw t fillBody))) ∧
     (opens (opcodeIs 0x32) → exec (.migrate q) s = .next (settle s (s.launched q.val raw t migrate))) ∧
     (opens (opcodeIs 0x40) → idle 0x40 → exec (.exchange q) s = .next (settle s (s.launched q.val raw t exchange))) ∧
     (opens (opcodeIs 0x41) → idle 0x41 →
       exec (.chainReduce q) s = .next (settle s (s.launched q.val raw t chainReduce))) ∧
     (opens (opcodeIs 0x50) → exec (.invRange q) s = .next (settle s (s.launched q.val raw t invRange))) ∧
     (opens (opcodeIs 0x51) → exec (.faultReply q) s = .next (settle s (s.launched q.val raw t faultReply)))) ∧
  (∀ (s : State) (q : Fin 1024) (raw : Nat) (t : Tx) (act : Nat), s.atHead q.val raw t → maintIs act raw = true →
     s.dev.noneWaits q.val (maintIs act) →
     let u := settle s (s.launched q.val raw t maint)
     (act = 1 → exec (.maintScrubHbm q) s = .next u) ∧ (act = 2 → exec (.maintScrubLls q) s = .next u) ∧
     (act = 3 → exec (.maintRefresh q) s = .next u) ∧ (act = 4 → exec (.maintRetrain q) s = .next u) ∧
     (act = 5 → exec (.maintSpareSwap q) s = .next u) ∧ (act = 6 → exec (.maintTrafficGen q) s = .next u) ∧
     (act = 7 → exec (.maintCapo q) s = .next u) ∧ (act = 8 → exec (.maintCompact q) s = .next u))

/-- R53, R55, R56, R76: what stands before a dispatch. A queue that is not ready, or has not the next grant, dispatches
nothing; a descriptor that a CANCEL has marked is dispatched only to end as CANCELLED.
R53, R64, R69: what a dispatch comes to. A set-up that runs to its end leaves the machine as it does; one that fails ends
the descriptor with its status and reason; one that has to wait leaves it listed, with what it waits for and the tables that
it has read. -/
def Obligations.DispatchGate : Prop :=
  (∀ e ∈ dispatchCommands, ∀ (s : State) (q : Fin 1024), s.dev.noneWaits q.val e.1 →
     let head := s.dev.qrd F.queHead_head q.val
     (s.dev.turn s.image q.val = false → exec (e.2 q) s = .next s) ∧
     (∀ (raw : Nat) (t : Tx), s.dev.turn s.image q.val = true → (s.dev.qh q).marks.any (inMark head) = true →
       Runs (readDesc q.val head) s.image s.start raw t → e.1 raw = true →
       let o := s.opened q.val raw t
       exec (e.2 q) s = .next (settle s { o with dev := o.dev.failed q.val head sCANCELLED rNONE }))) ∧
  (∀ (s : State) (q raw : Nat) (t : Tx) (body : Desc → M Unit),
     let x := s.dev.fresh q raw
     let o := s.opened q raw t
     (∀ u : Tx, Runs (body x) s.image o () u → s.launched q raw t body = u) ∧
     (∀ (u : Tx) (st rs : Nat), body x s.image o = .error (.fail st rs) u →
       s.launched q raw t body = { u with dev := u.dev.failed q x.seq st rs }) ∧
     (∀ (u : Tx) (reg : Dev → Dev), body x s.image o = .error (.wait reg) u →
       s.launched q raw t body = { o with dev := (reg o.dev).keepTabs u.dev q x.seq }))

/-- R541, R38: TIM_CTL.SET in UNSET with a target at or past ET, and with no servo that follows a source, steps ET to the
target once and leaves the time base FREE; memory and the command queue stay.
R541: in LOCKED or SLEWING the write is ignored and recorded in the error capture of the page. -/
def Obligations.TimeSet : Prop :=
  (∀ (s : State) (a : Agent),
     (regAcc .timCtl 0 0 (1 + 2 * s.dev.rd F.timCtl_servo 0) a).reaches s.dev = true →
     s.dev.rd F.timState_state 0 = tUNSET → s.dev.time.et ≤ s.dev.rd F.timSet_et 0 →
     ¬(s.dev.rd F.timCtl_servo 0 = 1 ∧ s.dev.rd F.txpPtpClock_source_valid 8 = 1) →
     ∃ t, exec (.timSet a) s = .next t ∧ t.dev.time.et = s.dev.rd F.timSet_et 0 ∧ t.dev.rd F.timState_state 0 = tFREE ∧
       t.mem = s.mem ∧ t.host = s.host ∧ t.pending = s.pending) ∧
  (∀ (s : State) (a : Agent),
     let w := regAcc .timCtl 0 0 (1 + 2 * s.dev.rd F.timCtl_servo 0) a
     w.reaches s.dev = true →
     s.dev.rd F.timState_state 0 = tLOCKED ∨ s.dev.rd F.timState_state 0 = tSLEWING →
     exec (.timSet a) s = .next (s.put (s.dev.captured (pg bTIM 0) kIGNORED true (worldOf a) (agentSource a) (agentReq a)
       (pg bTIM 0 * 4096 + w.off) 2 w.data)))

/-- R34, R39, R40, R542: the events of the time base. The leaves reload 1 µs after the last reload and the tree is
calibrated 10 ms after the last calibration; a read of TIM_NOW latches ET[63:32] for its requester; a loss of the source
for 3 s ends LOCKED in HOLDOVER, and is remembered in SLEWING; the end of a slew gives the state that R40's table gives.
That the leaves read the tree's count is the model's choice (log entry 6), and that a slew runs at its full rate (log
entry 105). -/
def Obligations.TimeEvents : Prop :=
  (∀ s : State, s.dev.time.reloadEt + usTicks ≤ s.dev.time.et →
    exec .leafReload s = .next (s.put { s.dev with time := { s.dev.time with reloadEt := s.dev.time.et } })) ∧
  (∀ (s : State) (skew : BitVec 16), s.dev.time.calEt + 10 * msTicks ≤ s.dev.time.et →
    ∃ t, exec (.treeCalibration skew) s = .next t ∧ t.dev.time.skew = skew.toNat ∧ t.dev.time.calEt = s.dev.time.et ∧
      t.dev.time.bridge ≤ skew.toNat ∧ t.dev.time.et = s.dev.time.et ∧ t.dev.regs = s.dev.regs ∧ t.mem = s.mem) ∧
  (∀ (s : State) (a : Agent), s.dev.rd F.pwrState_state 0 ≠ 4 → worldOf a = s.dev.pageWorld (pg bTIM 0) →
    exec (.timNowRead a) s = .next (s.put { s.dev with time := { s.dev.time with
      latch := (a, s.dev.time.et / 2 ^ 32 % 2 ^ 32) :: s.dev.time.latch.filter fun e => e.1 != a } })) ∧
  (∀ s : State, s.dev.time.lastSync + threeSeconds ≤ s.dev.time.et → s.dev.rd F.timState_state 0 = tLOCKED →
    exec .syncLossTimeout s = .next (s.after s.dev (setTimState tHOLDOVER))) ∧
  (∀ s : State, s.dev.time.lastSync + threeSeconds ≤ s.dev.time.et → s.dev.rd F.timState_state 0 = tSLEWING →
    s.dev.hasSource = true → s.dev.time.beforeSlew ≠ tHOLDOVER →
    exec .syncLossTimeout s =
      .next (s.put { s.dev with time := { s.dev.time with beforeSlew := tHOLDOVER } })) ∧
  (∀ s : State, s.dev.rd F.timState_state 0 = tSLEWING → s.dev.time.slew = 0 →
    let before := s.dev.time.beforeSlew
    let st := if s.dev.disciplined then (if 16 ≤ s.dev.time.near then tLOCKED else tFREE)
      else if before = tLOCKED ∨ before = tHOLDOVER then tHOLDOVER else tFREE
    let d := s.dev.event 0x103 2 (pg bTIM 0) (payloadOf [(0, s.dev.time.slewAll)])
    exec .slewEnd s = .next (s.after { d with time := { d.time with slewAll := 0 } } (setTimState st)))

/-- R408, R409: the messages and timers of the PTP ports, with no port that has still to join or leave. A received message
is taken; a Delay_Req to a MASTER is answered at once; a two-step Sync to a SLAVE waits for its Follow_Up; a MASTER sends
Sync and Announce, and a SLAVE Delay_Req, at their intervals; after 3 s without Announce a port forgets its source.
What a message does to the states of the ports is the model's (log entries 10, 107 and 108). -/
def Obligations.PtpCommands : Prop :=
  ∀ (s : State) (p : Fin 8), s.dev.ptpSettled → s.dev.ptpOn p.val = true →
    (∀ (m : PtpMsg) (t : Tx), Runs (ptpReceive p.val m) s.image s.start () t → exec (.ptpMessage p m) s = .next (settle s t)) ∧
    (∀ (n : BitVec 8) (r : BitVec 80), n.toNat = s.dev.rd F.txpPtpClock_domain 8 →
      s.dev.rd F.txpPtpState_state p.val = ptpMASTER →
      exec (.ptpMessage p (.delayReq n r)) s =
        .next (s.put { s.dev with ptpOut := (p.val, 3, s.dev.time.et) :: s.dev.ptpOut })) ∧
    (∀ kind : PtpKind,
      let last := SMap.get 0 (s.dev.ptpPort p.val).sent (ptpNumber kind)
      kind ≠ .delayReq → s.dev.rd F.txpPtpState_state p.val = ptpMASTER →
      last = 0 ∨ last + ptpInterval kind ≤ s.dev.time.et →
      let x := s.dev.ptpPort p.val
      let y : PtpPort := { x with sent := SMap.set 0 x.sent (ptpNumber kind) s.dev.time.et }
      exec (.ptpMessageInterval p kind) s = .next (s.put { s.dev with
        ptp := SMap.set PtpPort.none s.dev.ptp p.val y,
        ptpOut := (p.val, ptpNumber kind, s.dev.time.et) :: s.dev.ptpOut })) ∧
    (let st := s.dev.rd F.txpPtpState_state p.val
     (s.dev.ptpPort p.val).annEt + threeSeconds ≤ s.dev.time.et → st = ptpLISTENING ∨ st = ptpSLAVE ∨ st = ptpPASSIVE →
      let y : PtpPort := { s.dev.ptpPort p.val with best := none, annEt := s.dev.time.et }
      exec (.announceReceiptTimeout p) s =
        .next (s.after { s.dev with ptp := SMap.set PtpPort.none s.dev.ptp p.val y } (runBmca p.val)))

/-- R63, R66 to R68, R81: an ended descriptor leaves its queue, at once if RELAXED, else once it is the oldest: its record is
written where its ring can be written now, or never where the ring cannot be reached. One that has run longer than its limit
stops with TIMEOUT. Once IRQ_DELAY, as the last record took it, has passed since the first record not yet signalled, the bit
of the queue is set in its doorbell page. -/
def Obligations.DescriptorEvents : Prop :=
  (∀ (s : State) (q : Fin 1024) (seq : BitVec 32) (x : Desc) (t : Tx), s.dev.desc q.val seq.toNat = some x →
    (x.ended = true → (x.relaxed = true ∨ (s.dev.descsOf q.val).head?.map (fun y => y.seq) = some x.seq) →
      (Runs (retire x) s.image s.start () t → exec (.completionRecordWrite q seq) s = .next (settle s t)) ∧
      (x.copy = none → s.dev.ringGone x.q = true ∨ s.dev.ringOpen x.q →
        exec (.completionRecordWrite q seq) s = .next (s.after s.dev (retire x)))) ∧
    (s.dev.stoppable x = true → x.limit ≠ 0 → x.issued + x.limit * usTicks < s.dev.time.et →
      (Runs (stopWork x sTIMEOUT rNONE) s.image s.start () t → exec (.descriptorTimeout q seq) s = .next (settle s t)) ∧
      (x.endsAtOnce = true → exec (.descriptorTimeout q seq) s = .next (s.put (s.dev.failed x.q x.seq sTIMEOUT rNONE))))) ∧
  (∀ (s : State) (q : Fin 1024),
    let h := s.dev.qh q.val
    h.delay ≠ 0 → h.unsignalled ≠ 0 → h.firstEt + h.delay * usTicks ≤ s.dev.time.et →
    exec (.irqDelayExpiry q) s =
      .next (s.put ((s.dev.setQh q.val { h with unsignalled := 0 }).raised (queuePage q.val) (q.val % 16))))

/-- R92, R98, R101, R107: the assignment of a slice. A cluster that loads goes on loading; a free one takes the oldest slice
that is ready, and shows it LOADING or, its program read, in its first fetch phase; in E1 and E2 it first begins the exit, of
1 µs from E1 and 40 µs from E2.
What a command does on a cluster that loads is the model's reading (log entry 2). -/
def Obligations.SliceAssignment : Prop :=
  ∀ (s : State) (c : Fin 64) (x : Desc) (l : Lookup) (t : Tx), s.dev.inService (pg bGCL c.val) = true →
    s.dev.pow.phase = 0 → x.lookup = some l →
    let free := (s.dev.cl c.val).slice = none ∧ (s.dev.descs.find? fun x => s.dev.sliceReady x c.val) = some x ∧
      s.dev.rd F.seqStatus_state c.val ≠ qsERROR ∧ s.dev.pow.want = none
    let pst := s.dev.rd F.pwrState_state 0
    (∀ y : Slice, (s.dev.cl c.val).slice = some y → s.dev.rd F.seqStatus_state c.val = qsLOADING →
      s.dev.clusterRuns c.val = true → s.dev.desc y.q y.seq = some x → Runs (loadProgram c.val y x l) s.image s.start () t →
      exec (.sliceStart c) s = .next (settle s t)) ∧
    (free → pst = 0 → s.dev.desc x.q x.seq = some x →
      exec (.sliceStart c) s = .next (s.after s.dev (beginSlice c.val x l))) ∧
    (free → pst = 1 → s.dev.pow.exitEt = 0 → exec (.sliceStart c) s =
      .next (s.put { s.dev with pow := { s.dev.pow with exitEt := s.dev.time.et + usTicks } })) ∧
    (free → pst = 2 → s.dev.pow.exitEt = 0 → exec (.sliceStart c) s =
      .next (s.put { s.dev with pow := { s.dev.pow with exitEt := s.dev.time.et + 40 * usTicks } }))

/-- R101, R104, R107, R124, R133, R149: what leaves the stream buffer of a cluster. A row that has come and whose turn it is
is consumed, or held for its part of a resident table; a close reaches its bag; an error at the head stops its look-up and
shows in SEQ_ERR; when all has been handed out, the slice ends or the next fetch phase begins.
What is counted and held in the pool phase rests on the model's readings (log entries 37 and 39). -/
def Obligations.PoolPhase : Prop :=
  ∀ (s : State) (c : Fin 64) (y : Slice) (t : Tx), s.dev.inPool c.val y →
    let k := s.dev.cl c.val
    (k.items = [] → k.fetching = false → y.stopped = true → k.taken = [] →
      exec (.poolPhaseEnd c) s = .next (s.after s.dev (endSlice c.val y))) ∧
    (k.items = [] → k.fetching = false → y.stopped = false → exec (.poolPhaseEnd c) s = .next (s.put ((s.dev.setCl c.val
      { k with fetching := true, filled := 0, mark := s.dev.rd F.seqPhase_fill_mark c.val * 1024, wait := none }).wr
        F.seqStatus_state c.val qsFETCH))) ∧
    ∀ (x : Desc) (l : Lookup) (i : Item), s.dev.desc y.q y.seq = some x → x.lookup = some l →
      (s.dev.headRow c.val = some i → s.dev.scaleHeld x = false →
        (Runs (rowTurn c.val y x l.slot.isSome i) s.image s.start () t →
          exec (.rowItemConsume c) s = .next (settle s t)) ∧
        (i.husk = none → (x.isPool = true ∧ x.lkMode ≠ 2) ∨
            (x.isPool = false ∧ x.lkDest = 1 ∧ s.dev.unaccepted x c.val = []) →
          exec (.rowItemConsume c) s = .next (s.after s.dev (rowTurn c.val y x l.slot.isSome i)))) ∧
      (s.dev.headClose c.val = some i → s.dev.scaleHeld x = false → x.lkAdd = false → l.slot = none →
        let closes := y.committed.closes
        (Runs (closeBag c.val y x closes i (deliverItem c.val i)) s.image s.start () t →
          exec (.bagDeliver c) s = .next (settle s t)) ∧
        (x.lkDeliver = false ∨ (x.lkDest = 1 ∧ s.dev.unaccepted x c.val = []) →
          exec (.bagDeliver c) s = .next (s.after s.dev (closeBag c.val y x closes i (deliverItem c.val i))))) ∧
      (k.items.head? = some i → i.kind = .error ∨ i.status ≠ 0 →
        (Runs (streamError c.val x i) s.image s.start () t → exec (.streamErrorEffect c) s = .next (settle s t)) ∧
        (x.clusterSet = [c.val] → l.slot = none →
          exec (.streamErrorEffect c) s = .next (s.after s.dev (streamError c.val x i))))

/-- R97, R108, R116: the data of a row that a cluster has asked for arrives in its item, once its bytes can be read; the data
of an item that was dropped is counted as wasted. -/
def Obligations.RowData : Prop :=
  (∀ (s : State) (c : Fin 64) (y : Slice) (item : Nat) (i : Item) (bs : List Byte) (paged : Option (Nat × Nat)) (t : Tx),
    let k := s.dev.cl c.val
    (k.dropped.find? fun e => e.1 == item) = none → s.dev.clusterRuns c.val = true →
    (k.items.find? fun i => i.id == item) = some i → i.kind = .row → i.got = none → i.status = 0 → k.slice = some y →
    s.rowReads c.val y i bs paged t →
    let k' := t.dev.cl c.val
    let items := k'.items.map fun i => if i.id == item then { i with asked := true, got := some bs, paged := paged } else i
    exec (.rowDataArrival c item) s = .next (settle s { t with dev := t.dev.setCl c.val { k' with items := items } })) ∧
  (∀ (s : State) (c : Fin 64) (item n : Nat),
    let k := s.dev.cl c.val
    let dropped := k.dropped.filter fun e => e.1 != item
    let d := ((s.dev.setCl c.val { k with dropped := dropped }).bump F.seqWastedBytes_count c.val n).bump
      F.seqWastedRows_count c.val 1
    (k.dropped.find? fun e => e.1 == item) = some (item, n) →
    (dropped ≠ [] ∨ s.dev.rd F.seqStatus_state c.val ≠ qsERROR → exec (.rowDataArrival c item) s = .next (s.put d)) ∧
    (dropped = [] → s.dev.rd F.seqStatus_state c.val = qsERROR →
      exec (.rowDataArrival c item) s = .next (s.put (d.wr F.seqStatus_state c.val qsIDLE))))

/-- R147, R148, R162, R163: residency slots and tiles. ENABLE = 1 loads an INTPATH table of this node whose part fits;
ENABLE = 0 empties a slot; a LOADING slot whose parts have been read, and that no look-up runs against, is LOADED; at the end
of an epoch the parts move one place on, and a slot that is to be emptied is EMPTY; a write of ACM_RELEASE releases a tile
that no dispatched descriptor names.
That a slot holds its parts as they stood at the end of the load, and what becomes of running look-ups as it empties,
are the model's choices (log entries 38 and 143). -/
def Obligations.ResidentSlots : Prop :=
  (∀ (s : State) (n : Fin 8) (v : BitVec 64) (a : Agent) (t : Tx) (tab : Table),
    let w := regAcc .gclResCfg 64 n.val v.toNat a
    let d := (s.dev.wr F.gclResCfg_table 64 (v.toNat % 2 ^ 16) n.val).wr F.gclResCfg_enable 64 1 n.val
    let part := partBytes tab
    let others := (List.range 8).filter fun m => m != n.val
    w.reaches s.dev = true →
    (Runs (residentWrite n.val v.toNat w) s.image s.start () t → exec (.residentLoad n v a) s = .next (settle s t)) ∧
    (s.dev.rd F.gclResCfg_enable 64 n.val ≠ 1 → bit v.toNat 16 = true → s.tableAt d (v.toNat % 2 ^ 16) tab t →
      tab.intPath = true → tab.form = 0 → part ≤ 8 * 2 ^ 20 →
      (∀ m ∈ others, t.dev.rd F.gclResCfg_enable 64 m ≠ 1 ∨ t.dev.rd F.gclResCfg_table 64 m ≠ v.toNat % 2 ^ 16) →
      t.dev.residentBytes others + 2 * part ≤ t.dev.pinnedCapacity →
      let d1 := (t.dev.wr F.gclResCfg_part_kib 64 ((part + 1023) / 1024) n.val).wr F.gclResCfg_state 64 1 n.val
      exec (.residentLoad n v a) s = .next (settle s { t with dev := d1.setResident n.val { d1.resident n.val with
        next := (tab.rows + 63) / 64, bytes := part, emptying := false } })) ∧
    (s.dev.rd F.gclResCfg_enable 64 n.val = 1 → v.toNat % 2 ^ 16 = s.dev.rd F.gclResCfg_table 64 n.val →
      bit v.toNat 16 = false →
      exec (.residentLoad n v a) s = .next (s.after s.dev (residentWrite n.val v.toNat w)))) ∧
  (∀ (s : State) (n : Fin 8), s.dev.rd F.gclResCfg_state 64 n.val = 1 → s.dev.slotUsers n.val = false →
    let r := s.dev.resident n.val
    exec (.residentLoadDone n) s = .next (s.put ((s.dev.wr F.gclResCfg_state 64 2 n.val).setResident n.val
      { r with part := r.next, image := s.mem, epoch := 0 }))) ∧
  (∀ (s : State) (n : Fin 8), s.dev.epochOver n.val →
    let d := s.dev.bump F.gclResEpoch_count 64 1
    let e := d.wr F.gclResCfg_state 64 0 n.val
    let r := s.dev.resident n.val
    (r.emptying = false →
      exec (.residentEpochEnd n) s = .next (s.put (d.setResident n.val { r with epoch := r.epoch + 1 }))) ∧
    (r.emptying = true → s.dev.slotUsers n.val = true → exec (.residentEpochEnd n) s =
      .next (s.put (e.setResident n.val { r with epoch := r.epoch + 1, emptying := false }))) ∧
    (r.emptying = true → s.dev.slotUsers n.val = false → exec (.residentEpochEnd n) s =
      .next (s.put (e.setResident n.val ⟨0, 0, false, [], 0, 0⟩)))) ∧
  (∀ (s : State) (c : Fin 64) (tile : Fin 128) (a : Agent), (regAcc .acmRelease c.val 0 tile.val a).reaches s.dev = true →
    (∀ x ∈ s.dev.descs, x.names (c.val * 128 + tile.val) = false) →
    exec (.acmRelease c tile a) s = .next (s.put (s.dev.setOwner (c.val * 128 + tile.val) none)))

/-- R3, R44, R151: the interaction stage and the client ports. A sample of an INTERACT whose turn it is is computed; a port
accepts the oldest record held for it, at which its last beat is the record's point of coherence; and a cluster of the dense
tower writes local memory of its world.
That a port write names a physical address, and the depth of the buffers, are the model's (log entries 35 and 37). -/
def Obligations.InteractAndPorts : Prop :=
  (∀ (s : State) (q : Fin 1024) (seq : BitVec 32) (sample : Nat) (x : Desc) (srcs : List Nat) (done : SMap Nat) (t : Tx),
    s.dev.desc q.val seq.toNat = some x → x.ended = false → sample < x.length → s.dev.scaleHeld x = false →
    x.work = .interact srcs done →
    let rs := maskRegions x.itMask
    let r := rs.getD (sample / 64 % rs.length) 0
    SMap.get 0 done r = sample / 64 / rs.length * 64 + sample % 64 → s.dev.regionFenced r = false →
    (Runs (sampleBody x srcs done r sample) s.image s.start () t →
      exec (.interactSample q seq sample) s = .next (settle s t)) ∧
    (∀ vecs : List Vec, s.vectorsRead x srcs r sample vecs t → x.itStash = 0 → x.itDest = 1 →
      t.dev.unaccepted x (64 + r) = [] →
      exec (.interactSample q seq sample) s = .next (s.after s.dev (sampleBody x srcs done r sample)))) ∧
  (∀ (s : State) (port : Fin 16) (r : PortRec), (s.dev.ports.find? fun r => r.port == port.val) = some r →
    let d : Dev := { s.dev with ports := s.dev.ports.eraseP fun x => x.port == port.val }
    let counted := ran (countRecord r s.dev.time.et) s.image ⟨d, []⟩
    (s.dev.desc r.q r.seq = none → exec (.clientPortBeatAccept port) s = .next (s.put d)) ∧
    (∀ x : Desc, counted.dev.desc r.q r.seq = some x → exec (.clientPortBeatAccept port) s =
      .next (settle s (ran (if x.opcode = 0x12 then interactDone r.q r.seq else if x.opcode = 0x40 ∨ x.opcode = 0x41 then
        exchangeDone r.q r.seq else acceptLookup r x) s.image counted)))) ∧
  (∀ (s : State) (port : Fin 16) (addr : BitVec 56) (data : List Byte) (secure : Bool) (t : Tx),
    let who : Who := ⟨8, port.val, 5, b2n secure, 1024, 0, pg bGLB 0, 0⟩
    let a := addr.toNat % 2 ^ 46
    addr.toNat / 2 ^ 46 = s.dev.self →
    (Runs (writeLocal who a data) s.image s.start () t → exec (.clientPortWrite port addr data secure) s = .next (settle s t)) ∧
    (s.dev.accessFree .wr (b2n secure) a data.length → exec (.clientPortWrite port addr data secure) s =
      .next (s.after s.dev (writeLocal who a data))))

/-- R215, R219, R192, R193: row work of the descriptors that run. GRAD_INTAKE ends its counting pass, and goes on to write
where the saturation does not hold it; later it commits. REQUANT re-quantises or measures its next row, goes on with the row
after it, and after its last row ends; one whose rows are done or that is stopping ends. -/
def Obligations.IntakeAndRequant : Prop :=
  ∀ (s : State) (q : Fin 1024) (seq : BitVec 32) (x : Desc) (t : Tx), s.dev.desc q.val seq.toNat = some x →
    x.ended = false →
    (∀ g : Intake, x.work = .intake g → s.dev.intakeRuns x = true →
      (g.counted = none →
        (Runs (endCount x g) s.image s.start () t → exec (.intakeCountEnd q seq) s = .next (settle s t)) ∧
        (∀ c : GradCount, s.tensorCounts x g c t → holds x g c = false →
          exec (.intakeCountEnd q seq) s = .next (settle s (ran (do
            if c.nf ≠ 0 then raiseFlag x.q x.seq fNONFINITE
            setWork x.q x.seq (.intake { g with counted := some c })) s.image t)))) ∧
      (∀ c : GradCount, g.counted = some c →
        (Runs (intakeCommit x g c) s.image s.start () t → exec (.intakeCommit q seq) s = .next (settle s t)) ∧
        (∀ w : Written, s.tensorWrites x (commitScale x g c).1 (commitScale x g c).2.2 w t →
          s.commitFree x (commitHeader x g c w) t →
          exec (.intakeCommit q seq) s = .next (s.after s.dev (intakeCommit x g c))))) ∧
    (∀ (n : Nat) (st : Stats), x.work = .requant n st →
      (x.stopping = true ∨ x.length ≤ n →
        (Runs (endRequant x st) s.image s.start () t → exec (.requantRow q seq) s = .next (settle s t)) ∧
        (x.rqResult = 0 → x.rqMeasure = true ∨ s.dev.foldsNothing →
          exec (.requantRow q seq) s = .next (s.after s.dev (endRequant x st)))) ∧
      (x.stopping = false → n + 1 < x.length → s.dev.scaleHeld x = false →
        (∀ (st' : Stats) (t' : Tx), Runs (requantRow x n st) s.image s.start st' t →
          Runs (setWork x.q x.seq (.requant (n + 1) st')) s.image t () t' →
          exec (.requantRow q seq) s = .next (settle s t')) ∧
        (∀ src dst : List (List Seg), s.requantOpens x n src dst t → x.rqMeasure = true ∨ t.dev.rowHere dst →
          s.dev.queueWorld x.q = 1 →
          ∃ (st' : Stats) (t1 t' : Tx), Runs (requantRow x n st) s.image s.start st' t1 ∧
            Runs (setWork x.q x.seq (.requant (n + 1) st')) s.image t1 () t' ∧
            exec (.requantRow q seq) s = .next (settle s t'))))

/-- R242 to R248: the steps of a SCATTER_UPDATE and of the merge table. The next contribution of the list is taken in; units
that have waited for HOLD drain, oldest first, as far as they can now; an entry that may drain does, here a GRAD drain into a
sum that is pending already; the appends to touched lists that waited for room are made as far as there is room now; the unit
of a GRAD update is added, and its records are sent, once its rows have been taken in and drained. -/
def Obligations.ScatterSteps : Prop :=
  (∀ (s : State) (q : Fin 1024) (seq : BitVec 32) (x : Desc) (c : Scatter) (row : Nat) (t : Tx),
    s.dev.desc q.val seq.toNat = some x → x.scatter = some c → x.ended = false → c.taken = false →
    let p := c.next + (c.rows.drop c.next).findIdx Option.isSome
    let b := if x.suKind = 2 then p else bagAt c.offs p
    c.rows.getD p none = some row →
    (Runs (takeNext x c p row) s.image s.start () t → exec (.contributionTakeIn q seq) s = .next (settle s t)) ∧
    (∀ (r : Nat) (lanes : List F32), s.contributes x c p row r lanes t → s.dev.stageRuns (b / 64 % 8) = true →
      s.dev.regionFenced r = false → s.dev.stalls.contains r = false →
      (t.dev.merges r).length + (x.table.elems + 127) / 128 ≤ 32768 →
      ((c.rows.drop (p + 1)).any Option.isSome) = true →
      exec (.contributionTakeIn q seq) s = .next (s.after s.dev (takeNext x c p row)))) ∧
  (∀ (s : State) (r : Fin 8),
    let old := (s.dev.merges r.val).filter (s.dev.aged r.val)
    let mine := s.dev.appends.filter fun a => a.1 == r.val
    (old ≠ [] → exec (.mergeHoldExpiry r) s = .next (s.after s.dev (each old (drainAged r.val)))) ∧
    (mine ≠ [] → exec (.touchedListAppend r) s = .next (s.after s.dev (each mine (retryAppend r.val))))) ∧
  (∀ (s : State) (r : Fin 8) (entry : Nat) (m : Merge) (t : Tx), (s.dev.merges r.val)[entry]? = some m →
    s.dev.mayDrain r.val m = true →
    (Runs (drainUnit r.val m) s.image s.start () t → exec (.mergeDrain r entry) s = .next (settle s t)) ∧
    (∀ (gs : List (List Seg)) (h : Husk) (p : List Byte), s.sumOpens r.val m gs h p t → SumHdr.pending h = true →
      m.kind = 0 → m.node = s.dev.self → s.dev.stageRuns r.val = true → t.dev.foldsNothing →
      (∀ u ∈ m.users, ∀ x, s.dev.desc u.1 u.2 = some x → s.dev.scaleHeld x = false) →
      exec (.mergeDrain r entry) s = .next (s.after s.dev (drainUnit r.val m)))) ∧
  (∀ (s : State) (q : Fin 1024) (seq : BitVec 32) (x : Desc) (c : Scatter),
    s.dev.desc q.val seq.toNat = some x → x.scatter = some c → x.ended = false → x.suKind = 0 → c.taken = true →
    c.unit = false → s.dev.draining x.q x.seq = false →
    let unit := addUnit x.q x.seq x.suTable c.step false >>= fun _ => sendUnits x c
    (∀ t t' t'' : Tx, Runs unit s.image s.start () t → Runs (setWork x.q x.seq (.scatter { c with unit := true })) s.image t () t' →
      Runs (scatterCheck x.q x.seq) s.image t' () t'' → exec (.unitAdd q seq) s = .next (settle s t'')) ∧
    (s.dev.rd F.optUrec_enable 8 ≠ 0 → s.dev.atomicFree (s.dev.pageWorld (pg bOPT 8)) (s.dev.urecAddr x.suTable) 64 →
      s.dev.rmtOn = false → (ran unit s.image s.start).dev.foldsNothing → exec (.unitAdd q seq) s = .next (settle s (ran (do
        setWork x.q x.seq (.scatter { c with unit := true })
        scatterCheck x.q x.seq) s.image (ran unit s.image s.start)))))

/-- R253, R254, R258: the steps of an OPTIMIZE. Armed with its units come, it fires, or waits for what it has to read; once
fired it goes on with the row it has claimed, and ends once it has passed its mark; a CUSTOM handler that returns in its form
has its row finished, and one that has run past OPT_CUSTOM.LIMIT fails. -/
def Obligations.OptimizeSteps : Prop :=
  (∀ (s : State) (q : Fin 1024) (seq : BitVec 32) (x : Desc) (o : Optimize) (t : Tx),
    s.dev.desc q.val seq.toNat = some x → x.optimize = some o →
    (x.armed = true → o.ready = true → exec (.optimizeFire q seq) s = .next (settle s
      (ran (do orEnd x.q x.seq (attemptWork x.q x.seq (fireOptimize x)); modDev Dev.syncArmed) s.image s.start))) ∧
    (∀ row : Nat, x.ended = false → o.fired = true → o.call = none → o.cur = some row →
      (Runs (runClaimed x o row) s.image s.start () t → exec (.optimizeRowUpdate q seq) s = .next (settle s t)) ∧
      (∀ k : OptRow, s.optOpens x o row k t → SumHdr.pending k.hdr = true → s.dev.queueWorld x.q = 1 →
        s.dev.stageRuns o.stage = true → s.dev.scaleHeld x = false →
        x.table.optKind ≠ 5 ∨ t.dev.rd F.optCustom_ready ((oneHome k.main).getD 0) = 1 →
        exec (.optimizeRowUpdate q seq) s = .next (s.after s.dev (runClaimed x o row)))) ∧
    (∀ u : Nat, x.ended = false → o.fired = true → o.call = none → o.cur = none →
      Runs (readURec x.q x.seq x.opTable) s.image s.start u t →
      x.stopping = true ∨ o.reached u = true ∨ x.length ≤ x.rows →
      (∀ t', Runs (endOpt x.q x.seq) s.image t () t' → exec (.optimizeRowUpdate q seq) s = .next (settle s t')) ∧
      (x.opResult = 0 → t.dev.foldsNothing → t.dev.desc x.q x.seq = some x →
        exec (.optimizeRowUpdate q seq) s = .next (settle s (ran (endOpt x.q x.seq) s.image t))))) ∧
  (∀ (s : State) (r : Fin 8) (call : Nat) (k : Call) (x : Desc) (o : Optimize) (t : Tx),
    (s.dev.calls.find? fun c => c.id == call && c.region == r.val) = some k → s.dev.desc k.q k.seq = some x →
    x.optimize = some o →
    let dropped : Dev := { s.dev with calls := s.dev.calls.filter fun y => y.id != call }.releaseHeld
    (∀ data : List Byte, data.length = 12 * x.table.elems + 4 → s.dev.stageRuns o.stage = true →
      s.dev.regionFenced k.region = false →
      (∀ (o' : Optimize) (t' : Tx), Runs (handlerRow x o k.row data) s.image ⟨dropped, []⟩ o' t' →
        exec (.customHandlerReturn r call true data) s = .next (settle s (ran (do
          setOpt x { o' with cur := none, call := none }
          finishOpt k.q k.seq) s.image t'))) ∧
      (∀ (row : OptRow) (t' : Tx), Runs (openOptRow x o.stage k.row) s.image ⟨dropped, []⟩ row t' →
        t'.dev.rowHere (row.main ++ row.sum ++ row.states) →
        ∃ (o' : Optimize) (t'' : Tx), Runs (handlerRow x o k.row data) s.image ⟨dropped, []⟩ o' t'' ∧
          exec (.customHandlerReturn r call true data) s = .next (settle s (ran (do
            setOpt x { o' with cur := none, call := none }
            finishOpt k.q k.seq) s.image t'')))) ∧
    (let limit := s.dev.rd F.optCustom_limit r.val
     limit ≠ 0 → k.et + limit * usTicks ≤ s.dev.time.et →
     Runs (reappend x o.stage k.row) s.image ⟨dropped.bump F.optCustomTo_count k.region 1, []⟩ () t →
     exec (.customHandlerTimeout r call) s = .next (settle s (ran (do
       meet x.q x.seq sTIMEOUT rNONE
       setOpt x { o with cur := none, call := none }) s.image t))))

/-- R180, R181: the load engine. START is taken in IDLE and after an end; ABORT ends a WAITING operation in ABORTED; a
WAITING load runs once none of its users is left, and a RUNNING operation moves its data: the E4M3 levels, or words from or
to local memory. START while an operation waits or runs is ignored and recorded.
That a load without users runs at once is the model's reading (log entry 49). -/
def Obligations.LoadEngine : Prop :=
  ∀ (s : State) (a : Agent) (t : Tx),
    let st := s.dev.rd F.qntLoadStat_state 2
    let w (v : Nat) := regAcc .qntLoadCmd 2 0 v a
    let set (n : Nat) : Dev := ((s.dev.wr F.qntLoadStat_state 2 n).wr F.qntLoadStat_err 2 0).wr F.qntLoadStat_users 2 0
    ((w 1).reaches s.dev = true → exec (.qntLoadStart a) s = .next (s.after s.dev (loadStart (w 1)))) ∧
    ((w 1).reaches s.dev = true → st = 1 ∨ st = 2 → exec (.qntLoadStart a) s = .next (s.after s.dev (w 1).ignore)) ∧
    ((w 2).reaches s.dev = true → st = 1 → exec (.qntLoadAbort a) s = .next (s.after s.dev (endLoad 5 0))) ∧
    (st = 1 → s.dev.waitedUsers = [] →
      exec .qntLoadRun s = .next (s.put { set 2 with quant := { s.dev.quant with users := [] } })) ∧
    (st = 2 →
      let kind := s.dev.rd F.qntLoadCtl_kind 2
      let dir := s.dev.rd F.qntLoadCtl_dir 2
      let addr := s.dev.rd F.qntLoadAddr_addr 2 * 64 % 2 ^ 46
      let len := loadBytes kind (s.dev.rd F.qntLoadCount_count 2)
      (Runs loadMove s.image s.start () t → exec .qntLoadEnd s = .next (settle s t)) ∧
      (dir ≠ 1 → kind = 2 ∨ s.dev.accessFree .rd (s.dev.pageWorld (pg bQNT 2)) addr len →
        exec .qntLoadEnd s = .next (s.after s.dev loadMove)))

/-- R406, R424, R432, R433, R439, R442: the steps of COPY and FILL. An engine goes on with the descriptor that it runs, or
starts the oldest that waits; an ingest COPY meets the lowest batch of its stream; the return of a FLUSH read ends its
descriptor, that of a GO response confirms the offset that was oldest.
That the command moves the next block of a running engine is the model's choice (log entry 25). -/
def Obligations.CopySteps : Prop :=
  (∀ (s : State) (e : Fin 16) (x : Desc) (c : Copy) (t : Tx), s.dev.engineRuns e.val = true → x.copy = some c →
    (s.dev.copyRunning e.val = some x → c.stopped = false → c.done < c.len →
      exec (.copyEngineStart e) s = .next (s.after s.dev (engineBlock e.val x c))) ∧
    (s.dev.copyRunning e.val = none → (s.dev.copyWaiting e.val).head? = some x →
      (Runs (startCopy e.val x c) s.image s.start () t → exec (.copyEngineStart e) s = .next (settle s t)) ∧
      (x.cpDstSpace ≠ 1 → c.dstHost ≠ some true →
        exec (.copyEngineStart e) s = .next (s.after s.dev (startCopy e.val x c))))) ∧
  (∀ (s : State) (q : Fin 1024) (seq : BitVec 32) (x : Desc) (c : Copy) (t : Tx), s.dev.desc q.val seq.toNat = some x →
    x.copy = some c → x.ended = false →
    (∀ b : IngestBatch, x.isIngest = true → c.running = true → c.data = none → c.stopped = false →
      s.dev.engineRuns c.engine = true → (s.dev.ingestFirst x.cpSrc).map (fun y => (y.q, y.seq)) = some (x.q, x.seq) →
      (s.dev.peer x.cpSrc).batches.head? = some b →
      (Runs (takeBatch x c b) s.image s.start () t → exec (.ingestBatchTake q seq) s = .next (settle s t)) ∧
      (b.state = 1 → 64 + b.bytes ≤ x.length → c.jrn = none →
        exec (.ingestBatchTake q seq) s = .next (s.after s.dev (takeBatch x c b)))) ∧
    (c.flushing = true → s.dev.hostOpen →
      let d := (s.dev.bump F.cpeConfirms_count c.engine 1).arrived
        fun w => !w.cache && w.mark == c.jrn.map fun i => (i, c.done)
      let t1 := ran (progress x.q x.seq 0 0 s.dev.time.et) s.image ⟨d, []⟩
      ∀ y : Desc, (c.jrn = none ∧ t = t1) ∨ (∃ i, c.jrn = some i ∧ Runs (confirmJrn i c.done) s.image t1 () t) →
        t.dev.desc x.q x.seq = some y → exec (.flushReadDone q seq) s = .next (settle s (ran (do
          setCopy y.q y.seq { c with flushing := false }
          finishCopy y) s.image t))) ∧
    (∀ (o : Nat) (rest : List Nat), s.dev.hostOpen → c.gos = o :: rest → c.stopped = false → c.done < c.len →
      let d : Dev := { s.dev with path := { s.dev.path with out := s.dev.path.out.filter fun w =>
        !(w.cache && w.mark == c.jrn.map fun i => (i, o)) } }
      let t1 := ran (do
        setCopy x.q x.seq { c with gos := rest }
        progress x.q x.seq 0 0 s.dev.time.et) s.image ⟨d, []⟩
      (c.jrn = none → exec (.goResponse q seq) s = .next (settle s t1)) ∧
      (∀ i, c.jrn = some i → Runs (confirmJrn i o) s.image t1 () t → exec (.goResponse q seq) s = .next (settle s t))))

/-- R441, R442, R447: the journal. A confirmation read that returns raises the confirmed offset of its entry; CLEAR_SEL
frees the UNCONFIRMED entry that is selected, and leaves every other as it is; CLEAR_ALL frees every UNCONFIRMED entry. The
entry that changes is written where it can be written now. -/
def Obligations.JournalCommands : Prop :=
  let freed (j : JrnEntry) : JrnEntry := setBits j 336 2 0
  (∀ (s : State) (entry upto : Nat) (f : Confirm) (t : Tx),
    (s.dev.confirms.find? fun f => f.entry == entry && f.upto == upto) = some f → s.dev.hostOpen →
    let d := (Dev.bump { s.dev with confirms := s.dev.confirms.erase f } F.cpeConfirms_count f.engine 1).arrived
      fun w => !w.cache && w.mark == some (entry, upto)
    s.journalTakes d entry (fun j =>
      let j := if JrnEntry.confirmed j < upto then setBits (setBits j 128 64 upto) 256 64 s.dev.time.et else j
      if JrnEntry.state j = 2 ∧ JrnEntry.stop j ≤ JrnEntry.confirmed j then freed j else j) t →
    exec (.confirmReadDone entry upto) s = .next (settle s t)) ∧
  (∀ (s : State) (a : Agent) (j : JrnEntry) (t : Tx), (regAcc .cpeJrnCtl 16 0 1 a).reaches s.dev = true →
    let i := s.dev.rd F.cpeJrnSel_entry 16
    s.dev.rd F.cpeJrnStat_unconfirmed 16 ≠ 0 → i < s.dev.rd F.cpeJrnCfg_entries 16 →
    Runs (readJrn i) s.image s.start j s.start → JrnEntry.state j = 3 → s.journalTakes s.dev i freed t →
    exec (.journalClearSel a) s = .next (settle s t)) ∧
  (∀ (s : State) (a : Agent), (regAcc .cpeJrnCtl 16 0 2 a).reaches s.dev = true →
    (s.dev.rd F.cpeJrnStat_unconfirmed 16 = 0 → exec (.journalClearAll a) s = .next s) ∧
    (∀ t : Tx, s.dev.rd F.cpeJrnStat_unconfirmed 16 ≠ 0 →
      Runs (each (List.range (s.dev.rd F.cpeJrnCfg_entries 16)) fun i => do
        if JrnEntry.state (← readJrn i) = 3 then modJrn i fun j => setBits j 336 2 0 else pure ()) s.image s.start () t →
      exec (.journalClearAll a) s = .next (settle s t)))

/-- R376, R377, R378: a MIGRATE takes its next step, its list or a page, and then holds its next page where it can, or ends
with the last. Its list is read where no resident slot has to be looked at; a page that is held moves where its bytes can be
copied.
Which steps of a page's move one command does is the model's choice (log entry 60). -/
def Obligations.MigrateSteps : Prop :=
  ∀ (s : State) (q : Fin 1024) (seq : BitVec 32) (x : Desc) (g : Migrate) (t : Tx),
    s.dev.desc q.val seq.toNat = some x → x.ended = false → x.mig = some g →
    (Runs (migrateStep x g) s.image s.start () t →
      ∀ t', Runs (nextPage x) s.image t () t' → exec (.migratePage q seq) s = .next (settle s t')) ∧
    (∀ bs : List Byte, g.list = [] → s.listReads x bs t →
      (∀ n < 8, t.dev.rd F.gclResCfg_state 64 n ≠ 1 ∧ t.dev.rd F.gclResCfg_state 64 n ≠ 2) →
      let list := (List.range x.length).map fun i => (byteField (fromBytes bs) (16 * i) 8, bits (fromBytes bs) (128 * i + 64) 56)
      let t1 := ran (setWork x.q x.seq (.migrate { g with list := list })) s.image t
      t1.dev.desc x.q x.seq ≠ none → exec (.migratePage q seq) s = .next (settle s (ran (nextPage x) s.image t1))) ∧
    (∀ m : PageMove, g.list ≠ [] → g.move = some m → s.pageCopies x m t →
      let t1 := ran (endMove x g m) s.image t
      t1.dev.desc x.q x.seq ≠ none → exec (.migratePage q seq) s = .next (settle s (ran (nextPage x) s.image t1)))

/-- R344, R354, R360 to R362, R374: translation. A walk that is out ends, with what it has read; the open fault batch closes
after WINDOW, or at a write of FLUSH, and is written where the ring has room and fewer than four are pending, here to a ring
in host memory; at an epoch boundary each heat counter of the die is halved and may tell again.
When a batch closes besides is the model's reading (log entry 139), and the places of heat counters its choice (log
entry 18). -/
def Obligations.TranslationEvents : Prop :=
  (∀ (s : State) (die : Fin 2) (asid : BitVec 16) (va : BitVec 52) (k : Walk) (t : Tx),
    (s.dev.xl.walks.find? fun k => k.die == die.val && k.asid == asid.toNat && k.gran == va.toNat / 65536) = some k →
    (Runs (endWalk k) s.image s.start () t → exec (.pageWalk die asid va) s = .next (settle s t)) ∧
    (∀ (c : AsidCtx) (e : WalkEnd), s.walkReads k c e t →
      exec (.pageWalk die asid va) s = .next (settle s (ran (walkEnds k.die k c e) s.image t)))) ∧
  (∀ (s : State) (die : Fin 2) (o : FaultBatch), (s.dev.batcher die.val).opened = some o → s.dev.pow.phase = 0 →
    o.openEt + s.dev.rd F.trnBatchCfg_window (64 + die.val) * usTicks ≤ s.dev.time.et →
    exec (.batchWindowExpiry die) s =
      .next (s.put (s.dev.setBatcher die.val ((s.dev.batcher die.val).close s.dev.time.et 1)))) ∧
  (∀ (s : State) (die : Fin 2) (a : Agent),
    (regAcc .trnBatchCfg (64 + die.val) 0 (setBits (s.dev.word .trnBatchCfg (64 + die.val) 0) 9 1 1) a).reaches s.dev = true →
    exec (.trnBatchFlush die a) s =
      .next (s.put (s.dev.setBatcher die.val ((s.dev.batcher die.val).close s.dev.time.et 2)))) ∧
  (∀ (s : State) (die : Fin 2) (c : FaultBatch) (t : Tx),
    let page := 64 + die.val
    (s.dev.batcher die.val).closed = some c → s.dev.pow.phase = 0 → (s.dev.batcher die.val).pending.length < 4 →
    diff32 (s.dev.rd F.trnFqTail_index page) (s.dev.rd F.trnFqHead_index page) + 1 + c.recs.length ≤
      2 ^ (s.dev.rd F.trnFqCfg_size page + 9) →
    (Runs (writeBatch die.val c) s.image s.start () t → exec (.faultBatchWrite die) s = .next (settle s t)) ∧
    (s.dev.rd F.trnFqCfg_loc page = 1 → s.dev.hostOpen →
      exec (.faultBatchWrite die) s = .next (s.after s.dev (writeBatch die.val c)))) ∧
  (∀ (s : State) (die : Fin 2),
    let x := s.dev.xl
    SMap.get 0 x.epochEt die.val + s.dev.rd F.migCfg_epoch die.val * msTicks ≤ s.dev.time.et →
    let heat := x.heat.map fun h => if h.die == die.val then { h with count := h.count / 2, told := false } else h
    exec (.heatEpoch die) s = .next (s.put { s.dev with
      xl := { x with heat := heat, epochEt := SMap.set 0 x.epochEt die.val s.dev.time.et } }))

/-- R386, R390, R391: a received Tipra frame is counted; one that passes its checks has its effect, and one that does not
is discarded and counted, with no other effect. This holds for the frames of every KIND. Once the entry of its node has been
read, a frame that passes takes effect at once: a HELLO of no new session and a HELLO_ACK that is expected answer with what
has been applied, a BYE ends its session, and every other frame is taken with the messages that it completes.
R384, R386: other received frames. One that fails a check before its KIND is known is counted and discarded, and what its
codewords showed counts with it (a free number of codewords, log entry 160); a PAUSE frame is discarded and counted; an EAPOL
frame passes to firmware.
That a frame needs a receive association is the model's reading (log entry 77). -/
def Obligations.FramesReceived : Prop :=
  (∀ e ∈ frameCommands, ∀ (s : State) (p : Fin 8) (f : Frame) (ok : Bool) (t : Tx), s.dev.linkUp p.val = true →
     s.frameChecks p.val e.1 f ok t →
     let n := f.src.toNat
     let x := t.dev.peer n
     let et := t.dev.time.et
     let met : Peer := { x with
       peerSession := f.session.toNat, mark := if f.seq.toNat = 0 then f.sentEt.toNat else x.mark }
     (ok = false → exec (e.2 p f) s = .next (settle s { t with dev := t.dev.bump F.txpRxDiscard_count p.val 1 })) ∧
     (∀ t' : Tx, ok = true → Runs (acceptFrame p.val e.1 f) s.image t () t' → exec (e.2 p f) s = .next (settle s t')) ∧
     (ok = true → e.1 ≠ 0x04 → e.1 ≠ 0x05 → (e.1 = 0x06 → t.dev.lossFree n) →
       exec (e.2 p f) s = .next (settle s (ran (acceptFrame p.val e.1 f) s.image t))) ∧
     (∀ (v : Nat) (t' : Tx), ok = true → e.1 = 0x04 → f.sentEt.toNat < et → x.state = nCONNECTING → x.session ≠ 0 →
       s.appliedReads { t with dev := t.dev.setPeer n { met with lastRxEt := et } } n v t' →
       exec (e.2 p f) s = .next (settle s (ran (sendControl n 0x05 (toBytes 16 (2 ^ 64 * v))) s.image t'))) ∧
     (let applied := byteField (fromBytes f.body) 8 8
      let begun := ran (sessionBegins n applied) s.image { t with dev := t.dev.setPeer n met }
      ok = true → e.1 = 0x05 → f.sentEt.toNat < et → x.state = nCONNECTING →
       (begun.dev.rmtOn = false → exec (e.2 p f) s = .next (settle s begun)) ∧
       (∀ (v : Nat) (t' : Tx), begun.dev.rmtOn = true → s.sentReads begun n v t' → applied ≤ v → (t'.dev.peer n).owed = [] →
         exec (e.2 p f) s = .next (settle s t')))) ∧
  (∀ (s : State) (p : Fin 8), s.dev.linkUp p.val = true →
     (∀ bytes : Nat, exec (.frameCheckFail p bytes) s = .next (s.after
       ((s.dev.bump F.txpRxBytes_count p.val bytes).bump F.txpRxDiscard_count p.val 1)
       (countOpen [(F.txpFecCorr_count, p.val), (F.txpFecUncorr_count, p.val)]))) ∧
     exec (.pauseFrame p) s =
       .next (s.put ((s.dev.bump F.txpRxBytes_count p.val 64).bump F.txpPauseRx_count p.val 1)) ∧
     (∀ body : List Byte, exec (.eapolFrame p body) s = .next (s.put { s.dev.bump F.txpRxBytes_count p.val (18 + body.length)
       with eapol := (p.val, body) :: s.dev.eapol })))

/-- R284, R394 to R396, R414: what the transport sends. A batch closes 2 µs after its first entry; the next data frame of
a message leaves when credit, retain space and the regulator of its port allow; ACK, IDLE and NAK leave when their timers end;
an RTO without an acknowledgement resends the oldest unacknowledged frame, and after RETRY_MAX the peer is lost.
Where retained frames are held is the model's choice (log entry 45). -/
def Obligations.TransportSends : Prop :=
  (∀ (s : State) (r : Fin 8) (b : OutBatch) (t : Tx),
    (s.dev.batches.filter fun b => b.port == r.val && decide (b.et + 2 * usTicks ≤ s.dev.time.et)) = [b] →
    let x := b.closing s.dev
    s.deltaGoes b.port x t → exec (.batchCloseTimer r) s = .next (settle s (ran (batchClosed b x) s.image t))) ∧
  (∀ (s : State) (p : Fin 8) (m : OutMsg) (t : Tx), s.dev.portRuns p.val = true →
    (s.dev.outbox.find? fun m => s.dev.sendable p.val m && decide (s.dev.retainUsed p.val +
      chargeOf (min 8192 (m.body.length - m.sent)) ≤ s.dev.rd F.txpRetainCfg_size p.val * 2 ^ 20)) = some m →
    (Runs (sendData p.val m) s.image s.start () t → exec (.dataFrameSend p) s = .next (settle s t)) ∧
    (s.dev.capoPasses (remoteWho p.val 0) p.val 3 (s.dev.sendClass m)
        (chargeOf (min 8192 (m.body.length - m.sent))) →
      (m.body.length ≤ m.sent + 8192 → m.users = [] ∨ s.dev.foldsNothing) →
      exec (.dataFrameSend p) s = .next (s.after s.dev (sendData p.val m)))) ∧
  (∀ (s : State) (n : BitVec 10) (t : Tx), s.dev.sessionRuns n.toNat →
    let x := s.dev.peer n.toNat
    let et := s.dev.time.et
    (∀ u v : Nat, x.unackedEt = some u → u + s.dev.rd F.txpTimers_ack_us x.port * usTicks ≤ et →
      s.appliedReads s.start n.toNat v t →
      exec (.ackTimer n) s = .next (settle s (ran (sendControl n.toNat 0x01 (toBytes 8 v)) s.image t))) ∧
    (x.state = nUP → x.lastTxEt + s.dev.rd F.txpTimers_idle_us x.port * usTicks ≤ et →
      exec (.idleTimer n) s = .next (s.after s.dev (sendControl n.toNat 0x03 []))) ∧
    (∀ u : Nat, x.nakEt = some u → x.missing ≠ [] → u + s.dev.rd F.txpRetxCfg_rto_min x.port * usTicks ≤ et →
      exec (.nakRepeatTimer n) s = .next (s.after s.dev (sendNak n.toNat))) ∧
    (x.acked ≠ x.nextSeq → x.rtoEt + max (s.dev.rd F.txpRetxCfg_rto_min x.port * usTicks) (2 * x.rtt) ≤ et →
      (s.dev.rd F.txpRetxCfg_retry_max x.port ≤ x.retries + 1 →
        (Runs (losePeer n.toNat 2) s.image s.start () t → exec (.rtoExpiry n) s = .next (settle s t)) ∧
        (s.dev.lossFree n.toNat → exec (.rtoExpiry n) s = .next (s.after s.dev (losePeer n.toNat 2)))) ∧
      (∀ f : TxFrame, x.retries + 1 < s.dev.rd F.txpRetxCfg_retry_max x.port →
        (x.retained.find? fun t => decide (diff32 t.seq x.acked < 2 ^ 31)) = some f →
        exec (.rtoExpiry n) s = .next (s.after
          (s.dev.setPeer n.toNat { x with retries := x.retries + 1, rtoEt := et }) (resend n.toNat f)))))

/-- R392, R393, R414: ATTACH of a node whose entry of the peer table is valid, from NONE or LOST, makes it CONNECTING, with
the class, port and queue of its entry; DETACH of an UP node makes it DETACHING, and what has been routed to it still goes
out. A command for a node without a valid entry is ignored.
R393, R411, R412, R414: the life of a session. A CONNECTING node sends HELLO at once, under a new session number, and
then every 1 ms; a node from which nothing has come for PEER_MS is lost; the nodes of a port that has been down for PORT_MS
are lost; a DETACH whose frames have all been applied, or that has lasted PEER_MS, ends with BYE and the loss of the node.
Which nodes can be lost, and from where HELLO is answered, are the model's readings (log entries 72 and 73). -/
def Obligations.Sessions : Prop :=
  (∀ (s : State) (n : BitVec 10) (a : Agent) (ent : Nat) (t : Tx),
     let shown (op : Nat) : Dev := (s.dev.wr F.txpPeerCmd_node 8 n.toNat).wr F.txpPeerCmd_op 8 op
     let st := (s.dev.peer n.toNat).state
     let x := t.dev.peer n.toNat
     (let w := regAcc .txpPeerCmd 8 0 (n.toNat + 2 ^ 12 + 2 ^ 31) a
      w.reaches s.dev = true → s.entryReads (shown 1) n.toNat ent t →
      (bit ent 0 = true → st = nNONE ∨ st = nLOST →
        let d := t.dev.setPeer n.toNat { x with
          state := nCONNECTING, cls := bits ent 1 1, port := bits ent 2 3, queue := bits ent 16 10,
          lastSession := if x.session = 0 then x.lastSession else x.session, session := 0, helloEt := s.dev.time.et, mark := 0 }
        exec (.attach n a) s = .next (settle s { t with dev := d.syncPeer })) ∧
      (bit ent 0 = false → exec (.attach n a) s = .next (settle s (ran (do
        w.ignore
        modDev Dev.syncPeer) s.image t)))) ∧
     (let w := regAcc .txpPeerCmd 8 0 (n.toNat + 2 ^ 13 + 2 ^ 31) a
      w.reaches s.dev = true → s.entryReads (shown 2) n.toNat ent t → bit ent 0 = true → st = nUP →
      let d := t.dev.setPeer n.toNat { x with state := nDETACHING, detachEt := t.dev.time.et }
      exec (.detach n a) s = .next (settle s { t with dev := Dev.syncPeer { d with
        outbox := d.outbox.map fun m => if m.node = n.toNat then { m with routed := true } else m } }))) ∧
  (∀ (s : State) (n : BitVec 10) (p : Fin 8) (t t' : Tx),
     let x := s.dev.peer n.toNat
     let et := s.dev.time.et
     (∀ v : Nat, x.state = nCONNECTING → s.dev.portRuns x.port = true →
       (x.session ≠ 0 → x.helloEt + msTicks ≤ et →
         s.appliedReads ⟨s.dev.setPeer n.toNat { x with helloEt := et }, []⟩ n.toNat v t →
         exec (.helloTimer n) s = .next (settle s (ran (sendControl n.toNat 0x04 (toBytes 16 (2 ^ 64 * v))) s.image t))) ∧
       (x.session = 0 → s.appliedReads (ran (do
           let v ← newSession x.lastSession
           modPeer n.toNat fun x => { x with session := v }
           modDev Dev.syncPeer
           modPeer n.toNat fun x => { x with helloEt := et }) s.image s.start) n.toNat v t →
         exec (.helloTimer n) s =
           .next (settle s (ran (sendControl n.toNat 0x04 (toBytes 16 (2 ^ 64 * v))) s.image t)))) ∧
     (s.dev.sessionRuns n.toNat → x.lastRxEt + s.dev.rd F.txpTimers_peer_ms x.port * msTicks ≤ et →
       (Runs (losePeer n.toNat 1) s.image s.start () t → exec (.peerSilenceTimeout n) s = .next (settle s t)) ∧
       (s.dev.lossFree n.toNat → exec (.peerSilenceTimeout n) s = .next (s.after s.dev (losePeer n.toNat 1)))) ∧
     (∀ u : Nat, (s.dev.ph p.val).down = some u → s.dev.portRuns p.val = false →
       u + s.dev.rd F.txpTimers_port_ms p.val * msTicks ≤ et → s.dev.rd F.txpState_state p.val ≠ pDOWN →
       (Runs (losePort p.val) s.image s.start () t → exec (.portDownTimeout p) s = .next (settle s t)) ∧
       (∀ e : Nat × Peer, s.dev.peersOn p.val = [e] → s.dev.lossFree e.1 →
         exec (.portDownTimeout p) s = .next (s.after s.dev (losePeer e.1 0)))) ∧
     (∀ u : Nat, (s.dev.ph p.val).down = some u → s.dev.rd F.txpState_state p.val = pDOWN →
       u + s.dev.rd F.txpTimers_port_ms p.val * msTicks ≤ et → s.dev.peersOn p.val = [] →
       exec (.portDownTimeout p) s = .next (s.after s.dev
         (setPortState p.val (if s.dev.rd F.txpModule_present p.val = 1 then pTRAINING else pNO_MODULE)))) ∧
     (x.state = nDETACHING → x.unapplied = [] ∨ x.detachEt + s.dev.rd F.txpTimers_peer_ms x.port * msTicks ≤ et →
       (s.dev.portRuns x.port = true →
         Runs (sendControl n.toNat 0x06 [0]) s.image s.start () t → Runs (losePeer n.toNat 5) s.image t () t' →
         exec (.detachTimeout n) s = .next (settle s { t' with dev := t'.dev.raised (pg bTXP 8) 0 })) ∧
       (s.dev.lossFree n.toNat → exec (.detachTimeout n) s = .next (s.after s.dev (do
         if s.dev.portRuns x.port then sendControl n.toNat 0x06 [0]
         losePeer n.toNat 5
         raise (pg bTXP 8) 0)))))

/-- R286, R294, R411: the reorder store and the spill rings. At the end of its window an item is released; the first
released item of a region that may be applied is applied: a unit record where its update record and the sequence applied from
its node can be written, the next row of a batch where the row is open; the oldest record held for a node that is UP again is
resent; a write of MRG_SPILL_SKIP passes over a REFUSED record at the head of a ring.
That one record of a ring stays free, and that spilled rows travel as FP32, are the model's (log entries 21 and 24). -/
def Obligations.ReorderAndSpill : Prop :=
  (∀ (s : State) (r : Fin 8),
    let due (i : RoItem) : Bool := i.port == r.val && !i.released && decide (i.due ≤ s.dev.time.et)
    s.dev.reorder.any due = true → exec (.reorderDeadline r) s = .next (s.put
      { s.dev with reorder := s.dev.reorder.map fun i => if due i then { i with released := true } else i })) ∧
  (∀ (s : State) (r : Fin 8) (i : RoItem) (t : Tx), s.dev.stageRuns r.val = true →
    firstItem (s.dev.reorder.filter fun i => i.port == r.val && s.dev.applicable i) = some i →
    (Runs (applyNext r.val i) s.image s.start () t → exec (.releasedItemApply r) s = .next (settle s t)) ∧
    (let added := ran (do
       addUnit 1024 0 i.tab.num i.d.step i.late
       bump F.mrgUnitsRx_count 8
       modDev fun d => { d with reorder := d.reorder.filter fun j => !j.same i }) s.image s.start
     i.d.unit = true → s.dev.rd F.optUrec_enable 8 ≠ 0 →
     s.dev.atomicFree (s.dev.pageWorld (pg bOPT 8)) (s.dev.urecAddr i.tab.num) 64 → s.appliedRaises added i t →
     exec (.releasedItemApply r) s = .next (settle s (ran (settlePort i.port) s.image t))) ∧
    (∀ (e : Nat × Nat × List Nat) (rest : List (Nat × Nat × List Nat)), i.d.unit = false → i.d.kind = 0 →
      i.d.entries.drop i.next = e :: rest →
      let es := e :: rest.takeWhile fun f => f.1 == e.1
      s.itemOpens r.val i es → i.next + es.length < i.d.entries.length →
      exec (.releasedItemApply r) s = .next (s.after s.dev (do
        applyRow r.val i es
        putItem { i with next := i.next + es.length })))) ∧
  (∀ (s : State) (n : BitVec 10) (r v : Nat) (heads : List (Nat × Nat)) (t t' : Tx),
    (s.dev.peer n.toNat).state = nUP → s.dev.rmtOn = true → s.headsRead heads t →
    (heads.find? fun h => bits h.2 0 10 == n.toNat && !bit h.2 35) = some (r, v) →
    (∀ t'' : Tx, Runs (resendRun n.toNat r v) s.image t () t' → Runs (sendOwed n.toNat) s.image t' () t'' →
      exec (.spillResend n) s = .next (settle s t'')) ∧
    (∀ (x : Delta) (k : Nat), s.runReads t n.toNat r v x k t' →
      let posted := ran (postRun r x k) s.image t'
      (posted.dev.peer n.toNat).owed = [] → exec (.spillResend n) s = .next (settle s posted))) ∧
  (∀ (s : State) (r : Fin 8) (a : Agent) (v : Nat) (t : Tx),
    let w := regAcc .mrgSpillSkip r.val 0 1 a
    let get := s.dev.rd F.mrgSpillPtr_get r.val
    w.reaches s.dev = true →
    (s.dev.spillHeld r.val ≠ 0 → s.spillReads r.val get v t → bit v 35 = true →
      exec (.mrgSpillSkip r a) s = .next (settle s { t with
        dev := t.dev.wr F.mrgSpillPtr_get r.val ((get + 1) % max (s.dev.rd F.mrgSpillCfg_entries 8) 1) })) ∧
    (s.dev.spillHeld r.val = 0 → exec (.mrgSpillSkip r a) s = .next (s.after s.dev w.ignore)))

/-- R411, R416: the states of a port. A module that is inserted shows in PRESENT, one that is ready in READY, and a link
that locks in LOCK and FEC_LOCK; a port that is OFF stays OFF until ENABLE is written, and any other goes as far up as its
module, link and association allow. A link that is lost clears the lock bits, and an UP port is DOWN; a removed module is no
longer present or ready. ENABLE brings a port that has retain space up as far as it can come, and is ignored on one that has
none; a clear of ENABLE loses the peers of the port and leaves it OFF.
The order of the states between LOCK and UP is the model's reading (log entry 74). -/
def Obligations.PortStates : Prop :=
  ∀ (s : State) (p : Fin 8) (t t' : Tx),
    let st := s.dev.rd F.txpState_state p.val
    let present := s.dev.rd F.txpModule_present p.val
    let unlocked := (s.dev.wr F.txpModule_lock p.val 0).wr F.txpModule_fec_lock p.val 0
    let locked := (s.dev.wr F.txpModule_lock p.val 255).wr F.txpModule_fec_lock p.val 1
    (present = 0 → st = pOFF → exec (.moduleInsert p) s = .next (s.put (s.dev.wr F.txpModule_present p.val 1))) ∧
    (present = 0 → st ≠ pOFF → st ≠ pDOWN →
      exec (.moduleInsert p) s = .next (s.after (s.dev.wr F.txpModule_present p.val 1) (climb p.val))) ∧
    (present = 1 → s.dev.rd F.txpModule_ready p.val = 0 → st = pOFF →
      exec (.moduleReady p) s = .next (s.put (s.dev.wr F.txpModule_ready p.val 1))) ∧
    (present = 1 → s.dev.rd F.txpModule_ready p.val = 0 → st ≠ pOFF →
      exec (.moduleReady p) s = .next (s.after (s.dev.wr F.txpModule_ready p.val 1) (climb p.val))) ∧
    (st = pTRAINING ∨ st = pDOWN → s.dev.rd F.txpModule_ready p.val = 1 →
      exec (.linkLock p) s = .next (s.after locked (do
        setPortState p.val pTRAINING
        climb p.val))) ∧
    (present = 1 → st = pUP → exec (.linkLoss p false) s = .next (s.after unlocked (setPortState p.val pDOWN))) ∧
    (present = 1 → st = pOFF → exec (.linkLoss p true) s = .next (s.put
      ((unlocked.wr F.txpModule_present p.val 0).wr F.txpModule_ready p.val 0))) ∧
    (∀ a : Agent,
      let w := regAcc .txpState p.val 0 8 a
      w.reaches s.dev = true →
      (s.dev.rd F.txpRetainCfg_size p.val = 0 → exec (.txpEnable p true a) s = .next (s.after s.dev w.ignore)) ∧
      (s.dev.rd F.txpRetainCfg_size p.val ≠ 0 → st = pOFF → s.dev.rd F.pageCtrl_enable (pg bTXP p.val) = 1 →
        exec (.txpEnable p true a) s = .next (s.after (s.dev.wr F.txpState_enable p.val 1) (climb p.val)))) ∧
    (∀ a : Agent, (regAcc .txpState p.val 0 0 a).reaches s.dev = true →
      (Runs (losePort p.val) s.image ⟨s.dev.wr F.txpState_enable p.val 0, []⟩ () t →
        Runs (setPortState p.val pOFF) s.image t () t' → exec (.txpEnable p false a) s = .next (settle s t')) ∧
      (s.dev.peersOn p.val = [] → exec (.txpEnable p false a) s =
        .next (s.after (s.dev.wr F.txpState_enable p.val 0) (setPortState p.val pOFF))) ∧
      (∀ e : Nat × Peer, s.dev.peersOn p.val = [e] → s.dev.lossFree e.1 → exec (.txpEnable p false a) s =
        .next (s.after (s.dev.wr F.txpState_enable p.val 0) (do
          losePeer e.1 0
          setPortState p.val pOFF))))

/-- R387, R464, R465: keys. INSTALL of a receive association that the port can take puts it in place of the one with its
number, that of a transmit association where none of its number is installed in place of the one in use, and the port comes up
with it; REMOVE of a receive association that is installed takes it away; each ends with its success shown. A port that can
take no keys shows the failure.
Which of two commands in one write comes first is the model's reading (log entry 131). -/
def Obligations.KeyCommands : Prop :=
  ∀ (s : State) (a : Agent),
    let k := s.dev.keyAssoc
    let others := s.dev.assocs.filter fun a => !(a.port == k.port && a.rx == k.rx && a.an == k.an)
    ((regAcc .secKeyCmd 0 0 1 a).reaches s.dev = true →
      (s.dev.noKeys k.port = true → exec (.secKeyInstall a) s = .next (s.after s.dev (endKey false))) ∧
      (s.dev.noKeys k.port = false → k.rx = true →
        let valid := Nat.lor (s.dev.rd F.txpMacsec_rx_valid k.port) (2 ^ k.an)
        exec (.secKeyInstall a) s = .next (s.after
          (Dev.wr { s.dev with assocs := others ++ [k] } F.txpMacsec_rx_valid k.port valid) (endKey true))) ∧
      (s.dev.noKeys k.port = false → k.rx = false → s.dev.installed k = false →
        let rest := s.dev.assocs.filter fun a => !(a.port == k.port && !a.rx)
        exec (.secKeyInstall a) s = .next (s.after
          ((Dev.wr { s.dev with assocs := rest ++ [k] } F.txpMacsec_tx_an k.port k.an).wr F.txpMacsec_tx_valid k.port 1) (do
            portEdge k.port (s.dev.portRuns k.port)
            climb k.port
            endKey true)))) ∧
    ((regAcc .secKeyCmd 0 0 2 a).reaches s.dev = true →
      (s.dev.noKeys k.port = true → exec (.secKeyRemove a) s = .next (s.after s.dev (endKey false))) ∧
      (s.dev.noKeys k.port = false → k.rx = true → s.dev.installed k = true →
        let valid := s.dev.rd F.txpMacsec_rx_valid k.port - 2 ^ k.an
        exec (.secKeyRemove a) s = .next (s.after
          (Dev.wr { s.dev with assocs := others } F.txpMacsec_rx_valid k.port valid) (endKey true))))

/-- R436 to R440, R449, R419, R421: the host link. A link that goes down while UP is HELD, with the time noted, and keeps
the posted writes that the host has not received; one that goes down in WAIT_RESUME, and that comes up in LOST or DOWN, changes
its state; a return in time sends again what was kept; a return to L0 is counted; in HELD, past TIMEOUT_MS, the host is lost; a
received reset loses it at once, and clears Cache_Enable and D3hot; RESUME in WAIT_RESUME takes the link up again, and is
ignored otherwise; a snoop is answered and changes nothing.
What falls in WAIT_RESUME, what D3hot and a host reset clear, and which posted writes have arrived, are the model's
(log entries 100, 101 and 162). -/
def Obligations.HostLink : Prop :=
  ∀ (s : State) (t : Tx),
    let st := s.dev.rd F.hlkState_state 0
    let engines : M Unit := each (range' 0 16) syncCopy
    let reset : M Unit := do
      wr F.hlkState_cache_en 0 0
      modDev fun d => { d with d3hot := false }
    (∀ cause : HostCause, st = hUP → exec (.dlDown cause) s = .next (s.after s.dev (do
      if cause != .bmeClear then cutLink
      wr F.hlkState_state 0 hHELD
      modDev fun d => { d with heldEt := s.dev.time.et }
      engines))) ∧
    (∀ cause : HostCause, st = hWAIT → exec (.dlDown cause) s = .next (s.put (s.dev.wr F.hlkState_state 0 hLOST))) ∧
    (st = hHELD → s.dev.lossDue = false →
      exec .dlUp s = .next (s.after ((s.dev.wr F.hlkState_state 0 hUP).bump F.hlkDowns_count 0 1) (do
        replay
        raise (pg bHLK 0) 0
        engines))) ∧
    (st = hLOST → exec .dlUp s = .next (s.put (s.dev.wr F.hlkState_state 0 hWAIT))) ∧
    (st = hDOWN → exec .dlUp s = .next (s.put (s.dev.wr F.hlkState_state 0 hUP))) ∧
    (st = hUP ∨ st = hWAIT → exec .linkRecovery s = .next (s.put (s.dev.bump F.hlkRecoveries_count 0 1))) ∧
    (st = hHELD → s.dev.lossDue = true →
      (Runs (loseHost 1) s.image s.start () t → exec .heldTimeout s = .next (settle s t)) ∧
      (s.dev.hostQuiet → exec .heldTimeout s = .next (s.after s.dev (loseHost 1)))) ∧
    (∀ cause : HostReset,
      (Runs (loseHost (resetCause cause)) s.image s.start () t →
        exec (.hostResetReceived cause) s = .next (settle s (ran reset s.image t))) ∧
      (s.dev.hostQuiet → exec (.hostResetReceived cause) s = .next (s.after s.dev (do
        loseHost (resetCause cause)
        reset)))) ∧
    (∀ a : Agent,
      let w := regAcc .hlkCtl 0 0 1 a
      w.reaches s.dev = true →
      (st = hWAIT → exec (.hlkResume a) s = .next (s.after (s.dev.wr F.hlkState_state 0 hUP) (do
        raise (pg bHLK 0) 2
        engines))) ∧
      (st ≠ hWAIT → exec (.hlkResume a) s = .next (s.after s.dev w.ignore))) ∧
    (∀ addr : BitVec 64, exec (.hostSnoop addr) s = .next s) ∧
    (∀ on : Bool, exec (.cacheEnable on) s = .next (s.put (s.dev.wr F.hlkState_cache_en 0 (b2n on)))) ∧
    (∀ on : Bool, exec (.d3hotTransition on) s = .next (s.put { s.dev with d3hot := on }))

/-- R307 to R309, R521: a temperature reading is shown, with the highest since it was cleared, and moves the refresh step;
at or above the critical temperature a READY stack or port enters self-refresh and leaves the record. What has been counted
elsewhere since the last reading, corrected errors, conflicts, waits and retries of which the spec gives no rule, shows with it,
by free numbers (log entries 137, 156).
How the refresh step falls is the model's reading (log entry 85). -/
def Obligations.Temperatures : Prop :=
  (∀ (s : State) (k : Fin 16) (t8 : BitVec 8), s.dev.pow.good = true →
    let p := k.val
    let v := t8.toNat
    let crit := s.dev.rd F.hbcTemp_crit p
    let st := s.dev.rd F.hbcState_state p
    let cur := SMap.get 0 s.dev.ms.steps p
    let shown := (s.dev.wr F.hbcTemp_temp p v).wr F.hbcTemp_peak p (max (s.dev.rd F.hbcTemp_peak p) v)
    let stepped : M Unit := do
      takeStep p (stepAfter (hbmStep v) cur (SMap.get 0 s.dev.ms.cool p) (hbmThreshold cur) (cur - 1) v)
      modDev fun d => d.syncRef p
    let counted : M Unit :=
      countOpen ((F.hbcCe_count, p) :: (F.hbcConflicts_count, p) :: (range' (4 * p) 4).map fun s => (F.llsCe_count, s))
    (v < crit → s.dev.ms.hot.contains p = false → exec (.hbmTempReading k t8) s = .next (s.after shown (do
      stepped
      counted))) ∧
    (crit ≤ v → st = 2 ∨ st = 4 → exec (.hbmTempReading k t8) s = .next (s.after shown (do
      stepped
      wr F.hbcState_state p 3
      setHot p true
      record 0x402 5 (pg bHBC p) (payloadOf [(0, 0), (1, p), (2, v)])
      counted)))) ∧
  (∀ (s : State) (k : Fin 16) (t8 : BitVec 8), s.dev.pow.good = true →
    let p := k.val
    let v := t8.toNat
    let crit := s.dev.rd F.ctpTemp_crit p
    let st := s.dev.rd F.ctpState_state p
    let cur := SMap.get 0 s.dev.ms.steps (16 + p)
    let shown := (s.dev.wr F.ctpTemp_temp p v).wr F.ctpTemp_peak p (max (s.dev.rd F.ctpTemp_peak p) v)
    let step := stepAfter (capStep v) cur (SMap.get 0 s.dev.ms.cool (16 + p)) (capThreshold cur) (if cur = 3 then 1 else 0) v
    let stepped : M Unit := do
      takeStep (16 + p) step
      wr F.ctpState_ref p step.1
    (v < crit → s.dev.ms.hot.contains (16 + p) = false → exec (.capTempReading k t8) s = .next (s.after shown (do
      stepped
      countOpen [(F.ctpCe_count, p)]))) ∧
    (crit ≤ v → st = 2 → exec (.capTempReading k t8) s = .next (s.after shown (do
      stepped
      wr F.ctpState_state p 3
      setHot (16 + p) true
      record 0x402 5 (pg bCTP p) (payloadOf [(0, 1), (1, p), (2, v)])
      countOpen [(F.ctpCe_count, p)])))) ∧
  (∀ (s : State) (t8 : BitVec 8),
    let hot0 := s.dev.wr F.trcTemp_die0 0 t8.toNat
    let hot1 := s.dev.wr F.trcTemp_die1 0 t8.toNat
    exec (.dieTempReading 0 t8) s = .next (s.after (hot0.wr F.trcTemp_peak0 0 (max (hot0.rd F.trcTemp_peak0 0) t8.toNat))
      (countOpen [(F.brgWait_count, 0), (F.brgRetries_count, 0)])) ∧
    exec (.dieTempReading 1 t8) s = .next (s.after (hot1.wr F.trcTemp_peak1 0 (max (hot1.rd F.trcTemp_peak1 0) t8.toNat))
      (countOpen [(F.brgWait_count, 1), (F.brgRetries_count, 1)])))

/-- R300, R310, R313, R337: the end of training. A stack whose channels all train from its map is READY at the rate found,
and accesses that waited for it go on; a stack that is not identified fails, and its region is out. A capacity port with 192
GiB is READY, one without a module ABSENT; any other fails; both leave a record.
The sign of a stack that is not identified, and the states of a capacity port, are the model's readings (log entries
86 and 87). -/
def Obligations.Training : Prop :=
  (∀ (s : State) (k : Fin 16) (res : TrainResult), s.dev.pow.good = true →
    s.dev.rd F.hbcState_state k.val = 0 ∨ s.dev.rd F.hbcState_state k.val = 1 →
    (res.repairs.length = 32 → res.failed = 0 → res.fromMap = true → res.rate.toNat ≤ 2 →
      exec (.hbmTrainingDone k res) s = .next (s.put (((((s.dev.wr F.hbcState_rate k.val res.rate.toNat).wr
        F.hbcState_from_map k.val 1).wr F.hbcChFail_failed k.val 0).wr F.hbcState_state k.val 2).releaseHeld))) ∧
    (res.repairs.length ≠ 32 →
      let out := (k.val / 2) :: s.dev.ms.out.filter fun r => r != k.val / 2
      exec (.hbmTrainingDone k res) s =
        .next (s.put { s.dev.wr F.hbcState_state k.val 5 with ms := { s.dev.ms with out := out } }))) ∧
  (∀ (s : State) (k : Fin 16) (ok : Bool) (size : BitVec 8), s.dev.pow.good = true →
    s.dev.rd F.ctpState_state k.val = 0 ∨ s.dev.rd F.ctpState_state k.val = 1 →
    let sized := s.dev.wr F.ctpState_size_gib k.val size.toNat
    (ok = true → size.toNat = 192 →
      exec (.capacityTrainingDone k ok size) s = .next (s.put (sized.wr F.ctpState_state k.val 2))) ∧
    (ok = false ∨ size.toNat ≠ 192 → exec (.capacityTrainingDone k ok size) s = .next (s.put
      ((sized.wr F.ctpState_state k.val (if size.toNat = 0 then 0 else 4)).event 0x404 5 (pg bCTP k.val)
        (payloadOf [(0, 1), (1, k.val), (2, 0)])))))

/-- R318, R319, R493: at a window boundary of ET the counts of the window start again, what waited through it is older by
one window, and staged settings of regions come into force; an uncorrectable error marks its line, which is recorded once: a
line that is marked already leaves no more.
That a held request comes again as a command is the model's choice (log entry 14). -/
def Obligations.MemoryEvents : Prop :=
  (∀ s : State, s.dev.ms.capoEt / usTicks < s.dev.time.et / usTicks →
    let d := s.dev.mapCapo fun e => { e with age := min 2 (e.age + 1) }
    exec .capoWindow s = .next (s.after { d with ms := { d.ms with capo := [], capoEt := s.dev.time.et, capoNext := [] } }
      (each s.dev.ms.capoNext applyCapo))) ∧
  (∀ (s : State) (addr : BitVec 46) (lls scrub : Bool), s.dev.populatedAt addr.toNat = true →
    (s.dev.ms.marks.contains (addr.toNat / 64) = true → exec (.ueDetect addr lls scrub) s = .next s) ∧
    exec (.ueDetect addr lls scrub) s = .next (s.after s.dev (markLine (addr.toNat / 64) lls scrub)))

/-- R324, R327: the last-level store. LLS_PART of a fenced region takes ways that sum to 16 with one at least in CACHE; a
pin that fits is FILLING, its lines are read in under class MAINT, and it is PINNED; a pin that does not fit is refused; a
cleared ENABLE releases the range, which is OFF once its lines are written back.
What a refused pin and a fall of ways leave is the model's reading (log entries 95 and 96). -/
def Obligations.LlsCommands : Prop :=
  (∀ (s : State) (r : Fin 8) (v : BitVec 32) (a : Agent),
    let w := regAcc .llsPart (64 + r.val) 0 v.toNat a
    let fits := s.dev.regionFenced r.val = true ∧ bits v.toNat 0 5 + bits v.toNat 5 5 + bits v.toNat 10 5 = 16 ∧
      bits v.toNat 0 5 ≠ 0
    w.reaches s.dev = true →
    (fits → exec (.llsPartWrite r v a) s = .next (s.after s.dev
      (setWays r.val (bits v.toNat 0 5) (bits v.toNat 5 5) (bits v.toNat 10 5)))) ∧
    (¬fits → exec (.llsPartWrite r v a) s = .next (s.after s.dev w.ignore))) ∧
  (∀ (s : State) (r : Fin 8) (n : Fin 16) (a : Agent),
    let w := regAcc .llsPinCtl (64 + r.val) n.val 1 a
    let st := s.dev.rd F.llsPinCtl_state (64 + r.val) n.val
    let on := s.dev.wr F.llsPinCtl_enable (64 + r.val) 1 n.val
    w.reaches s.dev = true →
    (st = 0 ∨ st = 3 → on.pinFits r.val n.val = true →
      exec (.llsPinEnable r n a) s = .next (s.put (on.wr F.llsPinCtl_state (64 + r.val) 1 n.val))) ∧
    (st = 0 ∨ st = 3 → on.pinFits r.val n.val = false →
      exec (.llsPinEnable r n a) s = .next (s.after (on.wr F.llsPinCtl_state (64 + r.val) 3 n.val) w.refuse)) ∧
    (st = 4 → exec (.llsPinEnable r n a) s = .next (s.after s.dev w.ignore))) ∧
  (∀ (s : State) (r : Fin 8) (n : Fin 16) (a : Agent), (regAcc .llsPinCtl (64 + r.val) n.val 0 a).reaches s.dev = true →
    exec (.llsPinRelease r n a) s = .next (s.after s.dev (releasePin r.val n.val))) ∧
  (∀ (s : State) (r : Fin 8) (n : Fin 16),
    let a := s.dev.pinBase r.val n.val
    let len := s.dev.pinBytes r.val n.val
    let who : Who := ⟨8, 0, 4, 0, 1024, 0, 0, 0⟩
    s.dev.rd F.llsPinCtl_state (64 + r.val) n.val = 1 → s.dev.mustWait true a len = false →
    s.dev.capoLimit r.val 2 4 ≠ 0 → s.dev.capoLimit r.val (partitionOf a) 4 ≠ 0 →
    exec (.pinFillDone r n) s = .next (s.after s.dev (do
      maintShare 1024 0 r.val 2 len
      maintShare 1024 0 r.val (partitionOf a) len
      meter who false a len
      homeTraffic who false a len
      bringIn a len
      wr F.llsPinCtl_state (64 + r.val) 2 n.val))) ∧
  (∀ (s : State) (r : Fin 8) (n : Fin 16), s.dev.rd F.llsPinCtl_state (64 + r.val) n.val = 4 →
    exec (.pinReleaseDone r n) s = .next (s.put (s.dev.wr F.llsPinCtl_state (64 + r.val) 0 n.val)))

/-- R489 to R493: maintenance. An activity that holds a token ends, with what it leaves, its token and its stack; the
recorder starts a compaction under a token where fewer than 8 erased blocks remain, and a refused start is counted; a
compaction that no token covers ends.
The block that a compaction takes and the queue of its token are the model's readings (log entry 89). -/
def Obligations.Maintenance : Prop :=
  (∀ (s : State) (slot : Fin 32) (res : ActivityResult) (x : Desc) (t : Tx), s.dev.maintOf slot.val = some x →
    let act := s.dev.rd F.mntSlot_activity 0 slot.val
    let target := s.dev.rd F.mntSlot_target 0 slot.val
    (act = 7 → s.dev.ms.capoNext.contains target = false) → (act = 8 → s.dev.evr.compacting = false) →
    s.dev.scrubHeld act target = false →
    (Runs (finishActivity x slot.val act target res) s.image s.start () t →
      exec (.maintActivityEnd slot res) s = .next (settle s t)) ∧
    (s.dev.maintMoves act target → exec (.maintActivityEnd slot res) s =
      .next (s.after s.dev (finishActivity x slot.val act target res)))) ∧
  (∀ s : State, s.dev.recorderRuns = true → s.dev.freeBlocks < 8 → s.dev.evr.compacting = false →
    (s.dev.refusesStart 8 0 0 = false → exec .recorderCompactAuto s = .next (s.after s.dev (do
      let _ ← takeToken 8 0 0 0
      modDev Dev.startCompaction))) ∧
    (s.dev.refusesStart 8 0 0 = true → exec .recorderCompactAuto s = .next (s.put (s.dev.bump F.mntRefused_count 0 1)))) ∧
  (∀ s : State, s.dev.evr.compacting = true → s.dev.canCompact = true →
    (∀ n, n < 32 → s.dev.endCompaction.rd F.mntSlot_activity 0 n ≠ 8) →
    exec .compactionEnd s = .next (s.put s.dev.endCompaction))

/-- R456, R462, R463, R467, R491: memory regions and the life cycle. ENABLE on a region that is OFF or REFUSED takes the
fields: a region of the normal world that passes its checks is ON, one of the secure world is wiped under a token, and any
other is refused; a clear of ENABLE in an ON region begins its drain; while a region is wiped or drained a write is ignored; a
drained region of the normal world is OFF, and one of the secure world is wiped; the wipe ends; a transition that the life
cycle has, confirmed by 0x5A from the secure world, begins a reset, and any other is ignored.
What a write of SEC_MR_BASE carries, and what a drain waits for, are the model's readings (log entries 103 and 104). -/
def Obligations.RegionCommands : Prop :=
  (∀ (s : State) (i : Fin 256) (v : BitVec 64) (a : Agent) (t : Tx),
    let v' := setBits v.toNat 0 1 1
    let w := regAcc .secMrBase (mrPage i.val) (i.val % 128) v' a
    let st := s.dev.mr F.secMrLimit_state i.val
    w.reaches s.dev = true →
    (Runs (mrWrite i.val v' w) s.image s.start () t → exec (.mrEnable i v a) s = .next (settle s t)) ∧
    (st = 1 ∨ st = 3 → exec (.mrEnable i v a) s = .next (s.after s.dev w.ignore)) ∧
    (st = 0 ∨ st = 4 →
      let fields : M Unit := do
        wrMr F.secMrBase_base i.val (bits v' 16 30)
        wrMr F.secMrBase_world i.val (bits v' 1 1)
        wrMr F.secMrBase_rd i.val (bits v' 2 1)
        wrMr F.secMrBase_wr i.val (bits v' 3 1)
        wrMr F.secMrBase_at i.val (bits v' 4 1)
      let d := (ran fields s.image s.start).dev
      let refused : M Unit := do
        setRegion i.val 4
        w.refuse
      (d.mrSound i.val = false → exec (.mrEnable i v a) s = .next (s.after d refused)) ∧
      (d.mrSound i.val = true → d.mr F.secMrBase_world i.val = 0 → exec (.mrEnable i v a) s = .next (s.after d (do
        wrMr F.secMrBase_enable i.val 1
        setRegion i.val 2))) ∧
      (d.mrSound i.val = true → d.mr F.secMrBase_world i.val ≠ 0 → d.refusesStart 11 i.val 0 = true →
        exec (.mrEnable i v a) s = .next (s.after (d.bump F.mntRefused_count 0 1) refused)) ∧
      (d.mrSound i.val = true → d.mr F.secMrBase_world i.val ≠ 0 → d.refusesStart 11 i.val 0 = false → d.noneAborts →
        exec (.mrEnable i v a) s = .next (s.after d (enableRegion i.val w))))) ∧
  (∀ (s : State) (i : Fin 256) (a : Agent),
    let v' := setBits (s.dev.word .secMrBase (mrPage i.val) (i.val % 128)) 0 1 0
    let w := regAcc .secMrBase (mrPage i.val) (i.val % 128) v' a
    let st := s.dev.mr F.secMrLimit_state i.val
    w.reaches s.dev = true →
    (st = 2 → exec (.mrDisable i a) s = .next (s.after s.dev (do
      wrMr F.secMrBase_enable i.val 0
      setRegion i.val 3))) ∧
    (st = 1 ∨ st = 3 → exec (.mrDisable i a) s = .next (s.after s.dev w.ignore))) ∧
  (∀ (s : State) (i : Fin 256), s.dev.mr F.secMrLimit_state i.val = 3 → s.dev.regionIdle i.val = true →
    (s.dev.mr F.secMrBase_world i.val = 0 → exec (.mrDrainEnd i) s = .next (s.after s.dev (setRegion i.val 0))) ∧
    (∀ (n : Nat) (t : Tx), s.dev.mr F.secMrBase_world i.val ≠ 0 → Runs (takeToken 11 i.val 0 0) s.image s.start (some n) t →
      s.dev.noneAborts → exec (.mrDrainEnd i) s = .next (settle s (ran (startWipe i.val n) s.image t)))) ∧
  (∀ (s : State) (i : Fin 256) (w : Wipe), s.dev.pow.phase = 0 →
    (s.dev.wipes.find? fun w => w.region == i.val && w.begun) = some w →
    exec (.regionWipeEnd i) s = .next (s.after s.dev (finishWipe i.val w))) ∧
  (∀ (s : State) (target : BitVec 2) (a : Agent) (t : Tx),
    let w (confirm : BitVec 8) := regAcc .secLcCmd 0 0 (target.toNat + confirm.toNat * 2 ^ 8 + 2 ^ 31) a
    let begins := worldOf a = 1 ∧ s.dev.pow.phase = 0 ∧ lcTransition s.dev.pow.lifeCycle target.toNat = true
    let reset := beginReset rkLC rcLIFE_CYCLE (some target.toNat)
    ((w 0x5A).reaches s.dev = true → begins →
      (Runs reset s.image s.start () t → exec (.lcTransition target 0x5A a) s = .next (settle s t)) ∧
      (s.dev.atRest → exec (.lcTransition target 0x5A a) s = .next (s.after s.dev reset))) ∧
    (∀ confirm : BitVec 8, (w confirm).reaches s.dev = true → ¬begins ∨ confirm ≠ 0x5A →
      exec (.lcTransition target confirm a) s = .next (s.after s.dev (w confirm).ignore)))

/-- R452 to R454: PAGE_WORLD. A write of the world that the page has changes nothing; another world, on a page that is not
locked and whose conditions hold, changes it, and on any other is ignored, or recorded as LOCKED; a write of LOCK locks the
page in the world it has. -/
def Obligations.PageWorlds : Prop :=
  ∀ (s : State) (page : Fin 8192) (a : Agent) (t : Tx),
    let p := page.val
    let locked := s.dev.rd F.pageWorld_lock p = 1
    (∀ secure : Bool,
      let w := pageAcc p 8 (b2n secure) a
      w.reaches s.dev = true →
      (s.dev.pageWorld p = b2n secure → exec (.pageWorldWrite page secure a) s = .next s) ∧
      (worldFixed p = false → s.dev.pageWorld p ≠ b2n secure →
        (locked → exec (.pageWorldWrite page secure a) s = .next (s.after s.dev (w.capture kLOCKED))) ∧
        (¬locked → s.dev.worldFree p = false → exec (.pageWorldWrite page secure a) s = .next (s.after s.dev w.ignore)) ∧
        (¬locked → s.dev.worldFree p = true →
          (Runs (changeWorld p (b2n secure)) s.image s.start () t →
            exec (.pageWorldWrite page secure a) s = .next (settle s t)) ∧
          (s.dev.workFree p →
            exec (.pageWorldWrite page secure a) s = .next (s.after s.dev (changeWorld p (b2n secure))))))) ∧
    ((pageAcc p 8 (2 + s.dev.pageWorld p) a).reaches s.dev = true →
      exec (.pageWorldLock page a) s = .next (s.put (s.dev.wr F.pageWorld_lock p 1)))

/-- R26, R27, R481, R531: PAGE_CTRL. Each command writes the register with its bit changed and the others as they stand: a
function reset where nothing runs in the block, ENABLE of a page that has one, FENCE and its clear on a cluster or region; an
uncorrectable logic error fences its cluster or region in ERROR, and is recorded.
The order of two commands in one write, and that a function reset ends within its command, are the model's readings
(log entries 110 and 131). -/
def Obligations.PageControl : Prop :=
  ∀ (s : State) (page : Fin 8192) (a : Agent) (t : Tx),
    let p := page.val
    let reaches (set clear : Nat) : Prop := (pageAcc p 0x10 (s.dev.ctrlWith p set clear) a).reaches s.dev = true
    let writes (set clear : Nat) : Prop :=
      let v := s.dev.ctrlWith p set clear
      reaches set clear ∧ Runs (ctrlWrite p v (pageAcc p 0x10 v a)) s.image s.start () t
    let enabled := s.dev.rd F.pageCtrl_enable p
    let fenced := s.dev.rd F.pageCtrl_fence p
    (writes 2 0 → exec (.functionReset page a) s = .next (settle s t)) ∧
    (writes 0 1 → exec (.pageEnable page false a) s = .next (settle s t)) ∧
    (s.dev.ctrlSteady p →
      (reaches 2 0 → s.dev.workFree p → exec (.functionReset page a) s = .next (s.after s.dev (functionReset p))) ∧
      (reaches 1 0 → enableable p = true → enabled = 0 →
        exec (.pageEnable page true a) s = .next (s.after s.dev (enableWrite p true))) ∧
      (reaches 0 1 → enableable p = true → enabled = 1 → s.dev.workFree p →
        exec (.pageEnable page false a) s = .next (s.after s.dev (enableWrite p false))) ∧
      (reaches 4 0 → fenceable p = true → fenced = 0 →
        exec (.pageFence page a) s = .next (s.after s.dev (fence p 3))) ∧
      (reaches 4 0 → fenceable p = false →
        exec (.pageFence page a) s = .next (s.after s.dev (pageAcc p 0x10 (s.dev.ctrlWith p 4 0) a).ignore)) ∧
      (reaches 0 4 → fenceable p = true → fenced = 1 →
        exec (.pageReadmit page a) s = .next (s.after s.dev (readmit p)))) ∧
    (fenceable p = true → exec (.logicErrorFence page) s = .next (s.after s.dev (do
      fence p 4
      modDev fun d => (d.wr F.evrCtl_recovery 0 1).syncRecorder
      record 0x801 4 p (payloadOf [(0, b2n (p / 256 == bRGN)), (1, p % 256)]))))

/-- R534: the interrupt words of a page. A write of PAGE_IRQ_STAT clears the bits written as one, a write of PAGE_IRQ_EN
sets the enables, and a write of PAGE_IRQ_FORCE sets the assigned bits written as one.
R532, R308, R529, R18, R19, R22, R23: CTR_CTL.CLEAR, PEAK_CLEAR, and a write at any offset of the window. A size or
alignment that is not supported is discarded and captured; a reserved offset and a register of read-only fields take nothing; a
write whose condition does not hold is ignored; a write of a register that has no effect of its own sets its fields, each under
its access code.
R22, R23, R18: reads of registers. A read that reaches its page returns what the register shows, half of a wide one where
the access is of 32 bits, and changes nothing; a reserved offset reads zero, and leaves no capture; a size or alignment that is
not supported returns zero and enters the page's error capture with KIND SIZE. -/
def Obligations.PageRegisters : Prop :=
  (∀ (s : State) (page : Fin 8192) (v : BitVec 32) (a : Agent),
     let p := page.val
     let stat := s.dev.word .pageIrqStat p 0
     let en := s.dev.word .pageIrqEn p 0
     ((pageAcc p 0x18 v.toNat a).reaches s.dev = true → exec (.pageIrqStatClear page v a) s =
       .next (s.put (s.dev.setIrq p (stat - Nat.land stat v.toNat) en true))) ∧
     ((pageAcc p 0x1C v.toNat a).reaches s.dev = true → exec (.pageIrqEnWrite page v a) s =
       .next (s.put (s.dev.setIrq p stat v.toNat false))) ∧
     ((pageAcc p 0x20 v.toNat a).reaches s.dev = true → exec (.pageIrqForce page v a) s =
       .next (s.put (s.dev.setIrq p (Nat.lor stat (Nat.land v.toNat (assignedBits p))) en false)))) ∧
  ((∀ (s : State) (page : Fin 8192) (a : Agent) (r : RegName), ctrCtl page.val = some r →
     (pageAcc page.val r.info.off (Nat.lor 1 (s.dev.word r (page.val % 256) 0)) a).reaches s.dev = true →
     exec (.counterClear page a) s = .next (s.after s.dev (counterClear page.val))) ∧
   (∀ (s : State) (k : Fin 16) (page : Fin 8192) (a : Agent),
     (page.val = pg bHBC k.val → (pageAcc page.val 0x104 (2 ^ 16 + 2 ^ 24 * s.dev.rd F.hbcTemp_crit k.val) a).reaches s.dev = true →
       exec (.peakClear page a) s = .next (s.put (s.dev.wr F.hbcTemp_peak k.val 0))) ∧
     (page.val = pg bCTP k.val → (pageAcc page.val 0x104 (2 ^ 16 + 2 ^ 24 * s.dev.rd F.ctpTemp_crit k.val) a).reaches s.dev = true →
       exec (.peakClear page a) s = .next (s.put (s.dev.wr F.ctpTemp_peak k.val 0)))) ∧
   (∀ (s : State) (off : BitVec 25) (size : BitVec 2) (data : BitVec 64) (a : Agent) (t : Tx),
     let w : RegAcc := ⟨off.toNat / 4096, off.toNat % 4096, size.toNat, data.toNat % 2 ^ (8 * 2 ^ size.toNat), a⟩
     let place := s.dev.target w.page w.off w.size w.data
     w.reaches s.dev = true →
     (Runs (regWrite w) s.image s.start () t → exec (.registerWrite off size data a) s = .next (settle s t)) ∧
     (place = none → exec (.registerWrite off size data a) s = .next (s.after s.dev (w.capture kSIZE))) ∧
     (place = some none → exec (.registerWrite off size data a) s = .next s) ∧
     (∀ (r : RegName) (p n v : Nat), place = some (some (r, p, n, v)) →
       let old := s.dev.word r p n
       let readOnly := r.info.fields.all fun f => f.acc == .ro
       (readOnly = true → exec (.registerWrite off size data a) s = .next s) ∧
       (readOnly = false → s.dev.rd F.pageWorld_lock w.page = 0 ∨ r.locked old v = v →
         (s.dev.takes r p n old v = false → exec (.registerWrite off size data a) s = .next (s.after s.dev w.ignore)) ∧
         (s.dev.takes r p n old v = true → storedOnly r = true →
           exec (.registerWrite off size data a) s = .next (s.put (s.dev.setWord r p n (r.after old v)))))))) ∧
  (∀ (s : State) (w : RegAcc), w.readable s.dev = true → w.readsTime = false →
     (∀ v : Nat, s.dev.readAt (worldOf w.agent) w.page w.off w.size = some v → Runs (regRead w) s.image s.start v s.start) ∧
     (w.size = 2 → w.off % 4 = 0 → regAt w.page w.off = none → w.off < 4 ∨ regAt w.page (w.off - 4) = none →
       Runs (regRead w) s.image s.start 0 s.start) ∧
     ((w.size ≠ 2 ∧ w.size ≠ 3) ∨ w.off % 2 ^ w.size ≠ 0 →
       Runs (regRead w) s.image s.start 0 ⟨s.dev.captured w.page kSIZE false (worldOf w.agent) (agentSource w.agent)
         (agentReq w.agent) (w.page * 4096 + w.off) w.size 0, []⟩))

/-- R474 to R479: power states. A request for E1 to E4 is taken and waits for its condition; once that holds the state is
entered; after ENTRY_MS without it the request is abandoned, and recorded; an exit whose time has passed ends. E1 gates
nothing: its entry and its exit change no more than the state, its interrupt, and the reload of the leaves.
The set of transitions is the model's reading (log entry 126). -/
def Obligations.PowerStates : Prop :=
  ∀ (s : State) (a : Agent),
    let st := s.dev.rd F.pwrState_state 0
    let p := s.dev.pow
    (∀ req : BitVec 3, (regAcc .pwrCtl 0 0 req.toNat a).reaches s.dev = true → 1 ≤ req.toNat → req.toNat ≤ 4 → st ≠ 3 →
      req.toNat ≠ st → exec (.powerStateRequest req a) s =
        .next (s.put { (s.dev.wr F.pwrCtl_req 0 req.toNat).wr F.pwrState_busy 0 1 with
          pow := { p with want := some req.toNat, wantEt := s.dev.time.et } })) ∧
    (∀ n : Nat, p.want = some n → p.phase = 0 → p.exitEt = 0 → s.dev.mayEnter n = true →
      exec .powerStateEntry s = .next (s.after s.dev (enterState n)) ∧
      (n = 1 → exec .powerStateEntry s = .next (s.put ((Dev.raised
        { s.dev.wr F.pwrState_busy 0 0 with pow := { p with want := none } } (pg bPWR 0) 0).wr F.pwrState_state 0 1)))) ∧
    (∀ n : Nat, p.want = some n → s.dev.mayEnter n = false →
      p.wantEt + s.dev.rd F.pwrCfg_entry_ms 0 * msTicks ≤ s.dev.time.et →
      let d := (Dev.wr { s.dev with pow := { p with want := none } } F.pwrCtl_req 0 st 0).wr F.pwrState_busy 0 0
      exec .powerRequestAbandon s = .next (s.put ((d.captured (pg bPWR 0) kREFUSED false (d.pageWorld (pg bPWR 0)) 5 0
        (pg bPWR 0 * 4096 + 0x100) 2 0).raised (pg bPWR 0) 1))) ∧
    (1 ≤ st → st ≤ 3 → p.exitEt ≠ 0 → p.exitEt ≤ s.dev.time.et →
      exec .powerStateExit s = .next (s.after s.dev (leaveState st)) ∧
      (st = 1 → exec .powerStateExit s = .next (s.put (Dev.raised { s.dev.wr F.pwrState_state 0 0 with
        pow := { p with exitEt := 0 }, time := { s.dev.time with reloadEt := s.dev.time.et } } (pg bPWR 0) 0))))

/-- R480 to R484, R494, R477: resets. ENG_RESET from the secure world, with no reset running, begins an engine reset, and so
does rung 3; a request that is not of the secure world, or that finds a reset running, is ignored; when the budget of phases 2
and 3 has run out, what is left is abandoned and memory goes to sleep; a requested cold reset, one by the reset input and one at
power-up run, each with its record; a fall of a power-good signal enters E4 at once, and what is staged is lost with the
power.
What each reset keeps is the model's reading (log entries 117 to 124). -/
def Obligations.Resets : Prop :=
  ∀ (s : State) (a : Agent) (t : Tx),
    let st := s.dev.rd F.pwrState_state 0
    let p := s.dev.pow
    let w (v : Nat) := regAcc .pwrCtl 0 0 (s.dev.rd F.pwrCtl_req 0 + v) a
    let rebooted (cause : Nat) : Nat := payloadOf [(0, rkCOLD), (1, cause)]
    let begun (cause : Nat) : M Unit := beginReset rkENGINE cause none
    ((w 0x100).reaches s.dev = true →
      (worldOf a = 1 → p.phase = 0 →
        (Runs (begun rcREQUEST) s.image s.start () t → exec (.engReset (.request a)) s = .next (settle s t)) ∧
        (s.dev.atRest → exec (.engReset (.request a)) s = .next (s.after s.dev (begun rcREQUEST)))) ∧
      (worldOf a = 0 ∨ p.phase ≠ 0 → exec (.engReset (.request a)) s = .next (s.after s.dev (w 0x100).ignore))) ∧
    (s.dev.rd F.pwrCfg_auto_reset 0 = 1 → p.phase = 0 → p.good = true → st ≠ 4 →
      (Runs (begun rcFATAL) s.image s.start () t → exec (.engReset .rung3) s = .next (settle s t)) ∧
      (s.dev.atRest → exec (.engReset .rung3) s = .next (s.after s.dev (begun rcFATAL)))) ∧
    (p.phase = 2 → p.quiesceEt + s.dev.rd F.pwrCfg_quiesce_us 0 * usTicks ≤ s.dev.time.et →
      exec .quiesceBudgetExpiry s = .next (s.after s.dev resetSleep)) ∧
    ((w 0x200).reaches s.dev = true →
      (worldOf a = 1 → p.phase = 0 → exec (.coldReset (.request a)) s =
        .next (s.after (s.dev.event 0x201 2 (pg bPWR 0) (rebooted rcREQUEST)) (coldReset rcREQUEST))) ∧
      (worldOf a = 0 ∨ p.phase ≠ 0 → exec (.coldReset (.request a)) s = .next (s.after s.dev (w 0x200).ignore))) ∧
    (p.good = true → st ≠ 4 → exec (.coldReset .resetInput) s =
      .next (s.after (s.dev.event 0x201 2 (pg bPWR 0) (rebooted rcCONTROLLER)) (coldReset rcCONTROLLER))) ∧
    (p.good = false ∨ st = 4 →
      (p.lost = false → exec (.coldReset .powerUp) s = .next (s.after s.dev (do
        coldReset rcPOWER_ON
        record 0x201 2 (pg bPWR 0) (rebooted rcPOWER_ON)))) ∧
      (p.lost = true →
        let e := s.dev.evr
        exec (.coldReset .powerUp) s = .next (s.after { s.dev with
          evr := { e with staged := [], drops := 0, dropped := false, opSec := e.ckSec } } (do
            coldReset rcPOWER_LOSS
            record 0x201 2 (pg bPWR 0) (rebooted rcPOWER_LOSS)
            record 0x204 4 (pg bEVR 0) (payloadOf [(0, e.cycles), (8, e.nextSeq - 1), (16, e.ckSec)]))))) ∧
    (p.good = true →
      (st = 4 → exec .powerGoodLoss s = .next (s.put { s.dev.wr F.pwrState_state 0 4 with
        pow := { p with good := false, phase := 0, want := none, exitEt := 0 } })) ∧
      (st ≠ 4 →
        let d := Dev.syncRecorder { s.dev with evr := { s.dev.evr with staged := [] }, pow := { p with lost := true } }
        exec .powerGoodLoss s = .next (s.put { d.wr F.pwrState_state 0 4 with
          pow := { d.pow with good := false, phase := 0, want := none, exitEt := 0 } })))

/-- R476, R482, R494, R548, R550: supplies, READY, and the parts that fail. A supply that settles within 10 mV of its request
releases what waited for it; READY is taken; a core whose heartbeat has stopped for LIMIT_MS, or that fails, is in FAULT; a
new heartbeat value of a core that runs restarts its watchdog; a bridge with a spare lane left takes it, and one with none
fails and takes rung 3.
That a core and a bridge leave their reset state at READY, and that the old clock step holds until VDDC settles, are
the model's (log entries 88 and 128). -/
def Obligations.PowerEvents : Prop :=
  ∀ (s : State) (k : Fin 8) (a : Agent) (t : Tx),
    let core := s.dev.rd F.ccxState_state k.val
    let failed := (s.dev.wr F.ccxState_state k.val 4).wr F.pageState_state (pg bCCX k.val) 4
    (∀ (die : Fin 2) (mv : BitVec 10),
      let avs := if die.val = 0 then s.dev.rd F.pwrAvs_vddc0 0 else s.dev.rd F.pwrAvs_vddc1 0
      mv.toNat ≤ avs + 10 → avs ≤ mv.toNat + 10 →
      exec (.vddcSettled die mv) s = .next (s.put { s.dev with pow := { s.dev.pow with
        unsettled := s.dev.pow.unsettled.filter fun k => k != die.val,
        clockHeld := s.dev.pow.clockHeld.filter fun e => e.1 / 32 != die.val } })) ∧
    ((regAcc .pwrState 0 0 0x10 a).reaches s.dev = true →
      (s.dev.rd F.pwrState_ready 0 = 1 → exec (.pwrReady a) s = .next s) ∧
      exec (.pwrReady a) s = .next (s.after s.dev (readyWrite (regAcc .pwrState 0 0 0x10 a)))) ∧
    (let limit := s.dev.rd F.ccxWdog_limit_ms k.val
     core = 2 → limit ≠ 0 → SMap.get 0 s.dev.pow.beatEt k.val + limit * msTicks ≤ s.dev.time.et →
     exec (.watchdogExpiry k) s =
       .next (s.put ((failed.bump F.ccxWdogExp_count k.val 1).raised (pg bCCX k.val) 0))) ∧
    (core = 1 ∨ core = 2 → exec (.uncorrectableCoreError k) s = .next (s.put failed)) ∧
    (∀ v : BitVec 32, (regAcc .ccxHeartbeat k.val 0 v.toNat a).reaches s.dev = true → core = 2 →
      s.dev.rd F.ccxHeartbeat_value k.val ≠ v.toNat → exec (.heartbeatWrite k v a) s =
        .next (s.put (Dev.wr { s.dev with pow := { s.dev.pow with
          beatEt := SMap.set 0 s.dev.pow.beatEt k.val s.dev.time.et } } F.ccxHeartbeat_value k.val v.toNat 0))) ∧
    (∀ die : Fin 2,
      let used := s.dev.rd F.brgState_spares_used die.val
      s.dev.rd F.brgState_state die.val = 1 →
      (used < 16 → exec (.bridgeLaneFail die) s = .next (s.put
        ((s.dev.wr F.brgState_spares_used die.val (used + 1)).bump F.brgLaneRepairs_count die.val 1))) ∧
      (16 ≤ used →
        let d := s.dev.wr F.brgState_state die.val 2
        (Runs rungThree s.image ⟨d, []⟩ () t → exec (.bridgeLaneFail die) s = .next (settle s t)) ∧
        (s.dev.rd F.pwrCfg_auto_reset 0 ≠ 1 ∨ s.dev.pow.phase ≠ 0 → exec (.bridgeLaneFail die) s = .next (s.put d)) ∧
        (s.dev.rd F.pwrCfg_auto_reset 0 = 1 → s.dev.pow.phase = 0 → s.dev.atRest → exec (.bridgeLaneFail die) s =
          .next (s.after d (beginReset rkENGINE rcFATAL none)))))

/-- R500, R501, R508, R510, R513, R518 to R520: the recorder and the trace unit. A software record is staged with the data
registers; the recorder writes one record to flash; each 60 s of OP_SECONDS leave a checkpoint; OP_SECONDS counts; the
trace unit writes its oldest record, and loses it where a STOP ring is full.
How drops are told is the model's reading (log entries 90 and 91), and what counts OP_SECONDS its choice (log entry
31). -/
def Obligations.RecorderAndTrace : Prop :=
  (∀ (s : State) (code : BitVec 16) (sev : BitVec 3) (a : Agent), 0xF000 ≤ code.toNat →
    (regAcc .evrSwCtl 0 0 (code.toNat + sev.toNat * 2 ^ 16 + 2 ^ 31) a).reaches s.dev = true →
    let d := (s.dev.wr F.evrSwCtl_code 0 code.toNat).wr F.evrSwCtl_sev 0 sev.toNat
    exec (.evrSwWrite code sev a) s = .next (s.put (d.event code.toNat sev.toNat (pg bEVR 0)
      (payloadOf ((List.range 8).map fun n => (4 * n, d.rd F.evrSwData_data 0 n)))))) ∧
  (∀ s : State, s.dev.recorderRuns = true →
    (∀ d : Dev, s.dev.writeOne = some d → exec .recordFlashWrite s = .next (s.put d)) ∧
    (s.dev.evr.ckSec + 60 ≤ s.dev.evr.opSec → exec .directoryCheckpoint s = .next (s.put s.dev.checkpoint)) ∧
    exec .opSecondsTick s =
      .next (s.put (Dev.syncRecorder { s.dev with evr := { s.dev.evr with opSec := (s.dev.evr.opSec + 1) % 2 ^ 40 } }))) ∧
  (∀ (s : State) (r : Nat) (rest : List Nat) (t : Tx), s.dev.asleep = false → s.dev.rd F.pageState_state (pg bTRC 0) ≠ 0 →
    s.dev.trace.buffer = r :: rest →
    let free : Prop := s.dev.accessFree .wr (s.dev.pageWorld (pg bTRC 0))
      ((s.dev.rd F.trcRingBase_base 0 * 4096 + s.dev.rd F.trcRingTail_index 0 % s.dev.traceEntries * 32) % 2 ^ 46) 32
    (s.dev.ringFull = true → exec .traceRingWrite s = .next (s.put { s.dev.bump F.trcLost_count 0 1 with
      trace := { s.dev.trace with buffer := rest, lost := s.dev.trace.lost + 1 } })) ∧
    (s.dev.ringFull = false → s.dev.trace.lost = 0 →
      let d : Dev := { s.dev with trace := { s.dev.trace with buffer := rest } }
      (Runs (traceWrite r) s.image ⟨d, []⟩ () t → exec .traceRingWrite s = .next (settle s t)) ∧
      (free → exec .traceRingWrite s = .next (s.after d (traceWrite r)))) ∧
    (s.dev.ringFull = false → s.dev.trace.lost ≠ 0 → free →
      exec .traceRingWrite s = .next (s.after { s.dev with trace := { s.dev.trace with lost := 0 } } (traceWrite
        (traceRec s.dev.time.et 0 0 0 15 (s.dev.pageWorld (pg bTRC 0)) 0 0 s.dev.trace.lost 0)))))

/-- R92, R95: a stream command that reads no memory changes the stream of its cluster and the registers of its SEQ page
alone. -/
def Obligations.SequencerFrame : Prop :=
  ∀ f ∈ streamCommands, ∀ (s t : State) (c : Fin 64), exec (f c) s = .next t →
    { t with dev := { t.dev with clusters := [], regs := [] } } =
      { s with dev := { s.dev with clusters := [], regs := [] } } ∧
    (∀ k, k ≠ c.val → t.dev.cl k = s.dev.cl k) ∧
    ∀ (v : Word) (a : Nat), a / 4096 ≠ pg bSEQ c.val → SMap.get v t.dev.regs a = SMap.get v s.dev.regs a

/-- R3, R463: what the commands that store in local memory by address leave. A write at a client port changes no byte
outside its own range; the end of a region's wipe leaves zeros in its range, and every other byte as it was. -/
def Obligations.StoredRanges : Prop :=
  (∀ (s t : State) (port : Fin 16) (addr : BitVec 56) (data : List Byte) (secure : Bool),
    exec (.clientPortWrite port addr data secure) s = .next t →
    let a := addr.toNat % 2 ^ 46
    (∀ x, x < a ∨ a + data.length ≤ x → readByte t.mem x = readByte s.mem x) ∧ t.host = s.host) ∧
  (∀ (s : State) (i : Fin 256) (w : Wipe), s.dev.pow.phase = 0 →
    (s.dev.wipes.find? fun w => w.region == i.val && w.begun) = some w →
    let (a, len) := s.dev.mrRange i.val
    ∃ u, exec (.regionWipeEnd i) s = .next u ∧ u.host = s.host ∧
      ∀ x, readByte u.mem x = if a ≤ x ∧ x < a + len then 0 else readByte s.mem x)

/-- R453, R479, R512, R535: a register write that may not reach its page. In E4, in a page that sleeps, and from a mailbox
to a page of another type, it leaves the machine as it is; one by an access of the other world is counted and captured in
SEC page 0, and recorded in EVR page 0: no register of another page changes, and no byte of memory. -/
def Obligations.WritesTurnedAway : Prop :=
  ∀ (s : State) (off : BitVec 25) (size : BitVec 2) (data : BitVec 64) (a : Agent),
    let page := off.toNat / 4096
    let at' := off.toNat % 4096
    let abroad := a = .mailbox ∧ page / 256 ≠ bEVR ∧ page / 256 ≠ bTIM ∧ page / 256 ≠ bPWR ∧ page / 256 ≠ bTRC
    (s.dev.rd F.pwrState_state 0 = 4 ∨ (s.dev.asleep = true ∧ servedInSleep page = false) ∨ abroad →
      exec (.registerWrite off size data a) s = .next s) ∧
    (s.dev.rd F.pwrState_state 0 ≠ 4 → s.dev.asleep = false → ¬abroad → populated page = true →
      (if 8 ≤ at' ∧ at' < 12 then worldOf a ≠ 1 else worldOf a ≠ s.dev.pageWorld page) →
      ∃ t, exec (.registerWrite off size data a) s = .next t ∧ t.mem = s.mem ∧ t.host = s.host ∧ t.pending = s.pending ∧
        t.dev.rd F.secViolCount_count 0 = (s.dev.rd F.secViolCount_count 0 + 1) % 2 ^ 32 ∧
        ∀ (v : Word) (k : Nat), k / 4096 ≠ pg bSEC 0 → k / 4096 ≠ pg bEVR 0 →
          SMap.get v t.dev.regs k = SMap.get v s.dev.regs k)

/-- R225, R262: the registers of the optimiser that work in flight depends on. A write of OPT_GSC while a GRAD_INTAKE is
dispatched, of OPT_UREC, OPT_HPDIR, OPT_HPCNT or OPT_STASH while a SCATTER_UPDATE, OPTIMIZE or INTERACT is, and of OPT_SITE
while any descriptor is, leaves the register as it is and enters the error capture of its page: as IGNORED, or as LOCKED
where the page is locked and a lockable field would change (R19). -/
def Obligations.HeldRegisters : Prop :=
  ∀ (s : State) (off : BitVec 25) (size : BitVec 2) (data : BitVec 64) (a : Agent) (r : RegName) (page idx v : Nat),
    let w : RegAcc := ⟨off.toNat / 4096, off.toNat % 4096, size.toNat, data.toNat % 2 ^ (8 * 2 ^ size.toNat), a⟩
    w.reaches s.dev = true → s.dev.target w.page w.off w.size w.data = some (some (r, page, idx, v)) →
    (r = .optGsc ∧ ∃ x ∈ s.dev.descs, x.opcode = 0x20) ∨
    (r ∈ [.optUrec, .optHpdir, .optHpcnt, .optStash] ∧ ∃ x ∈ s.dev.descs, x.opcode ∈ [0x21, 0x22, 0x12]) ∨
    (r = .optSite ∧ s.dev.descs ≠ []) →
    let locked := s.dev.rd F.pageWorld_lock w.page = 1 ∧ r.locked (s.dev.word r page idx) v ≠ v
    exec (.registerWrite off size data a) s = .next (s.put (s.dev.captured w.page (if locked then kLOCKED else kIGNORED) true
      (worldOf a) (agentSource a) (agentReq a) (w.page * 4096 + w.off) w.size w.data))

/-- R100: where the sequencer has passed the last instruction, END has the effect that it has where it is the word at the
position, and no other stream command has any. -/
def Obligations.BeyondTheEnd : Prop :=
  ∀ (s : State) (c : Fin 64) (x : Slice) (d : Desc), s.dev.clusterRuns c.val = true → (s.dev.cl c.val).fetching = true →
    (s.dev.cl c.val).wait = none → (s.dev.cl c.val).slice = some x → x.stopped = false → x.prog.length ≤ x.cur.pc →
    s.dev.desc x.q x.seq = some d →
    let done := if d.isPool then x.cur.closes else x.cur.emits
    (x.count ≤ done →
      exec (.seqEnd c) s = .next (s.put ((s.dev.putSlice c.val { x with stopped := true }).pooled c.val))) ∧
    (done < x.count → exec (.seqEnd c) s = .next (s.put (s.dev.seqFailed c.val x sBOUNDS rBOUNDS_ADDR ekBOUNDS 0))) ∧
    ∀ f ∈ streamCommands, f c ≠ .seqEnd c → exec (f c) s = .next s

/-- R200: the scale rule. For H = m × 2^x above zero it gives the smallest integer E with H ≤ 57,344 × 2^(E − M), within
[−128, 112], by an exact comparison; for an H of 0 it gives none, and the history and a repair keep the scale they had. -/
def Obligations.ScaleRule : Prop :=
  (∀ (h : F32) (margin m : Nat) (x : Int), h.val = .fin false m x → 0 < m → margin ≤ 7 →
    ∃ e : Int, scaleFits m x margin e ∧ (∀ e', e' < e → ¬scaleFits m x margin e') ∧
      scaleRule h margin = some (max (-128) (min 112 e))) ∧
  (∀ (h : F32) (neg : Bool) (x : Int) (margin : Nat), h.val = .fin neg 0 x → scaleRule h margin = none) ∧
  (∀ (r : ScaleRec) (t : Table) (neg : Bool) (x : Int), (ScaleRec.top r).val = .fin neg 0 x →
    ScaleRec.histScale r t = ScaleRec.scaleExp r) ∧
  (∀ (x : Desc) (g : Intake) (c : GradCount) (neg : Bool) (e : Int), F32.val c.amax = .fin neg 0 e →
    ScaleRec.valid g.rec' = true → (commitScale x g c).1 = g.e)
end

