-- ==== Sys2Proof/Laws/Map.lean ====
section
/-! SUPPORT. Sparse maps: reading after writing, and the canonical form. -/

namespace Sys2Proof.Machine.SMap

variable {α : Type} (d : α)

/-! ### Reading after writing -/

theorem get_insert_same (m : SMap α) (a : Nat) (v : α) : get d (insert m a v) a = v := by
  induction m with
  | nil => simp [insert, get]
  | cons e m ih =>
    simp only [insert]
    split
    · simp [get]
    · split <;> simp_all [get]

theorem get_insert_ne (m : SMap α) {a b : Nat} (v : α) (h : a ≠ b) : get d (insert m a v) b = get d m b := by
  induction m with
  | nil => simp [insert, get, h]
  | cons e m ih =>
    simp only [insert]
    split
    · simp_all [get]
    · split
      · simp [get, h]
      · simp [get, ih]

theorem get_remove_same (m : SMap α) (a : Nat) : get d (remove m a) a = d := by
  induction m with
  | nil => rfl
  | cons e m ih =>
    simp only [remove]
    split
    · exact ih
    · simp_all [get]

theorem get_remove_ne (m : SMap α) {a b : Nat} (h : a ≠ b) : get d (remove m a) b = get d m b := by
  induction m with
  | nil => rfl
  | cons e m ih =>
    simp only [remove]
    split
    · simp_all [get]
    · simp [get, ih]

@[simp] theorem get_set_same [DecidableEq α] (m : SMap α) (a : Nat) (v : α) : get d (set d m a v) a = v := by
  unfold set
  split
  · rename_i h
    rw [h, get_remove_same]
  · exact get_insert_same d m a v

theorem get_set_ne [DecidableEq α] (e : α) (m : SMap α) {a b : Nat} (v : α) (h : a ≠ b) :
    get e (set d m a v) b = get e m b := by
  unfold set
  split
  · exact get_remove_ne e m h
  · exact get_insert_ne e m v h

/-! ### The canonical form -/

variable [DecidableEq α]

theorem wfFrom_mono : ∀ (m : SMap α) {lb lb' : Nat}, lb' ≤ lb → wfFrom d lb m = true → wfFrom d lb' m = true
  | [], _, _, _, _ => rfl
  | (k, v) :: m, lb, lb', h, hw => by
    simp only [wfFrom, Bool.and_eq_true, decide_eq_true_eq] at hw ⊢
    exact ⟨⟨by omega, hw.1.2⟩, hw.2⟩

theorem wfFrom_remove (a : Nat) : ∀ (m : SMap α) (lb : Nat), wfFrom d lb m = true → wfFrom d lb (remove m a) = true
  | [], _, _ => rfl
  | (k, w) :: m, lb, h => by
    simp only [wfFrom, Bool.and_eq_true, decide_eq_true_eq] at h
    have ih := wfFrom_remove a m (k + 1) h.2
    simp only [remove]
    split
    · exact wfFrom_mono d _ (by omega) ih
    · simp only [wfFrom, Bool.and_eq_true, decide_eq_true_eq]
      exact ⟨h.1, ih⟩

theorem wfFrom_insert (a : Nat) (v : α) (hv : v ≠ d) : ∀ (m : SMap α) (lb : Nat), lb ≤ a → wfFrom d lb m = true →
    wfFrom d lb (insert m a v) = true
  | [], lb, ha, _ => by simp [insert, wfFrom, ha, hv]
  | (k, w) :: m, lb, ha, h => by
    simp only [wfFrom, Bool.and_eq_true, decide_eq_true_eq] at h
    obtain ⟨⟨h1, h2⟩, h3⟩ := h
    simp only [insert]
    split
    · simp_all [wfFrom]
    · split
      · simp only [wfFrom, Bool.and_eq_true, decide_eq_true_eq]
        exact ⟨⟨ha, hv⟩, ⟨by omega, h2⟩, h3⟩
      · simp only [wfFrom, Bool.and_eq_true, decide_eq_true_eq]
        exact ⟨⟨h1, h2⟩, wfFrom_insert a v hv m (k + 1) (by omega) h3⟩

theorem wfFrom_clear (lo hi : Nat) : ∀ (m : SMap α) (lb : Nat), wfFrom d lb m = true → wfFrom d lb (clear m lo hi) = true
  | [], _, _ => rfl
  | (k, w) :: m, lb, h => by
    simp only [wfFrom, Bool.and_eq_true, decide_eq_true_eq] at h
    have ih := wfFrom_clear lo hi m (k + 1) h.2
    unfold clear at ih ⊢
    rw [List.filter_cons]
    split
    · simp only [wfFrom, Bool.and_eq_true, decide_eq_true_eq]
      exact ⟨h.1, ih⟩
    · exact wfFrom_mono d _ (by omega) ih

/-- Every write keeps the canonical form. -/
theorem wf_set {m : SMap α} (a : Nat) (v : α) (h : wf d m = true) : wf d (set d m a v) = true := by
  unfold set
  split
  · exact wfFrom_remove d a m 0 h
  · exact wfFrom_insert d a v (by assumption) m 0 (Nat.zero_le _) h

/-- Dropping a range keeps it. -/
theorem wf_clear {m : SMap α} (lo hi : Nat) (h : wf d m = true) : wf d (clear m lo hi) = true :=
  wfFrom_clear d lo hi m 0 h

end Sys2Proof.Machine.SMap
end

