-- ==== Sys2Proof/Laws/State.lean ====
section
/-! SUPPORT. What each named update leaves as it is: one lemma for each field of the state. -/

namespace Sys2Proof.Machine

variable (d : Dev)

/-! ### setWord -/

@[simp] theorem Dev.time_setWord (r : RegName) (p i v : Nat) : (d.setWord r p i v).time = d.time := rfl
@[simp] theorem Dev.queues_setWord (r : RegName) (p i v : Nat) : (d.setWord r p i v).queues = d.queues := rfl
@[simp] theorem Dev.arb_setWord (r : RegName) (p i v : Nat) : (d.setWord r p i v).arb = d.arb := rfl
@[simp] theorem Dev.descs_setWord (r : RegName) (p i v : Nat) : (d.setWord r p i v).descs = d.descs := rfl
@[simp] theorem Dev.evr_setWord (r : RegName) (p i v : Nat) : (d.setWord r p i v).evr = d.evr := rfl
@[simp] theorem Dev.trace_setWord (r : RegName) (p i v : Nat) : (d.setWord r p i v).trace = d.trace := rfl
@[simp] theorem Dev.pow_setWord (r : RegName) (p i v : Nat) : (d.setWord r p i v).pow = d.pow := rfl
@[simp] theorem Dev.ms_setWord (r : RegName) (p i v : Nat) : (d.setWord r p i v).ms = d.ms := rfl
@[simp] theorem Dev.xl_setWord (r : RegName) (p i v : Nat) : (d.setWord r p i v).xl = d.xl := rfl
@[simp] theorem Dev.clusters_setWord (r : RegName) (p i v : Nat) : (d.setWord r p i v).clusters = d.clusters := rfl
@[simp] theorem Dev.accs_setWord (r : RegName) (p i v : Nat) : (d.setWord r p i v).accs = d.accs := rfl
@[simp] theorem Dev.residents_setWord (r : RegName) (p i v : Nat) : (d.setWord r p i v).residents = d.residents := rfl
@[simp] theorem Dev.ports_setWord (r : RegName) (p i v : Nat) : (d.setWord r p i v).ports = d.ports := rfl
@[simp] theorem Dev.quant_setWord (r : RegName) (p i v : Nat) : (d.setWord r p i v).quant = d.quant := rfl
@[simp] theorem Dev.remotes_setWord (r : RegName) (p i v : Nat) : (d.setWord r p i v).remotes = d.remotes := rfl
@[simp] theorem Dev.outbox_setWord (r : RegName) (p i v : Nat) : (d.setWord r p i v).outbox = d.outbox := rfl
@[simp] theorem Dev.nextTag_setWord (r : RegName) (p i v : Nat) : (d.setWord r p i v).nextTag = d.nextTag := rfl
@[simp] theorem Dev.peers_setWord (r : RegName) (p i v : Nat) : (d.setWord r p i v).peers = d.peers := rfl
@[simp] theorem Dev.wire_setWord (r : RegName) (p i v : Nat) : (d.setWord r p i v).wire = d.wire := rfl
@[simp] theorem Dev.merge_setWord (r : RegName) (p i v : Nat) : (d.setWord r p i v).merge = d.merge := rfl
@[simp] theorem Dev.stalls_setWord (r : RegName) (p i v : Nat) : (d.setWord r p i v).stalls = d.stalls := rfl
@[simp] theorem Dev.appends_setWord (r : RegName) (p i v : Nat) : (d.setWord r p i v).appends = d.appends := rfl
@[simp] theorem Dev.calls_setWord (r : RegName) (p i v : Nat) : (d.setWord r p i v).calls = d.calls := rfl
@[simp] theorem Dev.nextCall_setWord (r : RegName) (p i v : Nat) : (d.setWord r p i v).nextCall = d.nextCall := rfl
@[simp] theorem Dev.batches_setWord (r : RegName) (p i v : Nat) : (d.setWord r p i v).batches = d.batches := rfl
@[simp] theorem Dev.reorder_setWord (r : RegName) (p i v : Nat) : (d.setWord r p i v).reorder = d.reorder := rfl
@[simp] theorem Dev.inbox_setWord (r : RegName) (p i v : Nat) : (d.setWord r p i v).inbox = d.inbox := rfl
@[simp] theorem Dev.portsHid_setWord (r : RegName) (p i v : Nat) : (d.setWord r p i v).portsHid = d.portsHid := rfl
@[simp] theorem Dev.assocs_setWord (r : RegName) (p i v : Nat) : (d.setWord r p i v).assocs = d.assocs := rfl
@[simp] theorem Dev.eapol_setWord (r : RegName) (p i v : Nat) : (d.setWord r p i v).eapol = d.eapol := rfl
@[simp] theorem Dev.confirms_setWord (r : RegName) (p i v : Nat) : (d.setWord r p i v).confirms = d.confirms := rfl
@[simp] theorem Dev.path_setWord (r : RegName) (p i v : Nat) : (d.setWord r p i v).path = d.path := rfl
@[simp] theorem Dev.wipes_setWord (r : RegName) (p i v : Nat) : (d.setWord r p i v).wipes = d.wipes := rfl
@[simp] theorem Dev.heldEt_setWord (r : RegName) (p i v : Nat) : (d.setWord r p i v).heldEt = d.heldEt := rfl
@[simp] theorem Dev.d3hot_setWord (r : RegName) (p i v : Nat) : (d.setWord r p i v).d3hot = d.d3hot := rfl
@[simp] theorem Dev.ptp_setWord (r : RegName) (p i v : Nat) : (d.setWord r p i v).ptp = d.ptp := rfl
@[simp] theorem Dev.ptpOut_setWord (r : RegName) (p i v : Nat) : (d.setWord r p i v).ptpOut = d.ptpOut := rfl
@[simp] theorem Dev.irqs_setWord (r : RegName) (p i v : Nat) : (d.setWord r p i v).irqs = d.irqs := rfl
@[simp] theorem Dev.free_setWord (r : RegName) (p i v : Nat) : (d.setWord r p i v).free = d.free := rfl

/-! ### wr -/

@[simp] theorem Dev.time_wr (f : Fld) (p v i : Nat) : (d.wr f p v i).time = d.time := Dev.time_setWord d _ _ _ _
@[simp] theorem Dev.queues_wr (f : Fld) (p v i : Nat) : (d.wr f p v i).queues = d.queues := Dev.queues_setWord d _ _ _ _
@[simp] theorem Dev.arb_wr (f : Fld) (p v i : Nat) : (d.wr f p v i).arb = d.arb := Dev.arb_setWord d _ _ _ _
@[simp] theorem Dev.descs_wr (f : Fld) (p v i : Nat) : (d.wr f p v i).descs = d.descs := Dev.descs_setWord d _ _ _ _
@[simp] theorem Dev.evr_wr (f : Fld) (p v i : Nat) : (d.wr f p v i).evr = d.evr := Dev.evr_setWord d _ _ _ _
@[simp] theorem Dev.trace_wr (f : Fld) (p v i : Nat) : (d.wr f p v i).trace = d.trace := Dev.trace_setWord d _ _ _ _
@[simp] theorem Dev.pow_wr (f : Fld) (p v i : Nat) : (d.wr f p v i).pow = d.pow := Dev.pow_setWord d _ _ _ _
@[simp] theorem Dev.ms_wr (f : Fld) (p v i : Nat) : (d.wr f p v i).ms = d.ms := Dev.ms_setWord d _ _ _ _
@[simp] theorem Dev.xl_wr (f : Fld) (p v i : Nat) : (d.wr f p v i).xl = d.xl := Dev.xl_setWord d _ _ _ _
@[simp] theorem Dev.clusters_wr (f : Fld) (p v i : Nat) : (d.wr f p v i).clusters = d.clusters := Dev.clusters_setWord d _ _ _ _
@[simp] theorem Dev.accs_wr (f : Fld) (p v i : Nat) : (d.wr f p v i).accs = d.accs := Dev.accs_setWord d _ _ _ _
@[simp] theorem Dev.residents_wr (f : Fld) (p v i : Nat) : (d.wr f p v i).residents = d.residents := Dev.residents_setWord d _ _ _ _
@[simp] theorem Dev.ports_wr (f : Fld) (p v i : Nat) : (d.wr f p v i).ports = d.ports := Dev.ports_setWord d _ _ _ _
@[simp] theorem Dev.quant_wr (f : Fld) (p v i : Nat) : (d.wr f p v i).quant = d.quant := Dev.quant_setWord d _ _ _ _
@[simp] theorem Dev.remotes_wr (f : Fld) (p v i : Nat) : (d.wr f p v i).remotes = d.remotes := Dev.remotes_setWord d _ _ _ _
@[simp] theorem Dev.outbox_wr (f : Fld) (p v i : Nat) : (d.wr f p v i).outbox = d.outbox := Dev.outbox_setWord d _ _ _ _
@[simp] theorem Dev.nextTag_wr (f : Fld) (p v i : Nat) : (d.wr f p v i).nextTag = d.nextTag := Dev.nextTag_setWord d _ _ _ _
@[simp] theorem Dev.peers_wr (f : Fld) (p v i : Nat) : (d.wr f p v i).peers = d.peers := Dev.peers_setWord d _ _ _ _
@[simp] theorem Dev.wire_wr (f : Fld) (p v i : Nat) : (d.wr f p v i).wire = d.wire := Dev.wire_setWord d _ _ _ _
@[simp] theorem Dev.merge_wr (f : Fld) (p v i : Nat) : (d.wr f p v i).merge = d.merge := Dev.merge_setWord d _ _ _ _
@[simp] theorem Dev.stalls_wr (f : Fld) (p v i : Nat) : (d.wr f p v i).stalls = d.stalls := Dev.stalls_setWord d _ _ _ _
@[simp] theorem Dev.appends_wr (f : Fld) (p v i : Nat) : (d.wr f p v i).appends = d.appends := Dev.appends_setWord d _ _ _ _
@[simp] theorem Dev.calls_wr (f : Fld) (p v i : Nat) : (d.wr f p v i).calls = d.calls := Dev.calls_setWord d _ _ _ _
@[simp] theorem Dev.nextCall_wr (f : Fld) (p v i : Nat) : (d.wr f p v i).nextCall = d.nextCall := Dev.nextCall_setWord d _ _ _ _
@[simp] theorem Dev.batches_wr (f : Fld) (p v i : Nat) : (d.wr f p v i).batches = d.batches := Dev.batches_setWord d _ _ _ _
@[simp] theorem Dev.reorder_wr (f : Fld) (p v i : Nat) : (d.wr f p v i).reorder = d.reorder := Dev.reorder_setWord d _ _ _ _
@[simp] theorem Dev.inbox_wr (f : Fld) (p v i : Nat) : (d.wr f p v i).inbox = d.inbox := Dev.inbox_setWord d _ _ _ _
@[simp] theorem Dev.portsHid_wr (f : Fld) (p v i : Nat) : (d.wr f p v i).portsHid = d.portsHid := Dev.portsHid_setWord d _ _ _ _
@[simp] theorem Dev.assocs_wr (f : Fld) (p v i : Nat) : (d.wr f p v i).assocs = d.assocs := Dev.assocs_setWord d _ _ _ _
@[simp] theorem Dev.eapol_wr (f : Fld) (p v i : Nat) : (d.wr f p v i).eapol = d.eapol := Dev.eapol_setWord d _ _ _ _
@[simp] theorem Dev.confirms_wr (f : Fld) (p v i : Nat) : (d.wr f p v i).confirms = d.confirms := Dev.confirms_setWord d _ _ _ _
@[simp] theorem Dev.path_wr (f : Fld) (p v i : Nat) : (d.wr f p v i).path = d.path := Dev.path_setWord d _ _ _ _
@[simp] theorem Dev.wipes_wr (f : Fld) (p v i : Nat) : (d.wr f p v i).wipes = d.wipes := Dev.wipes_setWord d _ _ _ _
@[simp] theorem Dev.heldEt_wr (f : Fld) (p v i : Nat) : (d.wr f p v i).heldEt = d.heldEt := Dev.heldEt_setWord d _ _ _ _
@[simp] theorem Dev.d3hot_wr (f : Fld) (p v i : Nat) : (d.wr f p v i).d3hot = d.d3hot := Dev.d3hot_setWord d _ _ _ _
@[simp] theorem Dev.ptp_wr (f : Fld) (p v i : Nat) : (d.wr f p v i).ptp = d.ptp := Dev.ptp_setWord d _ _ _ _
@[simp] theorem Dev.ptpOut_wr (f : Fld) (p v i : Nat) : (d.wr f p v i).ptpOut = d.ptpOut := Dev.ptpOut_setWord d _ _ _ _
@[simp] theorem Dev.irqs_wr (f : Fld) (p v i : Nat) : (d.wr f p v i).irqs = d.irqs := Dev.irqs_setWord d _ _ _ _
@[simp] theorem Dev.free_wr (f : Fld) (p v i : Nat) : (d.wr f p v i).free = d.free := Dev.free_setWord d _ _ _ _

/-! ### setCl -/

@[simp] theorem Dev.time_setCl (c : Nat) (k : Cluster) : (d.setCl c k).time = d.time := by unfold Dev.setCl; simp only [Dev.time_wr]
@[simp] theorem Dev.queues_setCl (c : Nat) (k : Cluster) : (d.setCl c k).queues = d.queues := by unfold Dev.setCl; simp only [Dev.queues_wr]
@[simp] theorem Dev.arb_setCl (c : Nat) (k : Cluster) : (d.setCl c k).arb = d.arb := by unfold Dev.setCl; simp only [Dev.arb_wr]
@[simp] theorem Dev.descs_setCl (c : Nat) (k : Cluster) : (d.setCl c k).descs = d.descs := by unfold Dev.setCl; simp only [Dev.descs_wr]
@[simp] theorem Dev.evr_setCl (c : Nat) (k : Cluster) : (d.setCl c k).evr = d.evr := by unfold Dev.setCl; simp only [Dev.evr_wr]
@[simp] theorem Dev.trace_setCl (c : Nat) (k : Cluster) : (d.setCl c k).trace = d.trace := by unfold Dev.setCl; simp only [Dev.trace_wr]
@[simp] theorem Dev.pow_setCl (c : Nat) (k : Cluster) : (d.setCl c k).pow = d.pow := by unfold Dev.setCl; simp only [Dev.pow_wr]
@[simp] theorem Dev.ms_setCl (c : Nat) (k : Cluster) : (d.setCl c k).ms = d.ms := by unfold Dev.setCl; simp only [Dev.ms_wr]
@[simp] theorem Dev.xl_setCl (c : Nat) (k : Cluster) : (d.setCl c k).xl = d.xl := by unfold Dev.setCl; simp only [Dev.xl_wr]
@[simp] theorem Dev.accs_setCl (c : Nat) (k : Cluster) : (d.setCl c k).accs = d.accs := by unfold Dev.setCl; simp only [Dev.accs_wr]
@[simp] theorem Dev.residents_setCl (c : Nat) (k : Cluster) : (d.setCl c k).residents = d.residents := by unfold Dev.setCl; simp only [Dev.residents_wr]
@[simp] theorem Dev.ports_setCl (c : Nat) (k : Cluster) : (d.setCl c k).ports = d.ports := by unfold Dev.setCl; simp only [Dev.ports_wr]
@[simp] theorem Dev.quant_setCl (c : Nat) (k : Cluster) : (d.setCl c k).quant = d.quant := by unfold Dev.setCl; simp only [Dev.quant_wr]
@[simp] theorem Dev.remotes_setCl (c : Nat) (k : Cluster) : (d.setCl c k).remotes = d.remotes := by unfold Dev.setCl; simp only [Dev.remotes_wr]
@[simp] theorem Dev.outbox_setCl (c : Nat) (k : Cluster) : (d.setCl c k).outbox = d.outbox := by unfold Dev.setCl; simp only [Dev.outbox_wr]
@[simp] theorem Dev.nextTag_setCl (c : Nat) (k : Cluster) : (d.setCl c k).nextTag = d.nextTag := by unfold Dev.setCl; simp only [Dev.nextTag_wr]
@[simp] theorem Dev.peers_setCl (c : Nat) (k : Cluster) : (d.setCl c k).peers = d.peers := by unfold Dev.setCl; simp only [Dev.peers_wr]
@[simp] theorem Dev.wire_setCl (c : Nat) (k : Cluster) : (d.setCl c k).wire = d.wire := by unfold Dev.setCl; simp only [Dev.wire_wr]
@[simp] theorem Dev.merge_setCl (c : Nat) (k : Cluster) : (d.setCl c k).merge = d.merge := by unfold Dev.setCl; simp only [Dev.merge_wr]
@[simp] theorem Dev.stalls_setCl (c : Nat) (k : Cluster) : (d.setCl c k).stalls = d.stalls := by unfold Dev.setCl; simp only [Dev.stalls_wr]
@[simp] theorem Dev.appends_setCl (c : Nat) (k : Cluster) : (d.setCl c k).appends = d.appends := by unfold Dev.setCl; simp only [Dev.appends_wr]
@[simp] theorem Dev.calls_setCl (c : Nat) (k : Cluster) : (d.setCl c k).calls = d.calls := by unfold Dev.setCl; simp only [Dev.calls_wr]
@[simp] theorem Dev.nextCall_setCl (c : Nat) (k : Cluster) : (d.setCl c k).nextCall = d.nextCall := by unfold Dev.setCl; simp only [Dev.nextCall_wr]
@[simp] theorem Dev.batches_setCl (c : Nat) (k : Cluster) : (d.setCl c k).batches = d.batches := by unfold Dev.setCl; simp only [Dev.batches_wr]
@[simp] theorem Dev.reorder_setCl (c : Nat) (k : Cluster) : (d.setCl c k).reorder = d.reorder := by unfold Dev.setCl; simp only [Dev.reorder_wr]
@[simp] theorem Dev.inbox_setCl (c : Nat) (k : Cluster) : (d.setCl c k).inbox = d.inbox := by unfold Dev.setCl; simp only [Dev.inbox_wr]
@[simp] theorem Dev.portsHid_setCl (c : Nat) (k : Cluster) : (d.setCl c k).portsHid = d.portsHid := by unfold Dev.setCl; simp only [Dev.portsHid_wr]
@[simp] theorem Dev.assocs_setCl (c : Nat) (k : Cluster) : (d.setCl c k).assocs = d.assocs := by unfold Dev.setCl; simp only [Dev.assocs_wr]
@[simp] theorem Dev.eapol_setCl (c : Nat) (k : Cluster) : (d.setCl c k).eapol = d.eapol := by unfold Dev.setCl; simp only [Dev.eapol_wr]
@[simp] theorem Dev.confirms_setCl (c : Nat) (k : Cluster) : (d.setCl c k).confirms = d.confirms := by unfold Dev.setCl; simp only [Dev.confirms_wr]
@[simp] theorem Dev.path_setCl (c : Nat) (k : Cluster) : (d.setCl c k).path = d.path := by unfold Dev.setCl; simp only [Dev.path_wr]
@[simp] theorem Dev.wipes_setCl (c : Nat) (k : Cluster) : (d.setCl c k).wipes = d.wipes := by unfold Dev.setCl; simp only [Dev.wipes_wr]
@[simp] theorem Dev.heldEt_setCl (c : Nat) (k : Cluster) : (d.setCl c k).heldEt = d.heldEt := by unfold Dev.setCl; simp only [Dev.heldEt_wr]
@[simp] theorem Dev.d3hot_setCl (c : Nat) (k : Cluster) : (d.setCl c k).d3hot = d.d3hot := by unfold Dev.setCl; simp only [Dev.d3hot_wr]
@[simp] theorem Dev.ptp_setCl (c : Nat) (k : Cluster) : (d.setCl c k).ptp = d.ptp := by unfold Dev.setCl; simp only [Dev.ptp_wr]
@[simp] theorem Dev.ptpOut_setCl (c : Nat) (k : Cluster) : (d.setCl c k).ptpOut = d.ptpOut := by unfold Dev.setCl; simp only [Dev.ptpOut_wr]
@[simp] theorem Dev.irqs_setCl (c : Nat) (k : Cluster) : (d.setCl c k).irqs = d.irqs := by unfold Dev.setCl; simp only [Dev.irqs_wr]
@[simp] theorem Dev.free_setCl (c : Nat) (k : Cluster) : (d.setCl c k).free = d.free := by unfold Dev.setCl; simp only [Dev.free_wr]

/-! ### setPeer -/

@[simp] theorem Dev.regs_setPeer (n : Nat) (x : Peer) : (d.setPeer n x).regs = d.regs := rfl
@[simp] theorem Dev.time_setPeer (n : Nat) (x : Peer) : (d.setPeer n x).time = d.time := rfl
@[simp] theorem Dev.queues_setPeer (n : Nat) (x : Peer) : (d.setPeer n x).queues = d.queues := rfl
@[simp] theorem Dev.arb_setPeer (n : Nat) (x : Peer) : (d.setPeer n x).arb = d.arb := rfl
@[simp] theorem Dev.descs_setPeer (n : Nat) (x : Peer) : (d.setPeer n x).descs = d.descs := rfl
@[simp] theorem Dev.evr_setPeer (n : Nat) (x : Peer) : (d.setPeer n x).evr = d.evr := rfl
@[simp] theorem Dev.trace_setPeer (n : Nat) (x : Peer) : (d.setPeer n x).trace = d.trace := rfl
@[simp] theorem Dev.pow_setPeer (n : Nat) (x : Peer) : (d.setPeer n x).pow = d.pow := rfl
@[simp] theorem Dev.ms_setPeer (n : Nat) (x : Peer) : (d.setPeer n x).ms = d.ms := rfl
@[simp] theorem Dev.xl_setPeer (n : Nat) (x : Peer) : (d.setPeer n x).xl = d.xl := rfl
@[simp] theorem Dev.clusters_setPeer (n : Nat) (x : Peer) : (d.setPeer n x).clusters = d.clusters := rfl
@[simp] theorem Dev.accs_setPeer (n : Nat) (x : Peer) : (d.setPeer n x).accs = d.accs := rfl
@[simp] theorem Dev.residents_setPeer (n : Nat) (x : Peer) : (d.setPeer n x).residents = d.residents := rfl
@[simp] theorem Dev.ports_setPeer (n : Nat) (x : Peer) : (d.setPeer n x).ports = d.ports := rfl
@[simp] theorem Dev.quant_setPeer (n : Nat) (x : Peer) : (d.setPeer n x).quant = d.quant := rfl
@[simp] theorem Dev.remotes_setPeer (n : Nat) (x : Peer) : (d.setPeer n x).remotes = d.remotes := rfl
@[simp] theorem Dev.outbox_setPeer (n : Nat) (x : Peer) : (d.setPeer n x).outbox = d.outbox := rfl
@[simp] theorem Dev.nextTag_setPeer (n : Nat) (x : Peer) : (d.setPeer n x).nextTag = d.nextTag := rfl
@[simp] theorem Dev.wire_setPeer (n : Nat) (x : Peer) : (d.setPeer n x).wire = d.wire := rfl
@[simp] theorem Dev.merge_setPeer (n : Nat) (x : Peer) : (d.setPeer n x).merge = d.merge := rfl
@[simp] theorem Dev.stalls_setPeer (n : Nat) (x : Peer) : (d.setPeer n x).stalls = d.stalls := rfl
@[simp] theorem Dev.appends_setPeer (n : Nat) (x : Peer) : (d.setPeer n x).appends = d.appends := rfl
@[simp] theorem Dev.calls_setPeer (n : Nat) (x : Peer) : (d.setPeer n x).calls = d.calls := rfl
@[simp] theorem Dev.nextCall_setPeer (n : Nat) (x : Peer) : (d.setPeer n x).nextCall = d.nextCall := rfl
@[simp] theorem Dev.batches_setPeer (n : Nat) (x : Peer) : (d.setPeer n x).batches = d.batches := rfl
@[simp] theorem Dev.reorder_setPeer (n : Nat) (x : Peer) : (d.setPeer n x).reorder = d.reorder := rfl
@[simp] theorem Dev.inbox_setPeer (n : Nat) (x : Peer) : (d.setPeer n x).inbox = d.inbox := rfl
@[simp] theorem Dev.portsHid_setPeer (n : Nat) (x : Peer) : (d.setPeer n x).portsHid = d.portsHid := rfl
@[simp] theorem Dev.assocs_setPeer (n : Nat) (x : Peer) : (d.setPeer n x).assocs = d.assocs := rfl
@[simp] theorem Dev.eapol_setPeer (n : Nat) (x : Peer) : (d.setPeer n x).eapol = d.eapol := rfl
@[simp] theorem Dev.confirms_setPeer (n : Nat) (x : Peer) : (d.setPeer n x).confirms = d.confirms := rfl
@[simp] theorem Dev.path_setPeer (n : Nat) (x : Peer) : (d.setPeer n x).path = d.path := rfl
@[simp] theorem Dev.wipes_setPeer (n : Nat) (x : Peer) : (d.setPeer n x).wipes = d.wipes := rfl
@[simp] theorem Dev.heldEt_setPeer (n : Nat) (x : Peer) : (d.setPeer n x).heldEt = d.heldEt := rfl
@[simp] theorem Dev.d3hot_setPeer (n : Nat) (x : Peer) : (d.setPeer n x).d3hot = d.d3hot := rfl
@[simp] theorem Dev.ptp_setPeer (n : Nat) (x : Peer) : (d.setPeer n x).ptp = d.ptp := rfl
@[simp] theorem Dev.ptpOut_setPeer (n : Nat) (x : Peer) : (d.setPeer n x).ptpOut = d.ptpOut := rfl
@[simp] theorem Dev.irqs_setPeer (n : Nat) (x : Peer) : (d.setPeer n x).irqs = d.irqs := rfl
@[simp] theorem Dev.free_setPeer (n : Nat) (x : Peer) : (d.setPeer n x).free = d.free := rfl

/-! ### setPh -/

@[simp] theorem Dev.regs_setPh (p : Nat) (h : PortHidden) : (d.setPh p h).regs = d.regs := rfl
@[simp] theorem Dev.time_setPh (p : Nat) (h : PortHidden) : (d.setPh p h).time = d.time := rfl
@[simp] theorem Dev.queues_setPh (p : Nat) (h : PortHidden) : (d.setPh p h).queues = d.queues := rfl
@[simp] theorem Dev.arb_setPh (p : Nat) (h : PortHidden) : (d.setPh p h).arb = d.arb := rfl
@[simp] theorem Dev.descs_setPh (p : Nat) (h : PortHidden) : (d.setPh p h).descs = d.descs := rfl
@[simp] theorem Dev.evr_setPh (p : Nat) (h : PortHidden) : (d.setPh p h).evr = d.evr := rfl
@[simp] theorem Dev.trace_setPh (p : Nat) (h : PortHidden) : (d.setPh p h).trace = d.trace := rfl
@[simp] theorem Dev.pow_setPh (p : Nat) (h : PortHidden) : (d.setPh p h).pow = d.pow := rfl
@[simp] theorem Dev.ms_setPh (p : Nat) (h : PortHidden) : (d.setPh p h).ms = d.ms := rfl
@[simp] theorem Dev.xl_setPh (p : Nat) (h : PortHidden) : (d.setPh p h).xl = d.xl := rfl
@[simp] theorem Dev.clusters_setPh (p : Nat) (h : PortHidden) : (d.setPh p h).clusters = d.clusters := rfl
@[simp] theorem Dev.accs_setPh (p : Nat) (h : PortHidden) : (d.setPh p h).accs = d.accs := rfl
@[simp] theorem Dev.residents_setPh (p : Nat) (h : PortHidden) : (d.setPh p h).residents = d.residents := rfl
@[simp] theorem Dev.ports_setPh (p : Nat) (h : PortHidden) : (d.setPh p h).ports = d.ports := rfl
@[simp] theorem Dev.quant_setPh (p : Nat) (h : PortHidden) : (d.setPh p h).quant = d.quant := rfl
@[simp] theorem Dev.remotes_setPh (p : Nat) (h : PortHidden) : (d.setPh p h).remotes = d.remotes := rfl
@[simp] theorem Dev.outbox_setPh (p : Nat) (h : PortHidden) : (d.setPh p h).outbox = d.outbox := rfl
@[simp] theorem Dev.nextTag_setPh (p : Nat) (h : PortHidden) : (d.setPh p h).nextTag = d.nextTag := rfl
@[simp] theorem Dev.peers_setPh (p : Nat) (h : PortHidden) : (d.setPh p h).peers = d.peers := rfl
@[simp] theorem Dev.wire_setPh (p : Nat) (h : PortHidden) : (d.setPh p h).wire = d.wire := rfl
@[simp] theorem Dev.merge_setPh (p : Nat) (h : PortHidden) : (d.setPh p h).merge = d.merge := rfl
@[simp] theorem Dev.stalls_setPh (p : Nat) (h : PortHidden) : (d.setPh p h).stalls = d.stalls := rfl
@[simp] theorem Dev.appends_setPh (p : Nat) (h : PortHidden) : (d.setPh p h).appends = d.appends := rfl
@[simp] theorem Dev.calls_setPh (p : Nat) (h : PortHidden) : (d.setPh p h).calls = d.calls := rfl
@[simp] theorem Dev.nextCall_setPh (p : Nat) (h : PortHidden) : (d.setPh p h).nextCall = d.nextCall := rfl
@[simp] theorem Dev.batches_setPh (p : Nat) (h : PortHidden) : (d.setPh p h).batches = d.batches := rfl
@[simp] theorem Dev.reorder_setPh (p : Nat) (h : PortHidden) : (d.setPh p h).reorder = d.reorder := rfl
@[simp] theorem Dev.inbox_setPh (p : Nat) (h : PortHidden) : (d.setPh p h).inbox = d.inbox := rfl
@[simp] theorem Dev.assocs_setPh (p : Nat) (h : PortHidden) : (d.setPh p h).assocs = d.assocs := rfl
@[simp] theorem Dev.eapol_setPh (p : Nat) (h : PortHidden) : (d.setPh p h).eapol = d.eapol := rfl
@[simp] theorem Dev.confirms_setPh (p : Nat) (h : PortHidden) : (d.setPh p h).confirms = d.confirms := rfl
@[simp] theorem Dev.path_setPh (p : Nat) (h : PortHidden) : (d.setPh p h).path = d.path := rfl
@[simp] theorem Dev.wipes_setPh (p : Nat) (h : PortHidden) : (d.setPh p h).wipes = d.wipes := rfl
@[simp] theorem Dev.heldEt_setPh (p : Nat) (h : PortHidden) : (d.setPh p h).heldEt = d.heldEt := rfl
@[simp] theorem Dev.d3hot_setPh (p : Nat) (h : PortHidden) : (d.setPh p h).d3hot = d.d3hot := rfl
@[simp] theorem Dev.ptp_setPh (p : Nat) (h : PortHidden) : (d.setPh p h).ptp = d.ptp := rfl
@[simp] theorem Dev.ptpOut_setPh (p : Nat) (h : PortHidden) : (d.setPh p h).ptpOut = d.ptpOut := rfl
@[simp] theorem Dev.irqs_setPh (p : Nat) (h : PortHidden) : (d.setPh p h).irqs = d.irqs := rfl
@[simp] theorem Dev.free_setPh (p : Nat) (h : PortHidden) : (d.setPh p h).free = d.free := rfl

/-! ### setQh -/

@[simp] theorem Dev.time_setQh (q : Nat) (h : QueueHidden) : (d.setQh q h).time = d.time := by unfold Dev.setQh; simp only [Dev.time_wr]
@[simp] theorem Dev.arb_setQh (q : Nat) (h : QueueHidden) : (d.setQh q h).arb = d.arb := by unfold Dev.setQh; simp only [Dev.arb_wr]
@[simp] theorem Dev.descs_setQh (q : Nat) (h : QueueHidden) : (d.setQh q h).descs = d.descs := by unfold Dev.setQh; simp only [Dev.descs_wr]
@[simp] theorem Dev.evr_setQh (q : Nat) (h : QueueHidden) : (d.setQh q h).evr = d.evr := by unfold Dev.setQh; simp only [Dev.evr_wr]
@[simp] theorem Dev.trace_setQh (q : Nat) (h : QueueHidden) : (d.setQh q h).trace = d.trace := by unfold Dev.setQh; simp only [Dev.trace_wr]
@[simp] theorem Dev.pow_setQh (q : Nat) (h : QueueHidden) : (d.setQh q h).pow = d.pow := by unfold Dev.setQh; simp only [Dev.pow_wr]
@[simp] theorem Dev.ms_setQh (q : Nat) (h : QueueHidden) : (d.setQh q h).ms = d.ms := by unfold Dev.setQh; simp only [Dev.ms_wr]
@[simp] theorem Dev.xl_setQh (q : Nat) (h : QueueHidden) : (d.setQh q h).xl = d.xl := by unfold Dev.setQh; simp only [Dev.xl_wr]
@[simp] theorem Dev.clusters_setQh (q : Nat) (h : QueueHidden) : (d.setQh q h).clusters = d.clusters := by unfold Dev.setQh; simp only [Dev.clusters_wr]
@[simp] theorem Dev.accs_setQh (q : Nat) (h : QueueHidden) : (d.setQh q h).accs = d.accs := by unfold Dev.setQh; simp only [Dev.accs_wr]
@[simp] theorem Dev.residents_setQh (q : Nat) (h : QueueHidden) : (d.setQh q h).residents = d.residents := by unfold Dev.setQh; simp only [Dev.residents_wr]
@[simp] theorem Dev.ports_setQh (q : Nat) (h : QueueHidden) : (d.setQh q h).ports = d.ports := by unfold Dev.setQh; simp only [Dev.ports_wr]
@[simp] theorem Dev.quant_setQh (q : Nat) (h : QueueHidden) : (d.setQh q h).quant = d.quant := by unfold Dev.setQh; simp only [Dev.quant_wr]
@[simp] theorem Dev.remotes_setQh (q : Nat) (h : QueueHidden) : (d.setQh q h).remotes = d.remotes := by unfold Dev.setQh; simp only [Dev.remotes_wr]
@[simp] theorem Dev.outbox_setQh (q : Nat) (h : QueueHidden) : (d.setQh q h).outbox = d.outbox := by unfold Dev.setQh; simp only [Dev.outbox_wr]
@[simp] theorem Dev.nextTag_setQh (q : Nat) (h : QueueHidden) : (d.setQh q h).nextTag = d.nextTag := by unfold Dev.setQh; simp only [Dev.nextTag_wr]
@[simp] theorem Dev.peers_setQh (q : Nat) (h : QueueHidden) : (d.setQh q h).peers = d.peers := by unfold Dev.setQh; simp only [Dev.peers_wr]
@[simp] theorem Dev.wire_setQh (q : Nat) (h : QueueHidden) : (d.setQh q h).wire = d.wire := by unfold Dev.setQh; simp only [Dev.wire_wr]
@[simp] theorem Dev.merge_setQh (q : Nat) (h : QueueHidden) : (d.setQh q h).merge = d.merge := by unfold Dev.setQh; simp only [Dev.merge_wr]
@[simp] theorem Dev.stalls_setQh (q : Nat) (h : QueueHidden) : (d.setQh q h).stalls = d.stalls := by unfold Dev.setQh; simp only [Dev.stalls_wr]
@[simp] theorem Dev.appends_setQh (q : Nat) (h : QueueHidden) : (d.setQh q h).appends = d.appends := by unfold Dev.setQh; simp only [Dev.appends_wr]
@[simp] theorem Dev.calls_setQh (q : Nat) (h : QueueHidden) : (d.setQh q h).calls = d.calls := by unfold Dev.setQh; simp only [Dev.calls_wr]
@[simp] theorem Dev.nextCall_setQh (q : Nat) (h : QueueHidden) : (d.setQh q h).nextCall = d.nextCall := by unfold Dev.setQh; simp only [Dev.nextCall_wr]
@[simp] theorem Dev.batches_setQh (q : Nat) (h : QueueHidden) : (d.setQh q h).batches = d.batches := by unfold Dev.setQh; simp only [Dev.batches_wr]
@[simp] theorem Dev.reorder_setQh (q : Nat) (h : QueueHidden) : (d.setQh q h).reorder = d.reorder := by unfold Dev.setQh; simp only [Dev.reorder_wr]
@[simp] theorem Dev.inbox_setQh (q : Nat) (h : QueueHidden) : (d.setQh q h).inbox = d.inbox := by unfold Dev.setQh; simp only [Dev.inbox_wr]
@[simp] theorem Dev.portsHid_setQh (q : Nat) (h : QueueHidden) : (d.setQh q h).portsHid = d.portsHid := by unfold Dev.setQh; simp only [Dev.portsHid_wr]
@[simp] theorem Dev.assocs_setQh (q : Nat) (h : QueueHidden) : (d.setQh q h).assocs = d.assocs := by unfold Dev.setQh; simp only [Dev.assocs_wr]
@[simp] theorem Dev.eapol_setQh (q : Nat) (h : QueueHidden) : (d.setQh q h).eapol = d.eapol := by unfold Dev.setQh; simp only [Dev.eapol_wr]
@[simp] theorem Dev.confirms_setQh (q : Nat) (h : QueueHidden) : (d.setQh q h).confirms = d.confirms := by unfold Dev.setQh; simp only [Dev.confirms_wr]
@[simp] theorem Dev.path_setQh (q : Nat) (h : QueueHidden) : (d.setQh q h).path = d.path := by unfold Dev.setQh; simp only [Dev.path_wr]
@[simp] theorem Dev.wipes_setQh (q : Nat) (h : QueueHidden) : (d.setQh q h).wipes = d.wipes := by unfold Dev.setQh; simp only [Dev.wipes_wr]
@[simp] theorem Dev.heldEt_setQh (q : Nat) (h : QueueHidden) : (d.setQh q h).heldEt = d.heldEt := by unfold Dev.setQh; simp only [Dev.heldEt_wr]
@[simp] theorem Dev.d3hot_setQh (q : Nat) (h : QueueHidden) : (d.setQh q h).d3hot = d.d3hot := by unfold Dev.setQh; simp only [Dev.d3hot_wr]
@[simp] theorem Dev.ptp_setQh (q : Nat) (h : QueueHidden) : (d.setQh q h).ptp = d.ptp := by unfold Dev.setQh; simp only [Dev.ptp_wr]
@[simp] theorem Dev.ptpOut_setQh (q : Nat) (h : QueueHidden) : (d.setQh q h).ptpOut = d.ptpOut := by unfold Dev.setQh; simp only [Dev.ptpOut_wr]
@[simp] theorem Dev.irqs_setQh (q : Nat) (h : QueueHidden) : (d.setQh q h).irqs = d.irqs := by unfold Dev.setQh; simp only [Dev.irqs_wr]
@[simp] theorem Dev.free_setQh (q : Nat) (h : QueueHidden) : (d.setQh q h).free = d.free := by unfold Dev.setQh; simp only [Dev.free_wr]

/-! ### setQState -/

@[simp] theorem Dev.time_setQState (q st : Nat) : (d.setQState q st).time = d.time := by unfold Dev.setQState; simp only [Dev.time_wr]
@[simp] theorem Dev.queues_setQState (q st : Nat) : (d.setQState q st).queues = d.queues := by unfold Dev.setQState; simp only [Dev.queues_wr]
@[simp] theorem Dev.arb_setQState (q st : Nat) : (d.setQState q st).arb = d.arb := by unfold Dev.setQState; simp only [Dev.arb_wr]
@[simp] theorem Dev.descs_setQState (q st : Nat) : (d.setQState q st).descs = d.descs := by unfold Dev.setQState; simp only [Dev.descs_wr]
@[simp] theorem Dev.evr_setQState (q st : Nat) : (d.setQState q st).evr = d.evr := by unfold Dev.setQState; simp only [Dev.evr_wr]
@[simp] theorem Dev.trace_setQState (q st : Nat) : (d.setQState q st).trace = d.trace := by unfold Dev.setQState; simp only [Dev.trace_wr]
@[simp] theorem Dev.pow_setQState (q st : Nat) : (d.setQState q st).pow = d.pow := by unfold Dev.setQState; simp only [Dev.pow_wr]
@[simp] theorem Dev.ms_setQState (q st : Nat) : (d.setQState q st).ms = d.ms := by unfold Dev.setQState; simp only [Dev.ms_wr]
@[simp] theorem Dev.xl_setQState (q st : Nat) : (d.setQState q st).xl = d.xl := by unfold Dev.setQState; simp only [Dev.xl_wr]
@[simp] theorem Dev.clusters_setQState (q st : Nat) : (d.setQState q st).clusters = d.clusters := by unfold Dev.setQState; simp only [Dev.clusters_wr]
@[simp] theorem Dev.accs_setQState (q st : Nat) : (d.setQState q st).accs = d.accs := by unfold Dev.setQState; simp only [Dev.accs_wr]
@[simp] theorem Dev.residents_setQState (q st : Nat) : (d.setQState q st).residents = d.residents := by unfold Dev.setQState; simp only [Dev.residents_wr]
@[simp] theorem Dev.ports_setQState (q st : Nat) : (d.setQState q st).ports = d.ports := by unfold Dev.setQState; simp only [Dev.ports_wr]
@[simp] theorem Dev.quant_setQState (q st : Nat) : (d.setQState q st).quant = d.quant := by unfold Dev.setQState; simp only [Dev.quant_wr]
@[simp] theorem Dev.remotes_setQState (q st : Nat) : (d.setQState q st).remotes = d.remotes := by unfold Dev.setQState; simp only [Dev.remotes_wr]
@[simp] theorem Dev.outbox_setQState (q st : Nat) : (d.setQState q st).outbox = d.outbox := by unfold Dev.setQState; simp only [Dev.outbox_wr]
@[simp] theorem Dev.nextTag_setQState (q st : Nat) : (d.setQState q st).nextTag = d.nextTag := by unfold Dev.setQState; simp only [Dev.nextTag_wr]
@[simp] theorem Dev.peers_setQState (q st : Nat) : (d.setQState q st).peers = d.peers := by unfold Dev.setQState; simp only [Dev.peers_wr]
@[simp] theorem Dev.wire_setQState (q st : Nat) : (d.setQState q st).wire = d.wire := by unfold Dev.setQState; simp only [Dev.wire_wr]
@[simp] theorem Dev.merge_setQState (q st : Nat) : (d.setQState q st).merge = d.merge := by unfold Dev.setQState; simp only [Dev.merge_wr]
@[simp] theorem Dev.stalls_setQState (q st : Nat) : (d.setQState q st).stalls = d.stalls := by unfold Dev.setQState; simp only [Dev.stalls_wr]
@[simp] theorem Dev.appends_setQState (q st : Nat) : (d.setQState q st).appends = d.appends := by unfold Dev.setQState; simp only [Dev.appends_wr]
@[simp] theorem Dev.calls_setQState (q st : Nat) : (d.setQState q st).calls = d.calls := by unfold Dev.setQState; simp only [Dev.calls_wr]
@[simp] theorem Dev.nextCall_setQState (q st : Nat) : (d.setQState q st).nextCall = d.nextCall := by unfold Dev.setQState; simp only [Dev.nextCall_wr]
@[simp] theorem Dev.batches_setQState (q st : Nat) : (d.setQState q st).batches = d.batches := by unfold Dev.setQState; simp only [Dev.batches_wr]
@[simp] theorem Dev.reorder_setQState (q st : Nat) : (d.setQState q st).reorder = d.reorder := by unfold Dev.setQState; simp only [Dev.reorder_wr]
@[simp] theorem Dev.inbox_setQState (q st : Nat) : (d.setQState q st).inbox = d.inbox := by unfold Dev.setQState; simp only [Dev.inbox_wr]
@[simp] theorem Dev.portsHid_setQState (q st : Nat) : (d.setQState q st).portsHid = d.portsHid := by unfold Dev.setQState; simp only [Dev.portsHid_wr]
@[simp] theorem Dev.assocs_setQState (q st : Nat) : (d.setQState q st).assocs = d.assocs := by unfold Dev.setQState; simp only [Dev.assocs_wr]
@[simp] theorem Dev.eapol_setQState (q st : Nat) : (d.setQState q st).eapol = d.eapol := by unfold Dev.setQState; simp only [Dev.eapol_wr]
@[simp] theorem Dev.confirms_setQState (q st : Nat) : (d.setQState q st).confirms = d.confirms := by unfold Dev.setQState; simp only [Dev.confirms_wr]
@[simp] theorem Dev.path_setQState (q st : Nat) : (d.setQState q st).path = d.path := by unfold Dev.setQState; simp only [Dev.path_wr]
@[simp] theorem Dev.wipes_setQState (q st : Nat) : (d.setQState q st).wipes = d.wipes := by unfold Dev.setQState; simp only [Dev.wipes_wr]
@[simp] theorem Dev.heldEt_setQState (q st : Nat) : (d.setQState q st).heldEt = d.heldEt := by unfold Dev.setQState; simp only [Dev.heldEt_wr]
@[simp] theorem Dev.d3hot_setQState (q st : Nat) : (d.setQState q st).d3hot = d.d3hot := by unfold Dev.setQState; simp only [Dev.d3hot_wr]
@[simp] theorem Dev.ptp_setQState (q st : Nat) : (d.setQState q st).ptp = d.ptp := by unfold Dev.setQState; simp only [Dev.ptp_wr]
@[simp] theorem Dev.ptpOut_setQState (q st : Nat) : (d.setQState q st).ptpOut = d.ptpOut := by unfold Dev.setQState; simp only [Dev.ptpOut_wr]
@[simp] theorem Dev.irqs_setQState (q st : Nat) : (d.setQState q st).irqs = d.irqs := by unfold Dev.setQState; simp only [Dev.irqs_wr]
@[simp] theorem Dev.free_setQState (q st : Nat) : (d.setQState q st).free = d.free := by unfold Dev.setQState; simp only [Dev.free_wr]

/-! ### putDesc -/

@[simp] theorem Dev.regs_putDesc (x : Desc) : (d.putDesc x).regs = d.regs := rfl
@[simp] theorem Dev.time_putDesc (x : Desc) : (d.putDesc x).time = d.time := rfl
@[simp] theorem Dev.queues_putDesc (x : Desc) : (d.putDesc x).queues = d.queues := rfl
@[simp] theorem Dev.arb_putDesc (x : Desc) : (d.putDesc x).arb = d.arb := rfl
@[simp] theorem Dev.evr_putDesc (x : Desc) : (d.putDesc x).evr = d.evr := rfl
@[simp] theorem Dev.trace_putDesc (x : Desc) : (d.putDesc x).trace = d.trace := rfl
@[simp] theorem Dev.pow_putDesc (x : Desc) : (d.putDesc x).pow = d.pow := rfl
@[simp] theorem Dev.ms_putDesc (x : Desc) : (d.putDesc x).ms = d.ms := rfl
@[simp] theorem Dev.xl_putDesc (x : Desc) : (d.putDesc x).xl = d.xl := rfl
@[simp] theorem Dev.clusters_putDesc (x : Desc) : (d.putDesc x).clusters = d.clusters := rfl
@[simp] theorem Dev.accs_putDesc (x : Desc) : (d.putDesc x).accs = d.accs := rfl
@[simp] theorem Dev.residents_putDesc (x : Desc) : (d.putDesc x).residents = d.residents := rfl
@[simp] theorem Dev.ports_putDesc (x : Desc) : (d.putDesc x).ports = d.ports := rfl
@[simp] theorem Dev.quant_putDesc (x : Desc) : (d.putDesc x).quant = d.quant := rfl
@[simp] theorem Dev.remotes_putDesc (x : Desc) : (d.putDesc x).remotes = d.remotes := rfl
@[simp] theorem Dev.outbox_putDesc (x : Desc) : (d.putDesc x).outbox = d.outbox := rfl
@[simp] theorem Dev.nextTag_putDesc (x : Desc) : (d.putDesc x).nextTag = d.nextTag := rfl
@[simp] theorem Dev.peers_putDesc (x : Desc) : (d.putDesc x).peers = d.peers := rfl
@[simp] theorem Dev.wire_putDesc (x : Desc) : (d.putDesc x).wire = d.wire := rfl
@[simp] theorem Dev.merge_putDesc (x : Desc) : (d.putDesc x).merge = d.merge := rfl
@[simp] theorem Dev.stalls_putDesc (x : Desc) : (d.putDesc x).stalls = d.stalls := rfl
@[simp] theorem Dev.appends_putDesc (x : Desc) : (d.putDesc x).appends = d.appends := rfl
@[simp] theorem Dev.calls_putDesc (x : Desc) : (d.putDesc x).calls = d.calls := rfl
@[simp] theorem Dev.nextCall_putDesc (x : Desc) : (d.putDesc x).nextCall = d.nextCall := rfl
@[simp] theorem Dev.batches_putDesc (x : Desc) : (d.putDesc x).batches = d.batches := rfl
@[simp] theorem Dev.reorder_putDesc (x : Desc) : (d.putDesc x).reorder = d.reorder := rfl
@[simp] theorem Dev.inbox_putDesc (x : Desc) : (d.putDesc x).inbox = d.inbox := rfl
@[simp] theorem Dev.portsHid_putDesc (x : Desc) : (d.putDesc x).portsHid = d.portsHid := rfl
@[simp] theorem Dev.assocs_putDesc (x : Desc) : (d.putDesc x).assocs = d.assocs := rfl
@[simp] theorem Dev.eapol_putDesc (x : Desc) : (d.putDesc x).eapol = d.eapol := rfl
@[simp] theorem Dev.confirms_putDesc (x : Desc) : (d.putDesc x).confirms = d.confirms := rfl
@[simp] theorem Dev.path_putDesc (x : Desc) : (d.putDesc x).path = d.path := rfl
@[simp] theorem Dev.wipes_putDesc (x : Desc) : (d.putDesc x).wipes = d.wipes := rfl
@[simp] theorem Dev.heldEt_putDesc (x : Desc) : (d.putDesc x).heldEt = d.heldEt := rfl
@[simp] theorem Dev.d3hot_putDesc (x : Desc) : (d.putDesc x).d3hot = d.d3hot := rfl
@[simp] theorem Dev.ptp_putDesc (x : Desc) : (d.putDesc x).ptp = d.ptp := rfl
@[simp] theorem Dev.ptpOut_putDesc (x : Desc) : (d.putDesc x).ptpOut = d.ptpOut := rfl
@[simp] theorem Dev.irqs_putDesc (x : Desc) : (d.putDesc x).irqs = d.irqs := rfl
@[simp] theorem Dev.free_putDesc (x : Desc) : (d.putDesc x).free = d.free := rfl

/-! ### sendIrqs -/

@[simp] theorem Dev.regs_sendIrqs (p : Nat) (ts : List Nat) : (d.sendIrqs p ts).regs = d.regs := rfl
@[simp] theorem Dev.time_sendIrqs (p : Nat) (ts : List Nat) : (d.sendIrqs p ts).time = d.time := rfl
@[simp] theorem Dev.queues_sendIrqs (p : Nat) (ts : List Nat) : (d.sendIrqs p ts).queues = d.queues := rfl
@[simp] theorem Dev.arb_sendIrqs (p : Nat) (ts : List Nat) : (d.sendIrqs p ts).arb = d.arb := rfl
@[simp] theorem Dev.descs_sendIrqs (p : Nat) (ts : List Nat) : (d.sendIrqs p ts).descs = d.descs := rfl
@[simp] theorem Dev.evr_sendIrqs (p : Nat) (ts : List Nat) : (d.sendIrqs p ts).evr = d.evr := rfl
@[simp] theorem Dev.trace_sendIrqs (p : Nat) (ts : List Nat) : (d.sendIrqs p ts).trace = d.trace := rfl
@[simp] theorem Dev.pow_sendIrqs (p : Nat) (ts : List Nat) : (d.sendIrqs p ts).pow = d.pow := rfl
@[simp] theorem Dev.ms_sendIrqs (p : Nat) (ts : List Nat) : (d.sendIrqs p ts).ms = d.ms := rfl
@[simp] theorem Dev.xl_sendIrqs (p : Nat) (ts : List Nat) : (d.sendIrqs p ts).xl = d.xl := rfl
@[simp] theorem Dev.clusters_sendIrqs (p : Nat) (ts : List Nat) : (d.sendIrqs p ts).clusters = d.clusters := rfl
@[simp] theorem Dev.accs_sendIrqs (p : Nat) (ts : List Nat) : (d.sendIrqs p ts).accs = d.accs := rfl
@[simp] theorem Dev.residents_sendIrqs (p : Nat) (ts : List Nat) : (d.sendIrqs p ts).residents = d.residents := rfl
@[simp] theorem Dev.ports_sendIrqs (p : Nat) (ts : List Nat) : (d.sendIrqs p ts).ports = d.ports := rfl
@[simp] theorem Dev.quant_sendIrqs (p : Nat) (ts : List Nat) : (d.sendIrqs p ts).quant = d.quant := rfl
@[simp] theorem Dev.remotes_sendIrqs (p : Nat) (ts : List Nat) : (d.sendIrqs p ts).remotes = d.remotes := rfl
@[simp] theorem Dev.outbox_sendIrqs (p : Nat) (ts : List Nat) : (d.sendIrqs p ts).outbox = d.outbox := rfl
@[simp] theorem Dev.nextTag_sendIrqs (p : Nat) (ts : List Nat) : (d.sendIrqs p ts).nextTag = d.nextTag := rfl
@[simp] theorem Dev.peers_sendIrqs (p : Nat) (ts : List Nat) : (d.sendIrqs p ts).peers = d.peers := rfl
@[simp] theorem Dev.wire_sendIrqs (p : Nat) (ts : List Nat) : (d.sendIrqs p ts).wire = d.wire := rfl
@[simp] theorem Dev.merge_sendIrqs (p : Nat) (ts : List Nat) : (d.sendIrqs p ts).merge = d.merge := rfl
@[simp] theorem Dev.stalls_sendIrqs (p : Nat) (ts : List Nat) : (d.sendIrqs p ts).stalls = d.stalls := rfl
@[simp] theorem Dev.appends_sendIrqs (p : Nat) (ts : List Nat) : (d.sendIrqs p ts).appends = d.appends := rfl
@[simp] theorem Dev.calls_sendIrqs (p : Nat) (ts : List Nat) : (d.sendIrqs p ts).calls = d.calls := rfl
@[simp] theorem Dev.nextCall_sendIrqs (p : Nat) (ts : List Nat) : (d.sendIrqs p ts).nextCall = d.nextCall := rfl
@[simp] theorem Dev.batches_sendIrqs (p : Nat) (ts : List Nat) : (d.sendIrqs p ts).batches = d.batches := rfl
@[simp] theorem Dev.reorder_sendIrqs (p : Nat) (ts : List Nat) : (d.sendIrqs p ts).reorder = d.reorder := rfl
@[simp] theorem Dev.inbox_sendIrqs (p : Nat) (ts : List Nat) : (d.sendIrqs p ts).inbox = d.inbox := rfl
@[simp] theorem Dev.portsHid_sendIrqs (p : Nat) (ts : List Nat) : (d.sendIrqs p ts).portsHid = d.portsHid := rfl
@[simp] theorem Dev.assocs_sendIrqs (p : Nat) (ts : List Nat) : (d.sendIrqs p ts).assocs = d.assocs := rfl
@[simp] theorem Dev.eapol_sendIrqs (p : Nat) (ts : List Nat) : (d.sendIrqs p ts).eapol = d.eapol := rfl
@[simp] theorem Dev.confirms_sendIrqs (p : Nat) (ts : List Nat) : (d.sendIrqs p ts).confirms = d.confirms := rfl
@[simp] theorem Dev.wipes_sendIrqs (p : Nat) (ts : List Nat) : (d.sendIrqs p ts).wipes = d.wipes := rfl
@[simp] theorem Dev.heldEt_sendIrqs (p : Nat) (ts : List Nat) : (d.sendIrqs p ts).heldEt = d.heldEt := rfl
@[simp] theorem Dev.d3hot_sendIrqs (p : Nat) (ts : List Nat) : (d.sendIrqs p ts).d3hot = d.d3hot := rfl
@[simp] theorem Dev.ptp_sendIrqs (p : Nat) (ts : List Nat) : (d.sendIrqs p ts).ptp = d.ptp := rfl
@[simp] theorem Dev.ptpOut_sendIrqs (p : Nat) (ts : List Nat) : (d.sendIrqs p ts).ptpOut = d.ptpOut := rfl
@[simp] theorem Dev.free_sendIrqs (p : Nat) (ts : List Nat) : (d.sendIrqs p ts).free = d.free := rfl

/-! ### setIrq -/

@[simp] theorem Dev.time_setIrq (p st en : Nat) (b : Bool) : (d.setIrq p st en b).time = d.time := by unfold Dev.setIrq; simp only [Dev.time_sendIrqs, Dev.time_setWord]
@[simp] theorem Dev.queues_setIrq (p st en : Nat) (b : Bool) : (d.setIrq p st en b).queues = d.queues := by unfold Dev.setIrq; simp only [Dev.queues_sendIrqs, Dev.queues_setWord]
@[simp] theorem Dev.arb_setIrq (p st en : Nat) (b : Bool) : (d.setIrq p st en b).arb = d.arb := by unfold Dev.setIrq; simp only [Dev.arb_sendIrqs, Dev.arb_setWord]
@[simp] theorem Dev.descs_setIrq (p st en : Nat) (b : Bool) : (d.setIrq p st en b).descs = d.descs := by unfold Dev.setIrq; simp only [Dev.descs_sendIrqs, Dev.descs_setWord]
@[simp] theorem Dev.evr_setIrq (p st en : Nat) (b : Bool) : (d.setIrq p st en b).evr = d.evr := by unfold Dev.setIrq; simp only [Dev.evr_sendIrqs, Dev.evr_setWord]
@[simp] theorem Dev.trace_setIrq (p st en : Nat) (b : Bool) : (d.setIrq p st en b).trace = d.trace := by unfold Dev.setIrq; simp only [Dev.trace_sendIrqs, Dev.trace_setWord]
@[simp] theorem Dev.pow_setIrq (p st en : Nat) (b : Bool) : (d.setIrq p st en b).pow = d.pow := by unfold Dev.setIrq; simp only [Dev.pow_sendIrqs, Dev.pow_setWord]
@[simp] theorem Dev.ms_setIrq (p st en : Nat) (b : Bool) : (d.setIrq p st en b).ms = d.ms := by unfold Dev.setIrq; simp only [Dev.ms_sendIrqs, Dev.ms_setWord]
@[simp] theorem Dev.xl_setIrq (p st en : Nat) (b : Bool) : (d.setIrq p st en b).xl = d.xl := by unfold Dev.setIrq; simp only [Dev.xl_sendIrqs, Dev.xl_setWord]
@[simp] theorem Dev.clusters_setIrq (p st en : Nat) (b : Bool) : (d.setIrq p st en b).clusters = d.clusters := by unfold Dev.setIrq; simp only [Dev.clusters_sendIrqs, Dev.clusters_setWord]
@[simp] theorem Dev.accs_setIrq (p st en : Nat) (b : Bool) : (d.setIrq p st en b).accs = d.accs := by unfold Dev.setIrq; simp only [Dev.accs_sendIrqs, Dev.accs_setWord]
@[simp] theorem Dev.residents_setIrq (p st en : Nat) (b : Bool) : (d.setIrq p st en b).residents = d.residents := by unfold Dev.setIrq; simp only [Dev.residents_sendIrqs, Dev.residents_setWord]
@[simp] theorem Dev.ports_setIrq (p st en : Nat) (b : Bool) : (d.setIrq p st en b).ports = d.ports := by unfold Dev.setIrq; simp only [Dev.ports_sendIrqs, Dev.ports_setWord]
@[simp] theorem Dev.quant_setIrq (p st en : Nat) (b : Bool) : (d.setIrq p st en b).quant = d.quant := by unfold Dev.setIrq; simp only [Dev.quant_sendIrqs, Dev.quant_setWord]
@[simp] theorem Dev.remotes_setIrq (p st en : Nat) (b : Bool) : (d.setIrq p st en b).remotes = d.remotes := by unfold Dev.setIrq; simp only [Dev.remotes_sendIrqs, Dev.remotes_setWord]
@[simp] theorem Dev.outbox_setIrq (p st en : Nat) (b : Bool) : (d.setIrq p st en b).outbox = d.outbox := by unfold Dev.setIrq; simp only [Dev.outbox_sendIrqs, Dev.outbox_setWord]
@[simp] theorem Dev.nextTag_setIrq (p st en : Nat) (b : Bool) : (d.setIrq p st en b).nextTag = d.nextTag := by unfold Dev.setIrq; simp only [Dev.nextTag_sendIrqs, Dev.nextTag_setWord]
@[simp] theorem Dev.peers_setIrq (p st en : Nat) (b : Bool) : (d.setIrq p st en b).peers = d.peers := by unfold Dev.setIrq; simp only [Dev.peers_sendIrqs, Dev.peers_setWord]
@[simp] theorem Dev.wire_setIrq (p st en : Nat) (b : Bool) : (d.setIrq p st en b).wire = d.wire := by unfold Dev.setIrq; simp only [Dev.wire_sendIrqs, Dev.wire_setWord]
@[simp] theorem Dev.merge_setIrq (p st en : Nat) (b : Bool) : (d.setIrq p st en b).merge = d.merge := by unfold Dev.setIrq; simp only [Dev.merge_sendIrqs, Dev.merge_setWord]
@[simp] theorem Dev.stalls_setIrq (p st en : Nat) (b : Bool) : (d.setIrq p st en b).stalls = d.stalls := by unfold Dev.setIrq; simp only [Dev.stalls_sendIrqs, Dev.stalls_setWord]
@[simp] theorem Dev.appends_setIrq (p st en : Nat) (b : Bool) : (d.setIrq p st en b).appends = d.appends := by unfold Dev.setIrq; simp only [Dev.appends_sendIrqs, Dev.appends_setWord]
@[simp] theorem Dev.calls_setIrq (p st en : Nat) (b : Bool) : (d.setIrq p st en b).calls = d.calls := by unfold Dev.setIrq; simp only [Dev.calls_sendIrqs, Dev.calls_setWord]
@[simp] theorem Dev.nextCall_setIrq (p st en : Nat) (b : Bool) : (d.setIrq p st en b).nextCall = d.nextCall := by unfold Dev.setIrq; simp only [Dev.nextCall_sendIrqs, Dev.nextCall_setWord]
@[simp] theorem Dev.batches_setIrq (p st en : Nat) (b : Bool) : (d.setIrq p st en b).batches = d.batches := by unfold Dev.setIrq; simp only [Dev.batches_sendIrqs, Dev.batches_setWord]
@[simp] theorem Dev.reorder_setIrq (p st en : Nat) (b : Bool) : (d.setIrq p st en b).reorder = d.reorder := by unfold Dev.setIrq; simp only [Dev.reorder_sendIrqs, Dev.reorder_setWord]
@[simp] theorem Dev.inbox_setIrq (p st en : Nat) (b : Bool) : (d.setIrq p st en b).inbox = d.inbox := by unfold Dev.setIrq; simp only [Dev.inbox_sendIrqs, Dev.inbox_setWord]
@[simp] theorem Dev.portsHid_setIrq (p st en : Nat) (b : Bool) : (d.setIrq p st en b).portsHid = d.portsHid := by unfold Dev.setIrq; simp only [Dev.portsHid_sendIrqs, Dev.portsHid_setWord]
@[simp] theorem Dev.assocs_setIrq (p st en : Nat) (b : Bool) : (d.setIrq p st en b).assocs = d.assocs := by unfold Dev.setIrq; simp only [Dev.assocs_sendIrqs, Dev.assocs_setWord]
@[simp] theorem Dev.eapol_setIrq (p st en : Nat) (b : Bool) : (d.setIrq p st en b).eapol = d.eapol := by unfold Dev.setIrq; simp only [Dev.eapol_sendIrqs, Dev.eapol_setWord]
@[simp] theorem Dev.confirms_setIrq (p st en : Nat) (b : Bool) : (d.setIrq p st en b).confirms = d.confirms := by unfold Dev.setIrq; simp only [Dev.confirms_sendIrqs, Dev.confirms_setWord]
@[simp] theorem Dev.wipes_setIrq (p st en : Nat) (b : Bool) : (d.setIrq p st en b).wipes = d.wipes := by unfold Dev.setIrq; simp only [Dev.wipes_sendIrqs, Dev.wipes_setWord]
@[simp] theorem Dev.heldEt_setIrq (p st en : Nat) (b : Bool) : (d.setIrq p st en b).heldEt = d.heldEt := by unfold Dev.setIrq; simp only [Dev.heldEt_sendIrqs, Dev.heldEt_setWord]
@[simp] theorem Dev.d3hot_setIrq (p st en : Nat) (b : Bool) : (d.setIrq p st en b).d3hot = d.d3hot := by unfold Dev.setIrq; simp only [Dev.d3hot_sendIrqs, Dev.d3hot_setWord]
@[simp] theorem Dev.ptp_setIrq (p st en : Nat) (b : Bool) : (d.setIrq p st en b).ptp = d.ptp := by unfold Dev.setIrq; simp only [Dev.ptp_sendIrqs, Dev.ptp_setWord]
@[simp] theorem Dev.ptpOut_setIrq (p st en : Nat) (b : Bool) : (d.setIrq p st en b).ptpOut = d.ptpOut := by unfold Dev.setIrq; simp only [Dev.ptpOut_sendIrqs, Dev.ptpOut_setWord]
@[simp] theorem Dev.free_setIrq (p st en : Nat) (b : Bool) : (d.setIrq p st en b).free = d.free := by unfold Dev.setIrq; simp only [Dev.free_sendIrqs, Dev.free_setWord]

/-! ### raised -/

@[simp] theorem Dev.time_raised (p b : Nat) : (d.raised p b).time = d.time := Dev.time_setIrq d _ _ _ _
@[simp] theorem Dev.queues_raised (p b : Nat) : (d.raised p b).queues = d.queues := Dev.queues_setIrq d _ _ _ _
@[simp] theorem Dev.arb_raised (p b : Nat) : (d.raised p b).arb = d.arb := Dev.arb_setIrq d _ _ _ _
@[simp] theorem Dev.descs_raised (p b : Nat) : (d.raised p b).descs = d.descs := Dev.descs_setIrq d _ _ _ _
@[simp] theorem Dev.evr_raised (p b : Nat) : (d.raised p b).evr = d.evr := Dev.evr_setIrq d _ _ _ _
@[simp] theorem Dev.trace_raised (p b : Nat) : (d.raised p b).trace = d.trace := Dev.trace_setIrq d _ _ _ _
@[simp] theorem Dev.pow_raised (p b : Nat) : (d.raised p b).pow = d.pow := Dev.pow_setIrq d _ _ _ _
@[simp] theorem Dev.ms_raised (p b : Nat) : (d.raised p b).ms = d.ms := Dev.ms_setIrq d _ _ _ _
@[simp] theorem Dev.xl_raised (p b : Nat) : (d.raised p b).xl = d.xl := Dev.xl_setIrq d _ _ _ _
@[simp] theorem Dev.clusters_raised (p b : Nat) : (d.raised p b).clusters = d.clusters := Dev.clusters_setIrq d _ _ _ _
@[simp] theorem Dev.accs_raised (p b : Nat) : (d.raised p b).accs = d.accs := Dev.accs_setIrq d _ _ _ _
@[simp] theorem Dev.residents_raised (p b : Nat) : (d.raised p b).residents = d.residents := Dev.residents_setIrq d _ _ _ _
@[simp] theorem Dev.ports_raised (p b : Nat) : (d.raised p b).ports = d.ports := Dev.ports_setIrq d _ _ _ _
@[simp] theorem Dev.quant_raised (p b : Nat) : (d.raised p b).quant = d.quant := Dev.quant_setIrq d _ _ _ _
@[simp] theorem Dev.remotes_raised (p b : Nat) : (d.raised p b).remotes = d.remotes := Dev.remotes_setIrq d _ _ _ _
@[simp] theorem Dev.outbox_raised (p b : Nat) : (d.raised p b).outbox = d.outbox := Dev.outbox_setIrq d _ _ _ _
@[simp] theorem Dev.nextTag_raised (p b : Nat) : (d.raised p b).nextTag = d.nextTag := Dev.nextTag_setIrq d _ _ _ _
@[simp] theorem Dev.peers_raised (p b : Nat) : (d.raised p b).peers = d.peers := Dev.peers_setIrq d _ _ _ _
@[simp] theorem Dev.wire_raised (p b : Nat) : (d.raised p b).wire = d.wire := Dev.wire_setIrq d _ _ _ _
@[simp] theorem Dev.merge_raised (p b : Nat) : (d.raised p b).merge = d.merge := Dev.merge_setIrq d _ _ _ _
@[simp] theorem Dev.stalls_raised (p b : Nat) : (d.raised p b).stalls = d.stalls := Dev.stalls_setIrq d _ _ _ _
@[simp] theorem Dev.appends_raised (p b : Nat) : (d.raised p b).appends = d.appends := Dev.appends_setIrq d _ _ _ _
@[simp] theorem Dev.calls_raised (p b : Nat) : (d.raised p b).calls = d.calls := Dev.calls_setIrq d _ _ _ _
@[simp] theorem Dev.nextCall_raised (p b : Nat) : (d.raised p b).nextCall = d.nextCall := Dev.nextCall_setIrq d _ _ _ _
@[simp] theorem Dev.batches_raised (p b : Nat) : (d.raised p b).batches = d.batches := Dev.batches_setIrq d _ _ _ _
@[simp] theorem Dev.reorder_raised (p b : Nat) : (d.raised p b).reorder = d.reorder := Dev.reorder_setIrq d _ _ _ _
@[simp] theorem Dev.inbox_raised (p b : Nat) : (d.raised p b).inbox = d.inbox := Dev.inbox_setIrq d _ _ _ _
@[simp] theorem Dev.portsHid_raised (p b : Nat) : (d.raised p b).portsHid = d.portsHid := Dev.portsHid_setIrq d _ _ _ _
@[simp] theorem Dev.assocs_raised (p b : Nat) : (d.raised p b).assocs = d.assocs := Dev.assocs_setIrq d _ _ _ _
@[simp] theorem Dev.eapol_raised (p b : Nat) : (d.raised p b).eapol = d.eapol := Dev.eapol_setIrq d _ _ _ _
@[simp] theorem Dev.confirms_raised (p b : Nat) : (d.raised p b).confirms = d.confirms := Dev.confirms_setIrq d _ _ _ _
@[simp] theorem Dev.wipes_raised (p b : Nat) : (d.raised p b).wipes = d.wipes := Dev.wipes_setIrq d _ _ _ _
@[simp] theorem Dev.heldEt_raised (p b : Nat) : (d.raised p b).heldEt = d.heldEt := Dev.heldEt_setIrq d _ _ _ _
@[simp] theorem Dev.d3hot_raised (p b : Nat) : (d.raised p b).d3hot = d.d3hot := Dev.d3hot_setIrq d _ _ _ _
@[simp] theorem Dev.ptp_raised (p b : Nat) : (d.raised p b).ptp = d.ptp := Dev.ptp_setIrq d _ _ _ _
@[simp] theorem Dev.ptpOut_raised (p b : Nat) : (d.raised p b).ptpOut = d.ptpOut := Dev.ptpOut_setIrq d _ _ _ _
@[simp] theorem Dev.free_raised (p b : Nat) : (d.raised p b).free = d.free := Dev.free_setIrq d _ _ _ _

/-! ### bump -/

@[simp] theorem Dev.time_bump (f : Fld) (p n : Nat) : (d.bump f p n).time = d.time := by unfold Dev.bump; dsimp only; split <;> split <;> simp only [Dev.time_wr]
@[simp] theorem Dev.queues_bump (f : Fld) (p n : Nat) : (d.bump f p n).queues = d.queues := by unfold Dev.bump; dsimp only; split <;> split <;> simp only [Dev.queues_wr]
@[simp] theorem Dev.arb_bump (f : Fld) (p n : Nat) : (d.bump f p n).arb = d.arb := by unfold Dev.bump; dsimp only; split <;> split <;> simp only [Dev.arb_wr]
@[simp] theorem Dev.descs_bump (f : Fld) (p n : Nat) : (d.bump f p n).descs = d.descs := by unfold Dev.bump; dsimp only; split <;> split <;> simp only [Dev.descs_wr]
@[simp] theorem Dev.evr_bump (f : Fld) (p n : Nat) : (d.bump f p n).evr = d.evr := by unfold Dev.bump; dsimp only; split <;> split <;> simp only [Dev.evr_wr]
@[simp] theorem Dev.trace_bump (f : Fld) (p n : Nat) : (d.bump f p n).trace = d.trace := by unfold Dev.bump; dsimp only; split <;> split <;> simp only [Dev.trace_wr]
@[simp] theorem Dev.pow_bump (f : Fld) (p n : Nat) : (d.bump f p n).pow = d.pow := by unfold Dev.bump; dsimp only; split <;> split <;> simp only [Dev.pow_wr]
@[simp] theorem Dev.ms_bump (f : Fld) (p n : Nat) : (d.bump f p n).ms = d.ms := by unfold Dev.bump; dsimp only; split <;> split <;> simp only [Dev.ms_wr]
@[simp] theorem Dev.xl_bump (f : Fld) (p n : Nat) : (d.bump f p n).xl = d.xl := by unfold Dev.bump; dsimp only; split <;> split <;> simp only [Dev.xl_wr]
@[simp] theorem Dev.clusters_bump (f : Fld) (p n : Nat) : (d.bump f p n).clusters = d.clusters := by unfold Dev.bump; dsimp only; split <;> split <;> simp only [Dev.clusters_wr]
@[simp] theorem Dev.accs_bump (f : Fld) (p n : Nat) : (d.bump f p n).accs = d.accs := by unfold Dev.bump; dsimp only; split <;> split <;> simp only [Dev.accs_wr]
@[simp] theorem Dev.residents_bump (f : Fld) (p n : Nat) : (d.bump f p n).residents = d.residents := by unfold Dev.bump; dsimp only; split <;> split <;> simp only [Dev.residents_wr]
@[simp] theorem Dev.ports_bump (f : Fld) (p n : Nat) : (d.bump f p n).ports = d.ports := by unfold Dev.bump; dsimp only; split <;> split <;> simp only [Dev.ports_wr]
@[simp] theorem Dev.quant_bump (f : Fld) (p n : Nat) : (d.bump f p n).quant = d.quant := by unfold Dev.bump; dsimp only; split <;> split <;> simp only [Dev.quant_wr]
@[simp] theorem Dev.remotes_bump (f : Fld) (p n : Nat) : (d.bump f p n).remotes = d.remotes := by unfold Dev.bump; dsimp only; split <;> split <;> simp only [Dev.remotes_wr]
@[simp] theorem Dev.outbox_bump (f : Fld) (p n : Nat) : (d.bump f p n).outbox = d.outbox := by unfold Dev.bump; dsimp only; split <;> split <;> simp only [Dev.outbox_wr]
@[simp] theorem Dev.nextTag_bump (f : Fld) (p n : Nat) : (d.bump f p n).nextTag = d.nextTag := by unfold Dev.bump; dsimp only; split <;> split <;> simp only [Dev.nextTag_wr]
@[simp] theorem Dev.peers_bump (f : Fld) (p n : Nat) : (d.bump f p n).peers = d.peers := by unfold Dev.bump; dsimp only; split <;> split <;> simp only [Dev.peers_wr]
@[simp] theorem Dev.wire_bump (f : Fld) (p n : Nat) : (d.bump f p n).wire = d.wire := by unfold Dev.bump; dsimp only; split <;> split <;> simp only [Dev.wire_wr]
@[simp] theorem Dev.merge_bump (f : Fld) (p n : Nat) : (d.bump f p n).merge = d.merge := by unfold Dev.bump; dsimp only; split <;> split <;> simp only [Dev.merge_wr]
@[simp] theorem Dev.stalls_bump (f : Fld) (p n : Nat) : (d.bump f p n).stalls = d.stalls := by unfold Dev.bump; dsimp only; split <;> split <;> simp only [Dev.stalls_wr]
@[simp] theorem Dev.appends_bump (f : Fld) (p n : Nat) : (d.bump f p n).appends = d.appends := by unfold Dev.bump; dsimp only; split <;> split <;> simp only [Dev.appends_wr]
@[simp] theorem Dev.calls_bump (f : Fld) (p n : Nat) : (d.bump f p n).calls = d.calls := by unfold Dev.bump; dsimp only; split <;> split <;> simp only [Dev.calls_wr]
@[simp] theorem Dev.nextCall_bump (f : Fld) (p n : Nat) : (d.bump f p n).nextCall = d.nextCall := by unfold Dev.bump; dsimp only; split <;> split <;> simp only [Dev.nextCall_wr]
@[simp] theorem Dev.batches_bump (f : Fld) (p n : Nat) : (d.bump f p n).batches = d.batches := by unfold Dev.bump; dsimp only; split <;> split <;> simp only [Dev.batches_wr]
@[simp] theorem Dev.reorder_bump (f : Fld) (p n : Nat) : (d.bump f p n).reorder = d.reorder := by unfold Dev.bump; dsimp only; split <;> split <;> simp only [Dev.reorder_wr]
@[simp] theorem Dev.inbox_bump (f : Fld) (p n : Nat) : (d.bump f p n).inbox = d.inbox := by unfold Dev.bump; dsimp only; split <;> split <;> simp only [Dev.inbox_wr]
@[simp] theorem Dev.portsHid_bump (f : Fld) (p n : Nat) : (d.bump f p n).portsHid = d.portsHid := by unfold Dev.bump; dsimp only; split <;> split <;> simp only [Dev.portsHid_wr]
@[simp] theorem Dev.assocs_bump (f : Fld) (p n : Nat) : (d.bump f p n).assocs = d.assocs := by unfold Dev.bump; dsimp only; split <;> split <;> simp only [Dev.assocs_wr]
@[simp] theorem Dev.eapol_bump (f : Fld) (p n : Nat) : (d.bump f p n).eapol = d.eapol := by unfold Dev.bump; dsimp only; split <;> split <;> simp only [Dev.eapol_wr]
@[simp] theorem Dev.confirms_bump (f : Fld) (p n : Nat) : (d.bump f p n).confirms = d.confirms := by unfold Dev.bump; dsimp only; split <;> split <;> simp only [Dev.confirms_wr]
@[simp] theorem Dev.path_bump (f : Fld) (p n : Nat) : (d.bump f p n).path = d.path := by unfold Dev.bump; dsimp only; split <;> split <;> simp only [Dev.path_wr]
@[simp] theorem Dev.wipes_bump (f : Fld) (p n : Nat) : (d.bump f p n).wipes = d.wipes := by unfold Dev.bump; dsimp only; split <;> split <;> simp only [Dev.wipes_wr]
@[simp] theorem Dev.heldEt_bump (f : Fld) (p n : Nat) : (d.bump f p n).heldEt = d.heldEt := by unfold Dev.bump; dsimp only; split <;> split <;> simp only [Dev.heldEt_wr]
@[simp] theorem Dev.d3hot_bump (f : Fld) (p n : Nat) : (d.bump f p n).d3hot = d.d3hot := by unfold Dev.bump; dsimp only; split <;> split <;> simp only [Dev.d3hot_wr]
@[simp] theorem Dev.ptp_bump (f : Fld) (p n : Nat) : (d.bump f p n).ptp = d.ptp := by unfold Dev.bump; dsimp only; split <;> split <;> simp only [Dev.ptp_wr]
@[simp] theorem Dev.ptpOut_bump (f : Fld) (p n : Nat) : (d.bump f p n).ptpOut = d.ptpOut := by unfold Dev.bump; dsimp only; split <;> split <;> simp only [Dev.ptpOut_wr]
@[simp] theorem Dev.irqs_bump (f : Fld) (p n : Nat) : (d.bump f p n).irqs = d.irqs := by unfold Dev.bump; dsimp only; split <;> split <;> simp only [Dev.irqs_wr]
@[simp] theorem Dev.free_bump (f : Fld) (p n : Nat) : (d.bump f p n).free = d.free := by unfold Dev.bump; dsimp only; split <;> split <;> simp only [Dev.free_wr]


/-! ### The machine -/

@[simp] theorem State.put_dev (s : State) : (s.put d).dev = d := rfl
@[simp] theorem State.put_mem (s : State) : (s.put d).mem = s.mem := rfl
@[simp] theorem State.put_host (s : State) : (s.put d).host = s.host := rfl
@[simp] theorem State.put_pending (s : State) : (s.put d).pending = s.pending := rfl
@[simp] theorem settle_dev (s : State) (t : Tx) : (settle s t).dev = t.dev := rfl
@[simp] theorem settle_pending (s : State) (t : Tx) : (settle s t).pending = s.pending := rfl

end Sys2Proof.Machine
end

