-- ==== Sys2Proof/Laws/Registers.lean ====
section
/-! SUPPORT. Fields of registers: a field reads as it was written, and a write touches no other field. -/

namespace Sys2Proof.Machine

/-! ### Fields of numbers -/

theorem bits_le (n lo len : Nat) : bits n lo len * 2 ^ lo ≤ n := by
  unfold bits
  calc n / 2 ^ lo % 2 ^ len * 2 ^ lo ≤ n / 2 ^ lo * 2 ^ lo := Nat.mul_le_mul_right _ (Nat.mod_le _ _)
    _ ≤ n := Nat.div_mul_le_self _ _

theorem setBits_split (n lo len v : Nat) :
    setBits n lo len v = n / 2 ^ (lo + len) * 2 ^ (lo + len) + v % 2 ^ len * 2 ^ lo + n % 2 ^ lo := by
  have h1 : 2 ^ lo * (n / 2 ^ lo) + n % 2 ^ lo = n := Nat.div_add_mod n (2 ^ lo)
  have h2 : 2 ^ len * (n / 2 ^ lo / 2 ^ len) + n / 2 ^ lo % 2 ^ len = n / 2 ^ lo := Nat.div_add_mod _ _
  rw [Nat.div_div_eq_div_mul, ← pow_add] at h2
  have h3 : n = n / 2 ^ (lo + len) * 2 ^ (lo + len) + bits n lo len * 2 ^ lo + n % 2 ^ lo := by
    unfold bits
    conv_lhs => rw [← h1, ← h2]
    rw [pow_add]
    ring
  unfold setBits
  omega

theorem bits_setBits_same (n lo len v : Nat) : bits (setBits n lo len v) lo len = v % 2 ^ len := by
  rw [setBits_split]
  unfold bits
  have h : (n / 2 ^ (lo + len) * 2 ^ (lo + len) + v % 2 ^ len * 2 ^ lo + n % 2 ^ lo) / 2 ^ lo =
      n / 2 ^ (lo + len) * 2 ^ len + v % 2 ^ len := by
    rw [pow_add, show n / (2 ^ lo * 2 ^ len) * (2 ^ lo * 2 ^ len) + v % 2 ^ len * 2 ^ lo + n % 2 ^ lo =
      n % 2 ^ lo + (n / (2 ^ lo * 2 ^ len) * 2 ^ len + v % 2 ^ len) * 2 ^ lo by ring,
      Nat.add_mul_div_right _ _ (Nat.two_pow_pos lo), Nat.div_eq_of_lt (Nat.mod_lt _ (Nat.two_pow_pos lo)), Nat.zero_add]
  rw [h, Nat.mul_add_mod_self_right, Nat.mod_mod]

theorem testBit_bits (n lo len k : Nat) : (bits n lo len).testBit k = (decide (k < len) && n.testBit (lo + k)) := by
  unfold bits
  rw [Nat.testBit_mod_two_pow, Nat.testBit_div_two_pow, Nat.add_comm]

theorem testBit_setBits (n lo len v k : Nat) :
    (setBits n lo len v).testBit k = if lo ≤ k ∧ k < lo + len then v.testBit (k - lo) else n.testBit k := by
  rw [setBits_split, show n / 2 ^ (lo + len) * 2 ^ (lo + len) + v % 2 ^ len * 2 ^ lo + n % 2 ^ lo =
    2 ^ (lo + len) * (n / 2 ^ (lo + len)) + (2 ^ lo * (v % 2 ^ len) + n % 2 ^ lo) by ring]
  have hlo : n % 2 ^ lo < 2 ^ lo := Nat.mod_lt _ (Nat.two_pow_pos lo)
  have hv : v % 2 ^ len < 2 ^ len := Nat.mod_lt _ (Nat.two_pow_pos len)
  have hb : 2 ^ lo * (v % 2 ^ len) + n % 2 ^ lo < 2 ^ (lo + len) := by
    rw [pow_add]
    calc 2 ^ lo * (v % 2 ^ len) + n % 2 ^ lo < 2 ^ lo * (v % 2 ^ len) + 2 ^ lo := by omega
      _ = 2 ^ lo * (v % 2 ^ len + 1) := by ring
      _ ≤ 2 ^ lo * 2 ^ len := Nat.mul_le_mul_left _ hv
  rw [Nat.testBit_two_pow_mul_add _ hb, Nat.testBit_two_pow_mul_add _ hlo]
  by_cases h1 : k < lo
  · have h2 : k < lo + len := by omega
    simp [h1, h2, Nat.not_le.mpr h1, Nat.testBit_mod_two_pow]
  · by_cases h2 : k < lo + len
    · have h3 : k - lo < len := by omega
      simp [h1, h2, Nat.not_lt.mp h1, Nat.testBit_mod_two_pow, h3]
    · simp [h2, Nat.testBit_div_two_pow, Nat.sub_add_cancel (Nat.not_lt.mp h2)]

theorem bits_setBits_other (n lo len v lo' len' : Nat) (h : lo + len ≤ lo' ∨ lo' + len' ≤ lo) :
    bits (setBits n lo len v) lo' len' = bits n lo' len' := by
  apply Nat.eq_of_testBit_eq
  intro k
  rw [testBit_bits, testBit_bits, testBit_setBits]
  by_cases hk : k < len'
  · have : ¬(lo ≤ lo' + k ∧ lo' + k < lo + len) := by omega
    simp [this]
  · simp [hk]

theorem bits_mod (n lo len w : Nat) (h : lo + len ≤ w) : bits (n % 2 ^ w) lo len = bits n lo len := by
  apply Nat.eq_of_testBit_eq
  intro k
  rw [testBit_bits, testBit_bits, Nat.testBit_mod_two_pow]
  by_cases hk : k < len
  · have : lo + k < w := by omega
    simp [this]
  · simp [hk]

/-! ### Registers -/

variable (d : Dev)

@[simp] theorem Dev.word_setWord_same (r : RegName) (p i v : Nat) : (d.setWord r p i v).word r p i = v % 2 ^ 64 := by
  simp [Dev.word, Dev.setWord, SMap.get_set_same, BitVec.toNat_ofNat]

theorem Dev.word_setWord_ne {r r' : RegName} {p p' i i' : Nat} (v : Nat) (h : r.info.key p i ≠ r'.info.key p' i') :
    (d.setWord r p i v).word r' p' i' = d.word r' p' i' := by
  simp [Dev.word, Dev.setWord, SMap.get_set_ne _ _ _ _ h]

/-- A field reads as it was written. -/
theorem Dev.rd_wr_same (f : Fld) (p v i : Nat) (h : f.lo + f.len ≤ 64) : (d.wr f p v i).rd f p i = v % 2 ^ f.len := by
  unfold Dev.rd Dev.wr
  rw [Dev.word_setWord_same, bits_mod _ _ _ _ h, bits_setBits_same]

/-- A write leaves the other fields of its register as they are. -/
theorem Dev.rd_wr_field {f g : Fld} (p v i : Nat) (hr : g.reg = f.reg) (hg : g.lo + g.len ≤ 64)
    (h : f.lo + f.len ≤ g.lo ∨ g.lo + g.len ≤ f.lo) : (d.wr f p v i).rd g p i = d.rd g p i := by
  unfold Dev.rd Dev.wr
  rw [hr, Dev.word_setWord_same, bits_mod _ _ _ _ hg, bits_setBits_other _ _ _ _ _ _ h]

/-- A write leaves every other register as it is. -/
theorem Dev.rd_wr_ne {f g : Fld} {p p' i i' : Nat} (v : Nat) (h : f.reg.info.key p i ≠ g.reg.info.key p' i') :
    (d.wr f p v i).rd g p' i' = d.rd g p' i' := by
  unfold Dev.rd Dev.wr
  rw [Dev.word_setWord_ne d _ h]

theorem Dev.word_wr_ne {f : Fld} {r : RegName} {p p' i i' : Nat} (v : Nat) (h : f.reg.info.key p i ≠ r.info.key p' i') :
    (d.wr f p v i).word r p' i' = d.word r p' i' := by
  unfold Dev.wr
  rw [Dev.word_setWord_ne d _ h]

/-- What a register holds depends on the registers alone. -/
theorem Dev.rd_congr {d e : Dev} (h : d.regs = e.regs) (f : Fld) (p i : Nat) : d.rd f p i = e.rd f p i := by
  unfold Dev.rd Dev.word
  rw [h]

end Sys2Proof.Machine
end

