-- ==== Sys2Proof/Laws/Exec.lean ====
section
/-! SUPPORT. How a meaning runs: one equation for each way of building a meaning, and what a transaction answers. -/

namespace Sys2Proof.Machine

variable {α β : Type} (i : Image) (t : Tx)

@[simp] theorem run_pure (a : α) : (pure a : M α) i t = .ok a t := (rfl)

/-- What follows a result: a function of its own, so that results are compared before they are evaluated. -/
def chain (r : EStateM.Result Stop Tx α) (f : α → M β) (i : Image) : EStateM.Result Stop Tx β :=
  match r with
  | .ok a t => f a i t
  | .error e t => .error e t

@[simp] theorem chain_ok (a : α) (f : α → M β) : chain (.ok a t) f i = f a i t := (rfl)
@[simp] theorem chain_error (e : Stop) (f : α → M β) : chain (.error e t) f i = .error e t := (rfl)

/-- What follows a stop. -/
def handle (r : EStateM.Result Stop Tx α) (f : Stop → M α) (i : Image) : EStateM.Result Stop Tx α :=
  match r with
  | .ok a t => .ok a t
  | .error e t => f e i t

@[simp] theorem handle_ok (a : α) (f : Stop → M α) : handle (.ok a t) f i = .ok a t := (rfl)
@[simp] theorem handle_error (e : Stop) (f : Stop → M α) : handle (.error e t) f i = f e i t := (rfl)

@[simp] theorem run_bind (m : M α) (f : α → M β) : (m >>= f) i t = chain (m i t) f i := by
  simp only [bind, ReaderT.bind, EStateM.bind]
  cases m i t <;> rfl

@[simp] theorem run_map (m : M α) (f : α → β) : (f <$> m) i t = chain (m i t) (fun a => pure (f a)) i := by
  show EStateM.map f (m i) t = _
  unfold EStateM.map
  cases m i t <;> rfl

@[simp] theorem run_ite (c : Prop) [Decidable c] (a b : M α) : (if c then a else b) i t = if c then a i t else b i t := by
  split <;> rfl

@[simp] theorem run_dev : dev i t = .ok t.dev t := (rfl)
@[simp] theorem run_read : (read : M Image) i t = .ok i t := (rfl)
@[simp] theorem run_get : (get : M Tx) i t = .ok t t := (rfl)
@[simp] theorem run_set (t' : Tx) : (set t' : M PUnit) i t = .ok ⟨⟩ t' := (rfl)
@[simp] theorem run_modDev (f : Dev → Dev) : modDev f i t = .ok () { t with dev := f t.dev } := (rfl)
@[simp] theorem run_skip : (skip : M α) i t = .error .skip t := (rfl)
@[simp] theorem run_fail (st rs : Nat) : (fail st rs : M α) i t = .error (.fail st rs) t := (rfl)
@[simp] theorem run_waitFor (f : Dev → Dev) : (waitFor f : M α) i t = .error (.wait f) t := (rfl)
@[simp] theorem run_throw (e : Stop) : (throw e : M α) i t = .error e t := (rfl)
@[simp] theorem run_have_some (a : α) : have! (some a) i t = .ok a t := (rfl)
@[simp] theorem run_have_none : have! (none : Option α) i t = .error .skip t := (rfl)
@[simp] theorem run_need (b : Bool) : need b i t = if b then .ok () t else .error .skip t := by cases b <;> rfl
@[simp] theorem run_rd (f : Fld) (p n : Nat) : rd f p n i t = .ok (t.dev.rd f p n) t := (rfl)
@[simp] theorem run_rdB (f : Fld) (p n : Nat) : rdB f p n i t = .ok (t.dev.rd f p n == 1) t := (rfl)
@[simp] theorem run_wr (f : Fld) (p v n : Nat) : wr f p v n i t = .ok () { t with dev := t.dev.wr f p v n } := (rfl)
@[simp] theorem run_bump (f : Fld) (p n : Nat) : bump f p n i t = .ok () { t with dev := t.dev.bump f p n } := (rfl)
@[simp] theorem run_raise (p b : Nat) : raise p b i t = .ok () { t with dev := t.dev.raised p b } := (rfl)
@[simp] theorem run_record (code sev page payload : Nat) :
    record code sev page payload i t = .ok () { t with dev := t.dev.event code sev page payload } := (rfl)
@[simp] theorem run_tap (a b c d e f g h : Nat) :
    tap a b c d e f g h i t = .ok () { t with dev := t.dev.traced a b c d e f g h } := (rfl)
@[simp] theorem run_qrd (f : Fld) (q : Nat) : qrd f q i t = .ok (t.dev.qrd f q) t := (rfl)
@[simp] theorem run_qwr (f : Fld) (q v : Nat) :
    qwr f q v i t = .ok () { t with dev := t.dev.wr f (1 + q / 16) v (q % 16) } := (rfl)
@[simp] theorem run_modTime (f : TimeBase → TimeBase) :
    modTime f i t = .ok () { t with dev := { t.dev with time := f t.dev.time } } := (rfl)
@[simp] theorem run_modPow (f : Power → Power) :
    modPow f i t = .ok () { t with dev := { t.dev with pow := f t.dev.pow } } := (rfl)
@[simp] theorem run_modPeer (n : Nat) (f : Peer → Peer) :
    modPeer n f i t = .ok () { t with dev := t.dev.setPeer n (f (t.dev.peer n)) } := (rfl)

@[simp] theorem run_tryCatch (m : M α) (f : Stop → M α) : (tryCatch m f : M α) i t = handle (m i t) f i := by
  show EStateM.tryCatch (m i) (fun e => f e i) t = _
  unfold EStateM.tryCatch
  cases m i t <;> rfl

theorem run_attempt {m : M Unit} {i : Image} {t t' : Tx} (h : m i t = .ok () t') : attempt m i t = .ok () t' := by
  simp [attempt, h]

theorem run_attemptWork {q n : Nat} {m : M Unit} {i : Image} {t t' : Tx} (h : m i t = .ok () t') :
    attemptWork q n m i t = .ok () t' := by
  simp [attemptWork, h]

/-- A meaning that runs to its end leaves what it ran to. -/
theorem ran_runs {m : M α} {i : Image} {t t' : Tx} {a : α} (h : Runs m i t a t') : ran m i t = t' := by
  unfold Runs at h
  simp only [ran, h]

/-- A meaning that does not stop runs to what it leaves. -/
theorem runs_ran {m : M Unit} {i : Image} {t : Tx} (h : ∃ t', m i t = .ok () t') : m i t = .ok () (ran m i t) := by
  obtain ⟨t', h⟩ := h
  rw [h, ran_runs h]

theorem run_caught {m : M α} {i : Image} {t t' : Tx} {a : α} (h : m i t = .ok a t') : caught m i t = .ok (.ok a) t' := by
  simp [caught, h]

theorem run_orEnd {q n : Nat} {m : M Unit} {i : Image} {t t' : Tx} (h : m i t = .ok () t') :
    orEnd q n m i t = .ok () t' := by
  simp [orEnd, h]

@[simp] theorem run_now : now i t = .ok t.dev.time.et t := (rfl)

theorem run_getDesc {i : Image} {t : Tx} {q n : Nat} {x : Desc} (h : t.dev.desc q n = some x) : getDesc q n i t = .ok x t := by
  simp [getDesc, h]

/-! ### Transactions -/

theorem settle_put (s : State) (d : Dev) : settle s ⟨d, []⟩ = s.put d := (rfl)

theorem transact_runs {m : M Unit} {s : State} {t : Tx} (h : Runs m s.image s.start () t) :
    transact m s = .next (settle s t) := by
  have h' : m ⟨s.mem, s.host⟩ ⟨s.dev, []⟩ = .ok () t := h
  simp [transact, h']

theorem transact_put {m : M Unit} {s : State} {d : Dev} (h : m s.image s.start = .ok () ⟨d, []⟩) :
    transact m s = .next (s.put d) := by
  rw [transact_runs h, settle_put]

@[simp] theorem start_dev (s : State) : s.start.dev = s.dev := rfl
@[simp] theorem start_log (s : State) : s.start.log = [] := rfl
@[simp] theorem image_mem (s : State) : s.image.mem = s.mem := rfl
@[simp] theorem image_host (s : State) : s.image.host = s.host := rfl

/-! ### Register writes -/

theorem RegAcc.passes_reaches {w : RegAcc} {i : Image} {t : Tx} (h : w.reaches t.dev = true) : w.passes i t = .ok true t := by
  simp [RegAcc.reaches] at h
  obtain ⟨⟨⟨⟨⟨h1, h2⟩, h3⟩, h4⟩, h5⟩, h6⟩ := h
  have e1 : ¬(w.agent = Agent.mailbox ∧
      ((¬w.page / 256 = bEVR ∧ ¬w.page / 256 = bTIM) ∧ ¬w.page / 256 = bPWR) ∧ ¬w.page / 256 = bTRC) := by
    rintro ⟨a, ⟨⟨b, c⟩, d⟩, e⟩
    rcases h1 with (((h1 | h1) | h1) | h1) | h1
    exacts [h1 a, b h1, c h1, d h1, e h1]
  have e3 : ¬(t.dev.asleep = true ∧ servedInSleep w.page = false) := by
    rintro ⟨a, b⟩; rcases h3 with h3 | h3 <;> simp_all
  have e5 : ¬(if 8 ≤ w.off ∧ w.off < 12 then ¬worldOf w.agent = 1 else ¬worldOf w.agent = t.dev.pageWorld w.page) := by
    split at h5 <;> simp_all
  have e6 : ¬(64 ≤ w.off ∧ t.dev.rd F.pageStat_busy w.page = 1) := by
    rintro ⟨a, b⟩; omega
  simp [RegAcc.passes, h2, h4, pageWorld, e1, e3, e5, e6]

theorem RegAcc.run_reaches {w : RegAcc} {i : Image} {t : Tx} (h : w.reaches t.dev = true) (m : M Unit) :
    w.run m i t = m i t := by
  simp [RegAcc.run, passes_reaches h]

/-- Reading bytes changes nothing. -/
theorem run_peeks (host : Bool) (i : Image) (t : Tx) : ∀ n a, ∃ bs, peeks host a n i t = .ok bs t := by
  intro n
  induction n with
  | zero => exact fun a => ⟨[], rfl⟩
  | succ n ih =>
    intro a
    obtain ⟨bs, h⟩ := ih (a + 1)
    have hb : ∃ b, peek host a i t = .ok b t := by
      cases e : logged host a t.log with
      | none => exact ⟨readByte (if host then i.host else i.mem) a, by simp only [peek, run_bind, run_read, run_get, chain_ok, e, run_pure]⟩
      | some b => exact ⟨b, by simp only [peek, run_bind, run_read, run_get, chain_ok, e, run_pure]⟩
    obtain ⟨b, hb⟩ := hb
    exact ⟨b :: bs, by simp only [peeks, run_bind, hb, chain_ok, h, run_pure]⟩

/-- A loop whose body always ends runs to its end. -/
theorem run_each {β : Type} (f : β → M Unit) (h : ∀ b i t, ∃ t', f b i t = .ok () t') (i : Image) :
    ∀ (l : List β) (t : Tx), ∃ t', each l f i t = .ok () t'
  | [], t => ⟨t, rfl⟩
  | b :: l, t => by
    obtain ⟨t1, h1⟩ := h b i t
    obtain ⟨t2, h2⟩ := run_each f h i l t1
    exact ⟨t2, by simp only [each, run_bind, h1, chain_ok, h2]⟩

end Sys2Proof.Machine
end

