-- ==== Sys2Proof/Laws/Total.lean ====
section
/-! SUPPORT. Meanings that run to their end: neither a failure nor a wait stops them, from any transaction whose machine has a
property; and what is so of the machine that they leave. -/

namespace Sys2Proof.Machine

/-- A meaning runs to its end where the machine has the property `P`, and leaves it with the property `Q`. -/
structure Total {α : Type} (P Q : Dev → Prop) (m : M α) : Prop where
  out : ∀ i t, P t.dev → ∃ a t', m i t = .ok a t' ∧ Q t'.dev

variable {α β : Type} {P Q R : Dev → Prop}

theorem total_pure (a : α) : Total P P (pure a : M α) := ⟨fun _ t h => ⟨a, t, rfl, h⟩⟩

theorem total_bind {m : M α} {f : α → M β} (h : Total P Q m) (g : ∀ a, Total Q R (f a)) : Total P R (m >>= f) := by
  refine ⟨fun i t ht => ?_⟩
  obtain ⟨a, t', e, h'⟩ := h.out i t ht
  rw [run_bind, e]
  exact (g a).out i t' h'

theorem total_ite {c : Prop} [Decidable c] {a b : M α} (h : Total P Q a) (g : Total P Q b) :
    Total P Q (if c then a else b) := by
  split <;> assumption

theorem Total.mono {m : M α} (h : Total P Q m) (hq : ∀ d, Q d → R d) : Total P R m := by
  refine ⟨fun i t ht => ?_⟩
  obtain ⟨a, t', e, h'⟩ := h.out i t ht
  exact ⟨a, t', e, hq _ h'⟩

theorem total_dev : Total P P dev := ⟨fun _ t h => ⟨t.dev, t, rfl, h⟩⟩
theorem total_now : Total P P now := ⟨fun _ t h => ⟨t.dev.time.et, t, rfl, h⟩⟩
theorem total_read : Total P P (read : M Image) := ⟨fun i t h => ⟨i, t, rfl, h⟩⟩

/-- What the machine of this transaction tells, the rest may use. -/
theorem total_dev_bind {f : Dev → M β} (g : ∀ d, P d → Total (· = d) Q (f d)) : Total P Q (dev >>= f) := by
  refine ⟨fun i t ht => ?_⟩
  rw [run_bind, run_dev, chain_ok]
  exact (g t.dev ht).out i t rfl

theorem total_modDev {f : Dev → Dev} (h : ∀ d, P d → Q (f d)) : Total P Q (modDev f) :=
  ⟨fun _ _ ht => ⟨(), _, rfl, h _ ht⟩⟩

theorem total_need {b : Bool} (h : ∀ d, P d → b = true) : Total P P (need b) := by
  refine ⟨fun i t ht => ?_⟩
  exact ⟨(), t, by rw [run_need, h _ ht, if_pos rfl], ht⟩

theorem total_each {l : List β} {f : β → M Unit} (h : ∀ b, Total P P (f b)) : Total P P (each l f) := by
  induction l with
  | nil => exact total_pure ()
  | cons b l ih => exact total_bind (h b) fun _ => ih

theorem total_collect {l : List β} {f : β → M α} (h : ∀ b, Total P P (f b)) : Total P P (collect l f) := by
  induction l with
  | nil => exact total_pure []
  | cons b l ih => exact total_bind (h b) fun _ => total_bind ih fun _ => total_pure _

theorem total_peeks (host : Bool) (n a : Nat) : Total P P (peeks host a n) := by
  refine ⟨fun i t ht => ?_⟩
  obtain ⟨bs, e⟩ := run_peeks host i t n a
  exact ⟨bs, t, e, ht⟩

theorem total_pokes (host : Bool) (a : Nat) (bs : List Byte) : Total P P (pokes host a bs) := by
  induction bs generalizing a with
  | nil => exact total_pure ()
  | cons b bs ih => exact total_bind ⟨fun _ _ ht => ⟨(), _, rfl, ht⟩⟩ fun _ => ih _

/-- A meaning with no result that runs to its end leaves what `ran` says. -/
theorem Total.runs {m : M Unit} (h : Total P Q m) {i : Image} {t : Tx} (ht : P t.dev) : m i t = .ok () (ran m i t) := by
  obtain ⟨a, t', e, -⟩ := h.out i t ht
  exact runs_ran ⟨t', e⟩

end Sys2Proof.Machine
end

