-- ==== Sys2Proof/Laws/Access.lean ====
section
/-! SUPPORT. An access of local memory that nothing holds runs to its end. -/

namespace Sys2Proof.Machine

variable {d e : Dev}

/-- No stack and no capacity port is in THROTTLE. -/
def Dev.unthrottled (d : Dev) : Prop := ∀ k, d.throttle k = none

theorem ite_keeps {α : Type} (P : α → Prop) {c : Prop} [Decidable c] {a b : α} (h : P a) (g : P b) :
    P (if c then a else b) := by
  split <;> assumption

/-- What THROTTLE reads depends on the registers of the stacks and ports alone. -/
theorem Dev.throttle_congr (h : ∀ p, d.word .hbcState p 0 = e.word .hbcState p 0)
    (h' : ∀ p, d.word .ctpState p 0 = e.word .ctpState p 0) (k : Nat) : d.throttle k = e.throttle k := by
  unfold Dev.throttle Dev.rd
  rw [h, h']

theorem Dev.unthrottled_of_regs (h : d.unthrottled) (hr : e.regs = d.regs) : e.unthrottled := by
  intro k
  rw [Dev.throttle_congr (d := e) (e := d) (fun p => by simp only [Dev.word, hr]) (fun p => by simp only [Dev.word, hr])]
  exact h k

/-- A counter at another place of its page leaves them. -/
theorem Dev.unthrottled_bump (h : d.unthrottled) (f : Fld) (p n : Nat) (hf : f.reg.info.off % 4096 ≠ 0x100) :
    (d.bump f p n).unthrottled := by
  have hk : ∀ (r : RegName) (p' : Nat), r.info.off = 0x100 → f.reg.info.key p 0 ≠ r.info.key p' 0 := by
    intro r p' hr
    simp only [RegInfo.key, hr]
    omega
  have hw : (d.wr f p (d.rd f p + n)).unthrottled := by
    intro k
    rw [Dev.throttle_congr (fun p' => Dev.word_wr_ne d _ (hk .hbcState p' rfl)) (fun p' => Dev.word_wr_ne d _ (hk .ctpState p' rfl))]
    exact h k
  unfold Dev.bump
  dsimp only
  cases freezeOf f.reg.info.blk p with
  | none => exact hw
  | some g => exact ite_keeps Dev.unthrottled h hw

theorem total_bump {f : Fld} (p n : Nat) (hf : f.reg.info.off % 4096 ≠ 0x100) :
    Total Dev.unthrottled Dev.unthrottled (bump f p n) :=
  total_modDev fun _ h => Dev.unthrottled_bump h f p n hf

theorem Dev.unthrottled_traced (h : d.unthrottled) (k inst op world q n len addr : Nat) :
    (d.traced k inst op world q n len addr).unthrottled := by
  unfold Dev.traced
  refine ite_keeps Dev.unthrottled (ite_keeps Dev.unthrottled ?_ ?_) h
  · exact Dev.unthrottled_of_regs h rfl
  · refine Dev.unthrottled_bump ?_ F.trcLost_count 0 1 (by decide)
    exact Dev.unthrottled_of_regs h rfl

theorem total_tap (a b c d e f g h : Nat) : Total Dev.unthrottled Dev.unthrottled (tap a b c d e f g h) :=
  total_modDev fun _ hd => Dev.unthrottled_traced hd _ _ _ _ _ _ _ _

theorem total_carry (a b n : Nat) : Total Dev.unthrottled Dev.unthrottled (carry a b n) := by
  unfold carry
  refine total_ite (total_bind (total_bump _ _ (by decide)) fun _ => total_bind (total_bump _ _ (by decide)) fun _ =>
    total_ite (total_bind (total_bump _ _ (by decide)) fun _ => total_bump _ _ (by decide)) (total_pure ())) (total_pure ())

/-- Ring, table and record accesses are in no class that a regulator holds (R317). -/
theorem total_issue {w : Who} (hw : 5 ≤ w.cls) (op a n : Nat) : Total Dev.unthrottled Dev.unthrottled (issue w op a n) := by
  have hc : ∀ r p, capoIssue w r p w.cls n = pure () := fun r p => by rw [capoIssue, if_pos hw]
  unfold issue
  dsimp only
  simp only [hc]
  have tail : Total Dev.unthrottled Dev.unthrottled (match w.region with
      | some src => if op = 0 then carry (homeRegion a) src n else carry src (homeRegion a) n
      | none => pure ()) := by
    cases w.region with
    | none => exact total_pure ()
    | some r => exact total_ite (total_carry ..) (total_carry ..)
  repeat' first
    | exact tail
    | exact total_pure ()
    | exact total_dev
    | exact total_tap _ _ _ _ _ _ _ _
    | refine total_ite ?_ ?_
    | refine total_bind (Q := Dev.unthrottled) ?_ fun _ => ?_
    | refine total_each fun _ => ?_

theorem total_countFound (a n : Nat) : Total Dev.unthrottled Dev.unthrottled (countFound a n) := by
  unfold countFound
  refine total_bind total_dev fun d => ?_
  refine total_bind ?_ fun _ => total_pure _
  split
  · exact total_bump _ _ (by decide)
  · exact total_bump _ _ (by decide)

theorem total_meter (w : Who) (hold : Bool) (a n : Nat) : Total Dev.unthrottled Dev.unthrottled (meter w hold a n) := by
  unfold meter
  refine total_each fun k => total_dev_bind fun d hd => ?_
  rw [hd k]
  exact total_modDev fun e he => Dev.unthrottled_of_regs hd (by rw [he]; rfl)

theorem total_homeTraffic (w : Who) (wr : Bool) (a n : Nat) : Total (fun _ => True) (fun _ => True) (homeTraffic w wr a n) := by
  unfold homeTraffic
  refine total_each fun g => ?_
  dsimp only
  have hb : ∀ {f : Fld} (p n : Nat), Total (fun _ => True) (fun _ => True) (bump f p n) := fun _ _ => total_modDev fun _ _ => True.intro
  have hm : ∀ g, Total (fun _ => True) (fun _ => True) (modDev g) := fun _ => total_modDev fun _ _ => True.intro
  cases homeOf g.1 <;> repeat' first
    | exact hb _ _
    | exact hm _
    | exact total_pure ()
    | refine total_ite ?_ ?_
    | refine total_bind (Q := fun _ => True) ?_ fun _ => ?_

/-- A range that passes the checks of an access without one in flight passes them for every requester. -/
theorem total_localCheck {w : Who} {n : Need} {a len : Nat} (h : d.accessFree n w.world a len) :
    Total (· = d) (· = d) (localCheck w n a len) := by
  obtain ⟨h1, h2, -⟩ := h
  have hb : ∀ b ∈ blocksOf a len, d.blockPasses w.world n b (d.waitsAt w a len) = true := by
    intro b hb
    have := h2 b hb
    unfold Dev.blockPasses at this ⊢
    split at this
    · cases this
    · simp only [Bool.and_eq_true, Bool.or_eq_true] at this ⊢
      simp only [Bool.false_eq_true, false_and, or_false] at this
      exact ⟨⟨.inl this.1.1, this.1.2⟩, this.2⟩
  unfold localCheck
  refine total_dev_bind fun e he => ?_
  subst he
  rw [if_pos h1]
  unfold regionCheck
  refine total_dev_bind fun e he => ?_
  subst he
  dsimp only
  rw [List.find?_eq_none.mpr fun b h => by simp [hb b h]]
  exact total_pure ()

theorem total_clear {w : Who} {isRead : Bool} {a len : Nat} (h : d.mustWait isRead a len = false) :
    Total (· = d) (· = d) (clear! w isRead a len) := by
  unfold clear!
  refine total_dev_bind fun e he => ?_
  subst he
  rw [if_neg (by rw [h]; decide)]
  exact total_pure ()

/-- A write of ring, table or record traffic that nothing holds is made. -/
theorem run_writeLocal {w : Who} {a : Nat} {bs : List Byte} {i : Image} {t : Tx} (hw : 5 ≤ w.cls)
    (h : t.dev.accessFree .wr w.world a bs.length) : writeLocal w a bs i t = .ok () (ran (writeLocal w a bs) i t) := by
  refine Total.runs (P := (· = t.dev)) (Q := fun _ => True) ?_ rfl
  unfold writeLocal writeChecked
  refine total_bind (Q := (· = t.dev)) (total_localCheck h) fun _ => ?_
  obtain ⟨-, -, h3, h4, h5⟩ := h
  refine total_bind (Q := (· = t.dev)) (total_clear h3) fun _ => total_dev_bind fun d hd => ?_
  subst hd
  rw [h4]
  refine total_bind (total_need fun _ _ => rfl) fun _ => ?_
  refine total_bind (Q := Dev.unthrottled) ⟨fun i' t' e => (total_issue hw 1 a bs.length).out i' t' (e ▸ h5)⟩ fun _ => ?_
  refine total_bind (total_countFound ..) fun _ => total_bind ((total_meter ..).mono fun _ _ => True.intro) fun _ =>
    total_bind (total_homeTraffic ..) fun _ => total_dev_bind fun d _ => ?_
  refine total_ite ((total_pure ()).mono fun _ _ => True.intro) ?_
  refine total_bind (Q := fun _ => True) (total_modDev fun _ _ => True.intro) fun _ =>
    total_bind (Q := fun _ => True) (total_each fun n => ?_) fun _ => total_pokes ..
  refine total_dev_bind fun d _ => ?_
  split
  · exact total_modDev fun _ _ => True.intro
  · exact (total_pure ()).mono fun _ _ => True.intro

/-- A read of ring, table or record traffic that nothing holds is made. -/
theorem run_readLocal {w : Who} {a len : Nat} {i : Image} {t : Tx} (hw : 5 ≤ w.cls)
    (h : t.dev.accessFree .rd w.world a len) : ∃ bs t', readLocal w a len i t = .ok bs t' := by
  have e : Total (· = t.dev) (fun _ => True) (readLocal w a len) := by
    unfold readLocal readChecked
    refine total_bind (Q := (· = t.dev)) (total_localCheck h) fun _ => ?_
    obtain ⟨-, -, h3, -, h5⟩ := h
    refine total_bind (Q := (· = t.dev)) (total_clear h3) fun _ => ?_
    refine total_bind (Q := Dev.unthrottled) ⟨fun i' t' e => (total_issue hw 0 a len).out i' t' (e ▸ h5)⟩ fun _ => ?_
    refine total_bind (Q := fun _ => True) ?_ fun _ => total_peeks ..
    unfold countHit
    refine total_bind (total_countFound ..) fun b => ?_
    refine total_ite ((total_pure ()).mono fun _ _ => True.intro) ?_
    exact total_bind ((total_meter ..).mono fun _ _ => True.intro) fun _ => total_homeTraffic ..
  obtain ⟨bs, t', e', -⟩ := e.out i t rfl
  exact ⟨bs, t', e'⟩

end Sys2Proof.Machine
end

