-- ==== Sys2Proof/Laws/Dispatching.lean ====
section
/-! SUPPORT. What a dispatch does when its queue has its turn. -/

namespace Sys2Proof.Machine

variable {s : State} {q raw : Nat} {t t' : Tx} {sel : Nat → Bool} {body : Desc → M Unit}

/-- A dispatch lists the descriptor and runs its body. -/
theorem run_dispatch (h : s.atHead q raw t) (hs : sel raw = true) :
    dispatch q sel body s.image s.start =
      orEnd q (s.dev.qrd F.queHead_head q) (body (s.dev.fresh q raw)) s.image (s.opened q raw t) := by
  obtain ⟨h1, h2, h3⟩ := h
  unfold Runs at h3
  unfold dispatch
  simp only [run_bind, chain_ok, run_dev, start_dev, run_read, run_need, h1, if_true, run_caught h3, Bool.false_or, hs,
    run_modDev, run_qwr, run_bump, run_tap, h2, Bool.false_eq_true, if_false]
  rfl

theorem runs_dispatch (h : s.atHead q raw t) (hs : sel raw = true)
    (hb : Runs (body (s.dev.fresh q raw)) s.image (s.opened q raw t) () t') :
    Runs (dispatch q sel body) s.image s.start () t' := by
  unfold Runs
  rw [run_dispatch h hs]
  exact run_orEnd hb

/-- A launch with nothing waiting to start is a dispatch. -/
theorem runs_launch (hn : s.dev.noneWaits q sel) (h : s.atHead q raw t) (hs : sel raw = true)
    (hb : Runs (body (s.dev.fresh q raw)) s.image (s.opened q raw t) () t') :
    Runs (launch q sel body) s.image s.start () t' := by
  unfold Runs launch
  simp only [run_bind, chain_ok, run_dev, start_dev]
  unfold Dev.noneWaits at hn
  rw [hn]
  exact runs_dispatch (body := fun x => attemptWork q x.seq (body x)) h hs (run_attemptWork hb)

/-- The end of a descriptor's work does not stop. -/
theorem run_endWith (q n st rs : Nat) (i : Image) (t : Tx) :
    endWith q n st rs i t = .ok () { t with dev := t.dev.failed q n st rs } := by
  unfold endWith meet modDesc endDesc Dev.failed
  simp only [run_bind, run_dev, chain_ok]
  cases t.dev.desc q n <;> rfl

/-- Whatever its set-up comes to, a dispatched descriptor is launched. -/
theorem runs_launched (hn : s.dev.noneWaits q sel) (h : s.atHead q raw t) (hs : sel raw = true) :
    Runs (launch q sel body) s.image s.start () (s.launched q raw t body) := by
  have hb : ∃ u, orEnd q (s.dev.qrd F.queHead_head q) (attemptWork q (s.dev.fresh q raw).seq (body (s.dev.fresh q raw)))
      s.image (s.opened q raw t) = .ok () u := by
    unfold orEnd attemptWork
    simp only [run_tryCatch, run_bind, run_get, chain_ok]
    cases e : body (s.dev.fresh q raw) s.image (s.opened q raw t) with
    | ok a u => exact ⟨u, rfl⟩
    | error x u =>
      cases x with
      | fail a b => exact ⟨_, run_endWith ..⟩
      | skip => exact ⟨_, rfl⟩
      | wait r => exact ⟨_, rfl⟩
  obtain ⟨u, hu⟩ := hb
  unfold Runs launch
  simp only [run_bind, chain_ok, run_dev, start_dev]
  unfold Dev.noneWaits at hn
  rw [hn]
  show dispatch _ _ _ _ _ = _
  rw [run_dispatch h hs, hu]
  exact congrArg _ (ran_runs (a := ()) hu).symm

end Sys2Proof.Machine
end

