-- ==== Sys2Proof/Laws/Events.lean ====
section
/-! SUPPORT. Events and interrupts touch the recorder's page, and the interrupt words of their page, and nothing else. -/

namespace Sys2Proof.Machine

variable (d : Dev)

/-! ### Registers -/

/-- The words of the registers at keys that `p` holds of stand. -/
def SameRegs (p : Nat → Prop) (d e : Dev) : Prop := ∀ (x : Word) (k : Nat), p k → SMap.get x d.regs k = SMap.get x e.regs k

theorem SameRegs.refl (p : Nat → Prop) : SameRegs p d d := fun _ _ _ => rfl

theorem SameRegs.trans {p : Nat → Prop} {d e f : Dev} (h : SameRegs p d e) (g : SameRegs p e f) : SameRegs p d f :=
  fun x k hk => (h x k hk).trans (g x k hk)

theorem SameRegs.setWord (p : Nat → Prop) (r : RegName) (pg i v : Nat) (h : ¬p (r.info.key pg i)) :
    SameRegs p (d.setWord r pg i v) d := by
  intro x k hk
  simp only [Dev.setWord]
  rw [SMap.get_set_ne]
  rintro rfl
  exact h hk

theorem SameRegs.wr (p : Nat → Prop) (f : Fld) (pg v i : Nat) (h : ¬p (f.reg.info.key pg i)) : SameRegs p (d.wr f pg v i) d :=
  SameRegs.setWord d p _ _ _ _ h

theorem SameRegs.rd {p : Nat → Prop} {d e : Dev} (h : SameRegs p d e) (f : Fld) (pg i : Nat) (hk : p (f.reg.info.key pg i)) :
    d.rd f pg i = e.rd f pg i := by
  unfold Dev.rd Dev.word
  rw [h _ _ hk]

theorem SameRegs.word {p : Nat → Prop} {d e : Dev} (h : SameRegs p d e) (r : RegName) (pg i : Nat)
    (hk : p (r.info.key pg i)) : d.word r pg i = e.word r pg i := by
  unfold Dev.word
  rw [h _ _ hk]

/-! ### Events -/

/-- A key outside the recorder's page. -/
def offRecorder (k : Nat) : Prop := k / 4096 ≠ 21 * 256

theorem SameRegs.syncRecorder : SameRegs offRecorder d.syncRecorder d := by
  unfold Dev.syncRecorder
  iterate 6 refine (SameRegs.wr _ _ _ _ _ _ (by unfold offRecorder; decide)).trans ?_
  exact SameRegs.refl _ _

theorem SameRegs.filtered (n : Nat) : SameRegs offRecorder (d.bump F.evrFiltered_count 0 n) d := SameRegs.wr _ _ _ _ _ _ (by unfold offRecorder; decide)
theorem SameRegs.dropped (n : Nat) : SameRegs offRecorder (d.bump F.evrDropped_count 0 n) d := SameRegs.wr _ _ _ _ _ _ (by unfold offRecorder; decide)

theorem SameRegs.stage (e : EventRec) : SameRegs offRecorder (d.stage e) d := by
  unfold Dev.stage
  split
  · exact SameRegs.filtered d 1
  · split
    · exact (SameRegs.syncRecorder _).trans fun _ _ _ => rfl
    · dsimp only
      split <;> exact fun x k hk => SameRegs.dropped d 1 x k hk

theorem SameRegs.event (code sev page payload : Nat) : SameRegs offRecorder (d.event code sev page payload) d :=
  SameRegs.stage d _

/-- An event leaves every register outside the recorder's page as it is. -/
theorem Dev.rd_event (code sev page payload : Nat) (f : Fld) (p i : Nat) (h : offRecorder (f.reg.info.key p i)) :
    (d.event code sev page payload).rd f p i = d.rd f p i := (SameRegs.event d _ _ _ _).rd f p i h

@[simp] theorem Dev.time_syncRecorder : d.syncRecorder.time = d.time := by unfold Dev.syncRecorder; simp only [Dev.time_wr]
@[simp] theorem Dev.queues_syncRecorder : d.syncRecorder.queues = d.queues := by unfold Dev.syncRecorder; simp only [Dev.queues_wr]
@[simp] theorem Dev.arb_syncRecorder : d.syncRecorder.arb = d.arb := by unfold Dev.syncRecorder; simp only [Dev.arb_wr]
@[simp] theorem Dev.descs_syncRecorder : d.syncRecorder.descs = d.descs := by unfold Dev.syncRecorder; simp only [Dev.descs_wr]
@[simp] theorem Dev.trace_syncRecorder : d.syncRecorder.trace = d.trace := by unfold Dev.syncRecorder; simp only [Dev.trace_wr]
@[simp] theorem Dev.pow_syncRecorder : d.syncRecorder.pow = d.pow := by unfold Dev.syncRecorder; simp only [Dev.pow_wr]
@[simp] theorem Dev.ms_syncRecorder : d.syncRecorder.ms = d.ms := by unfold Dev.syncRecorder; simp only [Dev.ms_wr]
@[simp] theorem Dev.xl_syncRecorder : d.syncRecorder.xl = d.xl := by unfold Dev.syncRecorder; simp only [Dev.xl_wr]
@[simp] theorem Dev.clusters_syncRecorder : d.syncRecorder.clusters = d.clusters := by unfold Dev.syncRecorder; simp only [Dev.clusters_wr]
@[simp] theorem Dev.accs_syncRecorder : d.syncRecorder.accs = d.accs := by unfold Dev.syncRecorder; simp only [Dev.accs_wr]
@[simp] theorem Dev.residents_syncRecorder : d.syncRecorder.residents = d.residents := by unfold Dev.syncRecorder; simp only [Dev.residents_wr]
@[simp] theorem Dev.ports_syncRecorder : d.syncRecorder.ports = d.ports := by unfold Dev.syncRecorder; simp only [Dev.ports_wr]
@[simp] theorem Dev.quant_syncRecorder : d.syncRecorder.quant = d.quant := by unfold Dev.syncRecorder; simp only [Dev.quant_wr]
@[simp] theorem Dev.remotes_syncRecorder : d.syncRecorder.remotes = d.remotes := by unfold Dev.syncRecorder; simp only [Dev.remotes_wr]
@[simp] theorem Dev.outbox_syncRecorder : d.syncRecorder.outbox = d.outbox := by unfold Dev.syncRecorder; simp only [Dev.outbox_wr]
@[simp] theorem Dev.nextTag_syncRecorder : d.syncRecorder.nextTag = d.nextTag := by unfold Dev.syncRecorder; simp only [Dev.nextTag_wr]
@[simp] theorem Dev.peers_syncRecorder : d.syncRecorder.peers = d.peers := by unfold Dev.syncRecorder; simp only [Dev.peers_wr]
@[simp] theorem Dev.wire_syncRecorder : d.syncRecorder.wire = d.wire := by unfold Dev.syncRecorder; simp only [Dev.wire_wr]
@[simp] theorem Dev.merge_syncRecorder : d.syncRecorder.merge = d.merge := by unfold Dev.syncRecorder; simp only [Dev.merge_wr]
@[simp] theorem Dev.appends_syncRecorder : d.syncRecorder.appends = d.appends := by unfold Dev.syncRecorder; simp only [Dev.appends_wr]
@[simp] theorem Dev.calls_syncRecorder : d.syncRecorder.calls = d.calls := by unfold Dev.syncRecorder; simp only [Dev.calls_wr]
@[simp] theorem Dev.nextCall_syncRecorder : d.syncRecorder.nextCall = d.nextCall := by unfold Dev.syncRecorder; simp only [Dev.nextCall_wr]
@[simp] theorem Dev.batches_syncRecorder : d.syncRecorder.batches = d.batches := by unfold Dev.syncRecorder; simp only [Dev.batches_wr]
@[simp] theorem Dev.reorder_syncRecorder : d.syncRecorder.reorder = d.reorder := by unfold Dev.syncRecorder; simp only [Dev.reorder_wr]
@[simp] theorem Dev.inbox_syncRecorder : d.syncRecorder.inbox = d.inbox := by unfold Dev.syncRecorder; simp only [Dev.inbox_wr]
@[simp] theorem Dev.portsHid_syncRecorder : d.syncRecorder.portsHid = d.portsHid := by unfold Dev.syncRecorder; simp only [Dev.portsHid_wr]
@[simp] theorem Dev.assocs_syncRecorder : d.syncRecorder.assocs = d.assocs := by unfold Dev.syncRecorder; simp only [Dev.assocs_wr]
@[simp] theorem Dev.eapol_syncRecorder : d.syncRecorder.eapol = d.eapol := by unfold Dev.syncRecorder; simp only [Dev.eapol_wr]
@[simp] theorem Dev.confirms_syncRecorder : d.syncRecorder.confirms = d.confirms := by unfold Dev.syncRecorder; simp only [Dev.confirms_wr]
@[simp] theorem Dev.wipes_syncRecorder : d.syncRecorder.wipes = d.wipes := by unfold Dev.syncRecorder; simp only [Dev.wipes_wr]
@[simp] theorem Dev.heldEt_syncRecorder : d.syncRecorder.heldEt = d.heldEt := by unfold Dev.syncRecorder; simp only [Dev.heldEt_wr]
@[simp] theorem Dev.d3hot_syncRecorder : d.syncRecorder.d3hot = d.d3hot := by unfold Dev.syncRecorder; simp only [Dev.d3hot_wr]
@[simp] theorem Dev.ptp_syncRecorder : d.syncRecorder.ptp = d.ptp := by unfold Dev.syncRecorder; simp only [Dev.ptp_wr]
@[simp] theorem Dev.ptpOut_syncRecorder : d.syncRecorder.ptpOut = d.ptpOut := by unfold Dev.syncRecorder; simp only [Dev.ptpOut_wr]
@[simp] theorem Dev.irqs_syncRecorder : d.syncRecorder.irqs = d.irqs := by unfold Dev.syncRecorder; simp only [Dev.irqs_wr]
@[simp] theorem Dev.free_syncRecorder : d.syncRecorder.free = d.free := by unfold Dev.syncRecorder; simp only [Dev.free_wr]

@[simp] theorem Dev.time_stage (e : EventRec) : (d.stage e).time = d.time := by unfold Dev.stage; split <;> [simp only [Dev.time_bump]; (split <;> [simp only [Dev.time_syncRecorder]; (dsimp only; split <;> simp only [Dev.time_bump])])]
@[simp] theorem Dev.queues_stage (e : EventRec) : (d.stage e).queues = d.queues := by unfold Dev.stage; split <;> [simp only [Dev.queues_bump]; (split <;> [simp only [Dev.queues_syncRecorder]; (dsimp only; split <;> simp only [Dev.queues_bump])])]
@[simp] theorem Dev.arb_stage (e : EventRec) : (d.stage e).arb = d.arb := by unfold Dev.stage; split <;> [simp only [Dev.arb_bump]; (split <;> [simp only [Dev.arb_syncRecorder]; (dsimp only; split <;> simp only [Dev.arb_bump])])]
@[simp] theorem Dev.descs_stage (e : EventRec) : (d.stage e).descs = d.descs := by unfold Dev.stage; split <;> [simp only [Dev.descs_bump]; (split <;> [simp only [Dev.descs_syncRecorder]; (dsimp only; split <;> simp only [Dev.descs_bump])])]
@[simp] theorem Dev.trace_stage (e : EventRec) : (d.stage e).trace = d.trace := by unfold Dev.stage; split <;> [simp only [Dev.trace_bump]; (split <;> [simp only [Dev.trace_syncRecorder]; (dsimp only; split <;> simp only [Dev.trace_bump])])]
@[simp] theorem Dev.pow_stage (e : EventRec) : (d.stage e).pow = d.pow := by unfold Dev.stage; split <;> [simp only [Dev.pow_bump]; (split <;> [simp only [Dev.pow_syncRecorder]; (dsimp only; split <;> simp only [Dev.pow_bump])])]
@[simp] theorem Dev.ms_stage (e : EventRec) : (d.stage e).ms = d.ms := by unfold Dev.stage; split <;> [simp only [Dev.ms_bump]; (split <;> [simp only [Dev.ms_syncRecorder]; (dsimp only; split <;> simp only [Dev.ms_bump])])]
@[simp] theorem Dev.xl_stage (e : EventRec) : (d.stage e).xl = d.xl := by unfold Dev.stage; split <;> [simp only [Dev.xl_bump]; (split <;> [simp only [Dev.xl_syncRecorder]; (dsimp only; split <;> simp only [Dev.xl_bump])])]
@[simp] theorem Dev.clusters_stage (e : EventRec) : (d.stage e).clusters = d.clusters := by unfold Dev.stage; split <;> [simp only [Dev.clusters_bump]; (split <;> [simp only [Dev.clusters_syncRecorder]; (dsimp only; split <;> simp only [Dev.clusters_bump])])]
@[simp] theorem Dev.accs_stage (e : EventRec) : (d.stage e).accs = d.accs := by unfold Dev.stage; split <;> [simp only [Dev.accs_bump]; (split <;> [simp only [Dev.accs_syncRecorder]; (dsimp only; split <;> simp only [Dev.accs_bump])])]
@[simp] theorem Dev.residents_stage (e : EventRec) : (d.stage e).residents = d.residents := by unfold Dev.stage; split <;> [simp only [Dev.residents_bump]; (split <;> [simp only [Dev.residents_syncRecorder]; (dsimp only; split <;> simp only [Dev.residents_bump])])]
@[simp] theorem Dev.ports_stage (e : EventRec) : (d.stage e).ports = d.ports := by unfold Dev.stage; split <;> [simp only [Dev.ports_bump]; (split <;> [simp only [Dev.ports_syncRecorder]; (dsimp only; split <;> simp only [Dev.ports_bump])])]
@[simp] theorem Dev.quant_stage (e : EventRec) : (d.stage e).quant = d.quant := by unfold Dev.stage; split <;> [simp only [Dev.quant_bump]; (split <;> [simp only [Dev.quant_syncRecorder]; (dsimp only; split <;> simp only [Dev.quant_bump])])]
@[simp] theorem Dev.remotes_stage (e : EventRec) : (d.stage e).remotes = d.remotes := by unfold Dev.stage; split <;> [simp only [Dev.remotes_bump]; (split <;> [simp only [Dev.remotes_syncRecorder]; (dsimp only; split <;> simp only [Dev.remotes_bump])])]
@[simp] theorem Dev.outbox_stage (e : EventRec) : (d.stage e).outbox = d.outbox := by unfold Dev.stage; split <;> [simp only [Dev.outbox_bump]; (split <;> [simp only [Dev.outbox_syncRecorder]; (dsimp only; split <;> simp only [Dev.outbox_bump])])]
@[simp] theorem Dev.nextTag_stage (e : EventRec) : (d.stage e).nextTag = d.nextTag := by unfold Dev.stage; split <;> [simp only [Dev.nextTag_bump]; (split <;> [simp only [Dev.nextTag_syncRecorder]; (dsimp only; split <;> simp only [Dev.nextTag_bump])])]
@[simp] theorem Dev.peers_stage (e : EventRec) : (d.stage e).peers = d.peers := by unfold Dev.stage; split <;> [simp only [Dev.peers_bump]; (split <;> [simp only [Dev.peers_syncRecorder]; (dsimp only; split <;> simp only [Dev.peers_bump])])]
@[simp] theorem Dev.wire_stage (e : EventRec) : (d.stage e).wire = d.wire := by unfold Dev.stage; split <;> [simp only [Dev.wire_bump]; (split <;> [simp only [Dev.wire_syncRecorder]; (dsimp only; split <;> simp only [Dev.wire_bump])])]
@[simp] theorem Dev.merge_stage (e : EventRec) : (d.stage e).merge = d.merge := by unfold Dev.stage; split <;> [simp only [Dev.merge_bump]; (split <;> [simp only [Dev.merge_syncRecorder]; (dsimp only; split <;> simp only [Dev.merge_bump])])]
@[simp] theorem Dev.appends_stage (e : EventRec) : (d.stage e).appends = d.appends := by unfold Dev.stage; split <;> [simp only [Dev.appends_bump]; (split <;> [simp only [Dev.appends_syncRecorder]; (dsimp only; split <;> simp only [Dev.appends_bump])])]
@[simp] theorem Dev.calls_stage (e : EventRec) : (d.stage e).calls = d.calls := by unfold Dev.stage; split <;> [simp only [Dev.calls_bump]; (split <;> [simp only [Dev.calls_syncRecorder]; (dsimp only; split <;> simp only [Dev.calls_bump])])]
@[simp] theorem Dev.nextCall_stage (e : EventRec) : (d.stage e).nextCall = d.nextCall := by unfold Dev.stage; split <;> [simp only [Dev.nextCall_bump]; (split <;> [simp only [Dev.nextCall_syncRecorder]; (dsimp only; split <;> simp only [Dev.nextCall_bump])])]
@[simp] theorem Dev.batches_stage (e : EventRec) : (d.stage e).batches = d.batches := by unfold Dev.stage; split <;> [simp only [Dev.batches_bump]; (split <;> [simp only [Dev.batches_syncRecorder]; (dsimp only; split <;> simp only [Dev.batches_bump])])]
@[simp] theorem Dev.reorder_stage (e : EventRec) : (d.stage e).reorder = d.reorder := by unfold Dev.stage; split <;> [simp only [Dev.reorder_bump]; (split <;> [simp only [Dev.reorder_syncRecorder]; (dsimp only; split <;> simp only [Dev.reorder_bump])])]
@[simp] theorem Dev.inbox_stage (e : EventRec) : (d.stage e).inbox = d.inbox := by unfold Dev.stage; split <;> [simp only [Dev.inbox_bump]; (split <;> [simp only [Dev.inbox_syncRecorder]; (dsimp only; split <;> simp only [Dev.inbox_bump])])]
@[simp] theorem Dev.portsHid_stage (e : EventRec) : (d.stage e).portsHid = d.portsHid := by unfold Dev.stage; split <;> [simp only [Dev.portsHid_bump]; (split <;> [simp only [Dev.portsHid_syncRecorder]; (dsimp only; split <;> simp only [Dev.portsHid_bump])])]
@[simp] theorem Dev.assocs_stage (e : EventRec) : (d.stage e).assocs = d.assocs := by unfold Dev.stage; split <;> [simp only [Dev.assocs_bump]; (split <;> [simp only [Dev.assocs_syncRecorder]; (dsimp only; split <;> simp only [Dev.assocs_bump])])]
@[simp] theorem Dev.eapol_stage (e : EventRec) : (d.stage e).eapol = d.eapol := by unfold Dev.stage; split <;> [simp only [Dev.eapol_bump]; (split <;> [simp only [Dev.eapol_syncRecorder]; (dsimp only; split <;> simp only [Dev.eapol_bump])])]
@[simp] theorem Dev.confirms_stage (e : EventRec) : (d.stage e).confirms = d.confirms := by unfold Dev.stage; split <;> [simp only [Dev.confirms_bump]; (split <;> [simp only [Dev.confirms_syncRecorder]; (dsimp only; split <;> simp only [Dev.confirms_bump])])]
@[simp] theorem Dev.wipes_stage (e : EventRec) : (d.stage e).wipes = d.wipes := by unfold Dev.stage; split <;> [simp only [Dev.wipes_bump]; (split <;> [simp only [Dev.wipes_syncRecorder]; (dsimp only; split <;> simp only [Dev.wipes_bump])])]
@[simp] theorem Dev.heldEt_stage (e : EventRec) : (d.stage e).heldEt = d.heldEt := by unfold Dev.stage; split <;> [simp only [Dev.heldEt_bump]; (split <;> [simp only [Dev.heldEt_syncRecorder]; (dsimp only; split <;> simp only [Dev.heldEt_bump])])]
@[simp] theorem Dev.d3hot_stage (e : EventRec) : (d.stage e).d3hot = d.d3hot := by unfold Dev.stage; split <;> [simp only [Dev.d3hot_bump]; (split <;> [simp only [Dev.d3hot_syncRecorder]; (dsimp only; split <;> simp only [Dev.d3hot_bump])])]
@[simp] theorem Dev.ptp_stage (e : EventRec) : (d.stage e).ptp = d.ptp := by unfold Dev.stage; split <;> [simp only [Dev.ptp_bump]; (split <;> [simp only [Dev.ptp_syncRecorder]; (dsimp only; split <;> simp only [Dev.ptp_bump])])]
@[simp] theorem Dev.ptpOut_stage (e : EventRec) : (d.stage e).ptpOut = d.ptpOut := by unfold Dev.stage; split <;> [simp only [Dev.ptpOut_bump]; (split <;> [simp only [Dev.ptpOut_syncRecorder]; (dsimp only; split <;> simp only [Dev.ptpOut_bump])])]
@[simp] theorem Dev.irqs_stage (e : EventRec) : (d.stage e).irqs = d.irqs := by unfold Dev.stage; split <;> [simp only [Dev.irqs_bump]; (split <;> [simp only [Dev.irqs_syncRecorder]; (dsimp only; split <;> simp only [Dev.irqs_bump])])]
@[simp] theorem Dev.free_stage (e : EventRec) : (d.stage e).free = d.free := by unfold Dev.stage; split <;> [simp only [Dev.free_bump]; (split <;> [simp only [Dev.free_syncRecorder]; (dsimp only; split <;> simp only [Dev.free_bump])])]

@[simp] theorem Dev.time_event (a b c e : Nat) : (d.event a b c e).time = d.time := Dev.time_stage d _
@[simp] theorem Dev.queues_event (a b c e : Nat) : (d.event a b c e).queues = d.queues := Dev.queues_stage d _
@[simp] theorem Dev.arb_event (a b c e : Nat) : (d.event a b c e).arb = d.arb := Dev.arb_stage d _
@[simp] theorem Dev.descs_event (a b c e : Nat) : (d.event a b c e).descs = d.descs := Dev.descs_stage d _
@[simp] theorem Dev.trace_event (a b c e : Nat) : (d.event a b c e).trace = d.trace := Dev.trace_stage d _
@[simp] theorem Dev.pow_event (a b c e : Nat) : (d.event a b c e).pow = d.pow := Dev.pow_stage d _
@[simp] theorem Dev.ms_event (a b c e : Nat) : (d.event a b c e).ms = d.ms := Dev.ms_stage d _
@[simp] theorem Dev.xl_event (a b c e : Nat) : (d.event a b c e).xl = d.xl := Dev.xl_stage d _
@[simp] theorem Dev.clusters_event (a b c e : Nat) : (d.event a b c e).clusters = d.clusters := Dev.clusters_stage d _
@[simp] theorem Dev.accs_event (a b c e : Nat) : (d.event a b c e).accs = d.accs := Dev.accs_stage d _
@[simp] theorem Dev.residents_event (a b c e : Nat) : (d.event a b c e).residents = d.residents := Dev.residents_stage d _
@[simp] theorem Dev.ports_event (a b c e : Nat) : (d.event a b c e).ports = d.ports := Dev.ports_stage d _
@[simp] theorem Dev.quant_event (a b c e : Nat) : (d.event a b c e).quant = d.quant := Dev.quant_stage d _
@[simp] theorem Dev.remotes_event (a b c e : Nat) : (d.event a b c e).remotes = d.remotes := Dev.remotes_stage d _
@[simp] theorem Dev.outbox_event (a b c e : Nat) : (d.event a b c e).outbox = d.outbox := Dev.outbox_stage d _
@[simp] theorem Dev.nextTag_event (a b c e : Nat) : (d.event a b c e).nextTag = d.nextTag := Dev.nextTag_stage d _
@[simp] theorem Dev.peers_event (a b c e : Nat) : (d.event a b c e).peers = d.peers := Dev.peers_stage d _
@[simp] theorem Dev.wire_event (a b c e : Nat) : (d.event a b c e).wire = d.wire := Dev.wire_stage d _
@[simp] theorem Dev.merge_event (a b c e : Nat) : (d.event a b c e).merge = d.merge := Dev.merge_stage d _
@[simp] theorem Dev.appends_event (a b c e : Nat) : (d.event a b c e).appends = d.appends := Dev.appends_stage d _
@[simp] theorem Dev.calls_event (a b c e : Nat) : (d.event a b c e).calls = d.calls := Dev.calls_stage d _
@[simp] theorem Dev.nextCall_event (a b c e : Nat) : (d.event a b c e).nextCall = d.nextCall := Dev.nextCall_stage d _
@[simp] theorem Dev.batches_event (a b c e : Nat) : (d.event a b c e).batches = d.batches := Dev.batches_stage d _
@[simp] theorem Dev.reorder_event (a b c e : Nat) : (d.event a b c e).reorder = d.reorder := Dev.reorder_stage d _
@[simp] theorem Dev.inbox_event (a b c e : Nat) : (d.event a b c e).inbox = d.inbox := Dev.inbox_stage d _
@[simp] theorem Dev.portsHid_event (a b c e : Nat) : (d.event a b c e).portsHid = d.portsHid := Dev.portsHid_stage d _
@[simp] theorem Dev.assocs_event (a b c e : Nat) : (d.event a b c e).assocs = d.assocs := Dev.assocs_stage d _
@[simp] theorem Dev.eapol_event (a b c e : Nat) : (d.event a b c e).eapol = d.eapol := Dev.eapol_stage d _
@[simp] theorem Dev.confirms_event (a b c e : Nat) : (d.event a b c e).confirms = d.confirms := Dev.confirms_stage d _
@[simp] theorem Dev.wipes_event (a b c e : Nat) : (d.event a b c e).wipes = d.wipes := Dev.wipes_stage d _
@[simp] theorem Dev.heldEt_event (a b c e : Nat) : (d.event a b c e).heldEt = d.heldEt := Dev.heldEt_stage d _
@[simp] theorem Dev.d3hot_event (a b c e : Nat) : (d.event a b c e).d3hot = d.d3hot := Dev.d3hot_stage d _
@[simp] theorem Dev.ptp_event (a b c e : Nat) : (d.event a b c e).ptp = d.ptp := Dev.ptp_stage d _
@[simp] theorem Dev.ptpOut_event (a b c e : Nat) : (d.event a b c e).ptpOut = d.ptpOut := Dev.ptpOut_stage d _
@[simp] theorem Dev.irqs_event (a b c e : Nat) : (d.event a b c e).irqs = d.irqs := Dev.irqs_stage d _
@[simp] theorem Dev.free_event (a b c e : Nat) : (d.event a b c e).free = d.free := Dev.free_stage d _

/-! ### Interrupts -/

/-- A key that is not that of an interrupt word of a page. -/
def offIrq (page k : Nat) : Prop := k ≠ page * 4096 + 0x18 ∧ k ≠ page * 4096 + 0x1C

theorem SameRegs.raised (page b : Nat) : SameRegs (offIrq page) (d.raised page b) d := by
  intro x k hk
  have h1 : RegName.pageIrqStat.info.key page 0 = page * 4096 + 0x18 := by simp [RegInfo.key, RegName.info]
  have h2 : RegName.pageIrqEn.info.key page 0 = page * 4096 + 0x1C := by simp [RegInfo.key, RegName.info]
  unfold Dev.raised Dev.setIrq
  have h3 := SameRegs.setWord (d.setWord .pageIrqStat page 0 (Nat.lor (d.word .pageIrqStat page 0) (2 ^ b))) (offIrq page)
    .pageIrqEn page 0 (d.word .pageIrqEn page 0) (by rw [h2]; simp [offIrq])
  have h4 := SameRegs.setWord d (offIrq page) .pageIrqStat page 0 (Nat.lor (d.word .pageIrqStat page 0) (2 ^ b))
    (by rw [h1]; simp [offIrq])
  exact (h3 x k hk).trans (h4 x k hk)

/-- Setting an interrupt bit leaves every register but the interrupt words of its page as it is. -/
theorem Dev.rd_raised (page b : Nat) (f : Fld) (p i : Nat) (h : offIrq page (f.reg.info.key p i)) :
    (d.raised page b).rd f p i = d.rd f p i := (SameRegs.raised d _ _).rd f p i h

end Sys2Proof.Machine
end

