-- ==== Sys2Proof/Laws/Memory.lean ====
section
/-! SUPPORT. The memories: one byte read after one write, the canonical form, and what a transaction makes of them. -/

namespace Sys2Proof.Machine

@[simp] theorem readByte_writeByte_same (m : List Host.Cell) (a : Nat) (b : Byte) : readByte (writeByte m a b) a = b :=
  SMap.get_set_same blankByte m a b

theorem readByte_writeByte_ne (m : List Host.Cell) {a x : Nat} (b : Byte) (h : a ≠ x) :
    readByte (writeByte m a b) x = readByte m x :=
  SMap.get_set_ne blankByte blankByte m b h

theorem wf_writeByte {m : List Host.Cell} (a : Nat) (b : Byte) (h : Memory.wf m = true) : Memory.wf (writeByte m a b) = true :=
  SMap.wf_set blankByte a b h

theorem readByte_clear (m : List Host.Cell) (lo hi x : Nat) :
    readByte (SMap.clear m lo hi) x = if lo ≤ x ∧ x < hi then blankByte else readByte m x := by
  unfold readByte SMap.clear
  induction m with
  | nil => simp [SMap.get]
  | cons e m ih =>
    rw [List.filter_cons]
    by_cases he : lo ≤ e.1 ∧ e.1 < hi <;> by_cases hx : e.1 = x
    · subst hx; simp_all
    · simp_all [SMap.get]
    · subst hx
      have : (!(decide (lo ≤ e.1) && decide (e.1 < hi))) = true := by simp; omega
      simp only [this, if_true, SMap.get, if_neg he]
    · have : (!(decide (lo ≤ e.1) && decide (e.1 < hi))) = true := by simp; omega
      simp only [this, if_true, SMap.get, if_neg hx, ih]

theorem wf_onMem (o : MemOp) {m : List Host.Cell} (h : Memory.wf m = true) : Memory.wf (o.onMem m) = true := by
  match o with
  | .byte false a b => exact wf_writeByte a b h
  | .byte true _ _ => exact h
  | .zero lo hi => exact SMap.wf_clear blankByte lo hi h

theorem wf_onHost (o : MemOp) {m : List Host.Cell} (h : Memory.wf m = true) : Memory.wf (o.onHost m) = true := by
  match o with
  | .byte true a b => exact wf_writeByte a b h
  | .byte false _ _ => exact h
  | .zero _ _ => exact h

theorem wf_foldMem (l : List MemOp) {m : List Host.Cell} (h : Memory.wf m = true) :
    Memory.wf (l.foldr MemOp.onMem m) = true := by
  induction l with
  | nil => exact h
  | cons o l ih => exact wf_onMem o ih

theorem wf_foldHost (l : List MemOp) {m : List Host.Cell} (h : Memory.wf m = true) :
    Memory.wf (l.foldr MemOp.onHost m) = true := by
  induction l with
  | nil => exact h
  | cons o l ih => exact wf_onHost o ih

/-- Settling keeps both memories in canonical form. -/
theorem settle_wf {s : State} (t : Tx) (h : s.wf) : (settle s t).wf := ⟨wf_foldMem t.log h.1, wf_foldHost t.log h.2⟩

/-- A transaction answers a next state, with the queue as it was and both memories in canonical form. -/
theorem transact_next (m : M Unit) (s : State) :
    ∃ t, transact m s = .next t ∧ t.pending = s.pending ∧ (s.wf → t.wf) := by
  unfold transact
  cases m ⟨s.mem, s.host⟩ ⟨s.dev, []⟩ with
  | ok a t => exact ⟨_, rfl, rfl, settle_wf t⟩
  | error e t =>
    cases e with
    | skip => exact ⟨_, rfl, rfl, id⟩
    | wait f => exact ⟨_, rfl, rfl, id⟩
    | fail a b => exact ⟨_, rfl, rfl, settle_wf t⟩

/-- What a byte of local memory reads as after logged writes: the newest logged value, or what it read as before. -/
theorem readByte_foldMem (l : List MemOp) (m : List Host.Cell) (a : Nat) :
    readByte (l.foldr MemOp.onMem m) a = (logged false a l).getD (readByte m a) := by
  induction l with
  | nil => rfl
  | cons o l ih =>
    match o with
    | .byte false x b =>
      by_cases h : x = a
      · subst h; simp [MemOp.onMem, logged]
      · simp [MemOp.onMem, logged, h, readByte_writeByte_ne _ _ h, ih]
    | .byte true x b => simp [MemOp.onMem, logged, ih]
    | .zero lo hi =>
      simp only [List.foldr_cons, MemOp.onMem, logged, readByte_clear, ih]
      by_cases h : lo ≤ a ∧ a < hi
      · simp [h, blankByte]
      · rw [if_neg h, if_neg (by simpa using h)]

/-- The same for host memory. -/
theorem readByte_foldHost (l : List MemOp) (m : List Host.Cell) (a : Nat) :
    readByte (l.foldr MemOp.onHost m) a = (logged true a l).getD (readByte m a) := by
  induction l with
  | nil => rfl
  | cons o l ih =>
    match o with
    | .byte true x b =>
      by_cases h : x = a
      · subst h; simp [MemOp.onHost, logged]
      · simp [MemOp.onHost, logged, h, readByte_writeByte_ne _ _ h, ih]
    | .byte false x b => simp [MemOp.onHost, logged, ih]
    | .zero lo hi => simp [MemOp.onHost, logged, ih]

/-- The machine right after reset lists nothing in either memory. -/
theorem reset_wf : State.reset.wf := ⟨rfl, rfl⟩

end Sys2Proof.Machine
end

