-- ==== Sys2Proof/Laws/Quiet.lean ====
section
/-! SUPPORT. Meanings that log no write: one lemma for each way of building one, and what such a transaction leaves. -/

namespace Sys2Proof.Machine

/-- A meaning that logs no write, however it ends. -/
def Quiet {α : Type} (m : M α) : Prop :=
  ∀ i t, match m i t with
    | .ok _ t' => t'.log = t.log
    | .error _ t' => t'.log = t.log

variable {α β : Type}

@[simp] theorem quiet_pure (a : α) : Quiet (pure a : M α) := fun _ _ => rfl

@[simp] theorem quiet_bind {m : M α} {f : α → M β} (h : Quiet m) (g : ∀ a, Quiet (f a)) : Quiet (m >>= f) := by
  intro i t
  rw [run_bind]
  have hm := h i t
  cases e : m i t with
  | error x t' => rw [e] at hm; simpa using hm
  | ok a t' =>
    rw [e] at hm
    have hg := g a i t'
    rw [chain_ok]
    cases e' : f a i t' <;> simp_all

@[simp] theorem quiet_map {m : M α} {f : α → β} (h : Quiet m) : Quiet (f <$> m) := by
  have : f <$> m = m >>= fun a => pure (f a) := rfl
  rw [this]
  exact quiet_bind h fun _ => quiet_pure _

@[simp] theorem quiet_ite {c : Prop} [Decidable c] {a b : M α} (h : Quiet a) (g : Quiet b) : Quiet (if c then a else b) := by
  split <;> assumption

@[simp] theorem quiet_dev : Quiet dev := fun _ _ => rfl
@[simp] theorem quiet_now : Quiet now := fun _ _ => rfl
@[simp] theorem quiet_read : Quiet (read : M Image) := fun _ _ => rfl
@[simp] theorem quiet_get : Quiet (get : M Tx) := fun _ _ => rfl
@[simp] theorem quiet_modDev (f : Dev → Dev) : Quiet (modDev f) := fun _ _ => rfl
@[simp] theorem quiet_throw (e : Stop) : Quiet (throw e : M α) := fun _ _ => rfl
@[simp] theorem quiet_skip : Quiet (skip : M α) := fun _ _ => rfl
@[simp] theorem quiet_fail (a b : Nat) : Quiet (fail a b : M α) := fun _ _ => rfl
@[simp] theorem quiet_waitFor (f : Dev → Dev) : Quiet (waitFor f : M α) := fun _ _ => rfl
@[simp] theorem quiet_have (o : Option α) : Quiet (have! o) := by cases o <;> exact fun _ _ => rfl
@[simp] theorem quiet_need (b : Bool) : Quiet (need b) := by cases b <;> exact fun _ _ => rfl
@[simp] theorem quiet_rd (f : Fld) (p n : Nat) : Quiet (rd f p n) := fun _ _ => rfl
@[simp] theorem quiet_rdB (f : Fld) (p n : Nat) : Quiet (rdB f p n) := fun _ _ => rfl
@[simp] theorem quiet_wr (f : Fld) (p v n : Nat) : Quiet (wr f p v n) := fun _ _ => rfl
@[simp] theorem quiet_bump (f : Fld) (p n : Nat) : Quiet (bump f p n) := fun _ _ => rfl
@[simp] theorem quiet_bumpSat (f : Fld) (p n : Nat) : Quiet (bumpSat f p n) := fun _ _ => rfl
@[simp] theorem quiet_qrd (f : Fld) (q : Nat) : Quiet (qrd f q) := fun _ _ => rfl
@[simp] theorem quiet_qwr (f : Fld) (q v : Nat) : Quiet (qwr f q v) := fun _ _ => rfl
@[simp] theorem quiet_raise (p b : Nat) : Quiet (raise p b) := fun _ _ => rfl
@[simp] theorem quiet_record (a b c d : Nat) : Quiet (record a b c d) := fun _ _ => rfl
@[simp] theorem quiet_tap (a b c d e f g h : Nat) : Quiet (tap a b c d e f g h) := fun _ _ => rfl
@[simp] theorem quiet_modTime (f : TimeBase → TimeBase) : Quiet (modTime f) := fun _ _ => rfl
@[simp] theorem quiet_modPow (f : Power → Power) : Quiet (modPow f) := fun _ _ => rfl
@[simp] theorem quiet_modPeer (n : Nat) (f : Peer → Peer) : Quiet (modPeer n f) := fun _ _ => rfl
@[simp] theorem quiet_freeValue (n : Nat) : Quiet (freeValue n) := fun _ _ => rfl

@[simp] theorem quiet_peek (host : Bool) (a : Nat) : Quiet (peek host a) := by
  unfold peek
  refine quiet_bind quiet_read fun _ => quiet_bind quiet_get fun _ => ?_
  split <;> exact quiet_pure _

@[simp] theorem quiet_each {l : List α} {f : α → M Unit} (h : ∀ x, Quiet (f x)) : Quiet (each l f) := by
  induction l with
  | nil => exact quiet_pure ()
  | cons x l ih => exact quiet_bind (h x) fun _ => ih

@[simp] theorem quiet_collect {l : List α} {f : α → M β} (h : ∀ x, Quiet (f x)) : Quiet (collect l f) := by
  induction l with
  | nil => exact quiet_pure _
  | cons x l ih => exact quiet_bind (h x) fun _ => quiet_bind ih fun _ => quiet_pure _

@[simp] theorem quiet_repeatM {n : Nat} {m : M Bool} (h : Quiet m) : Quiet (repeatM n m) := by
  induction n with
  | zero => exact quiet_pure ()
  | succ n ih => exact quiet_bind h fun b => quiet_ite ih (quiet_pure ())

@[simp] theorem quiet_peeks (host : Bool) (n a : Nat) : Quiet (peeks host a n) := by
  induction n generalizing a with
  | zero => exact quiet_pure _
  | succ n ih => exact quiet_bind (quiet_peek host a) fun _ => quiet_bind (ih _) fun _ => quiet_pure _

@[simp] theorem quiet_tryCatch {m : M α} {f : Stop → M α} (h : Quiet m) (g : ∀ e, Quiet (f e)) :
    Quiet (tryCatch m f : M α) := by
  intro i t
  rw [run_tryCatch]
  have hm := h i t
  cases e : m i t with
  | ok a t' => rw [e] at hm; simpa using hm
  | error x t' =>
    rw [e] at hm
    have hg := g x i t'
    rw [handle_error]
    cases e' : f x i t' <;> simp_all

@[simp] theorem quiet_attempt {m : M Unit} (h : Quiet m) : Quiet (attempt m) := by
  intro i t
  have hm := h i t
  have : attempt m i t = handle (m i t) (fun e => match e with
    | .wait reg => do set t; modDev reg
    | .skip => set t
    | e => throw e) i := by
    simp only [attempt, run_bind, run_get, chain_ok, run_tryCatch]
    all_goals congr 1
  rw [this]
  cases e : m i t with
  | ok a t' => rw [e] at hm; simpa using hm
  | error x t' =>
    rw [e] at hm
    cases x <;> simp_all

/-- A transaction that logs no write leaves both memories as they are. -/
theorem transact_quiet {m : M Unit} {s t : State} (h : Quiet m) (e : transact m s = .next t) :
    t.mem = s.mem ∧ t.host = s.host := by
  have hq := h ⟨s.mem, s.host⟩ ⟨s.dev, []⟩
  unfold transact at e
  cases r : m ⟨s.mem, s.host⟩ ⟨s.dev, []⟩ with
  | ok a t' =>
    rw [r] at e hq
    cases e
    simp_all [settle]
  | error x t' =>
    rw [r] at e hq
    cases x <;> cases e <;> simp_all [settle]

end Sys2Proof.Machine
end

