-- ==== Sys2Proof/Laws/Sequencer.lean ====
section
/-! SUPPORT. How a sequencer executes one word. -/

namespace Sys2Proof.Machine

variable {c : Nat} {x : Slice} {w : Nat} {i : Image} {t : Tx}

@[simp] theorem run_modCl (c : Nat) (f : Cluster → Cluster) (i : Image) (t : Tx) :
    modCl c f i t = .ok () { t with dev := t.dev.setCl c (f (t.dev.cl c)) } := rfl

theorem run_sequencing (h : t.dev.atWord c x w) : sequencing c i t = .ok x t := by
  obtain ⟨h1, h2, h3, h4, h5, -⟩ := h
  simp [sequencing, h1, h2, h3, h4, h5]

theorem run_seqFail (st rs k e : Nat) :
    seqFail c x st rs k e i t = .ok () { t with dev := t.dev.seqFailed c x st rs k e } := by
  simp [seqFail, pushItem, setSlice, toPool, Dev.seqFailed, Dev.putSlice, Dev.pooled]

theorem run_seqPlain {op : Nat} {f : Slice → Nat → Option Resume} {r : Resume} (h : t.dev.atWord c x w)
    (ho : wOp w = op) (hf : f x w = some r) :
    seqPlain c op f i t = .ok () { t with dev := t.dev.putSlice c { x with cur := r } } := by
  have h6 := h.2.2.2.2.2
  simp [seqPlain, run_sequencing h, h6, ho, hf, setSlice, Dev.putSlice]

theorem run_seqPlain_none {op : Nat} {f : Slice → Nat → Option Resume} (h : t.dev.atWord c x w) (ho : wOp w = op)
    (hf : f x w = none) :
    seqPlain c op f i t = .ok () { t with dev := t.dev.seqFailed c x sBOUNDS rBOUNDS_ADDR ekBOUNDS 0 } := by
  have h6 := h.2.2.2.2.2
  simp [seqPlain, run_sequencing h, h6, ho, hf, seqBounds, run_seqFail]

theorem run_phaseLimit (c : Nat) : phaseLimit c i t = .ok () { t with dev := t.dev.limited c } := by
  simp [phaseLimit, toPool, Dev.limited, Dev.pooled]
  split <;> simp_all

end Sys2Proof.Machine
end

