-- ==== Sys2Proof/WellFormed.lean ====
section
/-! DEFINITION. Which commands a sender can form: a page that exists, a frame body and a payload of a length that
the spec admits, a data length of the client port, and as many repairs and results as there are channels. -/

namespace Sys2Proof

/-- How many pages a block type has (R526), for the well-formedness of a page operand. -/
def pagesOfBlock (blk : Nat) : Nat :=
  [0, 1, 1, 65, 64, 65, 64, 3, 9, 9, 72, 16, 16, 8, 67, 2, 9, 17, 1, 3, 1, 1, 1, 1, 8, 2, 8].getD blk 0

/-- A page number (type × 256 + instance) of R526. -/
def pageWf (page : Nat) : Bool := decide (page % 256 < pagesOfBlock (page / 256))

/-- A frame whose body fits in a Tipra frame (R388). -/
def frameWf (f : Frame) : Bool := decide (f.body.length ≤ 8192)

/-- A training result with a repair for each of the 32 channels (R310, R311). -/
def trainWf (t : TrainResult) : Bool := decide (t.repairs.length = 32)

/-- An announce or sync message names a domain from 0 to 127 (R416). -/
def ptpWf (m : PtpMsg) : Bool :=
  match m with
  | .announce d _ _ _ _ _ _ _ _ => decide (d.toNat < 128)
  | .sync d _ _ _ => decide (d.toNat < 128)
  | .followUp d _ _ => decide (d.toNat < 128)
  | .delayReq d _ => decide (d.toNat < 128)
  | .delayResp d _ _ => decide (d.toNat < 128)
  | .management => true

/-- A command that a sender can form. -/
def Instr.wf (i : Instr) : Bool :=
  match i with
  | .ack _ f | .nak _ f | .idle _ f | .hello _ f | .helloAck _ f | .bye _ f | .batch _ f | .unit _ f
  | .chain _ f | .chainDone _ f | .chainFail _ f | .refuse _ f | .readReq _ f | .readResp _ f | .write _ f
  | .writeAck _ f | .ingest _ f => frameWf f
  | .pageWorldWrite p _ _ | .pageWorldLock p _ | .functionReset p _ | .pageEnable p _ _ | .pageFence p _
  | .pageReadmit p _ | .logicErrorFence p | .pageIrqStatClear p _ _ | .pageIrqEnWrite p _ _
  | .pageIrqForce p _ _ | .counterClear p _ | .peakClear p _ => pageWf p.val
  | .hbmTrainingDone _ t => trainWf t
  | .ptpMessage _ m => ptpWf m
  | .frameCheckFail _ n => decide (n ≤ 9216)
  | .eapolFrame _ b => decide (b.length ≤ 9216)
  | .clientPortWrite _ _ d _ => decide (0 < d.length) && decide (d.length ≤ 4096)
  | .customHandlerReturn _ _ _ d => decide (d.length ≤ 65536)
  | .maintActivityEnd _ r => decide (r.errors.length ≤ 64)
  | _ => true

end Sys2Proof
end

