-- ==== Sys2Proof/Tests/Slice0.lean ====
section
/-! SUPPORT. Small checks of the model: ill-formed commands, one step each of some commands with the value that the spec
gives, and states that meet the hypotheses of the statements. -/

namespace Sys2Proof.Tests

set_option Elab.async false

open Sys2Proof Sys2Proof.Machine

/-! ### Helpers -/

variable {α : Type}

/-- The meaning runs to its end. -/
def ends (m : M α) (i : Image) (t : Tx) : Bool :=
  match m i t with
  | .ok _ _ => true
  | .error _ _ => false

/-- The meaning answers a value. -/
def yields [DecidableEq α] (m : M α) (i : Image) (t : Tx) (a : α) : Bool :=
  match m i t with
  | .ok b _ => decide (b = a)
  | .error _ _ => false

/-- The transaction that a meaning leaves. -/
def after (m : M α) (i : Image) (t : Tx) : Tx :=
  match m i t with
  | .ok _ u => u
  | .error _ u => u

theorem runs_after {m : M Unit} {i : Image} {t : Tx} (h : ends m i t = true) : Runs m i t () (after m i t) := by
  unfold ends at h
  unfold Runs after
  cases e : m i t with
  | ok a u => rfl
  | error x u => rw [e] at h; cases h

theorem runs_yields [DecidableEq α] {m : M α} {i : Image} {t : Tx} {a : α} (h : yields m i t a = true) :
    Runs m i t a (after m i t) := by
  unfold yields at h
  unfold Runs after
  cases e : m i t with
  | ok b u => rw [e] at h; simp only [decide_eq_true_eq] at h; rw [h]
  | error x u => rw [e] at h; cases h

/-- What a meaning answers, or a default where it ends early. -/
def value (m : M α) (a : α) (i : Image) (t : Tx) : α :=
  match m i t with
  | .ok b _ => b
  | .error _ _ => a

theorem runs_value {m : M α} {a : α} {i : Image} {t : Tx} (h : ends m i t = true) :
    Runs m i t (value m a i t) (after m i t) := by
  unfold ends at h
  unfold Runs value after
  cases e : m i t with
  | ok b u => rfl
  | error x u => rw [e] at h; cases h

/-- The meaning answers bytes. -/
def readsTo (m : M (Except (Nat × Nat × Nat) (List Byte))) (i : Image) (t : Tx) (bs : List Byte) : Bool :=
  match m i t with
  | .ok (.ok b) _ => decide (b = bs)
  | _ => false

theorem runs_reads {m : M (Except (Nat × Nat × Nat) (List Byte))} {i : Image} {t : Tx} {bs : List Byte}
    (h : readsTo m i t bs = true) : Runs m i t (.ok bs) (after m i t) := by
  unfold readsTo at h
  unfold Runs after
  cases e : m i t with
  | ok b u =>
    rw [e] at h
    cases b with
    | ok b => simp only [decide_eq_true_eq] at h; rw [h]
    | error x => cases h
  | error x u => rw [e] at h; cases h

/-- The machine after a step that answers a next state. -/
def nextOf (o : Host.Outcome State Fault Refusal) : State :=
  match o with
  | .next s => s
  | .fault _ => State.reset
  | .refused _ => State.reset

/-- A step answers a next state. -/
def goesOn (o : Host.Outcome State Fault Refusal) : Bool :=
  match o with
  | .next _ => true
  | .fault _ => false
  | .refused _ => false

theorem next_of {o : Host.Outcome State Fault Refusal} (h : goesOn o = true) : o = .next (nextOf o) := by
  cases o with
  | next s => rfl
  | fault r => cases h
  | refused r => cases h

/-- Registers set, as (field, page, index, value). -/
def setAll (d : Dev) (l : List (Fld × Nat × Nat × Nat)) : Dev := l.foldl (fun d e => d.wr e.1 e.2.1 e.2.2.2 e.2.2.1) d

/-- Pages in service. -/
def served (pages : List Nat) : Dev := setAll State.resetDev (pages.map fun p => (F.pageState_state, p, 0, 2))

/-- A state around a device. -/
def around (d : Dev) : State := { pending := [], mem := [], host := [], dev := d }

/-- Software in the secure world. -/
def core0 : Agent := .ccSecure 0

/-! ### A machine at work

Queue 0 runs with both rings in local memory; memory region 0, of the secure world, holds the low HBM window; stacks 0 and 1
are READY; ASID 0 maps its low 16 GiB onto itself. -/

/-- The page base, rights and world of the mapping. -/
def leaf0 : Nat := 1 + 4 + 7 * 8

def live : Dev :=
  let d := setAll (served [pg bQUE 1, pg bGCL 0, pg bQNT 2, pg bMRG 0, pg bMRG 8, pg bOPT 0, pg bTXP 0, pg bTXP 8,
      pg bCPE 0, pg bMNT 0, pg bEVR 0, pg bHLK 0])
    [(F.queRingBase_base, 1, 0, 0x100), (F.queCplBase_base, 1, 0, 0x200), (F.queState_enable, 1, 0, 1),
     (F.queState_state, 1, 0, qRUNNING), (F.queTail_tail, 1, 0, 4), (F.hbcState_state, 0, 0, 2),
     (F.hbcState_state, 1, 0, 2), (F.secMrBase_enable, 1, 0, 1), (F.secMrBase_world, 1, 0, 1), (F.secMrBase_rd, 1, 0, 1),
     (F.secMrBase_wr, 1, 0, 1), (F.secMrBase_at, 1, 0, 1), (F.secMrLimit_limit, 1, 0, 0x80),
     (F.secMrLimit_state, 1, 0, 2), (F.hlkState_state, 0, 0, hUP), (F.txpPeers_enable, 8, 0, 1),
     (F.trnAsid_enable, 66, 0, 1)]
  { d with xl := { d.xl with
      ctxs := [⟨0, 0, true, 1, 0, 0⟩, ⟨64, 0, true, 1, 0, 0⟩, ⟨65, 0, true, 1, 0, 0⟩]
      tlbs := [⟨64, 0, 0, 0, 2, leaf0⟩, ⟨65, 0, 0, 0, 2, leaf0⟩] } }

/-- Bytes in memory from an address on. -/
def bytesAt (a : Nat) (bs : List Byte) (m : List Host.Cell) : List Host.Cell :=
  (List.range bs.length).foldl (fun m i => writeByte m (a + i) (bs.getD i 0)) m

/-- The descriptor `raw` at the HEAD of queue 0, and an entry of the peer table for node 1: VALID, class 1, queue 0. -/
def queued (raw : Nat) : State :=
  { pending := [], mem := bytesAt 64 [3] (bytesAt 0x100000 (toBytes 64 raw) []), host := [], dev := live }

/-- `live` with descriptors in progress, and memory. -/
def working (xs : List Desc) (m : List Host.Cell) : State := { pending := [], mem := m, host := [], dev := { live with descs := xs } }

/-- CLUSTERS and REGIONS of a look-up that names one of each. -/
def oneCluster : Nat := 2 ^ (8 * 32 + 52) + 2 ^ (8 * 24 + 52)

/-- A MAINT of an activity. -/
def maintRaw (act : Nat) : Nat := 0x70 + act * 2 ^ 128

/-- A write of the page of OPT registers by secure software, at an offset. -/
def optWrite (off v : Nat) : RegAcc := ⟨pg bOPT 8, off, 2, v, core0⟩

/-! ### Sequencers -/

/-- A slice of two bags that runs a program, with its first registers set. -/
def sliceOf (ws : List Nat) (a : List Nat) : Slice :=
  { q := 0, seq := 0, num := 0, first := 0, count := 2, prog := ws, params := [],
    cur := { Resume.start with a := a ++ List.replicate (8 - a.length) 0 }, committed := Resume.start, openRows := 0,
    bags := [], stopped := false }

/-- A descriptor of queue 0, in progress. -/
def descOf (raw : Nat) (tabs : List Table) (w : Work) : Desc :=
  { q := 0, seq := 0, raw := raw, issued := 0, limit := 0, status := sOK, reason := rNONE, flags := 0, rows := 0,
    bytes := 0, coh := 0, ended := false, stopping := false, tabs := tabs, work := w }

/-- A table of 8 rows of 64 bytes at 0x40000, with no husk, in FP32. -/
def table0 : Table := ⟨0, 0x40000 + 8 * 2 ^ 64 + 3 * 2 ^ 192, 0, []⟩

/-- A LOOKUP_POOL of two bags over `table0`, 16 lanes, with an index list of four entries at 0x50000. -/
def pool0 : Desc :=
  descOf (0x10 + oneCluster + 2 * 2 ^ 64 + 15 * 2 ^ 180 + 0x50000 * 2 ^ 192 + 4 * 2 ^ 448) [table0] (.lookup ⟨true, [], [], true, none⟩)

/-- Cluster 0 in a fetch phase, with a slice. -/
def fetching (x : Slice) (m : List Host.Cell) : State :=
  let d := { live with descs := [pool0] }
  { pending := [], mem := m, host := [],
    dev := d.setCl 0 { d.cl 0 with slice := some x, fetching := true, mark := 1024 } }

/-- A word of a stream program: opcode, D, S, T, X, F, IMM (R93). -/
def word (op d s t x f imm : Nat) : Nat :=
  op * 2 ^ 56 + d * 2 ^ 53 + s * 2 ^ 50 + t * 2 ^ 47 + x * 2 ^ 43 + f * 2 ^ 40 + imm

/-- The sequencer of cluster 0 stands at a word. -/
def At (w : Nat) (a : List Nat) : Prop :=
  (fetching (sliceOf [w] a) []).dev.atWord 0 (sliceOf [w] a) w ∧ (fetching (sliceOf [w] a) []).dev.desc 0 0 = some pool0

theorem witness_SeqComputes_values :
    (∀ e ∈ [(0x10, 0), (0x10, 1), (0x12, 0), (0x12, 1), (0x13, 0), (0x14, 0), (0x18, 0)],
      At (word e.1 1 2 3 0 e.2 5) [] ∧ wOp (word e.1 1 2 3 0 e.2 5) = e.1 ∧ wF (word e.1 1 2 3 0 e.2 5) = (e.2 == 1)) ∧
    (∀ w ∈ [word 0x11 1 0 0 0 0 1, word 0x1A 1 2 3 0 0 5], At w [] ∧ pool0.tableRows 0 ≠ 0) ∧
    wOp (word 0x11 1 0 0 0 0 1) = 0x11 ∧ wOp (word 0x1A 1 2 3 0 0 5) = 0x1A ∧
    At (word 0x19 1 0 3 0 0 0) [0, 0, 0, 7] ∧ wOp (word 0x19 1 0 3 0 0 0) = 0x19 ∧ 7 < pool0.tableRows 0 ∧
    At (word 0x21 0 2 0 0 0 0) [0, 0, 4] ∧ wOp (word 0x21 0 2 0 0 0 0) = 0x21 ∧ 4 ≤ pool0.lkIndexCount := by
  unfold At Dev.atWord
  decide +kernel

theorem witness_SeqSteers :
    (∀ e ∈ [(0x00, 0, 0), (0x04, 0, 0), (0x04, 1, 0), (0x08, 0, 5), (0x08, 0, 0), (0x09, 0, 0), (0x1B, 0, 0)],
      At (word e.1 0 2 3 e.2.1 0 e.2.2) [0, 0, 6, 7] ∧ wOp (word e.1 0 2 3 e.2.1 0 e.2.2) = e.1) ∧
    skipHolds 1 6 7 = true ∧ skipHolds 0 6 7 = false ∧ wImm (word 0x08 0 2 3 0 0 5) = 5 ∧
    (sliceOf [word 0x09 0 0 0 0 0 0] []).cur.l.getD 0 0 ≤ 1 := by
  unfold At Dev.atWord
  decide +kernel

/-- ENDL at the end of a loop that has an iteration left. -/
theorem witness_SeqSteers_endl :
    let x := { sliceOf [word 0x08 0 0 0 0 0 2, word 0x09 0 0 0 0 0 0] [] with
      cur := { Resume.start with pc := 1, l := [2, 0, 0, 0, 0, 0] } }
    (fetching x []).dev.atWord 0 x (word 0x09 0 0 0 0 0 0) ∧ 1 < x.cur.l.getD (wX (word 0x09 0 0 0 0 0 0)) 0 := by
  unfold Dev.atWord; decide +kernel

/-- END of a slice whose bags are closed. -/
def closedSlice : Slice := { sliceOf [word 1 0 0 0 0 0 0] [] with cur := { Resume.start with closes := 2 } }

theorem witness_SeqPhases :
    (fetching closedSlice []).dev.atWord 0 closedSlice (word 1 0 0 0 0 0 0) ∧
    (fetching closedSlice []).dev.desc 0 0 = some pool0 ∧ closedSlice.count ≤ closedSlice.cur.closes ∧
    (∀ e ∈ [(2, 0), (3, 0), (3, 1), (3, 2)], At (word e.1 0 0 0 e.2 0 9) [] ∧ wOp (word e.1 0 0 0 e.2 0 9) = e.1 ∧
      wX (word e.1 0 0 0 e.2 0 9) = e.2) := by
  unfold At Dev.atWord
  decide +kernel

/-- A cluster whose WAIT is over. -/
theorem witness_SeqPhases_wait :
    let d := live.setCl 0 { live.cl 0 with wait := some 0 }
    d.clusterRuns 0 = true ∧ (d.cl 0).wait = some 0 ∧ 0 ≤ d.time.et := by decide +kernel

theorem witness_SeqBoundsErrors :
    (∀ e ∈ [(0x08, 1), (0x13, 1), (0x19, 0), (0x1B, 0), (0x21, 0), (0x01, 0)],
      At (word e.1 0 2 3 0 e.2 0) [0, 0, 2 ^ 32, 2 ^ 33] ∧ wOp (word e.1 0 2 3 0 e.2 0) = e.1 ∧
        wF (word e.1 0 2 3 0 e.2 0) = (e.2 == 1)) ∧
    2 ^ 63 ≤ (2 ^ 32 + (2 ^ 64 - 2 ^ 33)) % 2 ^ 64 ∧ pool0.tableRows 0 ≤ 2 ^ 33 ∧ pool0.lkIndexCount < 2 ^ 32 ∧
    At (word 0x1B 0 3 2 0 0 0) [0, 0, 2 ^ 32, 2 ^ 33] ∧ (sliceOf [] []).cur.closes < (sliceOf [] []).count := by
  unfold At Dev.atWord
  decide +kernel

/-- NEXT at the end of the index list. -/
def pastIndex : Slice := { sliceOf [word 0x20 1 0 0 0 0 0] [] with cur := { Resume.start with ixc := 4 } }

theorem witness_SeqBoundsErrors_next :
    (fetching pastIndex []).dev.atWord 0 pastIndex (word 0x20 1 0 0 0 0 0) ∧ pool0.lkIndexCount ≤ pastIndex.cur.ixc := by
  unfold Dev.atWord; decide +kernel

/-- An index list, and values, at 0x50000. -/
def listMem : List Host.Cell := bytesAt 0x50000 (toBytes 8 0xFFFFFFFE00000007) []

/-- The slice at a word that reads. -/
def reads (w : Nat) : State := fetching (sliceOf [w] [0x50000, 0x40040]) listMem

theorem witness_SeqReadsAndItems_next :
    let s := reads (word 0x20 1 0 0 0 0 0)
    s.dev.atWord 0 (sliceOf [word 0x20 1 0 0 0 0 0] [0x50000, 0x40040]) (word 0x20 1 0 0 0 0 0) ∧ 0 < pool0.lkIndexCount ∧
    ∃ t, Runs (clusterRead 0 0 0 (s.dev.queueWorld 0) (s.dev.queueAsid 0) (pool0.lkIndex + 0 * 4) 4) s.image s.start
      (.ok [7, 0, 0, 0]) t :=
  ⟨by unfold Dev.atWord; decide +kernel, by decide +kernel, _, runs_reads (by decide +kernel)⟩

theorem witness_SeqReadsAndItems_ld :
    let w := word 0x22 1 0 0 2 0 4
    let s := reads w
    s.dev.atWord 0 (sliceOf [w] [0x50000, 0x40040]) w ∧ wOp w = 0x22 ∧ wX w = 2 ∧
    (0x50000 + wSext w) % 2 ^ 64 % 4 = 0 ∧
    ∃ t, Runs (clusterRead 0 0 0 (s.dev.queueWorld 0) (s.dev.queueAsid 0) ((0x50000 + wSext w) % 2 ^ 64) 4) s.image s.start
      (.ok [0xFE, 0xFF, 0xFF, 0xFF]) t :=
  ⟨by unfold Dev.atWord; decide +kernel, by decide, by decide, by decide, _, runs_reads (by decide +kernel)⟩

/-- LD with X = 2 extends the sign of 32 bits (R95). -/
theorem test_ld_sign : ((((nextOf (exec (.seqLd 0) (reads (word 0x22 1 0 0 2 0 4)))).dev.cl 0).slice.map
    fun x => x.cur.reg 1) = some (2 ^ 64 - 2)) := by decide +kernel

theorem witness_SeqReadsAndItems_emit :
    let w := word 0x28 0 1 0 0 0 0
    let x := sliceOf [w] [0x50000, 0x40040]
    let s := reads w
    s.dev.atWord 0 x w ∧ wOp w = 0x28 ∧ emitFits x pool0 s.dev.self w ∧
    let e := emitted x pool0 w (s.dev.cl 0).nextId
    let y : Slice := { x with cur := e.after, openRows := x.openRows + 1 }
    let d1 := s.dev.pushed 0 e
    let k := d1.cl 0
    let d2 := (d1.setCl 0 { k with slice := some y, filled := k.filled + e.stored }).bump F.seqEmitted_count 0 1
    ∃ t, Runs (askItem 0 y e) s.image ⟨d2, []⟩ () t :=
  ⟨by unfold Dev.atWord; decide +kernel, by decide, by unfold emitFits; decide +kernel, _, runs_after (by decide +kernel)⟩

theorem witness_SeqReadsAndItems_close :
    At (word 0x29 0 0 0 0 0 0) [] ∧ wOp (word 0x29 0 0 0 0 0 0) = 0x29 ∧ (sliceOf [] []).cur.closes < (sliceOf [] []).count := by
  unfold At Dev.atWord
  decide +kernel

/-- SUB without F wraps (R95). -/
theorem test_sub_wraps : ((((nextOf (exec (.seqSub 0) (fetching (sliceOf [word 0x13 1 2 3 0 0 0] [0, 0, 3, 5]) []))).dev.cl
    0).slice.map fun x => x.cur.reg 1) = some (2 ^ 64 - 2)) := by decide +kernel

/-- HASH: (S × T mod 2^64) >> IMM mod rows (R95). -/
theorem test_hash : ((((nextOf (exec (.seqHash 0) (fetching (sliceOf [word 0x1A 1 2 3 0 0 60] [0, 0, 3, 2 ^ 62]) []))).dev.cl
    0).slice.map fun x => x.cur.reg 1) = some 4) := by decide +kernel

/-- A slice that has passed its program (R100). -/
def passed (n : Nat) : Slice := { sliceOf [] [] with cur := { Resume.start with closes := n } }

theorem witness_BeyondTheEnd : ∀ n ∈ [0, 2],
    (fetching (passed n) []).dev.clusterRuns 0 = true ∧ ((fetching (passed n) []).dev.cl 0).fetching = true ∧
    ((fetching (passed n) []).dev.cl 0).wait = none ∧ ((fetching (passed n) []).dev.cl 0).slice = some (passed n) ∧
    (passed n).stopped = false ∧ (passed n).prog.length ≤ (passed n).cur.pc ∧
    (fetching (passed n) []).dev.desc 0 0 = some pool0 ∧ pool0.isPool = true ∧
    ((passed n).count ≤ (passed n).cur.closes ↔ n = 2) := by decide +kernel

theorem witness_SequencerFrame : Instr.seqNop ∈ streamCommands ∧
    exec (.seqNop 0) (fetching (sliceOf [word 0 0 0 0 0 0 0] []) []) =
      .next (nextOf (exec (.seqNop 0) (fetching (sliceOf [word 0 0 0 0 0 0 0] []) []))) := 
  ⟨List.mem_cons_self .., next_of (by decide +kernel)⟩

/-! ### Dispatch -/

theorem queues_idle : ∀ q, q < 1024 → q ≠ 0 → live.qrd F.queState_state q ≠ qRUNNING := by decide +kernel

theorem live_ready (i : Image) (h : live.wholeAt i 0 = true) : live.readyQueue i 0 = true := by
  have e : (live.qrd F.queState_state 0 == qRUNNING && live.inService (queuePage 0) && live.pow.phase == 0 &&
    decide (live.rd F.pwrState_state 0 < 3)) = true ∧ (decide ((live.descsOf 0).length < 32) && decide (live.descs.length < 4096) &&
      decide (diff32 (live.qrd F.queCplTail_index 0 + (live.descsOf 0).length) (live.qrd F.queCplHead_index 0)
        < ringEntries (live.qrd F.queCplCfg_size 0)) && !(live.descsOf 0).any Desc.holds) = true := by decide +kernel
  simp only [Bool.and_eq_true] at e
  simp only [Dev.readyQueue, Bool.and_eq_true]
  simp only [e, h, and_self]

theorem zero_of_range : (List.range 1024).filter (fun q => q == 0) = [0] := by decide +kernel

/-- Queue 0 alone runs, and it has the turn once its slots can be read. -/
theorem live_turn (i : Image) (h : live.wholeAt i 0 = true) : live.turn i 0 = true := by
  have h1 : live.readyQueues i = [0] := by
    unfold Dev.readyQueues
    rw [List.filter_congr (q := fun q => q == 0)]
    · exact zero_of_range
    · intro q hq
      rcases Nat.eq_zero_or_pos q with rfl | hp
      · exact live_ready i h
      · have n : (live.qrd F.queState_state q == qRUNNING) = false :=
          beq_eq_false_iff_ne.2 (queues_idle q (List.mem_range.1 hq) (Nat.pos_iff_ne_zero.1 hp))
        simp [Dev.readyQueue, n, Nat.pos_iff_ne_zero.1 hp]
  have hc : live.qrd F.queRingCfg_class 0 = 0 := by decide +kernel
  have hl : SMap.get 1023 live.arb.last 0 = 1023 := by decide +kernel
  have hr : (List.range 7).filter (fun c => [0].contains c) = [0] := by decide
  have hw : (live.weight 0 != 0) = true := by decide +kernel
  have g : live.grantClass i = some 0 := by
    simp only [Dev.grantClass, h1, List.map_cons, List.map_nil, hc, hr]
    cases hg : live.grantsLeft 0 != 0 <;> simp [List.filter, hw, hg]
  have k : live.grantQueue i 0 = some 0 := by
    unfold Dev.grantQueue Dev.readyIn
    rw [h1, hl]
    simp only [List.filter, hc]
    rfl
  unfold Dev.turn
  rw [live_ready i h, hc, g, k]
  rfl

/-- The transaction in which the descriptor at HEAD has been read. -/
def readT (raw : Nat) : Tx := after (readDesc 0 0) (queued raw).image (queued raw).start

/-- The hypotheses of a dispatch: the descriptor is at HEAD, is selected, and none waits to start. -/
def Opens (raw : Nat) (sel : Nat → Bool) : Prop :=
  ∃ t, (queued raw).atHead 0 raw t ∧ sel raw = true ∧ (queued raw).dev.noneWaits 0 sel

def opens (raw : Nat) (sel : Nat → Bool) : Bool :=
  live.wholeAt (queued raw).image 0 && (live.qh 0).marks.isEmpty &&
  yields (readDesc 0 0) (queued raw).image (queued raw).start raw && sel raw

theorem head_zero : live.qrd F.queHead_head 0 = 0 := by decide +kernel

theorem opens_of {raw : Nat} {sel : Nat → Bool} (h : opens raw sel = true) : Opens raw sel := by
  simp only [opens, Bool.and_eq_true, List.isEmpty_iff] at h
  obtain ⟨⟨⟨h1, h2⟩, h3⟩, h4⟩ := h
  refine ⟨readT raw, ⟨live_turn _ h1, ?_, ?_⟩, h4, rfl⟩
  · show (live.qh 0).marks.any _ = false
    rw [h2]; rfl
  · show Runs (readDesc 0 (live.qrd F.queHead_head 0)) _ _ _ _
    rw [head_zero]; exact runs_yields h3

theorem witness_DispatchControl_nop : (∃ t, (queued 0).atHead 0 0 t) ∧ opcodeIs 0 0 = true ∧
    ((queued 0).dev.fresh 0 0).plain :=
  have ⟨t, h, _⟩ := opens_of (raw := 0) (sel := opcodeIs 0) (by decide +kernel)
  ⟨⟨t, h⟩, by decide, by unfold Desc.plain; decide +kernel⟩

theorem fence_alone : ((readT 1).dev.listed (queued 1).dev 0 1).descsOf 0 = [(queued 1).dev.fresh 0 1] := by decide +kernel

theorem witness_DispatchControl_fence : (∃ t, (queued 1).atHead 0 1 t ∧
      (t.dev.listed (queued 1).dev 0 1).descsOf 0 = [(queued 1).dev.fresh 0 1]) ∧ opcodeIs 1 1 = true ∧
    ((queued 1).dev.fresh 0 1).plain ∧ (queued 1).dev.noneWaits 0 (opcodeIs 1) := by
  obtain ⟨t, h2, h3, h4⟩ := opens_of (raw := 1) (sel := opcodeIs 1) (by decide +kernel)
  have h5 : Runs (readDesc 0 ((queued 1).dev.qrd F.queHead_head 0)) (queued 1).image (queued 1).start 1 t := h2.2.2
  have e0 : (queued 1).dev.qrd F.queHead_head 0 = 0 := head_zero
  rw [e0] at h5
  have e1 : t = readT 1 := by unfold Runs at h5; simp only [readT, after, h5]
  exact ⟨⟨t, h2, e1 ▸ fence_alone⟩, h3, by unfold Desc.plain; decide +kernel, h4⟩

theorem witness_DispatchControl_stamp : Opens (2 + 0x40000 * 2 ^ 128) (opcodeIs 2) ∧
    ∀ y ∈ live.descs, y.q = 0 → y.ended = true ∨ y.stamped = none := ⟨opens_of (by decide +kernel), by decide +kernel⟩

theorem witness_DispatchControl_undefined : (∃ t, (queued 0xFF).atHead 0 0xFF t) ∧ 0xFF % 256 ∉ definedOpcodes :=
  have ⟨t, h, _⟩ := opens_of (raw := 0xFF) (sel := fun _ => true) (by decide +kernel)
  ⟨⟨t, h⟩, by decide⟩

theorem witness_DispatchControl_cancel : Opens 0x60 (opcodeIs 0x60) ∧
    ∀ y ∈ live.descs, y.q = 0 → y.opcode ≠ 0x60 ∨ y.ended = true := ⟨opens_of (by decide +kernel), by decide +kernel⟩

theorem work_opens : ∀ raw ∈ [0x10, 0x11, 0x12, 0x20, 0x22, 0x23], opens raw (opcodeIs raw) = true := by decide +kernel

theorem witness_DispatchWork : ∀ raw ∈ [0x10, 0x11, 0x12, 0x20, 0x22, 0x23], Opens raw (opcodeIs raw) :=
  fun raw h => opens_of (work_opens raw h)

theorem witness_DispatchWork_scatter :
    Opens 0x21 (fun r => opcodeIs 0x21 r && (bits r 504 2 == 0 || bits r 504 2 == 3)) ∧
    Opens (0x21 + 3 * 2 ^ 504) (fun r => opcodeIs 0x21 r && (bits r 504 2 == 0 || bits r 504 2 == 3)) ∧
    Opens (0x21 + 2 ^ 504) (fun r => opcodeIs 0x21 r && bits r 504 2 == 1) ∧
    Opens (0x21 + 2 ^ 505) (fun r => opcodeIs 0x21 r && bits r 504 2 == 2) :=
  ⟨opens_of (by decide +kernel), opens_of (by decide +kernel), opens_of (by decide +kernel), opens_of (by decide +kernel)⟩

theorem witness_DispatchMoves_copy :
    Opens 0x30 (fun r => opcodeIs 0x30 r && bits r 256 2 != 3) ∧
    Opens (0x30 + 3 * 2 ^ 256) (fun r => opcodeIs 0x30 r && bits r 256 2 == 3) ∧
    (∀ op, ∀ y ∈ live.descs, y.q = 0 → y.opcode = op → y.ended = true) :=
  ⟨opens_of (by decide +kernel), opens_of (by decide +kernel), fun _ y h => by cases h⟩

theorem moves_open : ∀ raw ∈ [0x31, 0x32, 0x40, 0x41, 0x50, 0x51], opens raw (opcodeIs raw) = true := by decide +kernel

theorem witness_DispatchMoves : ∀ raw ∈ [0x31, 0x32, 0x40, 0x41, 0x50, 0x51], Opens raw (opcodeIs raw) :=
  fun raw h => opens_of (moves_open raw h)

theorem maint_opens : ∀ act ∈ [1, 2, 3, 4, 5, 6, 7, 8], opens (maintRaw act) (maintIs act) = true := by decide +kernel

theorem witness_DispatchMoves_maint : ∀ act ∈ [1, 2, 3, 4, 5, 6, 7, 8], Opens (maintRaw act) (maintIs act) :=
  fun act h => opens_of (maint_opens act h)

/-- `live` with the slot at HEAD marked by a CANCEL. -/
def marked : State :=
  { queued (0x10 + oneCluster) with dev := live.setQh 0 { live.qh 0 with marks := [(0, 1)] } }

theorem witness_DispatchGate_closed : ∀ e ∈ dispatchCommands,
    State.reset.dev.noneWaits 0 e.1 ∧ State.reset.dev.turn State.reset.image 0 = false :=
  fun _ _ => ⟨rfl, by decide +kernel⟩

theorem marked_head : marked.dev.qrd F.queHead_head 0 = 0 := by decide +kernel

theorem witness_DispatchGate_marked : ∃ t, ((opcodeIs 0x10, Instr.lookupPool) : _ × _) ∈ dispatchCommands ∧
    marked.dev.noneWaits 0 (opcodeIs 0x10) ∧ marked.dev.turn marked.image 0 = true ∧
    (marked.dev.qh 0).marks.any (inMark (marked.dev.qrd F.queHead_head 0)) = true ∧
    Runs (readDesc 0 (marked.dev.qrd F.queHead_head 0)) marked.image marked.start (0x10 + oneCluster) t ∧
    opcodeIs 0x10 (0x10 + oneCluster) = true := by
  rw [marked_head]
  exact ⟨_, List.mem_cons_of_mem _ (List.mem_cons_self ..), rfl, by decide +kernel, by decide +kernel,
    runs_yields (by decide +kernel), by decide +kernel⟩

/-- What a meaning comes to: 0 it runs to its end, 1 it fails, 2 it waits, 3 its event cannot occur. -/
def comes (m : M Unit) (i : Image) (t : Tx) : Nat :=
  match m i t with
  | .ok _ _ => 0
  | .error (.fail _ _) _ => 1
  | .error (.wait _) _ => 2
  | .error .skip _ => 3

theorem comes_fail {m : M Unit} {i : Image} {t : Tx} (h : comes m i t = 1) : ∃ u st rs, m i t = .error (.fail st rs) u := by
  unfold comes at h
  split at h
  · cases h
  · exact ⟨_, _, _, by assumption⟩
  all_goals cases h

theorem comes_wait {m : M Unit} {i : Image} {t : Tx} (h : comes m i t = 2) : ∃ u reg, m i t = .error (.wait reg) u := by
  unfold comes at h
  split at h
  · cases h
  · cases h
  · exact ⟨_, _, by assumption⟩
  · cases h

/-- A STAMP runs; a LOOKUP_POOL without a table fails. -/
theorem witness_DispatchOutcomes :
    let o (raw : Nat) := (queued raw).opened 0 raw (readT raw)
    let near := 2 + 0x40000 * 2 ^ 128
    (∃ u, Runs (stamp ((queued near).dev.fresh 0 near)) (queued near).image (o near) () u) ∧
    (∃ u st rs, lookupPool ((queued 0x10).dev.fresh 0 0x10) (queued 0x10).image (o 0x10) = .error (.fail st rs) u) :=
  ⟨⟨_, runs_after (by decide +kernel)⟩, comes_fail (by decide +kernel)⟩

/-! ### The whole block -/

theorem witness_StepRunsFrontCommand : ({ State.reset with pending := [.leafReload] } : State).pending = .leafReload :: [] := rfl

theorem witness_IdleStep_dark : ({ State.reset with dev := { State.resetDev with pow := { State.resetDev.pow with good := false } } } :
    State).pending = [] := rfl

theorem witness_IdleStep_advance : State.resetDev.time.trim = 0 ∧ State.resetDev.time.frozen = 0 ∧ State.resetDev.time.frac < 2 ^ 32 ∧
    State.resetDev.time.et + 4 < 2 ^ 64 := by decide

theorem witness_IdleStep_cycle : State.reset.pending = [] ∧ ∃ t, Runs cycle State.reset.image State.reset.start () t :=
  ⟨rfl, _, runs_after (by decide +kernel)⟩

theorem witness_StepKeepsMemoryForm : State.reset.wf ∧ step State.reset = .next (nextOf (step State.reset)) :=
  ⟨⟨rfl, rfl⟩, next_of (by decide +kernel)⟩

theorem witness_MemoryLaws : Memory.wf [(3, 7)] = true ∧ ∀ a, readByte [(3, 7)] a = readByte [(3, 7)] a :=
  ⟨by decide, fun _ => rfl⟩

theorem witness_StoresNothing : storesNothing .leafReload = true ∧
    exec .leafReload (around live) = .next (nextOf (exec .leafReload (around live))) := ⟨rfl, next_of (by decide +kernel)⟩

theorem witness_WritesTurnedAway_E4 :
    (setAll State.resetDev [(F.pwrState_state, 0, 0, 4)]).rd F.pwrState_state 0 = 4 := by decide +kernel

theorem witness_WritesTurnedAway_asleep : (setAll State.resetDev [(F.pwrState_state, 0, 0, 3)]).asleep = true ∧
    servedInSleep (pg bOPT 8) = false := by decide +kernel

theorem witness_WritesTurnedAway_abroad : Agent.mailbox = .mailbox ∧ pg bOPT 8 / 256 ≠ bEVR ∧ pg bOPT 8 / 256 ≠ bTIM ∧
    pg bOPT 8 / 256 ≠ bPWR ∧ pg bOPT 8 / 256 ≠ bTRC := by decide

/-- A write of the normal world to OPT_GSC, and to PAGE_WORLD, of a page of the secure world. -/
theorem witness_WritesTurnedAway_world : ∀ off ∈ [0x100, 8],
    State.resetDev.rd F.pwrState_state 0 ≠ 4 ∧ State.resetDev.asleep = false ∧ populated (pg bOPT 8) = true ∧
    (if 8 ≤ off ∧ off < 12 then worldOf (.ccNonsecure 0) ≠ 1
      else worldOf (.ccNonsecure 0) ≠ State.resetDev.pageWorld (pg bOPT 8)) := by decide +kernel

/-- One such write is discarded and counted (R453). -/
theorem test_world_violation :
    let t := nextOf (exec (.registerWrite (BitVec.ofNat 25 (pg bOPT 8 * 4096 + 0x100)) 3 1 (.ccNonsecure 0)) State.reset)
    t.dev.word .optGsc 8 0 = 0 ∧ t.dev.rd F.secViolCount_count 0 = 1 := by decide +kernel

/-- A command that holds the register, for a write of each half of it. -/
theorem witness_HeldRegisters : ∀ e ∈ [(0x100, 0x20, RegName.optGsc), (0x104, 0x20, .optGsc), (0x108, 0x21, .optUrec),
      (0x11C, 0x12, .optStash), (0x120, 0x30, .optSite)],
    (optWrite e.1 1).reaches (working [descOf e.2.1 [] .none] []).dev = true ∧
    (((working [descOf e.2.1 [] .none] []).dev.target (pg bOPT 8) e.1 2 1).bind id).map (fun x => x.1) = some e.2.2 ∧
    (descOf e.2.1 [] .none).opcode = e.2.1 := by decide +kernel

theorem witness_ScaleRule : F32.val 0x3F800000 = .fin false (2 ^ 23) (-23) ∧ F32.val 0 = .fin false 0 (-149) ∧
    (ScaleRec.top 0).val = .fin false 0 (-149) ∧ ScaleRec.valid (2 ^ 40) = true := by decide +kernel

/-- H = 57,344: E is 0 with no margin and 7 with a margin of 7; H = 57,345 × 2^0 takes the next E (R200). -/
theorem test_scale_rule : scaleRule (f32OfInt 57344) 0 = some 0 ∧ scaleRule (f32OfInt 57344) 7 = some 7 ∧
    scaleRule (f32OfInt 57345) 0 = some 1 := by decide +kernel

theorem witness_StoredRanges_port : exec (.clientPortWrite 0 0x2000 [1, 2] true) (around live) =
    .next (nextOf (exec (.clientPortWrite 0 0x2000 [1, 2] true) (around live))) := next_of (by decide +kernel)

/-- A write of two bytes at a client port changes them and not their neighbours (R3). -/
theorem test_port_write : ((nextOf (exec (.clientPortWrite 0 0x2000 [1, 2] true) (around live))).mem = [(0x2000, 1), (0x2001, 2)])
    := by decide +kernel

/-- A wipe of region 255, of one block, that has begun. -/
theorem witness_StoredRanges_wipe :
    let s := around { setAll live [(F.secMrBase_base, mrPage 255, 127, 0x100), (F.secMrLimit_limit, mrPage 255, 127, 0x100)] with wipes := [⟨255, 0, true, 0⟩] }
    s.dev.pow.phase = 0 ∧ (s.dev.wipes.find? fun w => w.region == 255 && w.begun) = some ⟨255, 0, true, 0⟩ ∧
    (s.dev.mrRange 255).2 = 65536 := by decide +kernel

/-! ### Queues and time -/

/-- The meaning runs to its end from a state: `runs_after` makes this a run. -/
abbrev Goes (m : M Unit) (s : State) : Prop := ends m s.image s.start = true

/-- The meaning runs to its end from a transaction. -/
abbrev GoesOn (m : M Unit) (i : Image) (t : Tx) : Prop := ends m i t = true

theorem goes_runs {m : M Unit} {s : State} (h : Goes m s) : ∃ t, Runs m s.image s.start () t := ⟨_, runs_after h⟩

/-- The reset state with registers set. -/
def resetWith (l : List (Fld × Nat × Nat × Nat)) : State := around (setAll State.resetDev l)

/-- `live` with registers set. -/
def liveWith (l : List (Fld × Nat × Nat × Nat)) : State := around (setAll live l)

/-- A doorbell to a whole ring ahead of HEAD; any write while the queue is DISABLED. -/
theorem witness_QueueRegisters_tail :
    ((queAcc .queTail 0 64 core0).reaches live = true ∧ live.qrd F.queState_state 0 ≠ qDISABLED ∧
      diff32 64 (live.qrd F.queHead_head 0) ≤ ringEntries (live.qrd F.queRingCfg_size 0) ∧
      diff32 (live.qrd F.queTail_tail 0) (live.qrd F.queHead_head 0) ≤ diff32 64 (live.qrd F.queHead_head 0)) ∧
    (queAcc .queTail 0 5000 core0).reaches State.resetDev = true ∧ State.resetDev.qrd F.queState_state 0 = qDISABLED := by
  decide +kernel

theorem witness_QueueRegisters_enable : ∀ e ∈ [10],
    let d := (liveWith [(F.queState_state, 1, 0, qDISABLED), (F.queRingCfg_size, 1, 0, e - 10)]).dev
    (queAcc .queState 0 0x100 core0).reaches d = true ∧ d.qrd F.queState_state 0 = qDISABLED ∧
    d.qrd F.queRingCfg_size 0 ≤ 10 ∧ d.qrd F.queCplCfg_size 0 ≤ 10 ∧ d.ringsInWorld 0 = true := by decide +kernel

theorem witness_QueueRegisters_drain :
    (∀ st ∈ [qRUNNING, qSTOPPED],
      let d := (liveWith [(F.queState_state, 1, 0, st)]).dev
      (queAcc .queState 0 0 core0).reaches d = true ∧ d.qrd F.queState_state 0 = st ∧
      (queAcc .queState 0 0x300 core0).reaches d = true) ∧
    (queAcc .queState 0 0x400 core0).reaches live = true ∧ live.ringGone 0 = false ∧
    live.qrd F.queState_state 0 ≠ qDISABLED := by decide +kernel

/-- A queue with nothing in progress, and one with a descriptor that a QRESET cancels. -/
theorem witness_QueueRegisters_reset :
    let reset (d : Dev) : Dev := ((d.qset F.queState_enable 0 0).setQState 0 qDRAINING).setQh 0
      { (d.qset F.queState_enable 0 0).qh 0 with marks := [], resetting := true }
    let d := { live with descs := [pool0] }
    let t := after (stopAll ((reset d).descsOf 0) sCANCELLED rNONE) (around d).image ⟨reset d, []⟩
    live.descsOf 0 = [] ∧ GoesOn (stopAll ((reset d).descsOf 0) sCANCELLED rNONE) (around d).image ⟨reset d, []⟩ ∧
    t.dev.ringGone 0 = false := by decide +kernel

/-- ET at a value. -/
def clocked (et : Nat) (d : Dev) : Dev := { d with time := { d.time with et := et } }

theorem witness_TimeSet :
    let d := (resetWith [(F.timSet_et, 0, 0, 100)]).dev
    (regAcc .timCtl 0 0 (1 + 2 * d.rd F.timCtl_servo 0) core0).reaches d = true ∧ d.rd F.timState_state 0 = tUNSET ∧
    d.time.et ≤ d.rd F.timSet_et 0 ∧ ¬(d.rd F.timCtl_servo 0 = 1 ∧ d.rd F.txpPtpClock_source_valid 8 = 1) := by decide +kernel

theorem witness_TimeSet_ignored : ∀ st ∈ [tLOCKED, tSLEWING],
    let d := (resetWith [(F.timState_state, 0, 0, st)]).dev
    (regAcc .timCtl 0 0 (1 + 2 * d.rd F.timCtl_servo 0) core0).reaches d = true ∧ d.rd F.timState_state 0 = st := by
  decide +kernel

/-- Four times three seconds, and a state of the time base. -/
def timed (st : Nat) : State := around (clocked (4 * threeSeconds) (setAll State.resetDev [(F.timState_state, 0, 0, st)]))

/-- The time base slews, and follows a source. -/
def slewing : State := { timed tSLEWING with dev := setAll (timed tSLEWING).dev [(F.timCtl_servo, 0, 0, 1), (F.txpPtpClock_source_valid, 8, 0, 1)] }

theorem witness_TimeEvents :
    (timed 0).dev.time.reloadEt + usTicks ≤ (timed 0).dev.time.et ∧
    (timed 0).dev.time.calEt + 10 * msTicks ≤ (timed 0).dev.time.et ∧
    (timed 0).dev.rd F.pwrState_state 0 ≠ 4 ∧ worldOf core0 = (timed 0).dev.pageWorld (pg bTIM 0) ∧
    (∀ st ∈ [tLOCKED, tSLEWING], (timed st).dev.rd F.timState_state 0 = st ∧
      (timed st).dev.time.lastSync + threeSeconds ≤ (timed st).dev.time.et) ∧
    slewing.dev.hasSource = true ∧ slewing.dev.rd F.timState_state 0 = tSLEWING ∧
    slewing.dev.time.beforeSlew ≠ tHOLDOVER ∧ slewing.dev.time.slew = 0 ∧
    slewing.dev.time.lastSync + threeSeconds ≤ slewing.dev.time.et := by decide +kernel

/-- TIM_SET steps ET (R541). -/
theorem test_tim_set :
    ((nextOf (exec (.timSet core0) (resetWith [(F.timSet_et, 0, 0, 100)]))).dev.time.et = 100) := by decide +kernel

/-- A port of the PTP clock of a state. -/
def ptpDev (st : Nat) : Dev :=
  let d := setAll State.resetDev [(F.txpState_state, 0, 0, pUP), (F.txpPtpCfg_enable, 0, 0, 1),
    (F.txpPtpState_state, 0, 0, st), (F.timState_state, 0, 0, tFREE)]
  clocked (4 * threeSeconds) { d with assocs := [⟨0, false, 0, false, 1, 0, 0, 0, 0⟩] }

theorem witness_PtpCommands_settled : ∀ st ∈ [ptpMASTER, ptpSLAVE], (ptpDev st).ptpSettled ∧ (ptpDev st).ptpOn 0 = true := by
  unfold Dev.ptpSettled; decide +kernel

theorem witness_PtpCommands :
    Goes (ptpReceive 0 .management) (around (ptpDev ptpSLAVE)) ∧
    Goes (ptpReceive 0 (.sync 0 true 0 0)) (around (ptpDev ptpSLAVE)) ∧
    (0 : BitVec 8).toNat = (ptpDev ptpMASTER).rd F.txpPtpClock_domain 8 ∧
    (ptpDev ptpMASTER).rd F.txpPtpState_state 0 = ptpMASTER ∧
    (∀ kind ∈ [PtpKind.sync, .announce], SMap.get 0 ((ptpDev ptpMASTER).ptpPort 0).sent (ptpNumber kind) = 0) ∧
    ((ptpDev ptpSLAVE).ptpPort 0).annEt + threeSeconds ≤ (ptpDev ptpSLAVE).time.et ∧
    (ptpDev ptpSLAVE).rd F.txpPtpState_state 0 = ptpSLAVE := by decide +kernel

/-! ### Descriptors and look-ups in progress -/

/-- A LOOKUP_POOL that has ended, and the time at 1 s. -/
def ended : Desc := { pool0 with ended := true }

/-- The completion ring of queue 0 is open in host memory, and in local memory. -/
theorem witness_DescriptorEvents_ring :
    (let d := (liveWith [(F.queCplCfg_loc, 1, 0, 1)]).dev
     d.qrd F.queCplCfg_loc 0 = 1 ∧ d.rd F.hlkState_state 0 = 1 ∧ d.d3hot = false) ∧ live.ringGone 0 = false ∧ live.qrd F.queCplCfg_loc 0 = 0 ∧
    (let a := live.qrd F.queCplBase_base 0 * 4096 + live.qrd F.queCplTail_index 0 % ringEntries (live.qrd F.queCplCfg_size 0) * 32
     live.populatedAll (a % 2 ^ 46) 32 = true ∧ (∀ b ∈ blocksOf (a % 2 ^ 46) 32, live.blockPasses (live.queueWorld 0) .wr b = true) ∧
     live.mustWait false (a % 2 ^ 46) 32 = false ∧ live.moveHeld (a % 2 ^ 46) 32 = false) := by
  decide +kernel

theorem first_unthrottled : ∀ k, k < 32 → live.throttle k = none := by decide +kernel

/-- Nothing is in THROTTLE. -/
theorem live_unthrottled (k : Nat) : live.throttle k = none := by
  by_cases h : k < 32
  · exact first_unthrottled k h
  · unfold Dev.throttle
    rw [if_neg (by omega), if_neg (by omega)]

theorem witness_DescriptorEvents :
    let s := working [ended] []
    let slow := { pool0 with limit := 1, work := .none }
    let t := { working [slow] [] with dev := clocked (1 + usTicks) (working [slow] []).dev }
    s.dev.desc 0 0 = some ended ∧ (s.dev.descsOf 0).head?.map (fun y => y.seq) = some ended.seq ∧ ended.copy = none ∧
    t.dev.desc 0 0 = some slow ∧ t.dev.stoppable slow = true ∧ slow.endsAtOnce = true ∧
    slow.issued + slow.limit * usTicks < t.dev.time.et := by decide +kernel

theorem witness_DescriptorEvents_delay :
    let d := clocked (2 * usTicks) live
    let d := d.setQh 0 { d.qh 0 with unsignalled := 1, firstEt := usTicks, delay := 1 }
    (d.qh 0).delay ≠ 0 ∧ (d.qh 0).unsignalled ≠ 0 ∧ (d.qh 0).firstEt + (d.qh 0).delay * usTicks ≤ d.time.et := by
  decide +kernel

/-- A LOOKUP_POOL whose program has been checked. -/
def look0 : Lookup := ⟨true, [], [], true, none⟩

theorem witness_SliceAssignment : ∀ pst ∈ [0, 1, 2],
    let s := around (setAll { live with descs := [pool0] } [(F.pwrState_state, 0, 0, pst)])
    s.dev.inService (pg bGCL 0) = true ∧ s.dev.pow.phase = 0 ∧ pool0.lookup = some look0 ∧ (s.dev.cl 0).slice = none ∧
    (s.dev.descs.find? fun x => s.dev.sliceReady x 0) = some pool0 ∧ s.dev.rd F.seqStatus_state 0 ≠ qsERROR ∧
    s.dev.pow.want = none ∧ s.dev.rd F.pwrState_state 0 = pst ∧ s.dev.pow.exitEt = 0 ∧ s.dev.desc 0 0 = some pool0 := by
  decide +kernel

/-- A slice that is loading. -/
def loading : Slice := sliceOf [] []

theorem witness_SliceAssignment_loading :
    let d := setAll { live with descs := [pool0] } [(F.seqStatus_state, 0, 0, qsLOADING)]
    let s := around (d.setCl 0 { d.cl 0 with slice := some loading })
    (s.dev.cl 0).slice = some loading ∧ s.dev.rd F.seqStatus_state 0 = qsLOADING ∧ s.dev.clusterRuns 0 = true ∧
    s.dev.desc 0 0 = some pool0 ∧ Goes (loadProgram 0 loading pool0 look0) s := by decide +kernel

/-- Cluster 0 in its pool phase with a slice of a look-up, items, and items that units hold. -/
def poolingFor (x : Desc) (y : Slice) (items taken : List Item) : State :=
  let d := setAll { live with descs := [x] } [(F.seqStatus_state, 0, 0, qsPOOL)]
  around (d.setCl 0 { d.cl 0 with slice := some y, fetching := false, items := items, taken := taken, nextId := 1 })

def pooling (y : Slice) (items : List Item) : State := poolingFor pool0 y items []

/-- An item of the stream buffer of cluster 0: row 1 of `table0`. -/
def item0 (k : ItemKind) (got : Option (List Byte)) (st : Nat) : Item :=
  { id := 0, kind := k, row := 1, va := 0x40040, len := 64, off := 0, husk := none, pos := 0, pc := 0, after := Resume.start,
    asked := true, held := false, got := got, paged := none, status := st, reason := 0, skind := 0, code := 0, bag := 0,
    weight := 0, exp := 0 }

/-- A slice with its first bag open. -/
def open0 : Slice := { sliceOf [] [] with bags := [(0, ⟨0, 0, [], 0, []⟩)] }

theorem witness_PoolPhase_inPool : ∀ y ∈ [open0, { open0 with stopped := true }], ∀ l ∈ [[], [item0 .close none 0]],
    (pooling y l).dev.inPool 0 y ∧ ((pooling y l).dev.cl 0).fetching = false ∧ ((pooling y l).dev.cl 0).taken = [] := by
  unfold Dev.inPool; decide +kernel

/-- The row of a SUM; of a LOOKUP_ROWS to a client port; and of a WSUM against a resident table, which runs to its end. -/
theorem witness_PoolPhase_row :
    let i := item0 .row (some (List.replicate 64 0)) 0
    let x := { pool0 with raw := pool0.raw + 1 + 2 ^ 128 }
    let s := pooling open0 [i]
    s.dev.desc 0 0 = some pool0 ∧ pool0.lookup = some look0 ∧ s.dev.headRow 0 = some i ∧ s.dev.scaleHeld pool0 = false ∧
    i.husk = none ∧ pool0.isPool = true ∧ pool0.lkMode ≠ 2 ∧ x.isPool = false ∧
    Goes (rowTurn 0 open0 pool0 false i) s ∧ s.dev.unaccepted x 0 = [] := by decide +kernel

theorem witness_PoolPhase_close :
    let i := item0 .close none 0
    let s := pooling open0 [i]
    s.dev.headClose 0 = some i ∧ s.dev.scaleHeld pool0 = false ∧ pool0.lkAdd = false ∧ look0.slot = none ∧
    pool0.lkDeliver = false ∧ Goes (closeBag 0 open0 pool0 0 i (deliverItem 0 i)) s := by decide +kernel

theorem witness_PoolPhase_error : ∀ i ∈ [item0 .error none 0, item0 .row none sBOUNDS],
    let s := pooling open0 [i]
    (s.dev.cl 0).items.head? = some i ∧ (i.kind = .error ∨ i.status ≠ 0) ∧ pool0.clusterSet = [0] ∧ look0.slot = none ∧
    Goes (streamError 0 pool0 i) s := by decide +kernel

theorem witness_RowData :
    let i : Item := { item0 .row none 0 with asked := false }
    let s := pooling open0 [i]
    let k := s.dev.cl 0
    (k.dropped.find? fun e => e.1 == 0) = none ∧ s.dev.clusterRuns 0 = true ∧ (k.items.find? fun i => i.id == 0) = some i ∧
    i.got = none ∧ i.status = 0 ∧ k.slice = some open0 ∧
    (match itemBytes 0 open0 i s.image s.start with
      | .ok (.ok (bs, _)) _ => decide (bs.length = 64)
      | _ => false) = true := by decide +kernel

theorem witness_RowData_dropped : ∀ st ∈ [qsERROR, qsFETCH],
    let d := setAll live [(F.seqStatus_state, 0, 0, st)]
    let d := d.setCl 0 { live.cl 0 with dropped := [(5, 64)] }
    ((d.cl 0).dropped.find? fun e => e.1 == 5) = some (5, 64) ∧ ((d.cl 0).dropped.filter fun e => e.1 != 5) = [] ∧
    d.rd F.seqStatus_state 0 = st := by decide +kernel

/-- MEAN, SUM: the pool consumes a row of zeros and its bag has one row. -/
theorem test_consume_row :
    let s := pooling open0 [item0 .row (some (List.replicate 64 0)) 0]
    (((nextOf (exec (.rowItemConsume 0) s)).dev.cl 0).slice.map fun y => y.bags.map fun b => (b.1, b.2.rows)) = some [(0, 1)] := by
  decide +kernel

/-- A table of 4,096 rows of 64 elements in INT8 with a leading husk: 64 rows for each cluster. -/
def intTable : Nat := 0x40000 + 4096 * 2 ^ 64 + (3 + 2 ^ 10 + fINT8 * 2 ^ 12) * 2 ^ 192

/-- `live` with a table directory of one entry, and with half of the ways PINNED. -/
def residing (st : Nat) (en : Nat) : State :=
  let ways := (List.range 8).flatMap fun r => [(F.llsPart_cache, 64 + r, 0, 8), (F.llsPart_pinned, 64 + r, 0, 8)]
  let d := setAll live ([(F.qntTabdir_base, 2, 0, 0x620), (F.qntTabcnt_count, 2, 0, 1), (F.gclResCfg_state, 64, 7, st),
    (F.gclResCfg_enable, 64, 7, en), (F.pageState_state, pg bGCL 64, 0, 2)] ++ ways)
  { around d with mem := bytesAt 0x620000 (toBytes 64 intTable) [] }

theorem witness_ResidentSlots :
    let s := residing 0 0
    let w := regAcc .gclResCfg 64 7 (2 ^ 16) core0
    let d := (s.dev.wr F.gclResCfg_table 64 0 7).wr F.gclResCfg_enable 64 1 7
    let m := readTable 1024 0 0 true >>= fun y => Machine.dev >>= fun e => readShards 1024 0 (e.pageWorld (pg bGCL 64)) y
    let t := after m s.image ⟨d, []⟩
    let tab : Table := ⟨0, intTable, 0, []⟩
    w.reaches s.dev = true ∧ s.dev.rd F.gclResCfg_enable 64 7 ≠ 1 ∧ yields m s.image ⟨d, []⟩ tab = true ∧
    tab.intPath = true ∧ tab.form = 0 ∧ partBytes tab ≤ 8 * 2 ^ 20 ∧ partBytes tab ≠ 0 ∧
    (∀ n, n < 7 → t.dev.rd F.gclResCfg_enable 64 n ≠ 1) ∧
    t.dev.residentBytes [0, 1, 2, 3, 4, 5, 6] + 2 * partBytes tab ≤ t.dev.pinnedCapacity := by decide +kernel

theorem witness_ResidentSlots_off :
    let s := residing 2 1
    (regAcc .gclResCfg 64 7 0 core0).reaches s.dev = true ∧ s.dev.rd F.gclResCfg_enable 64 7 = 1 ∧
    s.dev.rd F.gclResCfg_table 64 7 = 0 ∧ (residing 1 1).dev.rd F.gclResCfg_state 64 7 = 1 ∧
    (residing 1 1).dev.slotUsers 7 = false ∧ (regAcc .acmRelease 0 0 127 core0).reaches live = true := by decide +kernel

/-- A READY slot whose epoch is over, with a look-up against it or none. -/
def epochDone (emptying used : Bool) : Dev :=
  { setAll live [(F.gclResCfg_state, 64, 0, 2)] with
    residents := [(0, ⟨8, 0, emptying, [], 8, 512⟩)]
    descs := if used then [{ pool0 with work := .lookup ⟨true, [], [], true, some 0⟩ }] else [] }

theorem witness_ResidentSlots_epoch : ∀ e ∈ [(false, true), (true, true), (true, false)],
    let d := epochDone e.1 e.2
    d.slotUsers 0 = e.2 ∧ (d.resident 0).emptying = e.1 ∧ d.anyFenced = false ∧ (∀ c, c < 64 → d.partDone 0 c = true) ∧
    (∀ x ∈ d.descs, x.names (63 * 128 + 127) = false) := by decide +kernel

/-- An INTERACT of one sample of three vectors to client port 0. -/
def interact0 : Desc := descOf (0x12 + 2 ^ (8 * 24 + 52) + 2 ^ 64) [] (.interact [] [])

theorem witness_InteractAndPorts_sample :
    let s := working [interact0] []
    s.dev.desc 0 0 = some interact0 ∧ 0 < interact0.length ∧ s.dev.scaleHeld interact0 = false ∧
    interact0.work = .interact [] [] ∧ interact0.ended = false ∧
    SMap.get 0 [] ((maskRegions interact0.itMask).getD 0 0) = 0 ∧ s.dev.regionFenced 0 = false ∧
    maskRegions interact0.itMask = [0] ∧ Goes (sampleBody interact0 [] [] 0 0) s ∧
    interact0.itStash = 0 ∧ s.dev.unaccepted interact0 64 = [] ∧
    yields (collect [] fun e => readVec 0 interact0 e 0) s.image s.start [] = true := by decide +kernel

/-- A record held for port 15, of a look-up. -/
def held0 : PortRec := ⟨15, 0, 0, 0, 0, [1, 2], 1, false, false⟩

theorem witness_InteractAndPorts_port :
    let s := { working [pool0] [] with dev := { live with descs := [pool0], ports := [held0] } }
    let d : Dev := { s.dev with ports := s.dev.ports.eraseP fun x => x.port == 15 }
    (s.dev.ports.find? fun r => r.port == 15) = some held0 ∧ live.desc 0 0 = none ∧
    ((ran (countRecord held0 s.dev.time.et) s.image ⟨d, []⟩).dev.desc 0 0).isSome = true := by decide +kernel

/-- The last byte of the secure region, and the block that it lies in. -/
theorem witness_InteractAndPorts_write :
    (0x80FFFF : BitVec 56).toNat / 2 ^ 46 = live.self ∧ Goes (writeLocal ⟨8, 15, 5, 1, 1024, 0, pg bGLB 0, 0⟩ 0x80FFFF [1]) (around live) ∧
    live.populatedAll 0x80FFFF 1 = true ∧ (∀ b ∈ blocksOf 0x80FFFF 1, live.blockPasses 1 .wr b = true) ∧
    live.mustWait false 0x80FFFF 1 = false ∧ live.moveHeld 0x80FFFF 1 = false := by decide +kernel

/-! ### Row work -/

/-- A GRAD_INTAKE of one row of 64 lanes from 0x40000 to 0x80000, on the stage of region 0. -/
def intake0 (g : Intake) : Desc :=
  descOf (0x20 + 2 ^ 64 + 0x40000 * 2 ^ 128 + 63 * 2 ^ 180 + 0x80000 * 2 ^ 192 + 2 ^ 244) [table0] (.intake g)

/-- Nothing counted yet; a row of zeros counted. -/
def fresh0 : Intake := ⟨0, 0, none, false⟩
def counted0 : GradCount := ⟨0, 0, 0, 0⟩

/-- `table0` with an optimizer of kind 1 whose sums are table 1, and table 1: FP32 with a leading husk at 0x60000. -/
def optTable : Table := ⟨0, 0x40000 + 8 * 2 ^ 64 + 3 * 2 ^ 192 + (1 + 2 ^ 48) * 2 ^ 384, 0, []⟩
def sumTable : Table := ⟨1, 0x60000 + 8 * 2 ^ 64 + (3 + 2 ^ 10) * 2 ^ 192, 0, []⟩

/-- The update record of table 0: a touched list of 64 entries at 0x700000, with one that is not consumed. -/
def urec0 : Nat := 0x700000 + 64 * 2 ^ 64 + 2 ^ 128

/-- `live` with the directories of the training side: scale-control records at 0x600000, update records at 0x610000, tables
at 0x620000, and hyperparameters at 0x630000. -/
def trains (xs : List Desc) (m : List Host.Cell) : State :=
  let d := setAll live [(F.optGsc_base, 8, 0, 0x600), (F.optGsc_enable, 8, 0, 1), (F.optUrec_base, 8, 0, 0x610),
    (F.optUrec_enable, 8, 0, 1), (F.qntTabdir_base, 2, 0, 0x620), (F.qntTabcnt_count, 2, 0, 2), (F.optHpdir_base, 8, 0, 0x630),
    (F.optHpcnt_count, 8, 0, 1)]
  let m := bytesAt 0x610000 (toBytes 64 urec0) (bytesAt 0x620000 (toBytes 64 optTable.raw ++ toBytes 64 sumTable.raw) m)
  { pending := [], mem := m, host := [], dev := { d with descs := xs } }

/-- A REQUANT whose table lies in a marked line waits. -/
theorem witness_DispatchOutcomes_wait :
    let s := trains [] []
    let s := { s with dev := { s.dev with ms := { s.dev.ms with marks := [0x620000 / 64] } } }
    ∃ u reg, requant (s.dev.fresh 0 (0x23 + 2 ^ 64)) s.image (s.opened 0 (0x23 + 2 ^ 64) s.start) = .error (.wait reg) u :=
  comes_wait (by decide +kernel)

def trainIntake (g : Intake) : State := trains [intake0 g] (bytesAt 0x40000 (List.replicate 64 0) [])

/-- A REQUANT of two rows from `table0` to a table in FP32 at 0x60000. -/
def table1 : Table := ⟨1, 0x60000 + 8 * 2 ^ 64 + 3 * 2 ^ 192, 0, []⟩
def noStats : Stats := ⟨0, 0, 0, 0, 0, 0, 0⟩
def requant0 (n : Nat) : Desc := descOf (0x23 + 2 * 2 ^ 64) [table0, table1] (.requant n noStats)

/-- A SCATTER_UPDATE of KIND 0, of one entry for row 1 of `table0`, with its gradient block at 0x80000. -/
def scatter0 (c : Scatter) : Desc := descOf (0x21 + 2 ^ 64 + 0x80000 * 2 ^ 128 + 2 ^ 448) [table0] (.scatter c)
def work0 : Scatter := ⟨[some 1], [0, 1], 0, 1, 0, 0, false, false, noStats⟩
def taken0 : Scatter := { work0 with next := 1, taken := true }

/-- An entry of the merge table of region 0 for row 1 of `table0`, KIND 1. -/
def merge0 (st : Nat) : Merge :=
  { tabs := [table0], row := 1, kind := 1, k := 0, q := 1024, seq := 0, world := 1, asid := 0, node := 0,
    vals := List.replicate 16 0, count := 1, step := 0, et := 0, users := [(0, 0)], stuck := st, cause := (0, 0),
    append := false, origin := none }

def merging (x : Desc) (st : Nat) : State :=
  let d := clocked (2 ^ 20) { live with descs := [x], merge := [(0, [merge0 st])] }
  { pending := [], mem := bytesAt 0x40040 (List.replicate 64 0) [], host := [], dev := d }

/-- An OPTIMIZE of table 0, of at most 8 rows. -/
def opt0 (o : Optimize) : Desc := descOf (0x22 + 8 * 2 ^ 64) [optTable, sumTable] (.optimize o)
def claimed : Optimize := { Optimize.idle with ready := true, fired := true, claims := 1, cur := some 1 }
def called : Optimize := { claimed with call := some 0 }

/-- A handler that runs, called at ET 0. -/
def call0 : Call := ⟨0, 0, 0, 0, 1, 0, [], []⟩

/-- A machine whose slices hold lines. -/
def caching (ns : List Nat) (d : Dev) : Dev := { d with ms := { d.ms with lines := ns.map fun n => (n, some ⟨false, 0⟩) } }

theorem witness_IntakeAndRequant :
    let s := trainIntake fresh0
    let g : Intake := { fresh0 with counted := some counted0 }
    s.dev.desc 0 0 = some (intake0 fresh0) ∧ (intake0 fresh0).ended = false ∧ s.dev.intakeRuns (intake0 fresh0) = true ∧
    Goes (endCount (intake0 fresh0) fresh0) s ∧ yields (countPass (intake0 fresh0) fresh0) s.image s.start counted0 = true ∧
    holds (intake0 fresh0) fresh0 counted0 = false ∧ Goes (intakeCommit (intake0 g) g counted0) (trainIntake g) := by
  decide +kernel

/-- `trainIntake` with the lines of the scale-control record in their slice. -/
def commits : State :=
  let s := trainIntake { fresh0 with counted := some counted0 }
  { s with dev := caching [0x600000 / 64, 0x600000 / 64 + 1] s.dev }

theorem witness_IntakeAndRequant_commit :
    let s := commits
    let g : Intake := { fresh0 with counted := some counted0 }
    let x := intake0 g
    let m := writePass x (commitScale x g counted0).1 (commitScale x g counted0).2.2
    let w := value m ⟨0, false, 0⟩ s.image s.start
    let t := after m s.image s.start
    let m' := writeHeader x (commitHeader x g counted0 w)
    let free (d : Dev) : Prop := d.mustWait true (d.gscAddr 0) 128 = false ∧ d.linesHeld (d.gscAddr 0) 128 = true ∧
      d.populatedAll (d.gscAddr 0) 128 = true ∧ d.mustWait false (d.gscAddr 0) 128 = false ∧ d.moveHeld (d.gscAddr 0) 128 = false ∧
      ∀ b ∈ blocksOf (d.gscAddr 0) 128, d.blockPasses (d.pageWorld (pg bOPT 8)) .record b = true
    Goes (m >>= fun _ => pure ()) s ∧ free t.dev ∧ ends m' s.image t = true ∧ free (after m' s.image t).dev := by decide +kernel

theorem witness_IntakeAndRequant_rows :
    let m := bytesAt 0x40000 (List.replicate 64 0) []
    let s := working [requant0 0] m
    (requant0 2).length ≤ 2 ∧ Goes (endRequant (requant0 2) noStats) (working [requant0 2] m) ∧ (requant0 2).rqResult = 0 ∧
    s.dev.foldsNothing ∧
    s.dev.desc 0 0 = some (requant0 0) ∧ (requant0 0).stopping = false ∧ 0 + 1 < (requant0 0).length ∧
    s.dev.scaleHeld (requant0 0) = false ∧ ends (requantRow (requant0 0) 0 noStats) s.image s.start = true := by
  unfold Dev.foldsNothing; decide +kernel

/-- A REQUANT of the secure world that finds the line of its row in its slice. -/
def requanting : State := { working [requant0 0] [] with dev := caching [0x1000] { live with descs := [requant0 0] } }

theorem witness_IntakeAndRequant_opens :
    let s := requanting
    let gs := value (requantOpen (requant0 0) 0) ([], []) s.image s.start
    let t := after (requantOpen (requant0 0) 0) s.image s.start
    s.dev.queueWorld 0 = 1 ∧ ends (requantOpen (requant0 0) 0) s.image s.start = true ∧ gs.2.flatten ≠ [] ∧ t.dev.rowHere gs.2 := by
  unfold Dev.rowHere; decide +kernel

theorem witness_ScatterSteps :
    let s := working [scatter0 work0] []
    s.dev.desc 0 0 = some (scatter0 work0) ∧ (scatter0 work0).scatter = some work0 ∧ (scatter0 work0).ended = false ∧
    work0.taken = false ∧ work0.rows.getD (work0.next + (work0.rows.drop work0.next).findIdx Option.isSome) none = some 1 ∧
    Goes (takeNext (scatter0 work0) work0 0 1) s := by decide +kernel

/-- A SCATTER_UPDATE with a second entry still to be taken in: its first contribution is, at once. -/
def work2 : Scatter := { work0 with rows := [some 1, some 2], offs := [0, 1, 2] }

theorem witness_ScatterSteps_take :
    let x := scatter0 work2
    let s := working [x] []
    let m := mergeRegion x x.table 0 1
    let t1 := after m s.image s.start
    yields m s.image s.start 0 = true ∧ ends (contribution x work2 0 0) s.image t1 = true ∧ s.dev.stageRuns 0 = true ∧
    s.dev.regionFenced 0 = false ∧ s.dev.stalls.contains 0 = false ∧ x.ended = false ∧ x.suKind = 0 ∧ bagAt work2.offs 0 = 0 ∧
    ((after (contribution x work2 0 0) s.image t1).dev.merges 0).length + (x.table.elems + 127) / 128 ≤ 32768 ∧
    ((work2.rows.drop 1).any Option.isSome) = true := by decide +kernel

theorem witness_ScatterSteps_drain :
    let s := merging (scatter0 taken0) 0
    (s.dev.merges 0).filter (s.dev.aged 0) = [merge0 0] ∧ (s.dev.merges 0)[0]? = some (merge0 0) ∧
    s.dev.mayDrain 0 (merge0 0) = true ∧ (merging (scatter0 taken0) 2).dev.mayDrain 0 (merge0 2) = true ∧
    Goes (drainUnit 0 (merge0 0)) s := by decide +kernel

/-- A GRAD entry for row 1 of table 0, whose sum at 0x60060 is pending and in its slice. -/
def gradMerge : Merge := { merge0 0 with tabs := [optTable, sumTable], kind := 0 }
def summing : State :=
  let s := trains [] (bytesAt 0x60070 [1] [])
  { s with dev := clocked (2 ^ 20) (caching [0x1801, 0x1802] { s.dev with merge := [(0, [gradMerge])] }) }

theorem witness_ScatterSteps_sum :
    let s := summing
    let m := openSum (drainWaiter 0 gradMerge) (drainWho 0 1 1024 0) gradMerge
    let v := value m ([], 0, []) s.image s.start
    let t1 := after m s.image s.start
    let t := after (issueRow (drainWho 0 1 1024 0) 2 v.1) s.image t1
    (s.dev.merges 0)[0]? = some gradMerge ∧ s.dev.mayDrain 0 gradMerge = true ∧ ends m s.image s.start = true ∧
    GoesOn (issueRow (drainWho 0 1 1024 0) 2 v.1) s.image t1 ∧ v.1.flatten ≠ [] ∧ t.dev.rowHere v.1 ∧ SumHdr.pending v.2.1 = true ∧
    gradMerge.node = s.dev.self ∧ s.dev.stageRuns 0 = true ∧ t.dev.foldsNothing := by
  unfold Dev.rowHere Dev.foldsNothing; decide +kernel

theorem witness_ScatterSteps_append :
    let s := trains [] []
    let s := { s with dev := { s.dev with appends := [(0, 0, 1)] } }
    (s.dev.appends.filter fun a => a.1 == 0) ≠ [] := by decide +kernel

theorem witness_ScatterSteps_unit :
    let s := trains [scatter0 taken0] []
    let s := { s with dev := caching [0x610000 / 64] s.dev }
    let unit := addUnit 0 0 0 taken0.step false >>= fun _ => sendUnits (scatter0 taken0) taken0
    let t := after unit s.image s.start
    let t' := after (setWork 0 0 (.scatter { taken0 with unit := true })) s.image t
    let a := s.dev.urecAddr 0
    (scatter0 taken0).suKind = 0 ∧ (scatter0 taken0).ended = false ∧ taken0.unit = false ∧ s.dev.draining 0 0 = false ∧
    (scatter0 taken0).suTable = 0 ∧
    Goes unit s ∧ GoesOn (setWork 0 0 (.scatter { taken0 with unit := true })) s.image t ∧ GoesOn (scatterCheck 0 0) s.image t' ∧
    s.dev.rd F.optUrec_enable 8 ≠ 0 ∧ s.dev.rmtOn = false ∧ t.dev.foldsNothing ∧ s.dev.linesHeld a 64 = true ∧
    s.dev.populatedAll a 64 = true ∧ s.dev.mustWait true a 64 = false ∧ s.dev.mustWait false a 64 = false ∧
    s.dev.moveHeld a 64 = false ∧
    ∀ b ∈ blocksOf a 64, s.dev.blockPasses (s.dev.pageWorld (pg bOPT 8)) .record b = true := by
  unfold Dev.foldsNothing; decide +kernel

theorem witness_OptimizeSteps_fire :
    let o := { Optimize.idle with ready := true }
    let s := trains [opt0 o] []
    s.dev.desc 0 0 = some (opt0 o) ∧ (opt0 o).armed = true ∧ (opt0 o).optimize = some o ∧ o.ready = true := by decide +kernel

/-- An OPTIMIZE that has claimed row 1, whose sum is pending; the lines of the row and of its sum are in their slices. -/
def updating : State :=
  let s := trains [opt0 claimed] (bytesAt 0x60070 [1] [])
  { s with dev := caching [0x1001, 0x1801, 0x1802] s.dev }

def noRow : OptRow := ⟨[], [], [], 0, [], 0, [], []⟩

theorem witness_OptimizeSteps_row :
    let s := updating
    let x := opt0 claimed
    let who := optWho claimed.stage 1 0 0
    let k := value (openOptRow x claimed.stage 1) noRow s.image s.start
    let t1 := after (openOptRow x claimed.stage 1) s.image s.start
    let gs := k.main ++ k.sum ++ k.states
    let t := after (issueRow who 3 gs) s.image t1
    s.dev.queueWorld 0 = 1 ∧ x.optimize = some claimed ∧ claimed.call = none ∧ claimed.cur = some 1 ∧ claimed.fired = true ∧
    Goes (runClaimed x claimed 1) s ∧ ends (openOptRow x claimed.stage 1) s.image s.start = true ∧
    GoesOn (issueRow who 3 gs) s.image t1 ∧ gs.flatten ≠ [] ∧ t.dev.rowHere gs ∧ SumHdr.pending k.hdr = true ∧
    s.dev.stageRuns claimed.stage = true ∧ s.dev.scaleHeld x = false ∧ x.table.optKind ≠ 5 := by
  unfold Dev.rowHere; decide +kernel

theorem witness_OptimizeSteps_end :
    let o := { claimed with cur := none, mark := URec.tconsume urec0 }
    let s := trains [opt0 o] []
    let t := after (readURec 0 0 0) s.image s.start
    (opt0 o).opTable = 0 ∧ yields (readURec 0 0 0) s.image s.start urec0 = true ∧ o.reached urec0 = true ∧
    GoesOn (endOpt 0 0) s.image t ∧ (opt0 o).opResult = 0 ∧ t.dev.foldsNothing ∧ t.dev.desc 0 0 = some (opt0 o) := by
  unfold Dev.foldsNothing; decide +kernel

/-- A handler that has returned row 1 of an OPTIMIZE. -/
def handled : State :=
  let s := trains [opt0 called] []
  { s with dev := caching [0x1001, 0x1801, 0x1802] (clocked (100 * usTicks) { s.dev with calls := [call0] }) }

theorem witness_OptimizeSteps_handler :
    let s := handled
    let data := List.replicate 196 0
    let dropped : Dev := { s.dev with calls := s.dev.calls.filter fun y => y.id != 0 }.releaseHeld
    let m := openOptRow (opt0 called) called.stage 1
    let k := value m noRow s.image ⟨dropped, []⟩
    (s.dev.calls.find? fun c => c.id == 0 && c.region == 0) = some call0 ∧ s.dev.desc 0 0 = some (opt0 called) ∧
    (opt0 called).optimize = some called ∧ data.length = 12 * (opt0 called).table.elems + 4 ∧
    s.dev.stageRuns called.stage = true ∧ s.dev.regionFenced 0 = false ∧
    ends (handlerRow (opt0 called) called 1 data) s.image ⟨dropped, []⟩ = true ∧
    ends m s.image ⟨dropped, []⟩ = true ∧ (k.main ++ k.sum ++ k.states).flatten ≠ [] ∧
    (after m s.image ⟨dropped, []⟩).dev.rowHere (k.main ++ k.sum ++ k.states) := by unfold Dev.rowHere; decide +kernel

theorem witness_OptimizeSteps_timeout :
    let s := handled
    let dropped : Dev := { s.dev with calls := s.dev.calls.filter fun y => y.id != 0 }.releaseHeld
    s.dev.rd F.optCustom_limit 0 ≠ 0 ∧ call0.et + s.dev.rd F.optCustom_limit 0 * usTicks ≤ s.dev.time.et ∧
    GoesOn (reappend (opt0 called) called.stage 1) s.image ⟨dropped.bump F.optCustomTo_count 0 1, []⟩ := by decide +kernel

/-- `live` with a load in a state, of words from local memory or of the E4M3 levels. -/
def loads (st kind : Nat) : State :=
  liveWith [(F.qntLoadStat_state, 2, 0, st), (F.qntLoadCtl_kind, 2, 0, kind), (F.qntLoadAddr_addr, 2, 0, 0x40000 / 64),
    (F.qntLoadCount_count, 2, 0, 1)]

theorem witness_LoadEngine :
    let w (v : Nat) := regAcc .qntLoadCmd 2 0 v core0
    (∀ st ∈ [0, 1, 2], (w 1).reaches (loads st 0).dev = true ∧ (loads st 0).dev.rd F.qntLoadStat_state 2 = st) ∧
    (w 2).reaches (loads 1 0).dev = true ∧ (loads 1 0).dev.waitedUsers = [] := by decide +kernel

theorem witness_LoadEngine_moves : ∀ kind ∈ [0, 2],
    let d := (loads 2 kind).dev
    let a := d.rd F.qntLoadAddr_addr 2 * 64 % 2 ^ 46
    let n := loadBytes kind (d.rd F.qntLoadCount_count 2)
    Goes loadMove (loads 2 kind) ∧ d.rd F.qntLoadCtl_dir 2 = 0 ∧ d.rd F.qntLoadStat_state 2 = 2 ∧
    (kind = 2 ∨ (d.populatedAll a n = true ∧ d.mustWait true a n = false ∧ d.moveHeld a n = false ∧ n ≠ 0 ∧
      ∀ b ∈ blocksOf a n, d.blockPasses (d.pageWorld (pg bQNT 2)) .rd b = true)) := by decide +kernel

/-! ### Moving data -/

/-- A FILL of 64 bytes at 0x80000 on engine 0. -/
def fill0 (c : Copy) : Desc := descOf (0x31 + 64 * 2 ^ 64 + 0x80000 * 2 ^ 128) [] (.copy c)
def waiting0 : Copy := ⟨0, false, 64, 0, none, false, none, none, none, [], false, false⟩
def running0 : Copy := { waiting0 with running := true }

theorem witness_CopySteps :
    let s := working [fill0 running0] []
    let s' := working [fill0 waiting0] []
    s.dev.engineRuns 0 = true ∧ (fill0 running0).copy = some running0 ∧ s.dev.copyRunning 0 = some (fill0 running0) ∧
    running0.stopped = false ∧ running0.done < running0.len ∧ s'.dev.copyRunning 0 = none ∧
    (s'.dev.copyWaiting 0).head? = some (fill0 waiting0) ∧ Goes (startCopy 0 (fill0 waiting0) waiting0) s' ∧
    (fill0 waiting0).cpDstSpace ≠ 1 ∧ waiting0.dstHost ≠ some true := by
  decide +kernel

/-- An ingest COPY from node 1, and a batch of its stream. -/
def ingest0 : Desc := descOf (0x30 + 4096 * 2 ^ 64 + 2 ^ 128 + 0x80000 * 2 ^ 192 + 3 * 2 ^ 256) [] (.copy running0)
def batch0 : IngestBatch := ⟨0, 1, 2, [1, 2], 0, 0, 1, false, 64⟩

theorem witness_CopySteps_ingest :
    let s := working [ingest0] []
    let s := { s with dev := { s.dev with peers := [(1, { Peer.none with state := nUP, batches := [batch0] })] } }
    s.dev.desc 0 0 = some ingest0 ∧ ingest0.isIngest = true ∧ ingest0.ended = false ∧ s.dev.engineRuns 0 = true ∧
    ingest0.cpSrc = 1 ∧ (s.dev.ingestFirst 1).map (fun y => (y.q, y.seq)) = some (0, 0) ∧
    (s.dev.peer 1).batches.head? = some batch0 ∧ Goes (takeBatch ingest0 running0 batch0) s ∧ batch0.state = 1 ∧
    64 + batch0.bytes ≤ ingest0.length ∧ running0.jrn = none ∧ running0.data = none := by decide +kernel

/-- A COPY to host memory whose FLUSH read is out, and ones with a GO that has not come; with a journal entry or without. -/
def flushing0 : Copy := { running0 with done := 64, flushing := true }
def goes0 (jrn : Option Nat) : Copy := { running0 with jrn := jrn, gos := [32], done := 32 }

/-- `live` with a journal of one entry at 0x640000, UNCONFIRMED, for descriptors of a queue. -/
def journalFor (xs : List Desc) : State :=
  let d := setAll live [(F.cpeJrn_base, 16, 0, 0x640), (F.cpeJrnCfg_entries, 16, 0, 1), (F.cpeJrnStat_unconfirmed, 16, 0, 1)]
  { pending := [], mem := bytesAt 0x640000 (toBytes 64 (3 * 2 ^ 336)) [], host := [],
    dev := { d with confirms := [⟨0, 64, 0⟩], descs := xs } }

def journal : State := journalFor []

theorem witness_CopySteps_flush : ∀ jrn ∈ [none, some 0],
    let c := { flushing0 with jrn := jrn }
    let s := journalFor [fill0 c]
    let d := (s.dev.bump F.cpeConfirms_count 0 1).arrived fun w => !w.cache && w.mark == jrn.map fun i => (i, c.done)
    let t1 := ran (progress 0 0 0 0 s.dev.time.et) s.image ⟨d, []⟩
    s.dev.desc 0 0 = some (fill0 c) ∧ s.dev.rd F.hlkState_state 0 = hUP ∧ s.dev.d3hot = false ∧ c.flushing = true ∧
    (if jrn = none then (t1.dev.desc 0 0).isSome = true
      else GoesOn (confirmJrn 0 c.done) s.image t1 ∧ ((after (confirmJrn 0 c.done) s.image t1).dev.desc 0 0).isSome = true) := by
  decide +kernel

theorem witness_CopySteps_go : ∀ jrn ∈ [none, some 0],
    let c := goes0 jrn
    let s := journalFor [fill0 c]
    let d : Dev := { s.dev with path := { s.dev.path with out := s.dev.path.out.filter fun w =>
      !(w.cache && w.mark == jrn.map fun i => (i, 32)) } }
    let t1 := ran (do
      setCopy 0 0 { c with gos := [] }
      progress 0 0 0 0 s.dev.time.et) s.image ⟨d, []⟩
    s.dev.desc 0 0 = some (fill0 c) ∧ c.gos = [32] ∧ c.stopped = false ∧ c.done < c.len ∧
    (jrn = none ∨ GoesOn (confirmJrn 0 32) s.image t1) := by decide +kernel

theorem witness_JournalCommands :
    let s := journal
    let d := (Dev.bump { s.dev with confirms := s.dev.confirms.erase ⟨0, 64, 0⟩ } F.cpeConfirms_count 0 1).arrived
      fun w => !w.cache && w.mark == some (0, 64)
    (s.dev.confirms.find? fun f => f.entry == 0 && f.upto == 64) = some ⟨0, 64, 0⟩ ∧ s.dev.rd F.hlkState_state 0 = hUP ∧
    s.dev.d3hot = false ∧ GoesOn (modJrn 0 fun j =>
      let j := if JrnEntry.confirmed j < 64 then setBits (setBits j 128 64 64) 256 64 s.dev.time.et else j
      if JrnEntry.state j = 2 ∧ JrnEntry.stop j ≤ JrnEntry.confirmed j then setBits j 336 2 0 else j) s.image ⟨d, []⟩ ∧
    (∀ v ∈ [1, 2], (regAcc .cpeJrnCtl 16 0 v core0).reaches s.dev = true) ∧ s.dev.rd F.cpeJrnSel_entry 16 = 0 ∧
    s.dev.rd F.cpeJrnStat_unconfirmed 16 ≠ 0 ∧ live.rd F.cpeJrnStat_unconfirmed 16 = 0 ∧
    (regAcc .cpeJrnCtl 16 0 2 core0).reaches live = true ∧
    0 < s.dev.rd F.cpeJrnCfg_entries 16 ∧ s.dev.rd F.cpeJrnCfg_entries 16 = 1 ∧
    JrnEntry.state (3 * 2 ^ 336) = 3 ∧ Goes (modJrn 0 fun j => setBits j 336 2 0) s := by decide +kernel

theorem witness_JournalCommands_read : Runs (readJrn 0) journal.image journal.start (3 * 2 ^ 336) journal.start := by
  have h1 : ∃ j, Runs (readJrn 0) journal.image journal.start j journal.start := by
    obtain ⟨bs, h⟩ := Sys2Proof.Machine.run_peeks false journal.image journal.start 64 (journal.start.dev.jrnAddr 0)
    exact ⟨fromBytes bs, by unfold Runs at *; simp only [readJrn, run_bind, run_dev, chain_ok, h, run_pure]⟩
  obtain ⟨j, h⟩ := h1
  have h2 : yields (readJrn 0) journal.image journal.start (3 * 2 ^ 336) = true := by decide +kernel
  unfold Runs at h
  unfold yields at h2
  rw [h] at h2
  simp only [decide_eq_true_eq] at h2
  unfold Runs
  rw [h, h2]

theorem witness_JournalCommands_all :
    Goes (each (List.range (journal.dev.rd F.cpeJrnCfg_entries 16)) fun i => do
      if JrnEntry.state (← readJrn i) = 3 then modJrn i fun j => setBits j 336 2 0 else pure ()) journal := by decide +kernel

/-- A MIGRATE of one page with its list at 0x50000, whose list has not been read. -/
def migrate0 (g : Migrate) : Desc := descOf (0x32 + 2 ^ 64 + 0x50000 * 2 ^ 192) [] (.migrate g)
def unread0 : Migrate := ⟨0, [], 0, none⟩

theorem witness_MigrateSteps :
    let x := migrate0 unread0
    let s := working [x] []
    let m := readVa (dispatchWaiter 0 0) (dispatchWho (s.dev.queueWorld 0) 0 0) (s.dev.queueAsid 0) x.mgList (16 * x.length)
    let t := after m s.image s.start
    let bs := value m [] s.image s.start
    let list := (List.range x.length).map fun i => (byteField (fromBytes bs) (16 * i) 8, bits (fromBytes bs) (128 * i + 64) 56)
    let t1 := ran (setWork 0 0 (.migrate { unread0 with list := list })) s.image t
    s.dev.desc 0 0 = some x ∧ x.mig = some unread0 ∧ x.ended = false ∧ x.length = 1 ∧ Goes (migrateStep x unread0) s ∧
    GoesOn (nextPage x) s.image (after (migrateStep x unread0) s.image s.start) ∧ ends m s.image s.start = true ∧
    (∀ n < 8, t.dev.rd F.gclResCfg_state 64 n ≠ 1 ∧ t.dev.rd F.gclResCfg_state 64 n ≠ 2) ∧ t1.dev.desc 0 0 ≠ none := by
  decide +kernel

/-- A small page of local memory that is held: its leaf entry at 0x58000. -/
def page0 : PageMove := ⟨0x40000, 0x40000, 0x60000, 0x58000, leaf0, 64⟩
def held1 : Migrate := ⟨0, [(0x40000, 0x60000)], 0, some page0⟩

theorem witness_MigrateSteps_page :
    let x := migrate0 held1
    let s := working [x] []
    let t1 := after (copyPage x page0) s.image s.start
    let t := after (writeEntry x page0) s.image t1
    s.dev.desc 0 0 = some x ∧ x.mig = some held1 ∧ held1.list ≠ [] ∧ held1.move = some page0 ∧ Goes (copyPage x page0) s ∧
    GoesOn (writeEntry x page0) s.image t1 ∧ (ran (endMove x held1 page0) s.image t).dev.desc 0 0 ≠ none := by
  decide +kernel

/-- A walk that is out, and fault batches of die 0. -/
def walk0 : Walk := ⟨0, 0, 1, [⟨⟨.cluster 0, 0, 0⟩, 1, 1⟩]⟩
def faults0 : FaultBatch := ⟨0, 0, 0, 1, []⟩

def translating (o c : Option FaultBatch) : State :=
  let d := setAll live [(F.trnFqBase_base, 64, 0, 0x650)]
  let d := { d with xl := { d.xl with walks := [walk0] } }
  around (clocked (2 ^ 40) (d.setBatcher 0 { d.batcher 0 with opened := o, closed := c }))

theorem witness_TranslationEvents :
    let s := translating (some faults0) none
    let d : Dev := { s.dev with xl := { s.dev.xl with walks := s.dev.xl.walks.filter (fun x => !(x == walk0)) } }
    (s.dev.xl.walks.find? fun k => k.die == 0 && k.asid == 0 && k.gran == 65536 / 65536) = some walk0 ∧
    Goes (endWalk walk0) s ∧ ends (walkFor walk0) s.image ⟨d, []⟩ = true ∧ (s.dev.batcher 0).opened = some faults0 ∧
    s.dev.pow.phase = 0 ∧ faults0.openEt + s.dev.rd F.trnBatchCfg_window 64 * usTicks ≤ s.dev.time.et ∧
    (regAcc .trnBatchCfg 64 0 (setBits (s.dev.word .trnBatchCfg 64 0) 9 1 1) core0).reaches s.dev = true ∧
    SMap.get 0 s.dev.xl.epochEt 0 + s.dev.rd F.migCfg_epoch 0 * msTicks ≤ s.dev.time.et := by decide +kernel

theorem witness_TranslationEvents_write :
    let s := translating none (some faults0)
    (s.dev.batcher 0).closed = some faults0 ∧ s.dev.pow.phase = 0 ∧ (s.dev.batcher 0).pending.length < 4 ∧
    diff32 (s.dev.rd F.trnFqTail_index 64) (s.dev.rd F.trnFqHead_index 64) + 1 + faults0.recs.length ≤
      2 ^ (s.dev.rd F.trnFqCfg_size 64 + 9) ∧ Goes (writeBatch 0 faults0) s ∧
    (s.dev.wr F.trnFqCfg_loc 64 1 0).rd F.trnFqCfg_loc 64 = 1 ∧ s.dev.rd F.hlkState_state 0 = hUP ∧ s.dev.d3hot = false := by
  decide +kernel

/-! ### The transport -/

/-- A node in session 5, with the session 6 at its end, on port 0. -/
def peer0 (st : Nat) : Peer := { Peer.none with state := st, session := 5, peerSession := 6, limit := 10000 }

/-- `live` with port 0 UP, its two associations installed, the node 1 as given, and its entry VALID of class 0. -/
def linked (x : Peer) : State :=
  let d := setAll live [(F.txpState_state, 0, 0, pUP), (F.txpMacsec_rx_valid, 0, 0, 1), (F.txpMacsec_tx_valid, 0, 0, 1),
    (F.mrgRmt_base, 8, 0, 0x660), (F.txpRetainCfg_size, 0, 0, 1)]
  let a : Assoc := ⟨0, false, 0, true, 1, 0, 0, 0, 1⟩
  { pending := [], mem := bytesAt 64 [1] [], host := [],
    dev := clocked (2 ^ 40) { d with assocs := [a, { a with rx := true }], peers := [(1, x)] } }

/-- A frame from node 1 to this node in its session. -/
def frame0 (body : List Byte) : Frame := ⟨true, true, false, true, 1, 0, 6, 5, 0, 0, 10000, 0, 0, body⟩

/-- A body that agrees with each KIND. -/
def bodyOf (kind : Nat) : List Byte :=
  if kind = 0x01 then List.replicate 8 0 else if kind = 0x02 then 1 :: List.replicate 15 0
  else if kind = 0x04 ∨ kind = 0x05 then List.replicate 16 0
  else if kind = 0x03 ∨ kind = 0x11 ∨ kind = 0x14 ∨ kind = 0x15 ∨ kind = 0x18 ∨ kind = 0x1B then []
  else List.replicate 8 0

/-- The transaction in which the checks of a frame of a KIND run. -/
def framed (kind : Nat) : Tx :=
  let s := linked (peer0 nUP)
  ⟨s.dev.bump F.txpRxBytes_count 0 (frameBytes true (bodyOf kind).length), []⟩

theorem witness_FramesReceived : ∀ k ∈ frameCommands.map Prod.fst,
    let s := linked (peer0 nUP)
    let f := frame0 (bodyOf k)
    s.dev.linkUp 0 = true ∧ yields (frameOk 0 k f) s.image (framed k) true = true ∧
    GoesOn (acceptFrame 0 k f) s.image (after (frameOk 0 k f) s.image (framed k)) ∧ s.dev.outbox = [] ∧ s.dev.descs = [] := by
  decide +kernel

/-- A frame of another session fails its checks. -/
theorem witness_FramesReceived_bad : ∀ k ∈ frameCommands.map Prod.fst, k ≠ 0x04 →
    yields (frameOk 0 k { frame0 (bodyOf k) with peerSession := 9 }) (linked (peer0 nUP)).image (framed k) false = true := by
  decide +kernel

/-- The transaction after the checks of a HELLO or a HELLO_ACK of a CONNECTING node. -/
def greeted (k : Nat) : Tx :=
  let s := linked (peer0 nCONNECTING)
  after (frameOk 0 k (frame0 (bodyOf k))) s.image ⟨s.dev.bump F.txpRxBytes_count 0 (frameBytes true (bodyOf k).length), []⟩

theorem witness_FramesReceived_hello :
    let s := linked (peer0 nCONNECTING)
    let t := greeted 0x04
    let x := t.dev.peer 1
    let met : Peer := { x with peerSession := 6, mark := 0 }
    x.state = nCONNECTING ∧ x.session ≠ 0 ∧ 0 < t.dev.time.et ∧
    yields (appliedFrom 1) s.image { t with dev := t.dev.setPeer 1 { met with lastRxEt := t.dev.time.et } } 0 = true := by
  decide +kernel

theorem witness_FramesReceived_helloAck :
    let s := linked (peer0 nCONNECTING)
    let t := greeted 0x05
    let x := t.dev.peer 1
    let met : Peer := { x with peerSession := 6, mark := 0 }
    let begun := ran (sessionBegins 1 0) s.image { t with dev := t.dev.setPeer 1 met }
    x.state = nCONNECTING ∧ 0 < t.dev.time.et ∧ begun.dev.rmtOn = true ∧
    yields (rmtRead 1 8) s.image begun 0 = true ∧ ((after (rmtRead 1 8) s.image begun).dev.peer 1).owed = [] := by decide +kernel

/-- A node with everything that a timer of it looks at: an unacknowledged frame, one that is missing, and times at 0. -/
def lagging (st : Nat) : Peer :=
  { peer0 st with nextSeq := 1, retained := [⟨0, 0x20, true, true, 0, [1], 0, 0, 0⟩], unackedEt := some 0, nakEt := some 0,
                  kept := [⟨1, 0x20, true, true, 0, [1], 0, 0⟩], seen := 2 }

/-- A message of one byte to node 1, and an open batch at port 0. -/
def out0 : OutMsg := ⟨1, 0x1A, 0, [1], 0, false, 0, [], false⟩
def open1 : OutBatch :=
  let d : Delta :=
    { node := 1, table := 0, kind := 1, unit := false, step := 0, origin := 0, site := 0, bseq := 0, tag := 0, fmt := 0,
      scale := 0, entries := [(1, 0, List.replicate 16 0)], users := [] }
  ⟨0, table0, d, 72, 0⟩

theorem witness_TransportSends :
    let s := linked (peer0 nUP)
    let s := { s with dev := { s.dev with batches := [open1], outbox := [out0] } }
    (s.dev.batches.filter fun b => b.port == 0 && decide (b.et + 2 * usTicks ≤ s.dev.time.et)) = [open1] ∧
    yields (sendDelta 0 (open1.closing s.dev)) s.image s.start true = true ∧ s.dev.portRuns 0 = true ∧
    (s.dev.outbox.find? fun m => s.dev.sendable 0 m && decide (s.dev.retainUsed 0 +
      chargeOf (min 8192 (m.body.length - m.sent)) ≤ s.dev.rd F.txpRetainCfg_size 0 * 2 ^ 20)) = some out0 ∧
    Goes (sendData 0 out0) s ∧ out0.users = [] ∧
    s.dev.capoPasses (remoteWho 0 0) 0 3 (s.dev.sendClass out0) (chargeOf 1) := by unfold Dev.capoPasses; decide +kernel

theorem witness_TransportSends_timers :
    let s := linked (lagging nUP)
    let x := s.dev.peer 1
    s.dev.sessionRuns 1 ∧ x.unackedEt = some 0 ∧ 0 + s.dev.rd F.txpTimers_ack_us x.port * usTicks ≤ s.dev.time.et ∧
    yields (appliedFrom 1) s.image s.start 0 = true ∧ x.state = nUP ∧
    x.lastTxEt + s.dev.rd F.txpTimers_idle_us x.port * usTicks ≤ s.dev.time.et ∧ x.nakEt = some 0 ∧ x.missing ≠ [] ∧
    0 + s.dev.rd F.txpRetxCfg_rto_min x.port * usTicks ≤ s.dev.time.et := by
  unfold Dev.sessionRuns; decide +kernel

theorem witness_TransportSends_rto :
    let s := linked (lagging nUP)
    let x := s.dev.peer 1
    let s1 := linked { lagging nUP with retries := 15 }
    x.acked ≠ x.nextSeq ∧ s.dev.sessionRuns 1 ∧ s1.dev.sessionRuns 1 ∧
    x.rtoEt + max (s.dev.rd F.txpRetxCfg_rto_min x.port * usTicks) (2 * x.rtt) ≤ s.dev.time.et ∧
    x.retries + 1 < s.dev.rd F.txpRetxCfg_retry_max x.port ∧
    s1.dev.rd F.txpRetxCfg_retry_max 0 ≤ (s1.dev.peer 1).retries + 1 ∧ Goes (losePeer 1 2) s1 ∧ s1.dev.lossFree 1 ∧
    (x.retained.find? fun t => decide (diff32 t.seq x.acked < 2 ^ 31)) = some ⟨0, 0x20, true, true, 0, [1], 0, 0, 0⟩ := by
  unfold Dev.sessionRuns Dev.lossFree; decide +kernel

theorem witness_Sessions_timers :
    let s := linked (peer0 nCONNECTING)
    let s1 := linked (peer0 nUP)
    (s.dev.peer 1).state = nCONNECTING ∧ s.dev.portRuns 0 = true ∧ (s.dev.peer 1).session ≠ 0 ∧
    (s.dev.peer 1).helloEt + msTicks ≤ s.dev.time.et ∧
    yields (appliedFrom 1) s.image ⟨s.dev.setPeer 1 { s.dev.peer 1 with helloEt := s.dev.time.et }, []⟩ 0 = true ∧
    s1.dev.sessionRuns 1 ∧ (s1.dev.peer 1).lastRxEt + s1.dev.rd F.txpTimers_peer_ms 0 * msTicks ≤ s1.dev.time.et ∧
    Goes (losePeer 1 1) s1 ∧ s1.dev.lossFree 1 := by unfold Dev.sessionRuns Dev.lossFree; decide +kernel

/-- A node without a session number takes one, whatever it is, and reads what has been applied. -/
theorem witness_Sessions_first :
    let s := linked { peer0 nCONNECTING with session := 0 }
    ends (appliedFrom 1) s.image (ran (do
      let v ← newSession 0
      modPeer 1 fun x => { x with session := v }
      modDev Dev.syncPeer
      modPeer 1 fun x => { x with helloEt := s.dev.time.et }) s.image s.start) = true := by decide +kernel

/-- Port 0 that has left UP at ET 0, in a state. -/
def downed (st : Nat) (x : Peer) : State :=
  let s := linked x
  { s with dev := { setAll s.dev [(F.txpState_state, 0, 0, st)] with portsHid := [(0, ⟨some 0, 0, 0, 0, 0⟩)] } }

theorem witness_Sessions_down :
    let s := downed pTRAINING (peer0 nUP)
    let s1 := downed pDOWN (peer0 nNONE)
    (s.dev.ph 0).down = some 0 ∧ s.dev.portRuns 0 = false ∧ 0 + s.dev.rd F.txpTimers_port_ms 0 * msTicks ≤ s.dev.time.et ∧
    s.dev.rd F.txpState_state 0 ≠ pDOWN ∧ Goes (losePort 0) s ∧ (s.dev.peersOn 0).map Prod.fst = [1] ∧ s.dev.lossFree 1 ∧
    (s1.dev.ph 0).down = some 0 ∧ s1.dev.rd F.txpState_state 0 = pDOWN ∧ s1.dev.peersOn 0 = [] ∧
    0 + s1.dev.rd F.txpTimers_port_ms 0 * msTicks ≤ s1.dev.time.et := by unfold Dev.lossFree; decide +kernel

theorem witness_Sessions_detached :
    let s := linked (peer0 nDETACHING)
    (s.dev.peer 1).state = nDETACHING ∧ (s.dev.peer 1).unapplied = [] ∧ s.dev.portRuns (s.dev.peer 1).port = true ∧
    Goes (sendControl 1 0x06 [0]) s ∧ GoesOn (losePeer 1 5) s.image (after (sendControl 1 0x06 [0]) s.image s.start) ∧
    s.dev.lossFree 1 := by unfold Dev.lossFree; decide +kernel

/-- ATTACH of a node from NONE and from LOST, and DETACH of an UP one; and ATTACH where the entry is not valid. -/
theorem witness_Sessions_attach : ∀ e ∈ [(1, nNONE), (1, nLOST), (2, nUP)],
    let s := linked (peer0 e.2)
    let d := (s.dev.wr F.txpPeerCmd_node 8 1).wr F.txpPeerCmd_op 8 e.1
    (regAcc .txpPeerCmd 8 0 (1 + e.1 * 2 ^ 12 + 2 ^ 31) core0).reaches s.dev = true ∧
    yields (peerEntry 1) s.image ⟨d, []⟩ 1 = true ∧ bit 1 0 = true ∧ (s.dev.peer 1).state = e.2 ∧
    yields (peerEntry 1) (around live).image ⟨d, []⟩ 0 = true := by
  decide +kernel

/-- A unit record in the reorder store, released or not. -/
def item1 (released : Bool) : RoItem := ⟨0, { open1.d with unit := true, entries := [] }, table0, 0, released, false, 0, 0, false⟩

theorem witness_ReorderAndSpill :
    let s := linked (peer0 nUP)
    let s0 := { s with dev := { s.dev with reorder := [item1 false] } }
    let s1 := { s with dev := { s.dev with reorder := [item1 true] } }
    (s0.dev.reorder.any fun i => i.port == 0 && !i.released && decide (i.due ≤ s0.dev.time.et)) = true ∧
    s1.dev.stageRuns 0 = true ∧
    firstItem (s1.dev.reorder.filter fun i => i.port == 0 && s1.dev.applicable i) = some (item1 true) ∧
    Goes (applyNext 0 (item1 true)) s1 := by decide +kernel

/-- A machine that trains and has node 1 on port 0, with an item released and the lines that its application needs. -/
def applying (i : RoItem) : State :=
  let s := trains [] (bytesAt 0x60070 [1] (bytesAt 64 [1] []))
  let d := setAll s.dev [(F.mrgRmt_base, 8, 0, 0x660), (F.txpState_state, 0, 0, pUP)]
  { s with dev := caching [0x1801, 0x1802, 0x610000 / 64] (clocked (2 ^ 40) { d with peers := [(1, peer0 nUP)], reorder := [i] }) }

theorem witness_ReorderAndSpill_unit :
    let i := item1 true
    let s := applying i
    let a := s.dev.urecAddr 0
    let added := ran (do
      addUnit 1024 0 0 i.d.step i.late
      bump F.mrgUnitsRx_count 8
      modDev fun d => { d with reorder := d.reorder.filter fun j => !j.same i }) s.image s.start
    firstItem (s.dev.reorder.filter fun i => i.port == 0 && s.dev.applicable i) = some i ∧ s.dev.stageRuns 0 = true ∧
    s.dev.rd F.optUrec_enable 8 ≠ 0 ∧ GoesOn (itemApplied i) s.image added ∧ s.dev.linesHeld a 64 = true ∧
    s.dev.populatedAll a 64 = true ∧ s.dev.mustWait true a 64 = false ∧ s.dev.mustWait false a 64 = false ∧
    s.dev.moveHeld a 64 = false ∧
    ∀ b ∈ blocksOf a 64, s.dev.blockPasses (s.dev.pageWorld (pg bOPT 8)) .record b = true := by decide +kernel

/-- The address space in which a home applies the deltas of the normal world; the spec leaves its number open. -/
def homeSpace : Nat := (Config.homeAsid false).toNat

/-- A page of the normal world, and the buffers in which it is mapped onto itself. -/
def leaf1 : Nat := 1 + 7 * 8
def homeCtx : AsidCtx := ⟨64, homeSpace, true, 0, 0, 0⟩
def homeTlb : Tlb := ⟨64, homeSpace, 0, 0, 2, leaf1⟩
def homeXl : Xlat := { live.xl with ctxs := [homeCtx], tlbs := [homeTlb] }

theorem home_ctx : (homeXl.ctxs.find? fun c => c.buf == 64 && c.asid == homeSpace) = some homeCtx := by
  simp [homeXl, homeCtx]

theorem home_tlb (d : Dev) (h : d.xl = homeXl) (va : Nat) (hv : homeTlb.covers va = true) :
    d.tlbFind 64 homeSpace va = some homeTlb := by
  unfold Dev.tlbFind
  rw [h, home_ctx]
  simp [homeXl, homeTlb, homeCtx] at hv ⊢
  exact hv

theorem home_waits (d : Dev) (h : d.xl = homeXl) (w : Waiter) (g : Nat) :
    d.faultWaits w homeSpace g = false ∧ d.walkWaits w homeSpace g = false := by
  have e : homeXl.b0.unanswered = [] ∧ homeXl.b0.later = [] ∧ homeXl.b1.unanswered = [] ∧ homeXl.b1.later = [] ∧
      homeXl.walks = [] := by decide +kernel
  obtain ⟨e1, e2, e3, e4, e5⟩ := e
  simp [Dev.faultWaits, Dev.walkWaits, Dev.batcher, h, e1, e2, e3, e4, e5]

/-- A transaction after a page has been found in the buffer. -/
def pageHit (t : Tx) : Tx := { t with dev := { t.dev.bump F.trnL2Hits_count 64 1 with xl := homeXl } }

theorem run_homePage (q n va len : Nat) (need : Need) (i : Image) (t : Tx) (h : t.dev.xl = homeXl)
    (h1 : t.dev.rd F.trnAsid_enable 66 = 1) (hv : homeTlb.covers va = true)
    (hn : Nat.land (bits homeTlb.leaf 3 3) need.bits = need.bits) :
    xlatePage ⟨.stage 0, q, n⟩ 0 homeSpace need va len i t = .ok (.ok ⟨homeTlb.pa va, va, len, leaf1, 2⟩) (pageHit t) := by
  have ha : homeXl.answers = [] := by decide +kernel
  have hr : homeXl.retried = [] := by decide +kernel
  have hb : (t.dev.bump F.trnL2Hits_count 64 1).xl = homeXl := by
    rw [← h]; unfold Dev.bump; dsimp only; split <;> (try split) <;> rfl
  have hw := home_waits t.dev h ⟨.stage 0, q, n⟩ (va / 65536)
  unfold xlatePage
  simp only [run_bind, run_dev, chain_ok, h, ha, List.find?_nil, run_pure, hw.1, hw.2, Bool.or_self, Bool.false_eq_true, if_false,
    Requester.die, Nat.reduceDiv, Nat.add_zero, asidCtx, run_rd, h1, run_ite, Nat.one_ne_zero, home_ctx, home_tlb t.dev h va hv]
  have hc : homeCtx.valid = true := rfl
  have hc2 : (homeCtx.world != 0) = false := rfl
  have hl : (bits homeTlb.leaf 2 1 != 0) = false := by decide
  simp only [hc, hc2, Bool.and_false, Bool.false_eq_true, if_false, Bool.not_true, run_bind, run_bump, chain_ok, run_modDev, hl,
    hn, bne_self_eq_false, hb, hr, List.filter_nil, run_pure]
  rfl

/-- Such a page translates a range that lies in one granule. -/
theorem run_homeRange (q n va len : Nat) (need : Need) (i : Image) (t : Tx) (h : t.dev.xl = homeXl)
    (h1 : t.dev.rd F.trnAsid_enable 66 = 1) (hv : homeTlb.covers va = true)
    (hn : Nat.land (bits homeTlb.leaf 3 3) need.bits = need.bits) (h0 : len ≠ 0) (h2 : ¬2 ^ 52 < va + len)
    (hg : granules va len = [(va, len)]) :
    let s : Seg := ⟨homeTlb.pa va, va, len, leaf1, 2⟩
    segCheck ⟨.stage 0, q, n⟩ need s i (pageHit t) = .ok () (pageHit t) →
    openRanges ⟨.stage 0, q, n⟩ (applyWho 0) homeSpace need [(va, len)] i t = .ok [[s]] (pageHit t) := by
  intro s hs
  have hw : (applyWho 0).world = 0 := rfl
  have ht : Machine.translate ⟨.stage 0, q, n⟩ 0 homeSpace need va len i t = .ok [s] (pageHit t) := by
    unfold Machine.translate
    simp only [run_ite, if_neg h0, run_bind, if_neg h2, run_pure, chain_ok, hg, xlateAll,
      run_homePage q n va len need i t h h1 hv hn, Bool.false_eq_true, if_false, each]
    rw [hs]
    rfl
  simp only [openRanges, collect, run_bind, hw, ht, chain_ok, run_pure, mergeSegs, List.foldr]

/-- Table 0 of the normal world at 0x10000000 and its sums at 0x10010000, in memory region 1. -/
def farTable : Table := ⟨0, 0x10000000 + 8 * 2 ^ 64 + 3 * 2 ^ 192 + (1 + 2 ^ 48) * 2 ^ 384, 0, []⟩
def farSums : Table := ⟨1, 0x10010000 + 8 * 2 ^ 64 + (3 + 2 ^ 10) * 2 ^ 192, 0, []⟩

/-- A batch of two GRAD entries, for rows 1 and 2 of table 0. -/
def item2 : RoItem :=
  ⟨0, { open1.d with kind := 0, entries := [(1, 0, List.replicate 16 0), (2, 0, List.replicate 16 0)] }, farTable, 0, true, false,
   0, 0, false⟩

/-- A home that has the batch to apply; the sum of row 1 is pending, and its lines are in their slice. -/
def homed : State :=
  let s := trains [] []
  let d := setAll s.dev [(F.secMrBase_enable, 1, 1, 1), (F.secMrBase_base, 1, 1, 0x1000), (F.secMrLimit_limit, 1, 1, 0x1001),
    (F.secMrBase_rd, 1, 1, 1), (F.secMrBase_wr, 1, 1, 1), (F.secMrBase_at, 1, 1, 1), (F.secMrLimit_state, 1, 1, 2)]
  let m := bytesAt 0x620000 (toBytes 64 farTable.raw ++ toBytes 64 farSums.raw) [(0x10010070, 1)]
  { s with mem := m, dev := caching [0x400401, 0x400402] (clocked (2 ^ 40) { d with xl := homeXl, reorder := [item2] }) }

/-- The first row's entries, and what stands for them while they are applied. -/
def es1 : List (Nat × Nat × List Nat) := [(1, 0, List.replicate 16 0)]
def merge1 : Merge := item2.merge 0 (2 ^ 40) es1
def waiter1 : Waiter := ⟨.stage 0, 1024, 2 ^ 64 + merge1.kind + 4 * (merge1.row + 2 ^ 40 * farTable.num)⟩

def homed1 : Tx := after (readCompanions 1024 0 farTable) homed.image homed.start

def sumSegs : List (List Seg) := [[⟨homeTlb.pa 0x10010060, 0x10010060, 96, leaf1, 2⟩]]

def sumRest : M (List (List Seg) × Husk × List Byte) := do
  if (oneHome (sumSegs ++ [[⟨homeTlb.pa 0x10000040, 0x10000040, 64, leaf1, 2⟩]])).isNone then failBounds
  checkRow (applyWho 0) .at sumSegs
  let (h, p) ← readRow farSums sumSegs
  return (sumSegs, h, p)

theorem run_segCheck {w : Waiter} {need : Need} {s : Seg} {i : Image} {t : Tx} (h1 : s.shared = false)
    (h2 : (s.pa / 2 ^ 46 != t.dev.rd F.glbNode_node 0) = false) (h3 : t.dev.populatedAll (s.pa % 2 ^ 46) s.len = true) :
    segCheck w need s i t = .ok () t := by
  unfold segCheck
  simp only [run_bind, run_dev, chain_ok, run_ite, h1, h2, h3, Bool.false_eq_true, if_false, Bool.not_true, run_pure]

set_option exponentiation.threshold 600 in
set_option maxRecDepth 100000 in
theorem homed_xl : homed1.dev.xl = homeXl := by rfl

theorem homed_opens : openSum waiter1 (applyWho 0) { merge1 with tabs := [farTable, farSums] } homed.image homed1 =
    sumRest homed.image (pageHit (pageHit homed1)) := by
  have e1 := run_homeRange 1024 waiter1.seq 0x10010060 96 .at homed.image homed1 homed_xl (by decide +kernel) (by decide +kernel)
    (by decide) (by decide) (by decide) (by decide) (run_segCheck (by decide +kernel) (by decide +kernel) (by decide +kernel))
  have e2 := run_homeRange 1024 waiter1.seq 0x10000040 64 .rd homed.image (pageHit homed1) rfl (by decide +kernel) (by decide +kernel)
    (by decide) (by decide) (by decide) (by decide) (run_segCheck (by decide +kernel) (by decide +kernel) (by decide +kernel))
  have r1 : farSums.ranges (farSums.localRow 1) = [(0x10010060, 96)] := by decide +kernel
  have r2 : farTable.ranges (farTable.localRow 1) = [(0x10000040, 64)] := by decide +kernel
  show (do
    let gs ← openRanges ⟨.stage 0, 1024, waiter1.seq⟩ (applyWho 0) homeSpace .at (farSums.ranges (farSums.localRow 1))
    let ms ← openRanges ⟨.stage 0, 1024, waiter1.seq⟩ (applyWho 0) homeSpace .rd (farTable.ranges (farTable.localRow 1))
    if (oneHome (gs ++ ms)).isNone then failBounds
    checkRow (applyWho 0) .at gs
    let (h, p) ← readRow farSums gs
    return (gs, h, p) : M (List (List Seg) × Husk × List Byte)) homed.image homed1 = _
  rw [r1, r2, run_bind, e1]
  simp only [chain_ok]
  rw [run_bind, e2]
  rfl

/-- What the sum of row 1 opens with, and what is left then. -/
def sumOpened : List (List Seg) × Husk × List Byte := value sumRest ([], 0, []) homed.image (pageHit (pageHit homed1))
def sumLeft : Tx := after sumRest homed.image (pageHit (pageHit homed1))

theorem sum_rest : ends sumRest homed.image (pageHit (pageHit homed1)) = true ∧ sumOpened.1 = sumSegs ∧
    SumHdr.pending sumOpened.2.1 = true ∧ GoesOn (issueRow (applyWho 0) 2 sumSegs) homed.image sumLeft ∧
    (after (issueRow (applyWho 0) 2 sumSegs) homed.image sumLeft).dev.rowHere sumSegs := by unfold Dev.rowHere; decide +kernel

theorem triple_of {β γ : Type} (x : α × β × γ) (a : α) (h : x.1 = a) : x = (a, x.2.1, x.2.2) := by
  cases h; rfl

theorem run_sumRest : Runs sumRest homed.image (pageHit (pageHit homed1)) (sumSegs, sumOpened.2.1, sumOpened.2.2) sumLeft := by
  have h : Runs sumRest homed.image (pageHit (pageHit homed1)) sumOpened sumLeft := runs_value sum_rest.1
  have e : sumOpened = (sumSegs, sumOpened.2.1, sumOpened.2.2) := triple_of sumOpened sumSegs sum_rest.2.1
  rw [e] at h
  exact h

theorem homed_companions : yields (readCompanions 1024 0 farTable) homed.image homed.start (none, none, farSums) = true := by
  decide +kernel

/-- The row of the first entry is open: its sum has it listed already. -/
theorem witness_ReorderAndSpill_row : homed.itemOpens 0 item2 es1 ∧
    firstItem (homed.dev.reorder.filter fun i => i.port == 0 && homed.dev.applicable i) = some item2 ∧
    homed.dev.stageRuns 0 = true ∧ item2.next + es1.length < item2.d.entries.length := by
  refine ⟨?_, by decide +kernel, by decide +kernel, by decide⟩
  have hs : homed.dev.self = 0 := by decide +kernel
  have ht : homed.dev.time.et = 2 ^ 40 := by decide +kernel
  obtain ⟨-, -, h3, h4, h5⟩ := sum_rest
  unfold State.itemOpens
  rw [hs, ht]
  exact ⟨none, none, farSums, sumSegs, sumOpened.2.1, sumOpened.2.2, homed1, sumLeft, _, runs_yields homed_companions,
    homed_opens.trans run_sumRest, h3, runs_after h4, h5⟩

/-- The spill ring of port 0, of four records at 0x664000, that holds one, of a unit record for node 1, and REFUSED where `bad`. -/
def spilt (bad : Bool) : State :=
  let s := linked (peer0 nUP)
  { s with
    mem := [(64, 1), (0x664000, 1), (0x664004, if bad then 12 else 4)]
    dev := setAll s.dev [(F.mrgSpillCfg_entries, 8, 0, 4), (F.mrgSpillPtr_put, 0, 0, 1)] }

theorem witness_ReorderAndSpill_resend :
    let s := spilt false
    let m := collect ((List.range 8).filter fun r => s.dev.spillHeld r != 0) fun r => do
      return (r, ← readSpill r (s.dev.rd F.mrgSpillPtr_get r))
    let t := after m s.image s.start
    let v := 1 + 2 ^ 34
    let k := value (takeRun 1 0 v) (open1.d, 0) s.image t
    (s.dev.peer 1).state = nUP ∧ s.dev.rmtOn = true ∧ yields m s.image s.start [(0, v)] = true ∧
    (([(0, v)] : List (Nat × Nat)).find? fun h => bits h.2 0 10 == 1 && !bit h.2 35) = some (0, v) ∧
    ends (takeRun 1 0 v) s.image t = true ∧
    ((ran (postRun 0 k.1 k.2) s.image (after (takeRun 1 0 v) s.image t)).dev.peer 1).owed = [] ∧
    GoesOn (resendRun 1 0 v) s.image t ∧ GoesOn (sendOwed 1) s.image (after (resendRun 1 0 v) s.image t) := by decide +kernel

theorem witness_ReorderAndSpill_skip :
    let s := spilt true
    (regAcc .mrgSpillSkip 0 0 1 core0).reaches s.dev = true ∧ s.dev.spillHeld 0 ≠ 0 ∧
    yields (readSpill 0 (s.dev.rd F.mrgSpillPtr_get 0)) s.image s.start (1 + 2 ^ 34 + 2 ^ 35) = true ∧
    bit (1 + 2 ^ 34 + 2 ^ 35) 35 = true ∧ (linked (peer0 nUP)).dev.spillHeld 0 = 0 := by decide +kernel

/-! ### Ports, keys and the host link -/

/-- Port 0 in a state, with its module's bits. -/
def portWith (st present ready : Nat) : State :=
  liveWith [(F.txpState_state, 0, 0, st), (F.txpModule_present, 0, 0, present), (F.txpModule_ready, 0, 0, ready),
    (F.txpRetainCfg_size, 0, 0, 1)]

/-- Every state that the clauses name, with the bits beside it. -/
theorem witness_PortStates :
    ∀ e ∈ [(pOFF, 0, 0), (pNO_MODULE, 0, 0), (pOFF, 1, 0), (pMODULE_INIT, 1, 0), (pTRAINING, 1, 1), (pDOWN, 1, 1), (pUP, 1, 1),
      (pOFF, 1, 1)],
      let s := portWith e.1 e.2.1 e.2.2
      s.dev.rd F.txpState_state 0 = e.1 ∧ s.dev.rd F.txpModule_present 0 = e.2.1 ∧ s.dev.rd F.txpModule_ready 0 = e.2.2 ∧
      s.dev.rd F.txpRetainCfg_size 0 ≠ 0 ∧ s.dev.rd F.pageCtrl_enable (pg bTXP 0) = 1 ∧
      (regAcc .txpState 0 0 8 core0).reaches s.dev = true ∧ live.rd F.txpRetainCfg_size 0 = 0 := by decide +kernel

/-- A port whose ENABLE is cleared loses its one peer, or has none to lose. -/
theorem witness_PortStates_disable :
    let s := linked (peer0 nUP)
    let off : Tx := ⟨s.dev.wr F.txpState_enable 0 0, []⟩
    (regAcc .txpState 0 0 0 core0).reaches s.dev = true ∧ s.dev.peersOn 0 = [(1, peer0 nUP)] ∧
    (∀ m ∈ s.dev.outbox, m.node ≠ 1) ∧ (∀ x ∈ s.dev.descs, x.armed = false) ∧ (portWith pUP 1 1).dev.peersOn 0 = [] ∧
    GoesOn (losePort 0) s.image off ∧ GoesOn (setPortState 0 pOFF) s.image (after (losePort 0) s.image off) := by decide +kernel

/-- An association 0 of port 0 described in the key registers, in a part that takes keys where `on`. -/
def keyed (on : Bool) (dir : Nat) (held : List Assoc) : State :=
  let d := setAll live [(F.txpState_state, 0, 0, pNO_KEY), (F.secKeyCtl_dir, 0, 0, dir), (F.txpMacsec_rx_valid, 0, 0, 1)]
  around { d with pow := { d.pow with lifeCycle := b2n on }, assocs := held }

theorem witness_KeyCommands :
    (∀ v ∈ [1, 2], (regAcc .secKeyCmd 0 0 v core0).reaches (keyed true 1 []).dev = true) ∧
    (keyed false 1 []).dev.noKeys 0 = true ∧
    (∀ dir ∈ [0, 1],
      let k := (keyed true dir []).dev.keyAssoc
      (keyed true dir []).dev.noKeys k.port = false ∧ k.port = 0 ∧ k.rx = (dir == 1) ∧
      (keyed true dir []).dev.installed k = false ∧ (keyed true dir [k]).dev.installed k = true) := by decide +kernel

/-- The host link in a state. -/
def hostIn (st : Nat) : State := liveWith [(F.hlkState_state, 0, 0, st)]

theorem witness_HostLink :
    (∀ st ∈ [hUP, hWAIT, hHELD, hLOST, hDOWN], (hostIn st).dev.rd F.hlkState_state 0 = st ∧
      (regAcc .hlkCtl 0 0 1 core0).reaches (hostIn st).dev = true) ∧
    (hostIn hHELD).dev.lossDue = false ∧ (clocked (2 ^ 60) (hostIn hHELD).dev).lossDue = true := by decide +kernel

/-- The grace interval has run out, and the queues go on (GLB_HOSTLOSS.CONTINUE). -/
def hostGone : State :=
  around (clocked (2 ^ 60) (setAll live [(F.hlkState_state, 0, 0, hHELD), (F.glbHostloss_continue, 0, 0, 1)]))

theorem witness_HostLink_lost :
    hostGone.dev.rd F.hlkState_state 0 = hHELD ∧ hostGone.dev.lossDue = true ∧ Goes (loseHost 1) hostGone := by decide +kernel

theorem witness_HostLink_reset : Goes (loseHost (resetCause .perst)) hostGone := by decide +kernel

theorem witness_HostLink_quiet :
    (hostIn hUP).dev.descs = [] ∧ (hostIn hUP).dev.rd F.cpeJrnStat_in_use 16 = 0 := by decide +kernel

/-! ### Memory -/

theorem witness_Temperatures :
    let d := State.resetDev
    let hot := setAll d [(F.hbcState_state, 0, 0, 2), (F.hbcState_state, 15, 0, 4), (F.ctpState_state, 0, 0, 2)]
    d.pow.good = true ∧ 30 < d.rd F.hbcTemp_crit 0 ∧ d.ms.hot.contains 0 = false ∧ 30 < d.rd F.ctpTemp_crit 0 ∧
    d.ms.hot.contains 16 = false ∧ hot.pow.good = true ∧ hot.rd F.hbcTemp_crit 0 ≤ 255 ∧ hot.rd F.hbcTemp_crit 15 ≤ 255 ∧
    hot.rd F.hbcState_state 0 = 2 ∧ hot.rd F.hbcState_state 15 = 4 ∧ hot.rd F.ctpTemp_crit 0 ≤ 255 ∧
    hot.rd F.ctpState_state 0 = 2 := by decide +kernel

/-- What training found: all channels, at rate 2. -/
def trained (n : Nat) : TrainResult :=
  { repairs := List.replicate n (0, 0), failed := 0, rate := 2, fromMap := true }

theorem witness_Training : ∀ st ∈ [0, 1],
    let d := setAll State.resetDev [(F.hbcState_state, 15, 0, st), (F.ctpState_state, 15, 0, st)]
    d.pow.good = true ∧ d.rd F.hbcState_state 15 = st ∧ d.rd F.ctpState_state 15 = st ∧ (trained 32).repairs.length = 32 ∧
    (trained 0).repairs.length ≠ 32 ∧ (trained 32).failed = 0 ∧ (trained 32).fromMap = true ∧ (trained 32).rate.toNat ≤ 2 := by
  decide +kernel

theorem witness_MemoryEvents :
    let d := clocked usTicks live
    d.ms.capoEt / usTicks < d.time.et / usTicks ∧ live.populatedAt 0x40000 = true ∧
    ({ live with ms := { live.ms with marks := [0x1000] } } : Dev).ms.marks.contains (0x40000 / 64) = true := by decide +kernel

/-- Region 0 fenced or not, and pin 15 of it in a state, of one 64 KiB block, with eight ways for pins or none. -/
def pinned (fenced : Bool) (st ways : Nat) : Dev :=
  setAll live [(F.pageState_state, pg bRGN 0, 0, if fenced then 3 else 2), (F.llsPinCtl_state, 64, 15, st),
    (F.llsPinLen_blocks, 64, 15, 1), (F.llsPart_cache, 64, 0, 8), (F.llsPart_scratch, 64, 0, 8 - ways),
    (F.llsPart_pinned, 64, 0, ways)]

theorem witness_LlsCommands :
    let v := 1 + 2 ^ 5 * 15
    (regAcc .llsPart 64 0 v core0).reaches (pinned true 0 8) = true ∧ (pinned true 0 8).regionFenced 0 = true ∧
    bits v 0 5 + bits v 5 5 + bits v 10 5 = 16 ∧ bits v 0 5 ≠ 0 ∧ (pinned false 0 8).regionFenced 0 = false ∧
    (regAcc .llsPart 64 0 v core0).reaches (pinned false 0 8) = true ∧
    (∀ st ∈ [0, 3, 4], ∀ on ∈ [0, 1], (regAcc .llsPinCtl 64 15 on core0).reaches (pinned false st 8) = true ∧
      (pinned false st 8).rd F.llsPinCtl_state 64 15 = st) ∧
    ((pinned false 3 8).wr F.llsPinCtl_enable 64 1 15).pinFits 0 15 = true ∧
    ((pinned false 3 0).wr F.llsPinCtl_enable 64 1 15).pinFits 0 15 = false := by decide +kernel

theorem witness_LlsCommands_fill :
    let d := pinned false 1 8
    d.rd F.llsPinCtl_state 64 15 = 1 ∧ d.mustWait true (d.pinBase 0 15) (d.pinBytes 0 15) = false ∧ d.capoLimit 0 2 4 ≠ 0 ∧
    d.capoLimit 0 (partitionOf (d.pinBase 0 15)) 4 ≠ 0 := by decide +kernel

/-! ### Maintenance, worlds and resets -/

/-- A MAINT that holds slot 31, for an activity. -/
def maint0 (act : Nat) : Desc := descOf (maintRaw act + 2 ^ 64) [] (.maint ⟨31⟩)

def maintained (act : Nat) : State :=
  let s := working [maint0 act] []
  { s with dev := setAll s.dev [(F.mntSlot_activity, 0, 31, act), (F.mntSlot_state, 0, 31, 1)] }

def found : ActivityResult := { ok := true, corrected := 0, uncorrectable := [], errors := [] }

theorem witness_Maintenance_end : ∀ act ∈ [1, 2, 3, 6, 7, 8],
    let s := maintained act
    s.dev.maintOf 31 = some (maint0 act) ∧ s.dev.rd F.mntSlot_activity 0 31 = act ∧ s.dev.rd F.mntSlot_target 0 31 = 0 ∧
    s.dev.ms.capoNext.contains 0 = false ∧ s.dev.evr.compacting = false ∧ s.dev.scrubHeld act 0 = false ∧
    s.dev.maintMoves act 0 := by unfold Dev.maintMoves; decide +kernel

/-- A SPARE_SWAP ends, with the transaction that it leaves. -/
theorem witness_Maintenance_run : Goes (finishActivity (maint0 3) 31 3 0 found) (maintained 3) := by decide +kernel

/-- A store with seven erased blocks. -/
def nearlyFull (compacting : Bool) : Dev :=
  { live with evr := { live.evr with head := 2035 * 2048, tail := 0, compacting := compacting } }

theorem witness_Maintenance_auto :
    let d := nearlyFull false
    d.recorderRuns = true ∧ d.freeBlocks = 7 ∧ d.evr.compacting = false ∧ d.refusesStart 8 0 0 = false ∧
    ({ d with wipes := [⟨255, 0, true, 0⟩] } : Dev).refusesStart 8 0 0 = true := by decide +kernel

theorem witness_Maintenance_compacted :
    (nearlyFull true).evr.compacting = true ∧ (nearlyFull true).canCompact = true ∧
    ∀ n, n < 32 → (nearlyFull true).endCompaction.rd F.mntSlot_activity 0 n ≠ 8 := by decide +kernel

/-- Memory region 255 in a state, of a world. -/
def regionIn (st world : Nat) : State :=
  let p := mrPage 255
  liveWith [(F.secMrLimit_state, p, 127, st), (F.secMrBase_world, p, 127, world), (F.secMrBase_base, p, 127, 0x100),
    (F.secMrLimit_limit, p, 127, 0x100)]

/-- The fields that an enable writes: the range of one block, of a world; a range that ends before it begins is not sound. -/
theorem witness_RegionCommands_enable :
    (∀ st ∈ [0, 1, 3, 4], ∀ v ∈ [0x1000001, 0x1000003],
      (regAcc .secMrBase (mrPage 255) 127 v core0).reaches (regionIn st 0).dev = true ∧
      (regionIn st 0).dev.mr F.secMrLimit_state 255 = st) ∧
    (∀ world ∈ [0, 1], (regionIn 4 world).dev.mrSound 255 = true ∧ (regionIn 4 world).dev.mr F.secMrBase_world 255 = world) ∧
    ((regionIn 0 0).dev.wr F.secMrBase_base 2 0x101 127).mrSound 255 = false ∧
    (regionIn 0 1).dev.refusesStart 11 255 0 = false ∧
    (setAll (regionIn 0 1).dev ((List.range 32).map fun n => (F.mntSlot_state, 0, n, 1))).refusesStart 11 255 0 = true ∧
    (regionIn 0 1).dev.noneAborts := by
  unfold Dev.noneAborts; decide +kernel

theorem witness_RegionCommands_run :
    let v := setBits 0x1000001 0 1 1
    Goes (mrWrite 255 v (regAcc .secMrBase (mrPage 255) 127 v core0)) (regionIn 0 0) := by decide +kernel

theorem witness_RegionCommands_disable :
    (∀ st ∈ [1, 2, 3],
      let d := (regionIn st 0).dev
      (regAcc .secMrBase (mrPage 255) 127 (setBits (d.word .secMrBase (mrPage 255) 127) 0 1 0) core0).reaches d = true ∧
      d.mr F.secMrLimit_state 255 = st) ∧
    (∀ world ∈ [0, 1], (regionIn 3 world).dev.regionIdle 255 = true ∧ (regionIn 3 world).dev.mr F.secMrBase_world 255 = world ∧
      yields (takeToken 11 255 0 0) (regionIn 3 world).image (regionIn 3 world).start (some 0) = true) := by decide +kernel

/-- A wipe of region 255 that has begun. -/
def wipe0 : Wipe := ⟨255, 0, true, 0⟩

theorem witness_RegionCommands_wiped :
    let d : Dev := { (regionIn 1 1).dev with wipes := [wipe0] }
    d.pow.phase = 0 ∧ (d.wipes.find? fun w => w.region == 255 && w.begun) = some wipe0 := by decide +kernel

/-- In the state after reset nothing has to be drained. -/
theorem witness_atRest : State.resetDev.atRest := by unfold Dev.atRest; decide +kernel

theorem witness_RegionCommands_life :
    (regAcc .secLcCmd 0 0 (1 + 0x5A * 2 ^ 8 + 2 ^ 31) core0).reaches State.resetDev = true ∧
    (regAcc .secLcCmd 0 0 (1 + 2 ^ 31) core0).reaches State.resetDev = true ∧ worldOf core0 = 1 ∧
    State.resetDev.pow.phase = 0 ∧ lcTransition State.resetDev.pow.lifeCycle 1 = true ∧
    Goes (beginReset rkLC rcLIFE_CYCLE (some 1)) State.reset := by decide +kernel

theorem witness_PageWorlds :
    let p := pg bOPT 8
    let d := State.resetDev
    (∀ secure, (pageAcc p 8 (b2n secure) core0).reaches d = true) ∧ worldFixed p = false ∧
    d.rd F.pageWorld_lock p = 0 ∧ d.worldFree p = true ∧ Goes (changeWorld p (1 - d.pageWorld p)) State.reset ∧
    d.pageWorld p ≤ 1 ∧ (pageAcc p 8 (2 + d.pageWorld p) core0).reaches d = true ∧
    (let d := (liveWith [(F.pageWorld_lock, pg bGCL 0, 0, 1)]).dev
     d.rd F.pageWorld_lock (pg bGCL 0) = 1 ∧ d.worldFree (pg bGCL 0) = false) := by decide +kernel

/-- Nothing runs in the block of a page after reset: of region 7, and of a page of another kind. -/
theorem witness_workFree : State.resetDev.workFree (pg bRGN 7) ∧ State.resetDev.workFree (pg bOPT 8) := by
  have hu : ∀ c, c < 64 → (State.resetDev.cl c).slice = none ∧ State.resetDev.users (pg bGCL c) = [] := by decide +kernel
  refine ⟨⟨by decide +kernel, fun h => absurd h (by decide), fun h => absurd h (by decide), fun _ => by decide +kernel,
    fun _ => ⟨by decide +kernel, fun c hc => hu c ?_⟩, fun h => absurd h (by decide)⟩, by decide +kernel,
    fun h => absurd h (by decide), fun h => absurd h (by decide), fun h => absurd h (by decide), fun h => absurd h (by decide),
    fun h => absurd h (by decide)⟩
  have : pg bRGN 7 % 256 = 7 := by decide
  omega

/-- Each command of PAGE_CTRL of a page that has it. -/
theorem witness_PageControl :
    (∀ e ∈ [(2, 0), (1, 0), (0, 1), (4, 0), (0, 4)], ∀ p ∈ [pg bRGN 7, pg bCPE 0],
      (pageAcc p 0x10 (live.ctrlWith p e.1 e.2) core0).reaches live = true ∧
      Goes (ctrlWrite p (live.ctrlWith p e.1 e.2) (pageAcc p 0x10 (live.ctrlWith p e.1 e.2) core0)) (around live)) ∧
    (let d := (liveWith [(F.pageCtrl_fence, pg bRGN 7, 0, 1), (F.pageCtrl_enable, pg bCPE 0, 0, 1)]).dev
     fenceable (pg bRGN 7) = true ∧ bit (live.word .pageCtrl (pg bRGN 7) 0) 1 = false ∧
     live.rd F.pageCtrl_fence (pg bRGN 7) = 0 ∧ d.rd F.pageCtrl_fence (pg bRGN 7) = 1 ∧
     bit (d.word .pageCtrl (pg bRGN 7) 0) 1 = false ∧ enableable (pg bCPE 0) = true ∧ fenceable (pg bCPE 0) = false ∧
     d.rd F.pageCtrl_enable (pg bCPE 0) = 1 ∧ d.rd F.pageCtrl_fence (pg bCPE 0) = 0 ∧
     bit (d.word .pageCtrl (pg bCPE 0) 0) 1 = false ∧ (d.wr F.pageCtrl_enable (pg bCPE 0) 0).rd F.pageCtrl_enable (pg bCPE 0) = 0) := by
  decide +kernel

theorem witness_PageInterrupts : ∀ off ∈ [0x18, 0x1C, 0x20], (pageAcc (pg bQUE 64) off 0xFFFF core0).reaches live = true := by
  decide +kernel

/-- A write for each outcome: a size that the window does not support, a reserved offset, a read-only register, a condition
that does not hold, a register that takes it. -/
theorem witness_CountersAndWrites :
    let d := live
    ctrCtl (pg bMRG 8) = some .mrgCtrCtl8 ∧
    (pageAcc (pg bMRG 8) RegName.mrgCtrCtl8.info.off (Nat.lor 1 (d.word .mrgCtrCtl8 8 0)) core0).reaches d = true ∧
    (pageAcc (pg bHBC 15) 0x104 (2 ^ 16 + 2 ^ 24 * d.rd F.hbcTemp_crit 15) core0).reaches d = true ∧
    (pageAcc (pg bCTP 15) 0x104 (2 ^ 16 + 2 ^ 24 * d.rd F.ctpTemp_crit 15) core0).reaches d = true ∧
    (optWrite 0x110 7).reaches d = true ∧ Goes (regWrite (optWrite 0x110 7)) (around d) ∧
    d.target (pg bOPT 8) 0x110 0 7 = none ∧ d.target (pg bOPT 8) 0xFFC 2 7 = some none ∧
    d.target (pg bHLK 0) 0x104 2 7 = some (some (.hlkCfg, 0, 0, 7)) ∧ d.rd F.pageWorld_lock (pg bHLK 0) = 0 ∧
    (RegName.hlkCfg.info.fields.all fun f => f.acc == .ro) = false ∧ storedOnly .hlkCfg = true ∧
    d.takes .hlkCfg 0 0 (d.word .hlkCfg 0 0) 0 = false ∧ d.takes .hlkCfg 0 0 (d.word .hlkCfg 0 0) 7 = true ∧
    (RegName.hlkState.info.fields.all fun f => f.acc == .ro) = true := by decide +kernel

theorem witness_RegisterReads :
    let w (off size : Nat) : RegAcc := ⟨pg bHLK 0, off, size, 0, core0⟩
    (∀ off ∈ [0x101, 0x104, 0xFFC], (w off 2).readable live = true ∧ (w off 2).readsTime = false) ∧
    live.readAt 1 (pg bHLK 0) 0x104 2 = some (live.view 1 .hlkCfg 0 0 % 2 ^ 32) ∧ regAt (pg bHLK 0) 0xFFC = none ∧
    regAt (pg bHLK 0) 0xFF8 = none := by decide +kernel

/-! ### Power, resets, the recorder and the trace -/

/-- The reset state with the power controller as given. -/
def powered (l : List (Fld × Nat × Nat × Nat)) (f : Power → Power) : Dev :=
  let d := setAll State.resetDev l
  clocked (2 ^ 40) { d with pow := f d.pow }

theorem witness_PowerStates_request : ∀ req ∈ [1, 4],
    (regAcc .pwrCtl 0 0 req core0).reaches State.resetDev = true ∧ State.resetDev.rd F.pwrState_state 0 = 0 := by decide +kernel

theorem witness_PowerStates_entry : ∀ n ∈ [1, 3],
    let d := powered [] fun p => { p with want := some n }
    d.pow.want = some n ∧ d.pow.phase = 0 ∧ d.pow.exitEt = 0 ∧ d.mayEnter n = true := by decide +kernel

theorem witness_PowerStates_abandon :
    let d := powered [(F.txpState_state, 0, 0, pUP)] fun p => { p with want := some 4 }
    d.pow.want = some 4 ∧ d.mayEnter 4 = false ∧ d.pow.wantEt + d.rd F.pwrCfg_entry_ms 0 * msTicks ≤ d.time.et := by decide +kernel

theorem witness_PowerStates_exit : ∀ st ∈ [1, 2, 3],
    let d := powered [(F.pwrState_state, 0, 0, st)] fun p => { p with exitEt := 1 }
    d.rd F.pwrState_state 0 = st ∧ d.pow.exitEt ≠ 0 ∧ d.pow.exitEt ≤ d.time.et := by decide +kernel

theorem witness_Resets_engine :
    let d := powered [(F.pwrCfg_auto_reset, 0, 0, 1)] fun p => p
    (∀ v ∈ [0x100, 0x200], (regAcc .pwrCtl 0 0 (d.rd F.pwrCtl_req 0 + v) core0).reaches d = true) ∧ worldOf core0 = 1 ∧
    d.rd F.pwrCfg_auto_reset 0 = 1 ∧ d.pow.phase = 0 ∧ d.pow.good = true ∧ d.rd F.pwrState_state 0 ≠ 4 ∧
    (∀ cause ∈ [rcREQUEST, rcFATAL], Goes (beginReset rkENGINE cause none) (around d)) ∧ d.descs = [] ∧ d.batches = [] ∧
    d.reorder = [] ∧ d.outbox = [] := by decide +kernel

theorem witness_Resets_running :
    let d := powered [] fun p => { p with phase := 2 }
    d.pow.phase = 2 ∧ d.pow.quiesceEt + d.rd F.pwrCfg_quiesce_us 0 * usTicks ≤ d.time.et ∧
    (∀ v ∈ [0x100, 0x200], (regAcc .pwrCtl 0 0 (d.rd F.pwrCtl_req 0 + v) core0).reaches d = true) := by decide +kernel

theorem witness_Resets_power : ∀ lost : Bool,
    let d := powered [(F.pwrState_state, 0, 0, 4)] fun p => { p with good := false, lost := lost }
    d.pow.lost = lost ∧ d.pow.good = false ∧ d.rd F.pwrState_state 0 = 4 ∧
    (powered [(F.pwrState_state, 0, 0, 4)] fun p => p).pow.good = true := by decide +kernel

theorem witness_PowerEvents_vddc : ∀ mv ∈ [0, 10],
    let avs := State.resetDev.rd F.pwrAvs_vddc0 0
    mv ≤ avs + 10 ∧ avs ≤ mv + 10 := by decide +kernel

theorem witness_PowerEvents_ready :
    (regAcc .pwrState 0 0 0x10 core0).reaches State.resetDev = true ∧
    (resetWith [(F.pwrState_ready, 0, 0, 1)]).dev.rd F.pwrState_ready 0 = 1 := by decide +kernel

theorem witness_PowerEvents_core :
    let d := powered [(F.ccxState_state, 7, 0, 2), (F.ccxWdog_limit_ms, 7, 0, 1)] fun p => p
    d.rd F.ccxState_state 7 = 2 ∧ d.rd F.ccxWdog_limit_ms 7 ≠ 0 ∧
    SMap.get 0 d.pow.beatEt 7 + d.rd F.ccxWdog_limit_ms 7 * msTicks ≤ d.time.et ∧
    (regAcc .ccxHeartbeat 7 0 1 core0).reaches d = true ∧ d.rd F.ccxHeartbeat_value 7 ≠ 1 := by decide +kernel

/-- A bridge with its last spare lane, and one with none, whose failure resets the part or does not. -/
theorem witness_PowerEvents_bridge : ∀ used ∈ [15, 16], ∀ auto ∈ [0, 1],
    let s := resetWith [(F.brgState_state, 1, 0, 1), (F.brgState_spares_used, 1, 0, used), (F.pwrCfg_auto_reset, 0, 0, auto)]
    s.dev.rd F.brgState_state 1 = 1 ∧ s.dev.rd F.brgState_spares_used 1 = used ∧ s.dev.rd F.pwrCfg_auto_reset 0 = auto ∧
    s.dev.pow.phase = 0 ∧ s.dev.descs = [] ∧ GoesOn rungThree s.image ⟨s.dev.wr F.brgState_state 1 2, []⟩ := by decide +kernel

theorem witness_RecorderAndTrace :
    let d := State.resetDev
    (regAcc .evrSwCtl 0 0 (0xF000 + 7 * 2 ^ 16 + 2 ^ 31) core0).reaches d = true ∧ d.recorderRuns = true ∧
    d.writeOne.isSome = true ∧ d.evr.ckSec + 60 ≤ ({ d.evr with opSec := d.evr.ckSec + 60 } : Recorder).opSec := by decide +kernel

/-- `live` with a record that waits, `n` records in the ring, and `lost` of them lost. -/
def tracing (n lost : Nat) : Dev :=
  let d := setAll live [(F.pageState_state, pg bTRC 0, 0, 2), (F.trcRingTail_index, 0, 0, n), (F.trcRingBase_base, 0, 0, 0x680)]
  { d with trace := { d.trace with buffer := [5], lost := lost } }

/-- The address of the next record of that ring. -/
def traceAt (d : Dev) : Nat :=
  (d.rd F.trcRingBase_base 0 * 4096 + d.rd F.trcRingTail_index 0 % d.traceEntries * 32) % 2 ^ 46

theorem witness_RecorderAndTrace_ring :
    (∀ n ∈ [4095, 4096], (tracing n 0).asleep = false ∧ (tracing n 0).rd F.pageState_state (pg bTRC 0) ≠ 0 ∧
      (tracing n 0).trace.buffer = [5] ∧ ((tracing n 0).ringFull = true ↔ n = 4096)) ∧
    (let d := tracing 4095 0
     GoesOn (traceWrite 5) (around d).image ⟨{ d with trace := { d.trace with buffer := [] } }, []⟩) := by decide +kernel

theorem witness_RecorderAndTrace_free : ∀ lost ∈ [0, 7],
    let d := tracing 4095 lost
    d.trace.lost = lost ∧ d.populatedAll (traceAt d) 32 = true ∧
    (∀ b ∈ blocksOf (traceAt d) 32, d.blockPasses (d.pageWorld (pg bTRC 0)) .wr b = true) ∧
    d.mustWait false (traceAt d) 32 = false ∧ d.moveHeld (traceAt d) 32 = false ∧ ∀ k, k < 32 → d.throttle k = none := by
  decide +kernel

/-! ### Ill-formed commands -/

theorem test_wf_frame : Instr.wf (.ingest 0 (frame0 (List.replicate 8193 0))) = false ∧
    Instr.wf (.ingest 0 (frame0 (List.replicate 8192 0))) = true := by decide +kernel

theorem test_wf_page : Instr.wf (.pageFence ⟨27 * 256, by decide⟩ core0) = false ∧
    Instr.wf (.pageFence ⟨24 * 256 + 8, by decide⟩ core0) = false ∧ Instr.wf (.pageFence ⟨24 * 256 + 7, by decide⟩ core0) = true := by
  decide +kernel

theorem test_wf_training : Instr.wf (.hbmTrainingDone 0 (trained 31)) = false ∧ Instr.wf (.hbmTrainingDone 0 (trained 32)) = true := by
  decide +kernel

theorem test_wf_ptp : Instr.wf (.ptpMessage 0 (.delayReq 128 0)) = false ∧ Instr.wf (.ptpMessage 0 (.delayReq 127 0)) = true := by
  decide +kernel

theorem test_wf_lengths : Instr.wf (.frameCheckFail 0 9217) = false ∧ Instr.wf (.eapolFrame 0 (List.replicate 9217 0)) = false ∧
    Instr.wf (.clientPortWrite 0 0 [] true) = false ∧ Instr.wf (.clientPortWrite 0 0 (List.replicate 4097 0) true) = false ∧
    Instr.wf (.customHandlerReturn 0 0 true (List.replicate 65537 0)) = false := by decide +kernel

theorem test_wf_results : Instr.wf (.maintActivityEnd 0 { found with errors := List.replicate 65 (0, 0, 0) }) = false ∧
    Instr.wf (.maintActivityEnd 0 found) = true := by decide +kernel

end Sys2Proof.Tests
end

section
/-! The memories as sparse maps: what a map reads as says what it is. -/

namespace Sys2Proof.Machine.SMap

variable {α : Type} (d : α)

/-- A key that no entry has reads as the default. -/
theorem get_unlisted {a : Nat} : ∀ {m : SMap α}, (∀ e ∈ m, e.1 ≠ a) → get d m a = d
  | [], _ => rfl
  | (k, v) :: m, h => by
    rw [get, if_neg (h (k, v) List.mem_cons_self)]
    exact get_unlisted fun e he => h e (List.mem_cons_of_mem _ he)

variable [DecidableEq α]

/-- Below its lower bound a map in canonical form reads as the default. -/
theorem get_below {m : SMap α} {lb a : Nat} (h : wfFrom d lb m = true) (ha : a < lb) : get d m a = d := by
  induction m generalizing lb with
  | nil => rfl
  | cons e m ih =>
    simp only [wfFrom, Bool.and_eq_true, decide_eq_true_eq] at h
    obtain ⟨⟨hk, -⟩, hm⟩ := h
    rw [get, if_neg (by omega)]
    exact ih hm (by omega)

/-- Two maps in canonical form that read alike are the same list. -/
theorem eq_of_get_eq {m n : SMap α} {lb : Nat} (hm : wfFrom d lb m = true) (hn : wfFrom d lb n = true)
    (h : ∀ a, get d m a = get d n a) : m = n := by
  induction m generalizing n lb with
  | nil =>
    cases n with
    | nil => rfl
    | cons e n =>
      simp only [wfFrom, Bool.and_eq_true, decide_eq_true_eq] at hn
      exact absurd (by simpa [get] using (h e.1).symm) hn.1.2
  | cons e m ih =>
    obtain ⟨k, v⟩ := e
    have hm' := hm
    simp only [wfFrom, Bool.and_eq_true, decide_eq_true_eq] at hm
    obtain ⟨⟨hk, hv⟩, hm⟩ := hm
    cases n with
    | nil => exact absurd (by simpa [get] using h k) hv
    | cons e n =>
      obtain ⟨l, w⟩ := e
      have hn' := hn
      simp only [wfFrom, Bool.and_eq_true, decide_eq_true_eq] at hn
      obtain ⟨⟨hl, hw⟩, hn⟩ := hn
      have hkl : k = l := by
        rcases Nat.lt_trichotomy k l with hlt | heq | hgt
        · refine absurd ?_ hv
          have := h k
          rwa [get, if_pos rfl, get, if_neg (by omega), get_below d hn (by omega)] at this
        · exact heq
        · refine absurd ?_ hw
          have := h l
          rwa [get, if_neg (by omega), get_below d hm (by omega), get, if_pos rfl, eq_comm] at this
      subst hkl
      have hvw : v = w := by simpa [get] using h k
      subst hvw
      rw [ih hm hn fun a => ?_]
      by_cases ha : a = k
      · rw [ha, get_below d hm (by omega), get_below d hn (by omega)]
      · have := h a
        rwa [get, if_neg (Ne.symm ha), get, if_neg (Ne.symm ha)] at this

end Sys2Proof.Machine.SMap
end

section
/-! Every command is one transaction. -/

namespace Sys2Proof.Machine

/-- A command runs one meaning, the same in every state, as a transaction. -/
theorem exec_transacts (c : Instr) : ∃ m : M Unit, ∀ s, exec c s = transact m s := by
  cases c with
  | hostSnoop a => exact ⟨pure (), fun _ => rfl⟩
  | cacheEnable on => exact ⟨wr F.hlkState_cache_en 0 (b2n on), fun _ => rfl⟩
  | d3hotTransition on => exact ⟨modDev fun d => { d with d3hot := on }, fun _ => rfl⟩
  | dieTempReading die t =>
    simp only [exec, execDieTempReading]
    exact ⟨_, fun _ => rfl⟩
  | _ => exact ⟨_, fun _ => rfl⟩

/-- A command answers a next state, with the queue as it was and both memories in canonical form. -/
theorem exec_next (c : Instr) (s : State) : ∃ t, exec c s = .next t ∧ t.pending = s.pending ∧ (s.wf → t.wf) := by
  obtain ⟨m, h⟩ := exec_transacts c
  rw [h]
  exact transact_next m s

/-- So does a step. -/
theorem step_next (s : State) : ∃ t, step s = .next t ∧ (s.wf → t.wf) := by
  cases hp : s.pending with
  | nil =>
    obtain ⟨t, ht, -, hw⟩ := transact_next cycle s
    exact ⟨t, by simpa only [step, hp, idleCycle] using ht, hw⟩
  | cons c rest =>
    obtain ⟨t, ht, -, hw⟩ := exec_next c { s with pending := rest }
    exact ⟨t, by simpa only [step, hp] using ht, hw⟩

/-- Settles O4: a step is one transaction, of the oldest command or of a cycle, and the settling of its log keeps the form. -/
theorem stepKeepsMemoryForm : Obligations.StepKeepsMemoryForm := by
  intro s t hs ht
  obtain ⟨u, hu, hw⟩ := step_next s
  rw [hu, Host.Outcome.next.injEq] at ht
  exact ht ▸ hw hs

/-- Settles O3: a command is one transaction, which answers whatever its meaning comes to. -/
theorem everyCommandAnswers : Obligations.EveryCommandAnswers := by
  intro c s
  obtain ⟨t, ht, hp, -⟩ := exec_next c s
  exact ⟨t, ht, hp⟩

/-- Settles O5: by what a log of writes comes to at an address, and by extensionality of maps in canonical form. -/
theorem memoryLaws : Obligations.MemoryLaws :=
  ⟨fun s t a => ⟨readByte_foldMem t.log s.mem a, readByte_foldHost t.log s.host a⟩,
   fun _ _ hm hn h => SMap.eq_of_get_eq blankByte hm hn h⟩

end Sys2Proof.Machine
end

section
/-! The registers right after reset. -/

namespace Sys2Proof.Machine

/-- A register whose place no entry names reads as its Reset value. -/
theorem Dev.rd_unlisted {d : Dev} {f : Fld} {p i : Nat} (h : ∀ e ∈ d.regs, e.1 ≠ f.reg.info.key p i) :
    d.rd f p i = bits (f.reg.resetWord p i % 2 ^ 64) f.lo f.len := by
  simp only [Dev.rd, Dev.word, SMap.get_unlisted _ h, BitVec.toNat_ofNat]

/-- Where the registers lie whose values show the reset: all from the SEC pages on, none on the pages of the memory regions,
and none a PAGE_WORLD. -/
theorem resetRegs_places : ∀ e ∈ State.resetRegs,
    pg bSEC 0 * 4096 ≤ e.1 ∧ e.1 / 4096 ≠ pg bSEC 1 ∧ e.1 / 4096 ≠ pg bSEC 2 ∧ e.1 % 4096 ≠ 8 := by decide

/-- A register of a block before SEC holds its Reset value right after reset. -/
theorem reset_rd_beforeSec {f : Fld} {p i : Nat} (h : f.reg.info.key p i < pg bSEC 0 * 4096) :
    State.resetDev.rd f p i = bits (f.reg.resetWord p i % 2 ^ 64) f.lo f.len :=
  Dev.rd_unlisted fun e he => Nat.ne_of_gt (Nat.lt_of_lt_of_le h (resetRegs_places e he).1)

/-- So does a queue's register. -/
theorem reset_qrd {f : Fld} {q : Nat} (hq : q < 1024) (h : f.reg.info.blk = bQUE) (ho : f.reg.info.off < 4096)
    (hs : f.reg.info.stride ≤ 4096) :
    State.resetDev.qrd f q = bits (f.reg.resetWord (1 + q / 16) (q % 16) % 2 ^ 64) f.lo f.len := by
  refine reset_rd_beforeSec ?_
  have : q % 16 * f.reg.info.stride ≤ 15 * 4096 := Nat.mul_le_mul (by omega) hs
  simp only [RegInfo.key, h, pg, show bQUE = 3 from rfl, show bSEC = 19 from rfl]
  omega

/-- PAGE_WORLD holds its Reset value right after reset. -/
theorem reset_rd_pageWorld {f : Fld} (p : Nat) (hf : f.reg = .pageWorld) :
    State.resetDev.rd f p 0 = bits (f.reg.resetWord p 0 % 2 ^ 64) f.lo f.len := by
  refine Dev.rd_unlisted fun e he hk => (resetRegs_places e he).2.2.2 ?_
  simp only [hk, hf, RegInfo.key, RegName.info]
  omega

/-- A memory region is OFF right after reset. -/
theorem reset_region_off {i : Nat} (hi : i < 256) : State.resetDev.mr F.secMrLimit_state i = 0 := by
  refine (Dev.rd_unlisted fun e he hk => ?_).trans (by simp [RegName.resetWord, RegName.info, bits])
  obtain ⟨-, h1, h2, -⟩ := resetRegs_places e he
  simp only [hk, RegInfo.key, RegName.info, mrPage, pg, bSEC] at h1 h2
  omega

/-- Settles O7: what the reset sets lies at a few places, and every other register holds its Reset value. -/
theorem resetState : Obligations.ResetState := by
  refine ⟨rfl, reset_rd_beforeSec (by decide), reset_wf, rfl, rfl, fun a => ⟨rfl, rfl⟩,
    fun p _ => ⟨(reset_rd_pageWorld p rfl).trans ?_, (reset_rd_pageWorld p rfl).trans ?_⟩,
    fun q h => ⟨(reset_qrd h rfl ?_ ?_).trans ?_, (reset_qrd h rfl ?_ ?_).trans ?_, (reset_qrd h rfl ?_ ?_).trans ?_,
      (reset_qrd h rfl ?_ ?_).trans ?_, (reset_qrd h rfl ?_ ?_).trans ?_⟩,
    fun i hi => reset_region_off hi, fun p hp => (reset_rd_beforeSec ?place).trans ?_⟩
  case place =>
    simp only [RegInfo.key, RegName.info, pg, show bSEC = 19 from rfl]
    omega
  all_goals simp [RegName.resetWord, RegName.info, bits, qDISABLED, pOFF]

end Sys2Proof.Machine
end

section
/-! Interaction samples and client ports: meanings that run to their end. -/

namespace Sys2Proof.Machine

variable {P : Dev → Prop}

/-- No property of the machine is asked for, and none is left. -/
abbrev Always : Dev → Prop := fun _ => True

/-- An action that may be left out, and what follows it. -/
theorem total_when {α : Type} {Q : Dev → Prop} {c : Prop} [Decidable c] {m : M Unit} {k : M α} (h : Total P P m)
    (g : Total P Q k) : Total P Q (if c then m >>= fun _ => k else k) :=
  total_ite (total_bind h fun _ => g) g

theorem total_always_modDev (f : Dev → Dev) : Total Always Always (modDev f) := total_modDev fun _ _ => True.intro

theorem Total.ends {m : M Unit} (h : Total Always Always m) (i : Image) (t : Tx) : ∃ t', m i t = .ok () t' := by
  obtain ⟨⟨⟩, t', e, -⟩ := h.out i t True.intro
  exact ⟨t', e⟩

theorem total_modDesc (q n : Nat) (f : Desc → Desc) : Total Always Always (modDesc q n f) := by
  unfold modDesc
  refine total_bind total_dev fun d => ?_
  split
  · exact total_always_modDev _
  · exact total_pure ()

theorem total_interactDone (q n : Nat) : Total Always Always (interactDone q n) := by
  unfold interactDone
  refine total_bind total_dev fun d => ?_
  split
  · exact total_pure ()
  · split
    · exact total_ite (total_bind (total_always_modDev _) fun _ => total_always_modDev _) (total_pure ())
    · exact total_pure ()

theorem total_exchangeDone (q n : Nat) : Total Always Always (exchangeDone q n) := by
  unfold exchangeDone
  refine total_bind total_dev fun d => ?_
  split
  · exact total_pure ()
  · split
    · exact total_ite (total_always_modDev _) (total_pure ())
    · exact total_pure ()


theorem total_lookupDone (q n : Nat) : Total Always Always (lookupDone q n) := by
  unfold lookupDone
  refine total_bind total_dev fun d => ?_
  split
  · exact total_pure ()
  · split
    · exact total_pure ()
    · exact total_ite (total_always_modDev _) (total_pure ())

theorem total_noteHazard (c : Nat) : Total Always Always (noteHazard c) := by
  unfold noteHazard
  refine total_bind total_dev fun d => total_ite ?_ (total_pure ())
  exact total_when (total_always_modDev _) (total_always_modDev _)

theorem total_acceptLookup (r : PortRec) (x : Desc) : Total Always Always (acceptLookup r x) :=
  total_bind (total_lookupDone _ _) fun _ => total_each total_noteHazard

theorem total_countRecord (r : PortRec) (coh : Nat) : Total Always Always (countRecord r coh) := by
  have flag (f : Nat) : Total Always Always (raiseFlag r.q r.seq f) := total_modDesc ..
  have count (f : Fld) (p : Nat) : Total Always Always (bump f p) := total_always_modDev _
  have flags : Total Always Always (do
      if r.empty then raiseFlag r.q r.seq fEMPTY_BAG
      if r.nf then raiseFlag r.q r.seq fNONFINITE) :=
    total_when (flag _) (total_ite (flag _) (total_pure ()))
  unfold countRecord
  refine total_bind total_dev fun d => ?_
  split
  · exact total_pure ()
  · exact total_bind (total_modDesc ..) fun _ => total_ite
      (total_when (count _ _) (total_ite (total_bind (count _ _) fun _ => flags) flags))
      (total_bind (count _ _) fun _ => flags)

/-- After its vectors are read, a sample for a client port whose place is free is delivered. -/
theorem run_sampleBody {x : Desc} {srcs : List Nat} {done : SMap Nat} {r sample : Nat} {vecs : List Vec} {s : State} {t : Tx}
    (hv : s.vectorsRead x srcs r sample vecs t) (hs : x.itStash = 0) (hd : x.itDest = 1)
    (hp : t.dev.unaccepted x (64 + r) = []) :
    Runs (sampleBody x srcs done r sample) s.image s.start () (ran (sampleBody x srcs done r sample) s.image s.start) := by
  refine runs_ran ?_
  unfold State.vectorsRead Runs at hv
  have count (f : Fld) (n : Nat) : Total Always Always (bump f r n) := total_always_modDev _
  have finish (n : Nat) : Total Always Always (do
      setWork x.q x.seq (.interact srcs (SMap.set 0 done r n))
      modDev Dev.syncInt
      interactDone x.q x.seq) :=
    total_bind (total_modDesc ..) fun _ => total_bind (total_always_modDev _) fun _ => total_interactDone ..
  unfold sampleBody
  simp only [run_bind, run_dev, start_dev, chain_ok, hv, hs, hd, ne_eq, not_true_eq_false, if_true, if_false, run_need, hp,
    List.isEmpty_nil]
  rw [← run_bind]
  exact (total_bind (total_always_modDev _) fun _ => total_bind (count _ _) fun _ =>
    total_bind (count _ _) fun _ => total_when (count _ _) (finish _)).ends _ _

theorem runs_interactSample {q : Fin 1024} {seq : BitVec 32} {sample : Nat} {x : Desc} {srcs : List Nat} {done : SMap Nat}
    {s : State} {t : Tx} (hx : s.dev.desc q.val seq.toNat = some x) (he : x.ended = false) (hn : sample < x.length)
    (hc : s.dev.scaleHeld x = false) (hw : x.work = .interact srcs done)
    (ht : SMap.get 0 done ((maskRegions x.itMask).getD (sample / 64 % (maskRegions x.itMask).length) 0) =
      sample / 64 / (maskRegions x.itMask).length * 64 + sample % 64)
    (hf : s.dev.regionFenced ((maskRegions x.itMask).getD (sample / 64 % (maskRegions x.itMask).length) 0) = false)
    (h : Runs (sampleBody x srcs done ((maskRegions x.itMask).getD (sample / 64 % (maskRegions x.itMask).length) 0) sample)
      s.image s.start () t) :
    exec (.interactSample q seq sample) s = .next (settle s t) := by
  refine transact_runs ?_
  unfold Runs
  simp only [run_bind, run_getDesc (t := s.start) hx, chain_ok, run_need, run_dev, start_dev, he, hn, hc, hw, ht, hf,
    decide_true, Bool.not_false, Bool.and_true, beq_self_eq_true, if_true, run_caught h, run_pure]

/-- What follows once a port has accepted a record of the descriptor `x`. -/
def accepted (r : PortRec) (x : Desc) : M Unit :=
  if x.opcode = 0x12 then interactDone r.q r.seq
  else if x.opcode = 0x40 ∨ x.opcode = 0x41 then exchangeDone r.q r.seq else acceptLookup r x

theorem total_accepted (r : PortRec) (x : Desc) : Total Always Always (accepted r x) :=
  total_ite (total_interactDone _ _) (total_ite (total_exchangeDone _ _) (total_acceptLookup r x))

/-- A port takes the oldest record held for it, counts it, and goes on with its descriptor, if that runs still. -/
theorem runs_beatAccept {s : State} {port : Fin 16} {r : PortRec} {t u : Tx}
    (hr : (s.dev.ports.find? fun r => r.port == port.val) = some r)
    (hc : Runs (countRecord r s.dev.time.et) s.image
      ⟨{ s.dev with ports := s.dev.ports.eraseP fun x => x.port == port.val }, []⟩ () t)
    (h : ∀ o, t.dev.desc r.q r.seq = o → Runs (o.elim (pure ()) (accepted r)) s.image t () u) :
    exec (.clientPortBeatAccept port) s = .next (settle s u) := by
  refine transact_runs ?_
  have h := h _ rfl
  unfold Runs at hc h ⊢
  simp only [run_bind, run_dev, start_dev, start_log, chain_ok, hr, run_have_some, run_modDev, run_now, hc]
  cases ho : t.dev.desc r.q r.seq with
  | none => rwa [ho] at h
  | some x => rwa [ho] at h

/-- Settles O26: everything that follows a sample's reads, a port's take and a write's checks runs to its end. -/
theorem interactAndPorts : Obligations.InteractAndPorts := by
  refine ⟨?_, ?_, ?_⟩
  · intro s q seq sample x srcs done t hx he hn hc hw rs r ht hf
    have go := fun u => runs_interactSample (t := u) hx he hn hc hw ht hf
    exact ⟨go t, fun vecs hv hs hd hp => go _ (run_sampleBody hv hs hd hp)⟩
  · intro s port r hr d counted
    have hc : Runs (countRecord r s.dev.time.et) s.image ⟨d, []⟩ () counted := runs_ran ((total_countRecord _ _).ends _ _)
    refine ⟨fun hn => ?_, fun x hx => runs_beatAccept hr hc fun o ho => ?_⟩
    · have he : Runs (countRecord r s.dev.time.et) s.image ⟨d, []⟩ () ⟨d, []⟩ := by
        unfold Runs countRecord
        simp only [run_bind, run_dev, chain_ok, show d.desc r.q r.seq = none from hn, run_pure]
      rw [← settle_put]
      refine runs_beatAccept hr he fun o ho => ?_
      rw [show d.desc r.q r.seq = none from hn] at ho
      exact ho ▸ rfl
    · rw [← ho, hx]
      exact runs_ran ((total_accepted r x).ends _ _)
  · intro s port addr data secure t who a hn
    have go (u : Tx) (h : Runs (writeLocal who a data) s.image s.start () u) :
        exec (.clientPortWrite port addr data secure) s = .next (settle s u) := by
      refine transact_runs ?_
      unfold Runs
      simp only [run_bind, run_dev, start_dev, chain_ok, run_need, hn, decide_true, if_true]
      exact h
    exact ⟨go t, fun h => go _ (run_writeLocal (Nat.le_refl 5) h)⟩

end Sys2Proof.Machine
end

section
/-! What logs no write: the rules by which a meaning is put together, then the operations that the commands share. -/

namespace Sys2Proof.Machine

variable {α : Type}

/-- A change of the machine, whatever it changes, and what follows it. -/
theorem quiet_change {f : Dev → Dev} {k : Unit → M α} (h : Quiet (k ())) : Quiet (modDev f >>= k) :=
  quiet_bind (quiet_modDev f) fun _ => h

/-- A condition, and what follows it. -/
theorem quiet_needs {b : Bool} {k : Unit → M α} (h : Quiet (k ())) : Quiet (need b >>= k) :=
  quiet_bind (quiet_need b) fun _ => h

/-- One action after another. -/
theorem quiet_seq {m : M Unit} {k : Unit → M α} (h : Quiet m) (g : Quiet (k ())) : Quiet (m >>= k) :=
  quiet_bind h fun _ => g

/-- A part that may be left out: the rest is quiet, and so is the part when the rest follows it. -/
theorem quiet_branch {c : Prop} [Decidable c] {a k : M α} (hk : Quiet k) (h : Quiet k → Quiet a) :
    Quiet (if c then a else k) := quiet_ite (h hk) hk

@[simp] theorem quiet_caught {m : M α} (h : Quiet m) : Quiet (caught m) := by
  refine quiet_tryCatch (quiet_bind h fun _ => quiet_pure _) fun e => ?_
  cases e with
  | fail s r => exact quiet_pure _
  | skip => exact quiet_throw _
  | wait f => exact quiet_throw _

/-! ### Operations -/

@[simp] theorem quiet_countOpen (l : List (Fld × Nat)) : Quiet (countOpen l) := quiet_each fun _ => fun _ _ => rfl
@[simp] theorem quiet_pageWorld (page : Nat) : Quiet (pageWorld page) := fun _ _ => rfl

/-! ### Register accesses -/

@[simp] theorem quiet_capture (w : RegAcc) (kind : Nat) : Quiet (RegAcc.capture w kind) := fun _ _ => rfl
@[simp] theorem quiet_ignore (w : RegAcc) : Quiet (RegAcc.ignore w) := fun _ _ => rfl
@[simp] theorem quiet_refuse (w : RegAcc) : Quiet (RegAcc.refuse w) := fun _ _ => rfl
@[simp] theorem quiet_captureEngine (page kind off : Nat) : Quiet (captureEngine page kind off) := fun _ _ => rfl
@[simp] theorem quiet_violation (source world kind : Nat) (region : Option Nat) (queue addr srcPage : Nat) :
    Quiet (violation source world kind region queue addr srcPage) :=
  quiet_change <| quiet_bind (quiet_rd _ _ _) fun _ => quiet_ite (fun _ _ => rfl) (fun _ _ => rfl)

@[simp] theorem quiet_passes (w : RegAcc) : Quiet (RegAcc.passes w) :=
  quiet_ite (quiet_pure _) (quiet_bind (quiet_rd _ _ _) fun _ => quiet_ite (quiet_pure _) (quiet_bind quiet_dev
    fun _ => quiet_ite (quiet_pure _) (quiet_ite (fun _ _ => rfl) (quiet_bind (quiet_pageWorld _) fun _ =>
    quiet_ite (quiet_seq (quiet_violation _ _ _ _ _ _ _) <| quiet_pure _) (quiet_bind (quiet_rdB _ _ _) fun _ =>
    quiet_ite (fun _ _ => rfl) (quiet_pure _))))))

@[simp] theorem quiet_run {w : RegAcc} {m : M Unit} (h : Quiet m) : Quiet (w.run m) :=
  quiet_bind (quiet_passes w) fun _ => quiet_ite h (quiet_pure ())

/-! ### Local memory -/

@[simp] theorem quiet_failBounds : Quiet (failBounds : M α) := fun _ _ => rfl

@[simp] theorem quiet_regionCheck (w : Who) (n : Need) (a len : Nat) : Quiet (regionCheck w n a len) := by
  refine quiet_bind quiet_dev fun _ => ?_
  dsimp only
  split
  · exact quiet_pure _
  · exact quiet_seq (quiet_violation _ _ _ _ _ _ _) <| quiet_fail _ _

@[simp] theorem quiet_localCheck (w : Who) (n : Need) (a len : Nat) : Quiet (localCheck w n a len) :=
  quiet_bind quiet_dev fun _ => quiet_ite (quiet_regionCheck _ _ _ _) (fun _ _ => rfl)

@[simp] theorem quiet_clear (w : Who) (isRead : Bool) (a len : Nat) : Quiet (clear! w isRead a len) := by
  refine quiet_bind quiet_dev fun _ => quiet_ite ?_ (quiet_pure _)
  split
  · exact quiet_skip
  · exact quiet_ite quiet_skip (quiet_waitFor _)

@[simp] theorem quiet_regulate (w : Who) (key limit : Nat) (yields : Bool) (len : Nat) :
    Quiet (regulate w key limit yields len) :=
  quiet_bind quiet_dev fun _ => quiet_ite (fun _ _ => rfl) (quiet_waitFor _)
@[simp] theorem quiet_capoIssue (w : Who) (r p c len : Nat) : Quiet (capoIssue w r p c len) :=
  quiet_ite (quiet_pure _) (quiet_bind quiet_dev fun _ => quiet_regulate _ _ _ _ _)
@[simp] theorem quiet_maintShare (q seq r p bytes : Nat) : Quiet (maintShare q seq r p bytes) :=
  quiet_bind quiet_dev fun _ => quiet_ite (quiet_waitFor _) (fun _ _ => rfl)
@[simp] theorem quiet_carry (src dst len : Nat) : Quiet (carry src dst len) :=
  quiet_ite (quiet_change <| quiet_change <| quiet_ite (fun _ _ => rfl) (quiet_pure _)) (quiet_pure _)

@[simp] theorem quiet_meter (w : Who) (hold : Bool) (a len : Nat) : Quiet (meter w hold a len) := by
  refine quiet_each fun _ => quiet_bind quiet_dev fun _ => ?_
  split
  · exact quiet_ite (quiet_regulate _ _ _ _ _) (fun _ _ => rfl)
  · exact fun _ _ => rfl

@[simp] theorem quiet_homeTraffic (w : Who) (isWrite : Bool) (a len : Nat) : Quiet (homeTraffic w isWrite a len) := by
  refine quiet_each fun g => ?_
  dsimp only
  cases homeOf g.1 with
  | hbm r o => exact quiet_ite (fun _ _ => rfl) (fun _ _ => rfl)
  | cap r o => exact quiet_ite (fun _ _ => rfl) (fun _ _ => rfl)
  | _ => exact quiet_pure _

@[simp] theorem quiet_setLine (n : Nat) (l : Option Line) : Quiet (setLine n l) := fun _ _ => rfl

@[simp] theorem quiet_issue (w : Who) (op a len : Nat) : Quiet (issue w op a len) := by
  refine quiet_seq (quiet_capoIssue _ _ _ _ _) <| quiet_bind quiet_dev fun _ => quiet_branch (quiet_branch (quiet_seq
    (quiet_each fun _ => fun _ _ => rfl) <| ?_) fun rest => quiet_change <| rest) fun rest =>
    quiet_seq (quiet_capoIssue _ _ _ _ _) <| rest
  split
  · exact quiet_ite (quiet_carry _ _ _) (quiet_carry _ _ _)
  · exact quiet_pure _

@[simp] theorem quiet_writeBack (n : Nat) : Quiet (writeBack n) := by
  refine quiet_bind quiet_dev fun _ => ?_
  split
  · exact quiet_change <| quiet_seq (quiet_meter _ _ _ _) <| quiet_seq (quiet_homeTraffic _ _ _ _) <|
      quiet_setLine _ _
  · exact quiet_pure _

@[simp] theorem quiet_makeRoom (n : Nat) (keep : List Nat) : Quiet (makeRoom n keep) :=
  quiet_bind quiet_dev fun _ => quiet_ite (quiet_pure _) (quiet_ite (quiet_pure _) (quiet_bind (quiet_freeValue _)
    fun _ => quiet_bind (quiet_have _) fun _ => quiet_seq (quiet_writeBack _) <| quiet_setLine _ _))
@[simp] theorem quiet_bringIn (a len : Nat) : Quiet (bringIn a len) :=
  quiet_ite (quiet_pure _) (quiet_each fun _ => quiet_bind quiet_dev fun _ => quiet_ite (quiet_seq
    (quiet_makeRoom _ _) <| fun _ _ => rfl) (quiet_pure _))
@[simp] theorem quiet_countFound (a len : Nat) : Quiet (countFound a len) := fun _ _ => rfl
@[simp] theorem quiet_countHit (w : Who) (a len : Nat) : Quiet (countHit w a len) :=
  quiet_bind (quiet_countFound _ _) fun _ => quiet_ite (quiet_pure _) (quiet_seq (quiet_meter _ _ _ _) <|
    quiet_homeTraffic _ _ _ _)

@[simp] theorem quiet_readChecked (w : Who) (gather : Bool) (a len : Nat) : Quiet (readChecked w gather a len) :=
  quiet_seq (quiet_clear _ _ _ _) <| quiet_seq (quiet_issue _ _ _ _) <| quiet_seq (quiet_countHit _ _ _) <|
    quiet_branch (quiet_peeks _ _ _) fun rest => quiet_ite (quiet_bind (quiet_rdB _ _ _) fun _ =>
    quiet_ite (quiet_seq (quiet_bringIn _ _) <| rest) rest) (quiet_ite (quiet_bind (quiet_rdB _ _ _) fun _ =>
    quiet_ite (quiet_seq (quiet_bringIn _ _) <| rest) rest) (quiet_bind (quiet_pure _) fun _ =>
    quiet_ite (quiet_seq (quiet_bringIn _ _) <| rest) rest))

@[simp] theorem quiet_readLocal (w : Who) (a len : Nat) : Quiet (readLocal w a len) :=
  quiet_seq (quiet_localCheck _ _ _ _) <| quiet_readChecked _ _ _ _
@[simp] theorem quiet_structWho (tapKind inst cls page q seq : Nat) :
    Quiet (structWho tapKind inst cls page q seq) := fun _ _ => rfl

/-! ### Translation -/

@[simp] theorem quiet_readAsid (asid q seq : Nat) : Quiet (readAsid asid q seq) :=
  quiet_bind (quiet_rd _ _ _) fun _ => quiet_branch (quiet_bind (quiet_structWho _ _ _ _ _ _) fun _ =>
    quiet_bind (quiet_rd _ _ _) fun _ => quiet_bind (quiet_readLocal _ _ _) fun _ => quiet_pure _) fun rest =>
    quiet_seq (quiet_fail _ _) <| rest

@[simp] theorem quiet_asidCtx (buf asid q seq : Nat) : Quiet (asidCtx buf asid q seq) := by
  refine quiet_bind (quiet_rd _ _ _) fun _ => quiet_branch (quiet_bind quiet_dev fun _ => ?_) fun rest =>
    quiet_seq (quiet_fail _ _) <| rest
  split
  · exact quiet_pure _
  · refine quiet_bind (quiet_readAsid _ _ _) fun _ => ?_
    split
    · exact fun _ _ => rfl

@[simp] theorem quiet_modCl (c : Nat) (f : Cluster → Cluster) : Quiet (modCl c f) := fun _ _ => rfl

/-- How the translation of a page ends: a leaf of another world fails, one without the right asks for a fault. -/
theorem quiet_leafEnd {b c : Prop} [Decidable b] [Decidable c] {f : Dev → Dev} {x y : PageRes} {status reason : Nat} :
    Quiet (do if b then fail status reason
              if c then return x
              modDev f
              return y) :=
  quiet_branch (quiet_ite (quiet_pure _) (fun _ _ => rfl)) fun rest => quiet_seq (quiet_fail _ _) <| rest

@[simp] theorem quiet_xlatePage (w : Waiter) (world asid : Nat) (need : Need) (va len : Nat) :
    Quiet (xlatePage w world asid need va len) := by
  unfold xlatePage
  refine quiet_bind quiet_dev fun _ => ?_
  extract_lets inContext rest
  have hcontext : ∀ c, Quiet (inContext c) := by
    intro c
    refine quiet_branch (quiet_ite (quiet_pure _) (quiet_bind quiet_dev fun d => ?_)) fun rest =>
      quiet_seq (quiet_fail _ _) <| rest
    extract_lets l1hit hit
    cases hit with
    | none => exact quiet_pure _
    | some t =>
      dsimp only
      split
      · exact quiet_change <| quiet_leafEnd
      · exact quiet_change <| quiet_change <| quiet_change <| quiet_leafEnd
      · exact quiet_change <| quiet_leafEnd
  have hrest : Quiet (rest ()) := by
    refine quiet_ite (quiet_pure _) (quiet_bind (quiet_asidCtx _ _ _ _) fun _ => ?_)
    split
    · exact quiet_bind (quiet_asidCtx _ _ _ _) hcontext
    · exact hcontext _
  split
  · exact quiet_change <| quiet_seq (quiet_fail _ _) hrest
  · exact hrest

@[simp] theorem quiet_xlateAll (w : Waiter) (world asid : Nat) (need : Need) (l : List (Nat × Nat)) :
    Quiet (xlateAll w world asid need l) := by
  induction l with
  | nil => exact quiet_pure _
  | cons p l ih =>
    refine quiet_bind (quiet_xlatePage _ _ _ _ _ _) fun r => quiet_bind ih fun ⟨segs, regs, pend⟩ => ?_
    cases r with
    | ok s => exact quiet_pure _
    | pend reg => cases reg with
      | none => exact quiet_pure _
      | some f => exact quiet_pure _

@[simp] theorem quiet_segCheck (w : Waiter) (need : Need) (s : Seg) : Quiet (segCheck w need s) := by
  refine quiet_bind quiet_dev fun _ => quiet_ite ?_ (quiet_ite ?_ (quiet_ite (fun _ _ => rfl) (quiet_pure _)))
  · split
    · exact quiet_pure _
    · exact fun _ _ => rfl
  · split
    · exact fun _ _ => rfl
    · exact fun _ _ => rfl
    · exact quiet_pure _

@[simp] theorem quiet_translate (w : Waiter) (world asid : Nat) (need : Need) (va len : Nat) :
    Quiet (translate w world asid need va len) := by
  refine quiet_ite (quiet_pure _) (quiet_branch (quiet_bind (quiet_xlateAll _ _ _ _ _) fun _ => ?_) fun rest =>
    quiet_seq (fun _ _ => rfl) <| rest)
  split
  · exact quiet_branch (quiet_seq (quiet_each fun _ => quiet_segCheck _ _ _) <| quiet_pure _) fun rest =>
      quiet_ite (quiet_seq quiet_skip <| rest) (quiet_seq (quiet_waitFor _) <| rest)

/-! ### Queues -/

@[simp] theorem quiet_getDesc (q seq : Nat) : Quiet (getDesc q seq) := quiet_bind quiet_dev fun _ => quiet_have _
@[simp] theorem quiet_putDesc (x : Desc) : Quiet (putDesc x) := fun _ _ => rfl

@[simp] theorem quiet_modDesc (q seq : Nat) (f : Desc → Desc) : Quiet (modDesc q seq f) := by
  refine quiet_bind quiet_dev fun _ => ?_
  split
  · exact quiet_putDesc _
  · exact quiet_pure _

@[simp] theorem quiet_endDesc (q seq : Nat) : Quiet (endDesc q seq) := fun _ _ => rfl

/-! ### Accesses by address -/

@[simp] theorem quiet_dropRemote (r : RemoteOp) : Quiet (dropRemote r) := fun _ _ => rfl

@[simp] theorem quiet_remoteRead (w : Waiter) (world : Nat) (c : Nat × Nat) : Quiet (remoteRead w world c) := by
  refine quiet_bind quiet_dev fun _ => ?_
  split
  · exact quiet_ite (fun _ _ => rfl) (quiet_pure _)
  · split
    · exact quiet_pure _
    · exact quiet_pure _
    · exact fun _ _ => rfl

@[simp] theorem quiet_readSegs (w : Waiter) (who : Who) (gather : Bool) (segs : List Seg) :
    Quiet (readSegs w who gather segs) :=
  quiet_bind quiet_dev fun _ => quiet_bind (quiet_collect fun _ => quiet_collect fun _ =>
    quiet_remoteRead _ _ _) fun _ => quiet_branch (quiet_bind (quiet_collect fun _ =>
    quiet_ite (quiet_seq (quiet_localCheck _ _ _ _) <| quiet_readChecked _ _ _ _) (fun _ _ => rfl)) fun _ =>
    quiet_pure _) fun rest => quiet_ite (quiet_seq quiet_skip <| rest) (quiet_seq (quiet_waitFor _) <| rest)

@[simp] theorem quiet_progress (q seq rows bytes coh : Nat) : Quiet (progress q seq rows bytes coh) :=
  quiet_modDesc _ _ _
@[simp] theorem quiet_raiseFlag (q seq f : Nat) : Quiet (raiseFlag q seq f) := quiet_modDesc _ _ _

/-! ### Streams -/

@[simp] theorem quiet_sequencing (c : Nat) : Quiet (sequencing c) :=
  quiet_bind quiet_dev fun _ => quiet_needs <| quiet_needs <| quiet_bind (quiet_have _) fun _ => quiet_needs <|
    quiet_pure _
@[simp] theorem quiet_setSlice (c : Nat) (s : Slice) : Quiet (setSlice c s) := fun _ _ => rfl
@[simp] theorem quiet_toPool (c : Nat) : Quiet (toPool c) := fun _ _ => rfl
@[simp] theorem quiet_pushItem (c : Nat) (i : Item) : Quiet (pushItem c i) := fun _ _ => rfl
@[simp] theorem quiet_seqFail (c : Nat) (s : Slice) (status reason skind code : Nat) :
    Quiet (seqFail c s status reason skind code) := fun _ _ => rfl
@[simp] theorem quiet_seqBounds (c : Nat) (s : Slice) : Quiet (seqBounds c s) := fun _ _ => rfl

@[simp] theorem quiet_seqPlain (c op : Nat) (f : Slice → Nat → Option Resume) : Quiet (seqPlain c op f) := by
  refine quiet_bind (quiet_sequencing _) fun _ => quiet_bind (quiet_have _) fun _ => quiet_needs <| ?_
  split
  · exact quiet_setSlice _ _
  · exact quiet_seqBounds _ _

@[simp] theorem quiet_clusterSegs (c q seq world asid va len : Nat) :
    Quiet (clusterSegs c q seq world asid va len) := by
  refine quiet_bind (quiet_caught (quiet_translate _ _ _ _ _ _)) fun _ => ?_
  split
  · exact quiet_pure _
  · exact quiet_bind quiet_dev fun _ => quiet_ite (quiet_pure _) (quiet_pure _)

@[simp] theorem quiet_clusterRead (c q seq world asid va len : Nat) :
    Quiet (clusterRead c q seq world asid va len) := by
  refine quiet_bind (quiet_clusterSegs _ _ _ _ _ _ _) fun _ => ?_
  split
  · exact quiet_pure _
  · refine quiet_bind quiet_dev fun _ => quiet_bind (quiet_caught (quiet_readSegs _ _ _ _)) fun _ => ?_
    split
    · exact quiet_pure _
    · exact quiet_pure _

@[simp] theorem quiet_seqRead (c : Nat) (s : Slice) (va len : Nat) {f : Nat → M Unit} (h : ∀ n, Quiet (f n)) :
    Quiet (seqRead c s va len f) := by
  refine quiet_bind quiet_dev fun _ => quiet_bind (quiet_clusterRead _ _ _ _ _ _ _) fun _ => ?_
  split
  · exact h _
  · exact quiet_seqFail _ _ _ _ _ _

@[simp] theorem quiet_modItem (c id : Nat) (f : Item → Item) : Quiet (modItem c id f) := fun _ _ => rfl
@[simp] theorem quiet_failItem (c id : Nat) (e : Nat × Nat × Nat) : Quiet (failItem c id e) := fun _ _ => rfl

@[simp] theorem quiet_askItem (c : Nat) (s : Slice) (i : Item) : Quiet (askItem c s i) := by
  refine quiet_bind quiet_dev fun _ => quiet_bind (quiet_collect fun _ => quiet_clusterSegs _ _ _ _ _ _ _) fun _ => ?_
  split
  · exact quiet_failItem _ _ _
  · exact quiet_modItem _ _ _

@[simp] theorem quiet_phaseLimit (c : Nat) : Quiet (phaseLimit c) :=
  quiet_bind quiet_dev fun _ => quiet_ite (quiet_toPool _) (quiet_pure _)

/-! ### Pools -/

@[simp] theorem quiet_promoteRun (x : Desc) (c slot : Nat) (r : Run) : Quiet (promoteRun x c slot r) :=
  quiet_ite (quiet_pure _) (quiet_bind quiet_dev fun _ => quiet_ite (quiet_change <| quiet_change <|
    quiet_ite (quiet_seq (quiet_each fun _ => fun _ _ => rfl) <| quiet_change <| quiet_seq (quiet_raiseFlag _ _ _) <|
    quiet_ite (quiet_progress _ _ _ _ _) (quiet_pure _)) (quiet_ite (quiet_progress _ _ _ _ _) (quiet_pure _)))
    (quiet_change <| quiet_change <| quiet_ite (quiet_progress _ _ _ _ _) (quiet_pure _)))

/-! ### Look-ups -/

@[simp] theorem quiet_noteHazard (c : Nat) : Quiet (noteHazard c) :=
  quiet_bind quiet_dev fun _ => quiet_ite (quiet_ite (fun _ _ => rfl) (quiet_modCl _ _)) (quiet_pure _)
@[simp] theorem quiet_dropItems (c : Nat) : Quiet (dropItems c) := fun _ _ => rfl

@[simp] theorem quiet_promoteOpen (c : Nat) (x : Desc) : Quiet (promoteOpen c x) := by
  refine quiet_bind quiet_dev fun _ => ?_
  split
  · exact quiet_pure _
  · exact quiet_seq (quiet_each fun _ => quiet_promoteRun _ _ _ _) <| quiet_modCl _ _

@[simp] theorem quiet_freeCluster (c : Nat) : Quiet (freeCluster c) := fun _ _ => rfl

@[simp] theorem quiet_lookupDone (q seq : Nat) : Quiet (lookupDone q seq) := by
  refine quiet_bind quiet_dev fun _ => ?_
  split
  · exact quiet_pure _
  · split
    · exact quiet_pure _
    · exact quiet_ite (quiet_endDesc _ _) (quiet_pure _)

@[simp] theorem quiet_modLookup (q seq : Nat) (f : Lookup → Lookup) : Quiet (modLookup q seq f) := quiet_modDesc _ _ _
@[simp] theorem quiet_endSlice (c : Nat) (s : Slice) : Quiet (endSlice c s) :=
  quiet_seq (quiet_modLookup _ _ _) <| quiet_seq (quiet_freeCluster _) <| quiet_seq (quiet_lookupDone _ _) <|
    quiet_noteHazard _
@[simp] theorem quiet_toFetch (c : Nat) : Quiet (toFetch c) := fun _ _ => rfl
@[simp] theorem quiet_pooling (c : Nat) : Quiet (pooling c) :=
  quiet_bind quiet_dev fun _ => quiet_needs <| quiet_have _

@[simp] theorem quiet_itemBytes (c : Nat) (s : Slice) (i : Item) : Quiet (itemBytes c s i) := by
  refine quiet_bind quiet_dev fun _ => quiet_bind (quiet_collect fun _ => quiet_bind
    (quiet_clusterSegs _ _ _ _ _ _ _) fun _ => ?_) fun _ => ?_
  · split
    · exact quiet_pure _
    · dsimp only
      split
      · exact quiet_pure _
      · refine quiet_bind (quiet_caught (quiet_readSegs _ _ _ _)) fun _ => ?_
        split
        · exact quiet_pure _
        · exact quiet_pure _
  · split
    · exact quiet_pure _
    · exact quiet_pure _

@[simp] theorem quiet_dropArrives (c : Nat) (e : Nat × Nat) : Quiet (dropArrives c e) :=
  quiet_change <| quiet_change <| quiet_change <| quiet_bind quiet_dev fun _ => quiet_ite (fun _ _ => rfl)
    (quiet_pure _)

@[simp] theorem quiet_itemArrives (c item : Nat) : Quiet (itemArrives c item) := by
  refine quiet_bind quiet_dev fun _ => quiet_needs <| quiet_bind (quiet_have _) fun _ => quiet_needs <|
    quiet_bind (quiet_have _) fun _ => quiet_bind (quiet_itemBytes _ _ _) fun _ => ?_
  split
  · exact quiet_failItem _ _ _
  · exact quiet_modItem _ _ _

@[simp] theorem quiet_countRecord (r : PortRec) (coh : Nat) : Quiet (countRecord r coh) := by
  refine quiet_bind quiet_dev fun _ => ?_
  split
  · exact quiet_pure _
  · exact quiet_seq (quiet_progress _ _ _ _ _) <| quiet_ite (quiet_branch (quiet_ite (quiet_change <|
      quiet_branch (quiet_ite (quiet_raiseFlag _ _ _) (quiet_pure _)) fun rest => quiet_seq (quiet_raiseFlag _ _ _) <|
      rest) (quiet_branch (quiet_ite (quiet_raiseFlag _ _ _) (quiet_pure _)) fun rest =>
      quiet_seq (quiet_raiseFlag _ _ _) <| rest)) fun rest => quiet_change <| rest) (quiet_change <|
      quiet_branch (quiet_ite (quiet_raiseFlag _ _ _) (quiet_pure _)) fun rest => quiet_seq (quiet_raiseFlag _ _ _) <|
      rest)

@[simp] theorem quiet_acceptLookup (r : PortRec) (x : Desc) : Quiet (acceptLookup r x) :=
  quiet_seq (quiet_lookupDone _ _) <| quiet_each fun _ => quiet_noteHazard _
@[simp] theorem quiet_acmRelease (c tile : Nat) (w : RegAcc) : Quiet (acmRelease c tile w) :=
  quiet_bind quiet_dev fun _ => quiet_ite (quiet_ignore _) (fun _ _ => rfl)
@[simp] theorem quiet_setSlot (n st : Nat) : Quiet (setSlot n st) := fun _ _ => rfl
@[simp] theorem quiet_endEpoch (n : Nat) : Quiet (endEpoch n) :=
  quiet_change <| quiet_bind quiet_dev fun _ =>
    quiet_ite (quiet_seq (quiet_setSlot _ _) <| quiet_ite (fun _ _ => rfl) (fun _ _ => rfl)) (fun _ _ => rfl)

/-! ### Interaction -/

@[simp] theorem quiet_interactDone (q seq : Nat) : Quiet (interactDone q seq) := by
  refine quiet_bind quiet_dev fun _ => ?_
  split
  · exact quiet_pure _
  · split
    · exact quiet_ite (fun _ _ => rfl) (quiet_pure _)
    · exact quiet_pure _

@[simp] theorem quiet_exchangeDone (q seq : Nat) : Quiet (exchangeDone q seq) := by
  refine quiet_bind quiet_dev fun _ => ?_
  split
  · exact quiet_pure _
  · split
    · exact quiet_ite (quiet_endDesc _ _) (quiet_pure _)
    · exact quiet_pure _

/-! ### Codebooks -/

@[simp] theorem quiet_setLoad (st err : Nat) : Quiet (setLoad st err) := fun _ _ => rfl
@[simp] theorem quiet_endLoad (st err : Nat) : Quiet (endLoad st err) := fun _ _ => rfl
@[simp] theorem quiet_loadError : Quiet loadError :=
  quiet_bind quiet_dev fun _ => quiet_ite (quiet_pure _) (quiet_ite (quiet_pure _) (quiet_ite (quiet_pure _)
    (quiet_ite (quiet_bind (quiet_peeks _ _ _) fun _ => quiet_ite (quiet_pure _) (quiet_pure _)) (quiet_pure _))))

@[simp] theorem quiet_loadStart (w : RegAcc) : Quiet (loadStart w) :=
  quiet_bind (quiet_rd _ _ _) fun _ => quiet_ite (quiet_ignore _) (quiet_bind quiet_loadError fun _ =>
    quiet_ite (quiet_endLoad _ _) (quiet_change <| quiet_bind (quiet_rd _ _ _) fun _ => quiet_bind quiet_dev fun _ =>
    quiet_ite (quiet_setLoad _ _) (fun _ _ => rfl)))

@[simp] theorem quiet_loadAbort (w : RegAcc) : Quiet (loadAbort w) :=
  quiet_bind (quiet_rd _ _ _) fun _ => quiet_ite (quiet_endLoad _ _) (quiet_ite (quiet_ignore _) (quiet_pure _))

/-! ### Sequences of nodes -/

@[simp] theorem quiet_rmtRead (node off : Nat) : Quiet (rmtRead node off) :=
  quiet_bind (quiet_structWho _ _ _ _ _ _) fun _ => quiet_bind quiet_dev fun _ => quiet_bind (quiet_readLocal _ _ _)
    fun _ => quiet_pure _

/-! ### Ports -/

@[simp] theorem quiet_portEdge (p : Nat) (before : Bool) : Quiet (portEdge p before) :=
  quiet_bind quiet_dev fun _ => quiet_ite (fun _ _ => rfl) (quiet_ite (quiet_change <| quiet_each fun _ =>
    fun _ _ => rfl) (quiet_pure _))
@[simp] theorem quiet_setPortState (p st : Nat) : Quiet (setPortState p st) :=
  quiet_bind (quiet_rd _ _ _) fun _ => quiet_ite (quiet_pure _) (quiet_bind quiet_dev fun _ => quiet_change <|
    quiet_seq (quiet_portEdge _ _) <| fun _ _ => rfl)

@[simp] theorem quiet_spendPn (p : Nat) : Quiet (spendPn p) := by
  refine quiet_bind quiet_dev fun _ => ?_
  split
  · exact quiet_pure _
  · exact quiet_bind quiet_dev fun _ => quiet_change <| quiet_branch (quiet_portEdge _ _) fun rest => quiet_change <|
      quiet_change <| rest

@[simp] theorem quiet_sendFrame (n kind : Nat) (start last retx : Bool) (seq hdr : Nat) (body : List Byte) :
    Quiet (sendFrame n kind start last retx seq hdr body) :=
  quiet_bind quiet_dev fun _ => quiet_ite (quiet_pure _) (quiet_change <| quiet_change <| quiet_change <|
    quiet_spendPn _)

@[simp] theorem quiet_sendControl (n kind : Nat) (body : List Byte) : Quiet (sendControl n kind body) :=
  quiet_bind quiet_dev fun _ => quiet_sendFrame _ _ _ _ _ _ _ _

@[simp] theorem quiet_appliedFrom (n : Nat) : Quiet (appliedFrom n) := by
  refine quiet_bind quiet_dev fun _ => quiet_ite (quiet_pure _) (quiet_bind (quiet_caught (quiet_rmtRead _ _))
    fun _ => ?_)
  split
  · exact quiet_pure _
  · exact quiet_pure _

@[simp] theorem quiet_sendAck (n : Nat) : Quiet (sendAck n) :=
  quiet_bind (quiet_appliedFrom _) fun _ => quiet_sendControl _ _ _
@[simp] theorem quiet_sendHello (n kind : Nat) : Quiet (sendHello n kind) :=
  quiet_bind (quiet_appliedFrom _) fun _ => quiet_sendControl _ _ _
@[simp] theorem quiet_sendNak (n : Nat) : Quiet (sendNak n) :=
  quiet_bind quiet_dev fun _ => quiet_ite (fun _ _ => rfl) (quiet_seq (quiet_sendControl _ _ _) <| fun _ _ => rfl)

/-! ### Time -/

@[simp] theorem quiet_setSlew (s : Int) : Quiet (setSlew s) := fun _ _ => rfl
@[simp] theorem quiet_timeStateRecord (old st : Nat) : Quiet (timeStateRecord old st) := fun _ _ => rfl

@[simp] theorem quiet_setTimState (st : Nat) : Quiet (setTimState st) :=
  quiet_bind quiet_dev fun _ => quiet_ite (quiet_change <| quiet_ite (quiet_change <| quiet_change <| quiet_change <|
    quiet_ite (fun _ _ => rfl) (fun _ _ => rfl)) (quiet_change <| quiet_change <| quiet_ite (fun _ _ => rfl)
    (fun _ _ => rfl))) (quiet_pure _)

@[simp] theorem quiet_stepTime (n : Nat) : Quiet (stepTime n) :=
  quiet_bind quiet_now fun _ => quiet_bind (quiet_rd _ _ _) fun _ => quiet_change <| quiet_seq (quiet_setSlew _) <|
    quiet_change <| quiet_branch (quiet_change <| quiet_ite (quiet_timeStateRecord _ _) (quiet_pure _)) fun rest =>
    quiet_change <| rest

@[simp] theorem quiet_slewDown (n : Nat) : Quiet (slewDown n) :=
  quiet_bind quiet_dev fun _ => quiet_ite (fun _ _ => rfl) (quiet_change <| quiet_change <| quiet_change <|
    quiet_seq (quiet_setTimState _) <| quiet_setSlew _)
@[simp] theorem quiet_correctTime (c : Int) : Quiet (correctTime c) :=
  quiet_bind (quiet_rd _ _ _) fun _ => quiet_ite (quiet_ite (quiet_stepTime _) (quiet_pure _)) (quiet_ite
    (quiet_stepTime _) (quiet_ite (quiet_slewDown _) (quiet_setSlew _)))
@[simp] theorem quiet_timeSet (w : RegAcc) : Quiet (timeSet w) :=
  quiet_bind quiet_dev fun _ => quiet_ite (quiet_ignore _) (quiet_correctTime _)
@[simp] theorem quiet_sourceLost : Quiet sourceLost :=
  quiet_bind (quiet_rd _ _ _) fun _ => quiet_ite (quiet_setTimState _) (quiet_ite (fun _ _ => rfl) (quiet_pure _))

@[simp] theorem quiet_measureTree (skew : Nat) : Quiet (measureTree skew) := by
  unfold measureTree
  with_reducible refine quiet_bind (quiet_freeValue 64) fun _ => quiet_seq (quiet_modTime _) ?_
  with_reducible refine quiet_seq (quiet_each fun _ => ?_) (quiet_modTime _)
  exact quiet_bind (quiet_freeValue 64) fun _ => quiet_modTime _

@[simp] theorem quiet_modPtp (p : Nat) (f : PtpPort → PtpPort) : Quiet (modPtp p f) := fun _ _ => rfl

@[simp] theorem quiet_runBmca (late : Nat) : Quiet (runBmca late) := by
  refine quiet_bind quiet_dev fun _ => quiet_seq (quiet_each fun _ => fun _ _ => rfl) <| quiet_change <|
    quiet_change <| quiet_ite ?_ (quiet_pure _)
  dsimp only
  split
  · exact quiet_change <| quiet_bind quiet_now fun _ => quiet_change <| quiet_ite quiet_sourceLost (quiet_pure _)
  · exact quiet_bind quiet_now fun _ => quiet_change <| quiet_ite quiet_sourceLost (quiet_pure _)

@[simp] theorem quiet_syncPtp : Quiet syncPtp :=
  quiet_bind quiet_dev fun _ => quiet_seq (quiet_each fun _ => fun _ _ => rfl) <| quiet_seq (quiet_each fun _ =>
    fun _ _ => rfl) <| quiet_ite (quiet_runBmca _) (quiet_pure _)

@[simp] theorem quiet_servo (offset : Int) : Quiet (servo offset) :=
  quiet_bind (quiet_rd _ _ _) fun _ => quiet_ite (quiet_change <| quiet_bind (quiet_freeValue _) fun _ =>
    quiet_change <| quiet_change <| quiet_seq (quiet_correctTime _) <| quiet_bind quiet_dev fun _ =>
    quiet_ite (quiet_setTimState _) (quiet_ite (quiet_setTimState _) (quiet_pure _))) (quiet_pure _)

@[simp] theorem quiet_offsetOf (p : Nat) (t1 : Int) (t2 : Nat) : Quiet (offsetOf p t1 t2) :=
  quiet_change <| quiet_bind quiet_dev fun _ => quiet_ite (quiet_servo _) (quiet_pure _)

@[simp] theorem quiet_ptpReceive (p : Nat) (m : PtpMsg) : Quiet (ptpReceive p m) := by
  refine quiet_bind quiet_dev fun _ => ?_
  dsimp only
  split
  · exact quiet_needs <| quiet_ite (quiet_change <| quiet_runBmca _) (quiet_pure _)
  · exact quiet_needs <| quiet_change <| quiet_branch (quiet_ite (quiet_modPtp _ _) (quiet_offsetOf _ _ _))
      fun rest => quiet_seq (quiet_setTimState _) <| rest
  · refine quiet_needs <| ?_
    split
    · exact quiet_skip
    · exact quiet_change <| quiet_offsetOf _ _ _
  · exact quiet_needs <| fun _ _ => rfl
  · refine quiet_needs <| ?_
    split
    · exact fun _ _ => rfl
    · exact quiet_skip
  · exact quiet_pure _

/-! ### Recorder -/

@[simp] theorem quiet_emptyStaging : Quiet emptyStaging := by
  refine quiet_repeatM (quiet_bind quiet_dev fun _ => ?_)
  split
  · exact fun _ _ => rfl
  · exact quiet_pure _

@[simp] theorem quiet_swWrite (code sev : Nat) (w : RegAcc) : Quiet (swWrite code sev w) :=
  quiet_ite (quiet_ignore _) (fun _ _ => rfl)

/-! ### Memory events -/

@[simp] theorem quiet_markLine (line : Nat) (lls scrub : Bool) : Quiet (markLine line lls scrub) := by
  refine quiet_bind quiet_dev fun _ => quiet_ite (quiet_change <| quiet_change <| ?_) (quiet_pure _)
  cases homeOf (line * 64) with
  | _ => exact quiet_branch (quiet_bind (quiet_rd _ _ _) fun _ => quiet_ite (fun _ _ => rfl) (fun _ _ => rfl)) fun rest =>
      quiet_seq (fun _ _ => rfl) <| rest

@[simp] theorem quiet_takeStep (key : Nat) (n : Nat × Nat) : Quiet (takeStep key n) :=
  quiet_bind quiet_dev fun _ => quiet_ite (fun _ _ => rfl) (fun _ _ => rfl)
@[simp] theorem quiet_setHot (key : Nat) (on : Bool) : Quiet (setHot key on) :=
  quiet_change <| quiet_ite (fun _ _ => rfl) (fun _ _ => rfl)

@[simp] theorem quiet_takeToken (act target ch q : Nat) : Quiet (takeToken act target ch q) := by
  refine quiet_bind quiet_dev fun _ => quiet_ite (fun _ _ => rfl) ?_
  split
  · exact quiet_pure _
  · exact fun _ _ => rfl

@[simp] theorem quiet_beginWipes : Quiet beginWipes :=
  quiet_bind quiet_dev fun _ => quiet_ite (quiet_bind quiet_dev fun _ => quiet_each fun _ =>
    fun _ _ => rfl) (quiet_pure _)
@[simp] theorem quiet_freeSlot (n : Nat) : Quiet (freeSlot n) := quiet_change <| quiet_change <| quiet_beginWipes
@[simp] theorem quiet_applyCapo (r : Nat) : Quiet (applyCapo r) :=
  quiet_bind quiet_dev fun _ => quiet_ite (quiet_each fun _ => fun _ _ => rfl) (quiet_captureEngine _ _ _)

/-! ### Migration -/

@[simp] theorem quiet_batchFlush (die : Nat) : Quiet (batchFlush die) := fun _ _ => rfl

/-! ### Copies -/

@[simp] theorem quiet_syncCopy (e : Nat) : Quiet (syncCopy e) := fun _ _ => rfl

/-! ### Transport -/

@[simp] theorem quiet_newSession (last : Nat) : Quiet (newSession last) := fun _ _ => rfl
@[simp] theorem quiet_sessionOf (n : Nat) : Quiet (sessionOf n) :=
  quiet_bind quiet_dev fun _ => quiet_needs <| quiet_pure _
@[simp] theorem quiet_portTicks (f : Fld) (p unit : Nat) : Quiet (portTicks f p unit) := fun _ _ => rfl

@[simp] theorem quiet_climb (p : Nat) : Quiet (climb p) :=
  quiet_bind (quiet_rd _ _ _) fun _ => quiet_branch (quiet_bind (quiet_rd _ _ _) fun _ =>
    quiet_bind (quiet_rd _ _ _) fun _ => quiet_branch (quiet_bind (quiet_rd _ _ _) fun _ =>
    quiet_bind (quiet_rd _ _ _) fun _ => quiet_branch (quiet_bind (quiet_rd _ _ _) fun _ =>
    quiet_bind (quiet_rd _ _ _) fun _ => quiet_branch (quiet_bind (quiet_rd _ _ _) fun _ =>
    quiet_bind (quiet_rd _ _ _) fun _ => quiet_ite (quiet_setPortState _ _) (quiet_pure _)) fun rest =>
    quiet_seq (quiet_setPortState _ _) <| rest) fun rest => quiet_seq (quiet_setPortState _ _) <| rest) fun rest =>
    quiet_seq (quiet_setPortState _ _) <| rest) fun rest => quiet_seq (quiet_setPortState _ _) <| rest

/-! ### Queue control -/

@[simp] theorem quiet_tailWrite (q v : Nat) (w : RegAcc) : Quiet (tailWrite q v w) :=
  quiet_bind (quiet_qrd _ _) fun _ => quiet_bind (quiet_qrd _ _) fun _ => quiet_bind (quiet_qrd _ _) fun _ =>
    quiet_bind (quiet_qrd _ _) fun _ => quiet_ite (fun _ _ => rfl) (quiet_ignore _)
@[simp] theorem quiet_enableQueue (q : Nat) (w : RegAcc) : Quiet (enableQueue q w) :=
  quiet_bind quiet_dev fun _ => quiet_ite (quiet_pure _) (quiet_ite (quiet_ignore _) (quiet_ite (quiet_refuse _)
    (fun _ _ => rfl)))
@[simp] theorem quiet_drainQueue (q : Nat) : Quiet (drainQueue q) :=
  quiet_bind (quiet_qrd _ _) fun _ => quiet_ite (fun _ _ => rfl) (quiet_pure _)
@[simp] theorem quiet_resumeQueue (q : Nat) : Quiet (resumeQueue q) :=
  quiet_bind (quiet_qrd _ _) fun _ => quiet_ite (fun _ _ => rfl) (quiet_pure _)
@[simp] theorem quiet_signalQueue (q : Nat) : Quiet (signalQueue q) := fun _ _ => rfl

/-! ### Host link -/

@[simp] theorem quiet_hostResume (w : RegAcc) : Quiet (hostResume w) :=
  quiet_bind (quiet_rd _ _ _) fun _ => quiet_ite (quiet_change <| quiet_change <| quiet_each fun _ =>
    quiet_syncCopy _) (quiet_ignore _)

/-! ### Last-level store -/

@[simp] theorem quiet_flushLines (p : Nat → Bool) : Quiet (flushLines p) :=
  quiet_bind quiet_dev fun _ => quiet_each fun _ => quiet_seq (quiet_writeBack _) <| quiet_setLine _ _
@[simp] theorem quiet_releasePin (r n : Nat) : Quiet (releasePin r n) :=
  quiet_bind quiet_dev fun _ => quiet_change <| quiet_ite (fun _ _ => rfl) (quiet_ite (quiet_seq (quiet_flushLines _)
    <| fun _ _ => rfl) (quiet_pure _))
@[simp] theorem quiet_pinWrite (r n : Nat) (on : Bool) (w : RegAcc) : Quiet (pinWrite r n on w) :=
  quiet_bind (quiet_rd _ _ _) fun _ => quiet_ite (quiet_releasePin _ _) (quiet_ite (quiet_ignore _) (quiet_ite
    (quiet_pure _) (quiet_change <| quiet_bind quiet_dev fun _ => quiet_ite (fun _ _ => rfl) (fun _ _ => rfl))))

/-! ### Regions and keys -/

@[simp] theorem quiet_wipeEnds (busy : Bool) : Quiet (wipeEnds busy) := fun _ _ => rfl
@[simp] theorem quiet_endKey (ok : Bool) : Quiet (endKey ok) :=
  quiet_change <| quiet_change <| quiet_seq (quiet_each fun _ => fun _ _ => rfl) <| quiet_seq (quiet_each fun _ =>
    fun _ _ => rfl) <| fun _ _ => rfl

@[simp] theorem quiet_installKey : Quiet installKey :=
  quiet_bind quiet_dev fun _ => quiet_ite (quiet_endKey _) (quiet_change <| quiet_ite (quiet_change <|
    quiet_endKey _) (quiet_change <| quiet_change <| quiet_seq (quiet_portEdge _ _) <| quiet_seq (quiet_climb _) <|
    quiet_endKey _))

@[simp] theorem quiet_removeKey : Quiet removeKey :=
  quiet_bind quiet_dev fun _ => quiet_ite (quiet_endKey _) (quiet_change <| quiet_ite (quiet_change <|
    quiet_endKey _) (quiet_change <| quiet_seq (quiet_portEdge _ _) <| quiet_ite (quiet_seq (quiet_setPortState _ _)
    <| quiet_endKey _) (quiet_endKey _)))

/-! ### Pages -/

@[simp] theorem quiet_rest (page : Nat) : Quiet (rest page) := fun _ _ => rfl

@[simp] theorem quiet_holdCluster (c st : Nat) : Quiet (holdCluster c st) := by
  refine quiet_bind quiet_dev fun _ => ?_
  split
  · refine quiet_ite (quiet_bind quiet_dev fun _ => ?_) (quiet_seq (quiet_dropItems _) <|
      quiet_bind quiet_dev fun _ => ?_)
    · split
      · exact quiet_bind quiet_dev fun _ => quiet_ite (fun _ _ => rfl) (quiet_seq (quiet_promoteOpen _ _) <|
          fun _ _ => rfl)
      · exact fun _ _ => rfl
    · split
      · exact quiet_bind quiet_dev fun _ => quiet_ite (fun _ _ => rfl) (quiet_seq (quiet_promoteOpen _ _) <|
          fun _ _ => rfl)
      · exact fun _ _ => rfl
  · exact fun _ _ => rfl

@[simp] theorem quiet_fence (page st : Nat) : Quiet (fence page st) :=
  quiet_change <| quiet_ite (quiet_holdCluster _ _) (quiet_change <| quiet_seq (quiet_each fun _ =>
    quiet_bind (quiet_rd _ _ _) fun _ => quiet_ite (quiet_pure _) (quiet_holdCluster _ _)) <| fun _ _ => rfl)
@[simp] theorem quiet_irqStatWrite (page v : Nat) : Quiet (irqStatWrite page v) := fun _ _ => rfl
@[simp] theorem quiet_irqEnWrite (page v : Nat) : Quiet (irqEnWrite page v) := fun _ _ => rfl
@[simp] theorem quiet_irqForceWrite (page v : Nat) : Quiet (irqForceWrite page v) := fun _ _ => rfl
@[simp] theorem quiet_counterClear (page : Nat) : Quiet (counterClear page) :=
  quiet_ite (quiet_ite (quiet_seq (quiet_each fun _ => fun _ _ => rfl) <| quiet_each fun _ =>
    fun _ _ => rfl) (quiet_change <| quiet_ite (fun _ _ => rfl) (quiet_pure _))) (quiet_pure _)
@[simp] theorem quiet_peakClear (page : Nat) : Quiet (peakClear page) :=
  quiet_ite (fun _ _ => rfl) (quiet_ite (fun _ _ => rfl) (quiet_pure _))

/-! ### Power -/

@[simp] theorem quiet_resetSleep : Quiet resetSleep :=
  quiet_change <| quiet_each fun _ => quiet_bind (quiet_rd _ _ _) fun _ => quiet_branch (quiet_bind (quiet_rd _ _ _)
    fun _ => quiet_ite (fun _ _ => rfl) (quiet_pure _)) fun rest => quiet_change <| rest

@[simp] theorem quiet_readyWrite (w : RegAcc) : Quiet (readyWrite w) :=
  quiet_bind quiet_dev fun _ => quiet_ite (quiet_pure _) (quiet_ite (quiet_ignore _) (quiet_change <| quiet_change <|
    quiet_change <| quiet_seq (quiet_each fun _ => quiet_bind (quiet_rd _ _ _) fun _ =>
    quiet_ite (fun _ _ => rfl) (quiet_pure _)) <| quiet_seq (quiet_each fun _ => quiet_bind (quiet_rd _ _ _) fun _ =>
    quiet_ite (fun _ _ => rfl) (quiet_pure _)) <| quiet_seq (quiet_each fun _ => quiet_bind (quiet_rd _ _ _) fun _ =>
    quiet_ite (quiet_rest _) (quiet_pure _)) <| fun _ _ => rfl))

@[simp] theorem quiet_reqWrite (req : Nat) (w : RegAcc) : Quiet (reqWrite req w) :=
  quiet_bind quiet_dev fun _ => quiet_ite (quiet_ignore _) (quiet_ite (quiet_change <| quiet_change <|
    quiet_ite (fun _ _ => rfl) (quiet_ite (fun _ _ => rfl) (quiet_pure _))) (quiet_ite (quiet_ignore _) (quiet_ite
    (fun _ _ => rfl) (fun _ _ => rfl))))

@[simp] theorem quiet_gateClusters : Quiet gateClusters := fun _ _ => rfl

@[simp] theorem quiet_sleepMemory : Quiet sleepMemory :=
  quiet_seq (quiet_each fun _ => quiet_bind (quiet_rd _ _ _) fun _ => quiet_branch (quiet_bind (quiet_rd _ _ _)
    fun _ => quiet_ite (fun _ _ => rfl) (quiet_pure _)) fun rest => quiet_change <| rest) <| quiet_change <|
    quiet_each fun _ => fun _ _ => rfl

@[simp] theorem quiet_enterState (st : Nat) : Quiet (enterState st) :=
  quiet_branch (quiet_branch (quiet_change <| quiet_change <| quiet_change <| quiet_ite (quiet_change <|
    quiet_change <| quiet_seq quiet_emptyStaging <| fun _ _ => rfl) (fun _ _ => rfl)) fun rest =>
    quiet_seq quiet_sleepMemory <| rest) fun rest => quiet_seq quiet_gateClusters <| rest

@[simp] theorem quiet_leaveState (st : Nat) : Quiet (leaveState st) :=
  quiet_bind quiet_dev fun _ => quiet_change <| quiet_change <| quiet_change <| quiet_branch (quiet_ite (quiet_seq
    (quiet_each fun _ => quiet_bind (quiet_rd _ _ _) fun _ => quiet_branch (quiet_bind (quiet_rd _ _ _) fun _ =>
    quiet_ite (fun _ _ => rfl) (quiet_pure _)) fun rest => quiet_change <| rest) <| fun _ _ => rfl) (fun _ _ => rfl))
    fun rest => quiet_change <| quiet_change <| quiet_seq (quiet_wipeEnds _) <| quiet_change <| rest

@[simp] theorem quiet_coreFault (k : Nat) : Quiet (coreFault k) := fun _ _ => rfl
@[simp] theorem quiet_heartbeatWrite (k v : Nat) : Quiet (heartbeatWrite k v) :=
  quiet_bind quiet_now fun _ => quiet_bind (quiet_rd _ _ _) fun _ => quiet_branch (quiet_bind (quiet_rd _ _ _)
    fun _ => quiet_ite (fun _ _ => rfl) (quiet_pure _)) fun rest => quiet_change <| quiet_change <| rest

/-! ### Register reads -/

@[simp] theorem quiet_passesRead (w : RegAcc) : Quiet (RegAcc.passesRead w) :=
  quiet_ite (quiet_pure _) (quiet_bind (quiet_rd _ _ _) fun _ => quiet_ite (quiet_pure _) (quiet_bind quiet_dev
    fun _ => quiet_ite (quiet_pure _) (quiet_ite (fun _ _ => rfl) (quiet_bind (quiet_pageWorld _) fun _ =>
    quiet_ite (quiet_seq (quiet_violation _ _ _ _ _ _ _) <| quiet_pure _) (quiet_pure _)))))

@[simp] theorem quiet_regRead (w : RegAcc) : Quiet (regRead w) := by
  refine quiet_bind (quiet_passesRead _) fun _ => quiet_ite (quiet_bind quiet_dev fun _ =>
    quiet_branch ?_ fun rest => quiet_change <| rest) (quiet_pure _)
  split
  · exact fun _ _ => rfl
  · split
    · exact quiet_pure _
    · exact fun _ _ => rfl

end Sys2Proof.Machine
end

section
/-! The commands that store nothing. -/

namespace Sys2Proof.Machine

/-- Running it leaves both memories as they are. -/
def Silent (f : State → Host.Outcome State Fault Refusal) : Prop :=
  ∀ s t, f s = .next t → t.mem = s.mem ∧ t.host = s.host

theorem silent_transact {f : State → Host.Outcome State Fault Refusal} {m : M Unit} (hf : ∀ s, f s = transact m s)
    (h : Quiet m) : Silent f := fun s _ e => transact_quiet h ((hf s).symm.trans e)

/-! ### Streams -/

theorem silent_execSeqNop (c : Fin 64) : Silent (execSeqNop c) :=
  silent_transact (fun _ => rfl) (quiet_seqPlain _ _ _)
theorem silent_execSeqTrap (c : Fin 64) : Silent (execSeqTrap c) :=
  silent_transact (fun _ => rfl) (quiet_bind (quiet_sequencing _) fun _ => quiet_bind (quiet_have _) fun _ =>
    quiet_needs <| quiet_seqFail _ _ _ _ _ _)
theorem silent_execSeqWait (c : Fin 64) : Silent (execSeqWait c) :=
  silent_transact (fun _ => rfl) (quiet_bind (quiet_sequencing _) fun _ => quiet_bind (quiet_have _) fun _ =>
    quiet_needs <| quiet_seq (quiet_setSlice _ _) <| quiet_ite (quiet_toPool _) (fun _ _ => rfl))
theorem silent_execSeqWaitExpiry (c : Fin 64) : Silent (execSeqWaitExpiry c) :=
  silent_transact (fun _ => rfl) (quiet_bind quiet_dev fun _ => quiet_needs <| quiet_bind (quiet_have _) fun _ =>
    quiet_needs <| fun _ _ => rfl)
theorem silent_execSeqSkip (c : Fin 64) : Silent (execSeqSkip c) :=
  silent_transact (fun _ => rfl) (quiet_seqPlain _ _ _)
theorem silent_execSeqLoop (c : Fin 64) : Silent (execSeqLoop c) :=
  silent_transact (fun _ => rfl) (quiet_seqPlain _ _ _)
theorem silent_execSeqEndl (c : Fin 64) : Silent (execSeqEndl c) :=
  silent_transact (fun _ => rfl) (quiet_seqPlain _ _ _)
theorem silent_execSeqMovi (c : Fin 64) : Silent (execSeqMovi c) :=
  silent_transact (fun _ => rfl) (quiet_seqPlain _ _ _)
theorem silent_execSeqMovc (c : Fin 64) : Silent (execSeqMovc c) :=
  silent_transact (fun _ => rfl) (quiet_bind (quiet_sequencing _) fun _ => quiet_bind (quiet_getDesc _ _) fun _ =>
    quiet_bind quiet_dev fun _ => quiet_seqPlain _ _ _)
theorem silent_execSeqAdd (c : Fin 64) : Silent (execSeqAdd c) :=
  silent_transact (fun _ => rfl) (quiet_seqPlain _ _ _)
theorem silent_execSeqSub (c : Fin 64) : Silent (execSeqSub c) :=
  silent_transact (fun _ => rfl) (quiet_seqPlain _ _ _)
theorem silent_execSeqMul (c : Fin 64) : Silent (execSeqMul c) :=
  silent_transact (fun _ => rfl) (quiet_seqPlain _ _ _)
theorem silent_execSeqIdx (c : Fin 64) : Silent (execSeqIdx c) :=
  silent_transact (fun _ => rfl) (quiet_seqPlain _ _ _)
theorem silent_execSeqRow (c : Fin 64) : Silent (execSeqRow c) :=
  silent_transact (fun _ => rfl) (quiet_bind (quiet_sequencing _) fun _ => quiet_bind (quiet_getDesc _ _) fun _ =>
    quiet_bind quiet_dev fun _ => quiet_seqPlain _ _ _)
theorem silent_execSeqHash (c : Fin 64) : Silent (execSeqHash c) :=
  silent_transact (fun _ => rfl) (quiet_bind (quiet_sequencing _) fun _ => quiet_bind (quiet_getDesc _ _) fun _ =>
    quiet_bind quiet_dev fun _ => quiet_seqPlain _ _ _)
theorem silent_execSeqBnd (c : Fin 64) : Silent (execSeqBnd c) :=
  silent_transact (fun _ => rfl) (quiet_seqPlain _ _ _)
theorem silent_execSeqSeek (c : Fin 64) : Silent (execSeqSeek c) :=
  silent_transact (fun _ => rfl) (quiet_bind (quiet_sequencing _) fun _ => quiet_bind (quiet_getDesc _ _) fun _ =>
    quiet_seqPlain _ _ _)
theorem silent_execSeqEnd (c : Fin 64) : Silent (execSeqEnd c) :=
  silent_transact (fun _ => rfl) (quiet_bind (quiet_sequencing _) fun _ => quiet_bind (quiet_getDesc _ _) fun _ =>
    quiet_needs <| quiet_ite (quiet_seqBounds _ _) (fun _ _ => rfl))

theorem silent_execSeqNext (c : Fin 64) : Silent (execSeqNext c) :=
  silent_transact (fun _ => rfl) (quiet_bind (quiet_sequencing _) fun _ => quiet_bind (quiet_getDesc _ _) fun _ =>
    quiet_bind (quiet_have _) fun _ => quiet_needs <| quiet_ite (quiet_seqBounds _ _) (quiet_seqRead _ _ _ _ fun _ =>
    quiet_setSlice _ _))

theorem silent_execSeqLd (c : Fin 64) : Silent (execSeqLd c) :=
  silent_transact (fun _ => rfl) (quiet_bind (quiet_sequencing _) fun _ => quiet_bind (quiet_have _) fun _ =>
    quiet_needs <| quiet_ite (quiet_seqBounds _ _) (quiet_seqRead _ _ _ _ fun _ => quiet_setSlice _ _))

theorem silent_execSeqEmit (c : Fin 64) : Silent (execSeqEmit c) :=
  silent_transact (fun _ => rfl) (quiet_bind (quiet_sequencing _) fun _ => quiet_bind (quiet_getDesc _ _) fun _ =>
    quiet_bind (quiet_have _) fun _ => quiet_needs <| quiet_bind quiet_dev fun _ =>
    quiet_ite (quiet_seqBounds _ _) (quiet_seq (quiet_pushItem _ _) <| quiet_change <| quiet_change <|
    quiet_seq (quiet_attempt (quiet_askItem _ _ _)) <| quiet_phaseLimit _))

theorem silent_execSeqClose (c : Fin 64) : Silent (execSeqClose c) :=
  silent_transact (fun _ => rfl) (quiet_bind (quiet_sequencing _) fun _ => quiet_bind (quiet_have _) fun _ =>
    quiet_needs <| quiet_ite (quiet_seqBounds _ _) (quiet_seq (quiet_pushItem _ _) <|
    quiet_seq (quiet_setSlice _ _) <| quiet_change <| quiet_phaseLimit _))

/-! ### Look-ups -/

theorem silent_execPoolPhaseEnd (c : Fin 64) : Silent (execPoolPhaseEnd c) :=
  silent_transact (fun _ => rfl) (quiet_bind (quiet_pooling _) fun _ => quiet_bind quiet_dev fun _ => quiet_needs <|
    quiet_ite (quiet_endSlice _ _) (quiet_toFetch _))

theorem silent_execRowDataArrival (c : Fin 64) (item : Nat) : Silent (execRowDataArrival c item) := by
  refine silent_transact (fun _ => rfl) ?_
  refine quiet_bind quiet_dev fun _ => ?_
  split
  · exact quiet_dropArrives _ _
  · exact quiet_itemArrives _ _

theorem silent_execAcmRelease (c : Fin 64) (tile : Fin 128) (a : Agent) : Silent (execAcmRelease c tile a) :=
  silent_transact (fun _ => rfl) (quiet_run (quiet_acmRelease _ _ _))
theorem silent_execResidentLoadDone (slot : Fin 8) : Silent (execResidentLoadDone slot) :=
  silent_transact (fun _ => rfl) (quiet_bind quiet_dev fun _ => quiet_needs <| quiet_bind quiet_read fun _ =>
    fun _ _ => rfl)
theorem silent_execResidentEpochEnd (slot : Fin 8) : Silent (execResidentEpochEnd slot) :=
  silent_transact (fun _ => rfl) (quiet_bind quiet_dev fun _ => quiet_needs <| quiet_needs <| quiet_endEpoch _)

/-! ### Interaction -/

theorem silent_execClientPortBeatAccept (port : Fin 16) : Silent (execClientPortBeatAccept port) := by
  refine silent_transact (fun _ => rfl) ?_
  refine quiet_bind quiet_dev fun _ => quiet_bind (quiet_have _) fun _ => quiet_change <|
    quiet_bind quiet_now fun _ => quiet_seq (quiet_countRecord _ _) <| quiet_bind quiet_dev fun _ => ?_
  split
  · exact quiet_ite (quiet_interactDone _ _) (quiet_ite (quiet_exchangeDone _ _) (quiet_acceptLookup _ _))
  · exact quiet_pure _

/-! ### Codebooks -/

theorem silent_execQntLoadStart (a : Agent) : Silent (execQntLoadStart a) :=
  silent_transact (fun _ => rfl) (quiet_run (quiet_loadStart _))
theorem silent_execQntLoadAbort (a : Agent) : Silent (execQntLoadAbort a) :=
  silent_transact (fun _ => rfl) (quiet_run (quiet_loadAbort _))
theorem silent_execQntLoadRun : Silent execQntLoadRun :=
  silent_transact (fun _ => rfl) (quiet_bind (quiet_rd _ _ _) fun _ => quiet_needs <| quiet_bind quiet_dev fun _ =>
    quiet_needs <| fun _ _ => rfl)

/-! ### Time -/

theorem silent_execTimSet (a : Agent) : Silent (execTimSet a) :=
  silent_transact (fun _ => rfl) (quiet_bind (quiet_rd _ _ _) fun _ => quiet_run (quiet_timeSet _))
theorem silent_execSyncLossTimeout : Silent execSyncLossTimeout :=
  silent_transact (fun _ => rfl) (quiet_bind quiet_dev fun _ => quiet_needs <| quiet_needs <| quiet_sourceLost)
theorem silent_execSlewEnd : Silent execSlewEnd :=
  silent_transact (fun _ => rfl) (quiet_bind quiet_dev fun _ => quiet_needs <| quiet_change <| quiet_change <|
    quiet_setTimState _)
theorem silent_execLeafReload : Silent execLeafReload :=
  silent_transact (fun _ => rfl) (quiet_bind quiet_dev fun _ => quiet_needs <| fun _ _ => rfl)
theorem silent_execTreeCalibration (skew : BitVec 16) : Silent (execTreeCalibration skew) := by
  refine silent_transact (fun _ => rfl) ?_
  with_reducible exact quiet_bind quiet_dev fun _ => quiet_needs <| quiet_measureTree _
theorem silent_execPtpMessage (p : Fin 8) (msg : PtpMsg) : Silent (execPtpMessage p msg) :=
  silent_transact (fun _ => rfl) (quiet_seq quiet_syncPtp <| quiet_bind quiet_dev fun _ => quiet_needs <|
    quiet_ptpReceive _ _)
theorem silent_execPtpMessageInterval (p : Fin 8) (kind : PtpKind) : Silent (execPtpMessageInterval p kind) :=
  silent_transact (fun _ => rfl) (quiet_seq quiet_syncPtp <| quiet_bind quiet_dev fun _ => quiet_needs <|
    quiet_needs <| quiet_change <| quiet_ite (fun _ _ => rfl) (fun _ _ => rfl))
theorem silent_execAnnounceReceiptTimeout (p : Fin 8) : Silent (execAnnounceReceiptTimeout p) :=
  silent_transact (fun _ => rfl) (quiet_seq quiet_syncPtp <| quiet_bind quiet_dev fun _ => quiet_needs <|
    quiet_needs <| quiet_change <| quiet_runBmca _)

/-! ### Recorder -/

theorem silent_execRecordFlashWrite : Silent execRecordFlashWrite :=
  silent_transact (fun _ => rfl) (quiet_bind quiet_dev fun _ => quiet_needs <| quiet_bind (quiet_have _) fun _ =>
    fun _ _ => rfl)
theorem silent_execDirectoryCheckpoint : Silent execDirectoryCheckpoint :=
  silent_transact (fun _ => rfl) (quiet_bind quiet_dev fun _ => quiet_needs <| fun _ _ => rfl)
theorem silent_execOpSecondsTick : Silent execOpSecondsTick :=
  silent_transact (fun _ => rfl) (quiet_bind quiet_dev fun _ => quiet_needs <| fun _ _ => rfl)
theorem silent_execEvrSwWrite (code : BitVec 16) (sev : BitVec 3) (a : Agent) : Silent (execEvrSwWrite code sev a) :=
  silent_transact (fun _ => rfl) (quiet_run (quiet_swWrite _ _ _))

theorem silent_execDieTempReading (die : Fin 2) (t : BitVec 8) : Silent (execDieTempReading die t) := by
  refine silent_transact (fun _ => rfl) ?_
  split
  · exact quiet_change <| quiet_bind (quiet_rd _ _ _) fun _ => quiet_change <| quiet_countOpen _

/-! ### Memory events -/

theorem silent_execUeDetect (addr : BitVec 46) (lls scrub : Bool) : Silent (execUeDetect addr lls scrub) :=
  silent_transact (fun _ => rfl) (quiet_bind quiet_dev fun _ => quiet_needs <| quiet_markLine _ _ _)

theorem silent_execHbmTempReading (stack : Fin 16) (t : BitVec 8) : Silent (execHbmTempReading stack t) :=
  silent_transact (fun _ => rfl) (quiet_bind quiet_dev fun _ => quiet_needs <| quiet_change <| quiet_change <|
    quiet_seq (quiet_takeStep _ _) <| quiet_change <| quiet_ite (quiet_change <| quiet_seq (quiet_setHot _ _) <|
    quiet_change <| quiet_countOpen _) (quiet_ite (quiet_branch (quiet_seq (quiet_setHot _ _) <|
    quiet_countOpen _) fun rest => quiet_change <| rest) (quiet_countOpen _)))

theorem silent_execCapTempReading (port : Fin 16) (t : BitVec 8) : Silent (execCapTempReading port t) :=
  silent_transact (fun _ => rfl) (quiet_bind quiet_dev fun _ => quiet_needs <| quiet_change <| quiet_change <|
    quiet_seq (quiet_takeStep _ _) <| quiet_bind quiet_dev fun _ => quiet_change <| quiet_ite (quiet_change <|
    quiet_seq (quiet_setHot _ _) <| quiet_change <| quiet_countOpen _) (quiet_ite (quiet_branch (quiet_seq
    (quiet_setHot _ _) <| quiet_countOpen _) fun rest => quiet_change <| rest) (quiet_countOpen _)))

theorem silent_execHbmTrainingDone (stack : Fin 16) (res : TrainResult) : Silent (execHbmTrainingDone stack res) :=
  silent_transact (fun _ => rfl) (quiet_bind quiet_dev fun _ => quiet_needs <| quiet_ite (fun _ _ => rfl)
    (quiet_needs <| quiet_change <| quiet_change <| quiet_change <| quiet_branch (quiet_seq (quiet_each fun _ =>
    fun _ _ => rfl) <| quiet_ite (fun _ _ => rfl) (fun _ _ => rfl)) fun rest => quiet_seq (quiet_each fun _ =>
    quiet_ite (fun _ _ => rfl) (quiet_pure _)) <| rest))

theorem silent_execCapacityTrainingDone (port : Fin 16) (ok : Bool) (sizeGib : BitVec 8) :
    Silent (execCapacityTrainingDone port ok sizeGib) :=
  silent_transact (fun _ => rfl) (quiet_bind quiet_dev fun _ => quiet_needs <| quiet_change <|
    quiet_ite (fun _ _ => rfl) (fun _ _ => rfl))

theorem silent_execRecorderCompactAuto : Silent execRecorderCompactAuto := by
  refine silent_transact (fun _ => rfl) ?_
  refine quiet_bind quiet_dev fun _ => quiet_needs <| quiet_bind (quiet_takeToken _ _ _ _) fun _ => ?_
  split
  · exact fun _ _ => rfl
  · exact quiet_pure _

theorem silent_execCompactionEnd : Silent execCompactionEnd := by
  refine silent_transact (fun _ => rfl) ?_
  refine quiet_bind quiet_dev fun _ => quiet_needs <| quiet_change <| ?_
  split
  · exact quiet_ite (quiet_freeSlot _) (quiet_pure _)
  · exact quiet_pure _

theorem silent_execCapoWindow : Silent execCapoWindow :=
  silent_transact (fun _ => rfl) (quiet_bind quiet_dev fun _ => quiet_needs <| quiet_change <| quiet_each fun _ =>
    quiet_applyCapo _)

/-! ### Migration -/

theorem silent_execBatchWindowExpiry (die : Fin 2) : Silent (execBatchWindowExpiry die) :=
  silent_transact (fun _ => rfl) (quiet_bind quiet_dev fun _ => quiet_bind (quiet_have _) fun _ => quiet_needs <|
    quiet_needs <| fun _ _ => rfl)
theorem silent_execTrnBatchFlush (die : Fin 2) (a : Agent) : Silent (execTrnBatchFlush die a) :=
  silent_transact (fun _ => rfl) (quiet_bind quiet_dev fun _ => quiet_run (quiet_batchFlush _))
theorem silent_execHeatEpoch (die : Fin 2) : Silent (execHeatEpoch die) :=
  silent_transact (fun _ => rfl) (quiet_bind quiet_dev fun _ => quiet_needs <| fun _ _ => rfl)

/-! ### Reordering -/

theorem silent_execReorderDeadline (r : Fin 8) : Silent (execReorderDeadline r) :=
  silent_transact (fun _ => rfl) (quiet_bind quiet_dev fun _ => quiet_needs <| fun _ _ => rfl)

/-! ### Transport -/

theorem silent_execFrameCheckFail (p : Fin 8) (bytes : Nat) : Silent (execFrameCheckFail p bytes) :=
  silent_transact (fun _ => rfl) (quiet_bind quiet_dev fun _ => quiet_needs <| quiet_change <| quiet_change <|
    quiet_countOpen _)
theorem silent_execPauseFrame (p : Fin 8) : Silent (execPauseFrame p) :=
  silent_transact (fun _ => rfl) (quiet_bind quiet_dev fun _ => quiet_needs <| fun _ _ => rfl)
theorem silent_execEapolFrame (p : Fin 8) (body : List Byte) : Silent (execEapolFrame p body) :=
  silent_transact (fun _ => rfl) (quiet_bind quiet_dev fun _ => quiet_needs <| fun _ _ => rfl)
theorem silent_execAckTimer (n : BitVec 10) : Silent (execAckTimer n) :=
  silent_transact (fun _ => rfl) (quiet_bind (quiet_sessionOf _) fun _ => quiet_bind (quiet_have _) fun _ =>
    quiet_bind (quiet_portTicks _ _ _) fun _ => quiet_bind quiet_now fun _ => quiet_needs <| quiet_sendAck _)
theorem silent_execIdleTimer (n : BitVec 10) : Silent (execIdleTimer n) :=
  silent_transact (fun _ => rfl) (quiet_bind (quiet_sessionOf _) fun _ => quiet_bind (quiet_portTicks _ _ _) fun _ =>
    quiet_bind quiet_now fun _ => quiet_needs <| quiet_sendControl _ _ _)
theorem silent_execNakRepeatTimer (n : BitVec 10) : Silent (execNakRepeatTimer n) :=
  silent_transact (fun _ => rfl) (quiet_bind (quiet_sessionOf _) fun _ => quiet_bind (quiet_have _) fun _ =>
    quiet_bind (quiet_portTicks _ _ _) fun _ => quiet_bind quiet_now fun _ => quiet_needs <| quiet_sendNak _)

theorem silent_execHelloTimer (n : BitVec 10) : Silent (execHelloTimer n) :=
  silent_transact (fun _ => rfl) (quiet_bind quiet_dev fun _ => quiet_needs <| quiet_needs <|
    quiet_branch (quiet_change <| quiet_sendHello _ _) fun rest => quiet_bind (quiet_newSession _) fun _ =>
    quiet_change <| quiet_change <| rest)

theorem silent_execModuleInsert (p : Fin 8) : Silent (execModuleInsert p) :=
  silent_transact (fun _ => rfl) (quiet_bind (quiet_rd _ _ _) fun _ => quiet_needs <| quiet_change <|
    quiet_bind (quiet_rd _ _ _) fun _ => quiet_branch (quiet_bind (quiet_rd _ _ _) fun _ =>
    quiet_ite (quiet_climb _) (quiet_pure _)) fun rest => quiet_seq (quiet_setPortState _ _) <| rest)

theorem silent_execModuleReady (p : Fin 8) : Silent (execModuleReady p) :=
  silent_transact (fun _ => rfl) (quiet_bind (quiet_rd _ _ _) fun _ => quiet_bind (quiet_rd _ _ _) fun _ =>
    quiet_needs <| quiet_change <| quiet_bind (quiet_rd _ _ _) fun _ => quiet_ite (quiet_climb _) (quiet_pure _))
theorem silent_execLinkLock (p : Fin 8) : Silent (execLinkLock p) :=
  silent_transact (fun _ => rfl) (quiet_bind (quiet_rd _ _ _) fun _ => quiet_bind (quiet_rd _ _ _) fun _ =>
    quiet_needs <| quiet_change <| quiet_change <| quiet_seq (quiet_setPortState _ _) <| quiet_climb _)

theorem silent_execLinkLoss (p : Fin 8) (removed : Bool) : Silent (execLinkLoss p removed) :=
  silent_transact (fun _ => rfl) (quiet_bind (quiet_rd _ _ _) fun _ => quiet_bind (quiet_rd _ _ _) fun _ =>
    quiet_needs <| quiet_change <| quiet_change <| quiet_branch (quiet_ite (quiet_setPortState _ _) (quiet_ite
    (quiet_setPortState _ _) (quiet_ite (quiet_setPortState _ _) (quiet_pure _)))) fun rest => quiet_change <|
    quiet_change <| rest)

/-! ### Queue control -/

theorem silent_execQueTailWrite (q : Fin 1024) (v : BitVec 32) (a : Agent) : Silent (execQueTailWrite q v a) :=
  silent_transact (fun _ => rfl) (quiet_run (quiet_tailWrite _ _ _))
theorem silent_execQueEnable (q : Fin 1024) (a : Agent) : Silent (execQueEnable q a) :=
  silent_transact (fun _ => rfl) (quiet_run (quiet_enableQueue _ _))
theorem silent_execQueDrain (q : Fin 1024) (a : Agent) : Silent (execQueDrain q a) :=
  silent_transact (fun _ => rfl) (quiet_run (quiet_drainQueue _))
theorem silent_execQueResume (q : Fin 1024) (a : Agent) : Silent (execQueResume q a) :=
  silent_transact (fun _ => rfl) (quiet_run (quiet_resumeQueue _))
theorem silent_execIrqDelayExpiry (q : Fin 1024) : Silent (execIrqDelayExpiry q) :=
  silent_transact (fun _ => rfl) (quiet_bind quiet_dev fun _ => quiet_needs <| quiet_signalQueue _)

/-! ### Host link -/

theorem silent_execLinkRecovery : Silent execLinkRecovery :=
  silent_transact (fun _ => rfl) (quiet_bind (quiet_rd _ _ _) fun _ => quiet_needs <| fun _ _ => rfl)
theorem silent_execHlkResume (a : Agent) : Silent (execHlkResume a) :=
  silent_transact (fun _ => rfl) (quiet_run (quiet_hostResume _))
theorem silent_execHostSnoop (addr : BitVec 64) : Silent (execHostSnoop addr) :=
  silent_transact (fun _ => rfl) (quiet_pure _)
theorem silent_execCacheEnable (on : Bool) : Silent (execCacheEnable on) :=
  silent_transact (fun _ => rfl) (fun _ _ => rfl)
theorem silent_execD3hotTransition (toD3 : Bool) : Silent (execD3hotTransition toD3) :=
  silent_transact (fun _ => rfl) (fun _ _ => rfl)

/-! ### Last-level store -/

theorem silent_execLlsPinEnable (r : Fin 8) (n : Fin 16) (a : Agent) : Silent (execLlsPinEnable r n a) :=
  silent_transact (fun _ => rfl) (quiet_run (quiet_pinWrite _ _ _ _))
theorem silent_execLlsPinRelease (r : Fin 8) (n : Fin 16) (a : Agent) : Silent (execLlsPinRelease r n a) :=
  silent_transact (fun _ => rfl) (quiet_run (quiet_pinWrite _ _ _ _))

theorem silent_execPinFillDone (r : Fin 8) (n : Fin 16) : Silent (execPinFillDone r n) :=
  silent_transact (fun _ => rfl) (quiet_bind quiet_dev fun _ => quiet_needs <| quiet_seq (quiet_maintShare _ _ _ _ _)
    <| quiet_seq (quiet_maintShare _ _ _ _ _) <| quiet_seq (quiet_meter _ _ _ _) <| quiet_seq
    (quiet_homeTraffic _ _ _ _) <| quiet_seq (quiet_bringIn _ _) <| fun _ _ => rfl)

theorem silent_execPinReleaseDone (r : Fin 8) (n : Fin 16) : Silent (execPinReleaseDone r n) :=
  silent_transact (fun _ => rfl) (quiet_bind (quiet_rd _ _ _) fun _ => quiet_needs <| fun _ _ => rfl)

/-! ### Regions and keys -/

theorem silent_execSecKeyInstall (a : Agent) : Silent (execSecKeyInstall a) :=
  silent_transact (fun _ => rfl) (quiet_run quiet_installKey)
theorem silent_execSecKeyRemove (a : Agent) : Silent (execSecKeyRemove a) :=
  silent_transact (fun _ => rfl) (quiet_run quiet_removeKey)

/-! ### Pages -/

theorem silent_execLogicErrorFence (page : Fin 8192) : Silent (execLogicErrorFence page) :=
  silent_transact (fun _ => rfl) (quiet_needs <| quiet_seq (quiet_fence _ _) <| fun _ _ => rfl)
theorem silent_execPageIrqStatClear (page : Fin 8192) (v : BitVec 32) (a : Agent) :
    Silent (execPageIrqStatClear page v a) :=
  silent_transact (fun _ => rfl) (quiet_run (quiet_irqStatWrite _ _))
theorem silent_execPageIrqEnWrite (page : Fin 8192) (v : BitVec 32) (a : Agent) :
    Silent (execPageIrqEnWrite page v a) :=
  silent_transact (fun _ => rfl) (quiet_run (quiet_irqEnWrite _ _))
theorem silent_execPageIrqForce (page : Fin 8192) (v : BitVec 32) (a : Agent) : Silent (execPageIrqForce page v a) :=
  silent_transact (fun _ => rfl) (quiet_run (quiet_irqForceWrite _ _))

theorem silent_execCounterClear (page : Fin 8192) (a : Agent) : Silent (execCounterClear page a) := by
  refine silent_transact (fun _ => rfl) ?_
  dsimp only
  cases ctrCtl page.val with
  | none => exact quiet_run (quiet_counterClear _)
  | some r => exact quiet_bind quiet_dev fun _ => quiet_run (quiet_counterClear _)

theorem silent_execPeakClear (page : Fin 8192) (a : Agent) : Silent (execPeakClear page a) :=
  silent_transact (fun _ => rfl) (quiet_bind quiet_dev fun _ => quiet_run (quiet_peakClear _))

/-! ### Power -/

theorem silent_execPowerGoodLoss : Silent execPowerGoodLoss :=
  silent_transact (fun _ => rfl) (quiet_bind quiet_dev fun _ => quiet_needs <| quiet_ite (fun _ _ => rfl)
    (fun _ _ => rfl))
theorem silent_execQuiesceBudgetExpiry : Silent execQuiesceBudgetExpiry :=
  silent_transact (fun _ => rfl) (quiet_bind quiet_dev fun _ => quiet_needs <| quiet_resetSleep)
theorem silent_execPwrReady (a : Agent) : Silent (execPwrReady a) :=
  silent_transact (fun _ => rfl) (quiet_run (quiet_readyWrite _))
theorem silent_execPowerStateRequest (req : BitVec 3) (a : Agent) : Silent (execPowerStateRequest req a) :=
  silent_transact (fun _ => rfl) (quiet_run (quiet_reqWrite _ _))
theorem silent_execPowerStateEntry : Silent execPowerStateEntry :=
  silent_transact (fun _ => rfl) (quiet_bind quiet_dev fun _ => quiet_bind (quiet_have _) fun _ => quiet_needs <|
    quiet_enterState _)
theorem silent_execPowerRequestAbandon : Silent execPowerRequestAbandon :=
  silent_transact (fun _ => rfl) (quiet_bind quiet_dev fun _ => quiet_bind (quiet_have _) fun _ => quiet_needs <|
    fun _ _ => rfl)
theorem silent_execPowerStateExit : Silent execPowerStateExit :=
  silent_transact (fun _ => rfl) (quiet_bind quiet_dev fun _ => quiet_needs <| quiet_leaveState _)
theorem silent_execVddcSettled (die : Fin 2) (mv : BitVec 10) : Silent (execVddcSettled die mv) :=
  silent_transact (fun _ => rfl) (quiet_bind quiet_dev fun _ => quiet_needs <| fun _ _ => rfl)
theorem silent_execWatchdogExpiry (k : Fin 8) : Silent (execWatchdogExpiry k) :=
  silent_transact (fun _ => rfl) (quiet_bind quiet_dev fun _ => quiet_needs <| fun _ _ => rfl)
theorem silent_execUncorrectableCoreError (k : Fin 8) : Silent (execUncorrectableCoreError k) :=
  silent_transact (fun _ => rfl) (quiet_bind (quiet_rd _ _ _) fun _ => quiet_needs <| quiet_coreFault _)
theorem silent_execHeartbeatWrite (k : Fin 8) (v : BitVec 32) (a : Agent) : Silent (execHeartbeatWrite k v a) :=
  silent_transact (fun _ => rfl) (quiet_run (quiet_heartbeatWrite _ _))

/-! ### Register reads -/

theorem silent_execTimNowRead (a : Agent) : Silent (execTimNowRead a) :=
  silent_transact (fun _ => rfl) (quiet_bind (quiet_regRead _) fun _ => quiet_pure _)

/-! ### All of them -/

theorem exec_silent {c : Instr} (h : storesNothing c = true) : Silent (exec c) := by
  cases c with
  | queTailWrite => exact silent_execQueTailWrite _ _ _
  | queEnable => exact silent_execQueEnable _ _
  | queDrain => exact silent_execQueDrain _ _
  | queResume => exact silent_execQueResume _ _
  | irqDelayExpiry => exact silent_execIrqDelayExpiry _
  | seqNop => exact silent_execSeqNop _
  | seqEnd => exact silent_execSeqEnd _
  | seqTrap => exact silent_execSeqTrap _
  | seqWait => exact silent_execSeqWait _
  | seqWaitExpiry => exact silent_execSeqWaitExpiry _
  | seqSkip => exact silent_execSeqSkip _
  | seqLoop => exact silent_execSeqLoop _
  | seqEndl => exact silent_execSeqEndl _
  | seqMovi => exact silent_execSeqMovi _
  | seqMovc => exact silent_execSeqMovc _
  | seqAdd => exact silent_execSeqAdd _
  | seqSub => exact silent_execSeqSub _
  | seqMul => exact silent_execSeqMul _
  | seqIdx => exact silent_execSeqIdx _
  | seqRow => exact silent_execSeqRow _
  | seqHash => exact silent_execSeqHash _
  | seqBnd => exact silent_execSeqBnd _
  | seqNext => exact silent_execSeqNext _
  | seqSeek => exact silent_execSeqSeek _
  | seqLd => exact silent_execSeqLd _
  | seqEmit => exact silent_execSeqEmit _
  | seqClose => exact silent_execSeqClose _
  | poolPhaseEnd => exact silent_execPoolPhaseEnd _
  | batchWindowExpiry => exact silent_execBatchWindowExpiry _
  | trnBatchFlush => exact silent_execTrnBatchFlush _ _
  | residentEpochEnd => exact silent_execResidentEpochEnd _
  | residentLoadDone => exact silent_execResidentLoadDone _
  | acmRelease => exact silent_execAcmRelease _ _ _
  | qntLoadStart => exact silent_execQntLoadStart _
  | qntLoadAbort => exact silent_execQntLoadAbort _
  | qntLoadRun => exact silent_execQntLoadRun
  | ptpMessage => exact silent_execPtpMessage _ _
  | reorderDeadline => exact silent_execReorderDeadline _
  | ackTimer => exact silent_execAckTimer _
  | idleTimer => exact silent_execIdleTimer _
  | nakRepeatTimer => exact silent_execNakRepeatTimer _
  | helloTimer => exact silent_execHelloTimer _
  | moduleInsert => exact silent_execModuleInsert _
  | moduleReady => exact silent_execModuleReady _
  | linkLock => exact silent_execLinkLock _
  | linkLoss => exact silent_execLinkLoss _ _
  | secKeyInstall => exact silent_execSecKeyInstall _
  | secKeyRemove => exact silent_execSecKeyRemove _
  | syncLossTimeout => exact silent_execSyncLossTimeout
  | slewEnd => exact silent_execSlewEnd
  | leafReload => exact silent_execLeafReload
  | treeCalibration => exact silent_execTreeCalibration _
  | timSet => exact silent_execTimSet _
  | timNowRead => exact silent_execTimNowRead _
  | linkRecovery => exact silent_execLinkRecovery
  | hlkResume => exact silent_execHlkResume _
  | hostSnoop addr => exact silent_execHostSnoop addr
  | cacheEnable => exact silent_execCacheEnable _
  | hbmTempReading => exact silent_execHbmTempReading _ _
  | capTempReading => exact silent_execCapTempReading _ _
  | hbmTrainingDone => exact silent_execHbmTrainingDone _ _
  | capoWindow => exact silent_execCapoWindow
  | llsPinEnable => exact silent_execLlsPinEnable _ _ _
  | llsPinRelease => exact silent_execLlsPinRelease _ _ _
  | pinFillDone => exact silent_execPinFillDone _ _
  | pinReleaseDone => exact silent_execPinReleaseDone _ _
  | ueDetect => exact silent_execUeDetect _ _ _
  | heatEpoch => exact silent_execHeatEpoch _
  | logicErrorFence => exact silent_execLogicErrorFence _
  | pageIrqStatClear => exact silent_execPageIrqStatClear _ _ _
  | pageIrqEnWrite => exact silent_execPageIrqEnWrite _ _ _
  | pageIrqForce => exact silent_execPageIrqForce _ _ _
  | counterClear => exact silent_execCounterClear _ _
  | peakClear => exact silent_execPeakClear _ _
  | powerStateRequest => exact silent_execPowerStateRequest _ _
  | powerStateEntry => exact silent_execPowerStateEntry
  | powerRequestAbandon => exact silent_execPowerRequestAbandon
  | powerStateExit => exact silent_execPowerStateExit
  | quiesceBudgetExpiry => exact silent_execQuiesceBudgetExpiry
  | powerGoodLoss => exact silent_execPowerGoodLoss
  | vddcSettled => exact silent_execVddcSettled _ _
  | pwrReady => exact silent_execPwrReady _
  | watchdogExpiry => exact silent_execWatchdogExpiry _
  | heartbeatWrite => exact silent_execHeartbeatWrite _ _ _
  | evrSwWrite => exact silent_execEvrSwWrite _ _ _
  | recordFlashWrite => exact silent_execRecordFlashWrite
  | recorderCompactAuto => exact silent_execRecorderCompactAuto
  | compactionEnd => exact silent_execCompactionEnd
  | directoryCheckpoint => exact silent_execDirectoryCheckpoint
  | opSecondsTick => exact silent_execOpSecondsTick
  | eapolFrame => exact silent_execEapolFrame _ _
  | pauseFrame => exact silent_execPauseFrame _
  | frameCheckFail => exact silent_execFrameCheckFail _ _
  | ptpMessageInterval => exact silent_execPtpMessageInterval _ _
  | announceReceiptTimeout => exact silent_execAnnounceReceiptTimeout _
  | capacityTrainingDone => exact silent_execCapacityTrainingDone _ _ _
  | clientPortBeatAccept => exact silent_execClientPortBeatAccept _
  | rowDataArrival => exact silent_execRowDataArrival _ _
  | dieTempReading => exact silent_execDieTempReading _ _
  | uncorrectableCoreError => exact silent_execUncorrectableCoreError _
  | d3hotTransition => exact silent_execD3hotTransition _
  | _ => cases h

end Sys2Proof.Machine

namespace Sys2Proof

open Machine

/-- Settles O6: the meaning of each of these commands logs no write, so the end of the transaction stores nothing. -/
theorem storesNothing : Obligations.StoresNothing := by
  unfold Obligations.StoresNothing
  exact fun c s t hc h => exec_silent hc s t h

end Sys2Proof
end

section
/-! What a command that stores by address leaves: the bytes outside the range it stores in, and the range of a wipe. -/

namespace Sys2Proof.Machine

variable {α β : Type} {lo hi : Nat}

/-! ### Logs that write one range of local memory -/

/-- The second log comes to the same as the first in host memory, and in local memory outside a range. -/
structure SameOutside (lo hi : Nat) (l l' : List MemOp) : Prop where
  mem : ∀ m x, x < lo ∨ hi ≤ x → readByte (l'.foldr MemOp.onMem m) x = readByte (l.foldr MemOp.onMem m) x
  host : ∀ m, l'.foldr MemOp.onHost m = l.foldr MemOp.onHost m

theorem SameOutside.refl (l : List MemOp) : SameOutside lo hi l l := ⟨fun _ _ _ => rfl, fun _ => rfl⟩

theorem SameOutside.trans {k l m : List MemOp} (h : SameOutside lo hi k l) (g : SameOutside lo hi l m) :
    SameOutside lo hi k m :=
  ⟨fun n x hx => (g.mem n x hx).trans (h.mem n x hx), fun n => (g.host n).trans (h.host n)⟩

theorem SameOutside.byte {a : Nat} (h : lo ≤ a) (h' : a < hi) (b : Byte) (l : List MemOp) :
    SameOutside lo hi l (.byte false a b :: l) :=
  ⟨fun _ x hx => readByte_writeByte_ne _ _ (by omega), fun _ => rfl⟩

/-- A meaning that writes local memory in a range and nowhere else, however it ends. -/
def Within (lo hi : Nat) (m : M α) : Prop :=
  ∀ i t, match m i t with
    | .ok _ t' => SameOutside lo hi t.log t'.log
    | .error _ t' => SameOutside lo hi t.log t'.log

theorem Quiet.within {m : M α} (h : Quiet m) : Within lo hi m := by
  intro i t
  have hm := h i t
  cases e : m i t with
  | ok a t' => rw [e] at hm; exact hm ▸ .refl _
  | error x t' => rw [e] at hm; exact hm ▸ .refl _

theorem Within.bind {m : M α} {f : α → M β} (h : Within lo hi m) (g : ∀ a, Within lo hi (f a)) :
    Within lo hi (m >>= f) := by
  intro i t
  rw [run_bind]
  have hm := h i t
  cases e : m i t with
  | error x t' => rw [e] at hm; exact hm
  | ok a t' =>
    rw [e] at hm
    have hg := g a i t'
    rw [chain_ok]
    cases e' : f a i t' with
    | ok b u => rw [e'] at hg; exact hm.trans hg
    | error x u => rw [e'] at hg; exact hm.trans hg

/-- What follows a meaning that logs no write. -/
theorem Quiet.before {m : M α} {f : α → M β} (h : Quiet m) (g : ∀ a, Within lo hi (f a)) : Within lo hi (m >>= f) :=
  h.within.bind g

theorem within_ite {c : Prop} [Decidable c] {m n : M α} (h : Within lo hi m) (g : Within lo hi n) :
    Within lo hi (if c then m else n) := by
  split
  · exact h
  · exact g

theorem within_pokes {bs : List Byte} {a : Nat} (h : lo ≤ a) (h' : a + bs.length ≤ hi) :
    Within lo hi (pokes false a bs) := by
  induction bs generalizing a with
  | nil => exact (quiet_pure _).within
  | cons b bs ih =>
    rw [List.length_cons] at h'
    exact Within.bind (fun _ t => .byte h (by omega) b t.log) fun _ => ih (by omega) (by omega)

theorem transact_within {m : M Unit} {s t : State} (h : Within lo hi m) (e : transact m s = .next t) :
    (∀ x, x < lo ∨ hi ≤ x → readByte t.mem x = readByte s.mem x) ∧ t.host = s.host := by
  have hm := h ⟨s.mem, s.host⟩ ⟨s.dev, []⟩
  unfold transact at e
  cases r : m ⟨s.mem, s.host⟩ ⟨s.dev, []⟩ with
  | ok a t' =>
    rw [r] at e hm
    cases e
    exact ⟨hm.mem s.mem, hm.host s.host⟩
  | error x t' =>
    rw [r] at e hm
    cases x with
    | skip => cases e; exact ⟨fun _ _ => rfl, rfl⟩
    | wait reg => cases e; exact ⟨fun _ _ => rfl, rfl⟩
    | fail a b => cases e; exact ⟨hm.mem s.mem, hm.host s.host⟩

/-! ### A write at a client port -/

theorem within_writeChecked (w : Who) (a : Nat) (bs : List Byte) :
    Within a (a + bs.length) (writeChecked w a bs) := by
  refine (quiet_clear _ _ _ _).before fun _ => quiet_dev.before fun _ => (quiet_need _).before fun _ =>
    (quiet_issue _ _ _ _).before fun _ => (quiet_countFound _ _).before fun _ => (quiet_meter _ _ _ _).before fun _ =>
    (quiet_homeTraffic _ _ _ _).before fun _ => quiet_dev.before fun _ => within_ite (quiet_pure _).within <|
    (quiet_modDev _).before fun _ => Quiet.before (quiet_each fun n => quiet_bind quiet_dev fun d => ?_) fun _ =>
    within_pokes le_rfl le_rfl
  split
  · exact quiet_setLine _ _
  · exact quiet_pure _

theorem within_writeLocal (w : Who) (a : Nat) (bs : List Byte) : Within a (a + bs.length) (writeLocal w a bs) :=
  (quiet_localCheck _ _ _ _).before fun _ => within_writeChecked w a bs

theorem clientPortWrite_within {s t : State} {port : Fin 16} {addr : BitVec 56} {data : List Byte} {secure : Bool}
    (e : exec (.clientPortWrite port addr data secure) s = .next t) :
    (∀ x, x < addr.toNat % 2 ^ 46 ∨ addr.toNat % 2 ^ 46 + data.length ≤ x → readByte t.mem x = readByte s.mem x) ∧
      t.host = s.host :=
  transact_within (m := do
    need (decide (addr.toNat / 2 ^ 46 = (← dev).self))
    writeLocal ⟨8, port.val, 5, b2n secure, 1024, 0, pg bGLB 0, 0⟩ (addr.toNat % 2 ^ 46) data)
    (quiet_dev.before fun _ => (quiet_need _).before fun _ => within_writeLocal _ _ _) e

/-! ### The end of a wipe -/

/-- A meaning that runs to its end and logs no write. -/
def Steady (m : M α) : Prop := ∀ i t, ∃ a t', m i t = .ok a t' ∧ t'.log = t.log

theorem steady_pure (a : α) : Steady (pure a : M α) := fun _ _ => ⟨_, _, rfl, rfl⟩
theorem steady_dev : Steady dev := fun _ _ => ⟨_, _, rfl, rfl⟩
theorem steady_modDev (f : Dev → Dev) : Steady (modDev f) := fun _ _ => ⟨_, _, rfl, rfl⟩
theorem steady_rd (f : Fld) (p n : Nat) : Steady (rd f p n) := fun _ _ => ⟨_, _, rfl, rfl⟩
theorem steady_raise (p b : Nat) : Steady (raise p b) := steady_modDev _
theorem steady_record (code sev page payload : Nat) : Steady (record code sev page payload) := steady_modDev _
theorem steady_setSlot (n st : Nat) : Steady (setSlot n st) := fun _ _ => ⟨_, _, rfl, rfl⟩

theorem Steady.bind {m : M α} {f : α → M β} (h : Steady m) (g : ∀ a, Steady (f a)) : Steady (m >>= f) := by
  intro i t
  obtain ⟨a, t', e, hl⟩ := h i t
  obtain ⟨b, u, e', hl'⟩ := g a i t'
  exact ⟨b, u, by rw [run_bind, e, chain_ok, e'], hl'.trans hl⟩

theorem steady_ite {c : Prop} [Decidable c] {m n : M α} (h : Steady m) (g : Steady n) : Steady (if c then m else n) := by
  split
  · exact h
  · exact g

theorem steady_each {l : List β} {f : β → M Unit} (h : ∀ x, Steady (f x)) : Steady (each l f) := by
  induction l with
  | nil => exact steady_pure ()
  | cons x l ih => exact (h x).bind fun _ => ih

theorem Quiet.steady {m : M α} (h : Quiet m) (g : Total (fun _ => True) (fun _ => True) m) : Steady m := by
  intro i t
  obtain ⟨a, t', e, -⟩ := g.out i t True.intro
  have hm := h i t
  rw [e] at hm
  exact ⟨a, t', e, hm⟩

theorem steady_homeTraffic (w : Who) (isWrite : Bool) (a len : Nat) : Steady (homeTraffic w isWrite a len) :=
  (quiet_homeTraffic w isWrite a len).steady (total_homeTraffic w isWrite a len)

/-- Traffic that is counted only is never held (log entry 14). -/
theorem steady_meter (w : Who) (a len : Nat) : Steady (meter w false a len) := by
  refine steady_each fun k => steady_dev.bind fun d => ?_
  split
  · rw [if_neg Bool.false_ne_true]
    exact steady_modDev _
  · exact steady_modDev _

theorem steady_writeBack (n : Nat) : Steady (writeBack n) := by
  refine steady_dev.bind fun d => ?_
  split
  · exact (steady_modDev _).bind fun _ => (steady_meter _ _ _).bind fun _ => (steady_homeTraffic _ _ _ _).bind fun _ =>
      steady_modDev _
  · exact steady_pure _

theorem steady_releasePin (r n : Nat) : Steady (releasePin r n) :=
  steady_dev.bind fun _ => (steady_modDev _).bind fun _ => steady_ite (steady_modDev _) <|
    steady_ite (Steady.bind (steady_dev.bind fun _ => steady_each fun _ =>
      (steady_writeBack _).bind fun _ => steady_modDev _) fun _ => steady_modDev _) (steady_pure _)

theorem steady_freeSlot (n : Nat) : Steady (freeSlot n) :=
  (steady_modDev _).bind fun _ => (steady_modDev _).bind fun _ => steady_dev.bind fun _ =>
    steady_ite (steady_dev.bind fun _ => steady_each fun _ => fun _ _ => ⟨_, _, rfl, rfl⟩) (steady_pure _)

theorem steady_wipeEnds (busy : Bool) : Steady (wipeEnds busy) := fun _ _ => ⟨_, _, rfl, rfl⟩

theorem steady_setRegion (i st : Nat) : Steady (setRegion i st) := fun _ _ => ⟨_, _, rfl, rfl⟩

/-- A meaning that runs to its end and logs zeros over one range alone. -/
def Zeroes (lo hi : Nat) (m : M α) : Prop := ∀ i t, ∃ a t', m i t = .ok a t' ∧ t'.log = .zero lo hi :: t.log

theorem Zeroes.bind {m : M α} {f : α → M β} (h : Zeroes lo hi m) (g : ∀ a, Steady (f a)) : Zeroes lo hi (m >>= f) := by
  intro i t
  obtain ⟨a, t', e, hl⟩ := h i t
  obtain ⟨b, u, e', hl'⟩ := g a i t'
  exact ⟨b, u, by rw [run_bind, e, chain_ok, e'], hl'.trans hl⟩

theorem zeroes_wipeRange (lo hi : Nat) : Zeroes lo hi (wipeRange lo hi) := fun _ _ => ⟨_, _, rfl, rfl⟩

theorem zeroes_wipeMemory (a len : Nat) : Zeroes a (a + len) (wipeMemory a len) :=
  (zeroes_wipeRange a (a + len)).bind fun _ =>
    Steady.bind (steady_each fun _ => steady_dev.bind fun _ => steady_ite (steady_releasePin _ _) (steady_pure _)) fun _ =>
    steady_each fun _ => (steady_rd _ _ _).bind fun _ => steady_ite (steady_setSlot _ _) (steady_pure _)

/-- A range that is read from the machine at the start. -/
theorem Zeroes.afterDev {f : Dev → M α} {a len : Dev → Nat} (h : ∀ d, Zeroes (a d) (a d + len d) (f d)) (i : Image)
    (t : Tx) : ∃ x t', (dev >>= f) i t = .ok x t' ∧ t'.log = .zero (a t.dev) (a t.dev + len t.dev) :: t.log :=
  h t.dev i t

theorem run_finishWipe (i : Nat) (w : Wipe) (m : Image) (t : Tx) :
    ∃ x t', finishWipe i w m t = .ok x t' ∧
      t'.log = .zero (t.dev.mrRange i).1 ((t.dev.mrRange i).1 + (t.dev.mrRange i).2) :: t.log :=
  Zeroes.afterDev (a := fun d => (d.mrRange i).1) (len := fun d => (d.mrRange i).2) (fun _ =>
    (zeroes_wipeMemory _ _).bind fun _ => (steady_modDev _).bind fun _ => steady_dev.bind fun _ =>
    (steady_wipeEnds _).bind fun _ => (steady_setRegion _ _).bind fun _ => (steady_raise _ _).bind fun _ =>
    (steady_record _ _ _ _).bind fun _ => steady_freeSlot _) m t

theorem regionWipeEnd_zeroes {s : State} {i : Fin 256} {w : Wipe} (hp : s.dev.pow.phase = 0)
    (hw : (s.dev.wipes.find? fun w => w.region == i.val && w.begun) = some w) :
    ∃ u, exec (.regionWipeEnd i) s = .next u ∧ u.host = s.host ∧ ∀ x, readByte u.mem x =
      if (s.dev.mrRange i.val).1 ≤ x ∧ x < (s.dev.mrRange i.val).1 + (s.dev.mrRange i.val).2 then 0
      else readByte s.mem x := by
  obtain ⟨_, t, e, hl⟩ := run_finishWipe i.val w ⟨s.mem, s.host⟩ ⟨s.dev, []⟩
  have hrun : exec (.regionWipeEnd i) s = .next (settle s t) := by
    change transact _ s = _
    simp [transact, hp, hw, e]
  refine ⟨settle s t, hrun, by rw [settle, hl]; rfl, fun x => ?_⟩
  rw [settle, hl]
  exact readByte_clear _ _ _ _

/-! ### Both -/

/-- Settles O56: a write at a client port logs bytes of its range alone, and the end of a wipe logs zeros over its range
and nothing else. -/
theorem storedRanges : Obligations.StoredRanges := by
  unfold Obligations.StoredRanges
  exact ⟨fun _ _ _ _ _ _ e => clientPortWrite_within e, fun _ _ _ hp hw => regionWipeEnd_zeroes hp hw⟩

end Sys2Proof.Machine
end

section
/-! A step, and the commands of the time base. -/

namespace Sys2Proof.Machine

/-- Settles O1: the definition of a step, for a queue that is not empty. -/
theorem stepRunsFrontCommand : Obligations.StepRunsFrontCommand := by
  unfold Obligations.StepRunsFrontCommand
  intro c rest s hq
  rw [step, hq]

/-- A command that comes to a meaning that runs to its end leaves what `after` says of that meaning. -/
theorem transact_after {m k : M Unit} {s : State} {d : Dev} (h : m s.image s.start = k s.image ⟨d, []⟩)
    (hk : ∃ t, k s.image ⟨d, []⟩ = .ok () t) : transact m s = .next (s.after d k) :=
  transact_runs (h.trans (runs_ran hk))

/-- A change of the machine, and what follows it. -/
theorem total_change {α : Type} {f : Dev → Dev} {k : Unit → M α} (h : Total Always Always (k ())) :
    Total Always Always (modDev f >>= k) := total_bind (total_always_modDev f) fun _ => h

/-- The time base enters any state from any other: nothing there waits or fails. -/
theorem total_setTimState (st : Nat) : Total Always Always (setTimState st) := by
  refine total_bind total_dev fun d => total_ite (total_change ?_) (total_pure ())
  refine total_ite (total_change <| total_change ?_) (total_change ?_)
  all_goals
    refine total_change <| total_when (total_always_modDev _) <| total_change <| total_change ?_
    exact total_bind total_dev fun _ => total_always_modDev _

/-- The offsets that a measurement gives the leaves are within the largest, and nothing else of the machine moves. -/
def Measured (d : Dev) (skew : Nat) (e : Dev) : Prop :=
  e.time.calEt = d.time.et ∧ e.time.bridge ≤ skew ∧ e.time.et = d.time.et ∧ e.regs = d.regs

theorem total_freeValue {P : Dev → Prop} (n : Nat) (h : ∀ d, P d → P { d with free := d.free + 1 }) :
    Total P P (freeValue n) := ⟨fun _ t ht => ⟨_, _, rfl, h t.dev ht⟩⟩

theorem total_measureTree (d : Dev) (skew : Nat) :
    Total (· = d) (fun e => Measured d skew e ∧ e.time.skew = skew) (measureTree skew) := by
  refine total_bind (Q := fun e => e.time = d.time ∧ e.regs = d.regs) ⟨fun _ t ht => ?_⟩ fun b => ?_
  · subst ht
    exact ⟨_, _, rfl, rfl, rfl⟩
  refine total_bind (Q := Measured d skew) (total_modDev fun e he => ?_) fun _ => ?_
  · obtain ⟨ht, hr⟩ := he
    have hb : b % (min skew 48 + 1) ≤ skew :=
      (Nat.le_of_lt_succ (Nat.mod_lt b (Nat.succ_pos _))).trans (Nat.min_le_left skew 48)
    have het : e.time.et = d.time.et := congrArg TimeBase.et ht
    exact ⟨het, hb, het, hr⟩
  refine total_bind (total_each fun n => ?_) fun _ => total_modDev fun e he => ⟨he, rfl⟩
  exact total_bind (total_freeValue 64 fun _ he => he) fun _ => total_modDev fun _ he => he

/-- A 32-bit read of TIM_NOW passes the checks of its page: no read is refused there but in E4 or of the other world. -/
theorem timNow_passesRead {a : Agent} {s : State} (hp : s.dev.rd F.pwrState_state 0 ≠ 4)
    (hw : worldOf a = s.dev.pageWorld (pg bTIM 0)) :
    RegAcc.passesRead ⟨pg bTIM 0, 0x100, 2, 0, a⟩ s.image s.start = .ok true s.start := by
  have hs : servedInSleep (pg bTIM 0) = true := by decide
  have hq : populated (pg bTIM 0) = true := by decide
  have ht : pg bTIM 0 / 256 = bTIM := by decide
  simp [RegAcc.passesRead, pageWorld, hp, hw, hs, hq, ht]

/-- The low word of TIM_NOW can be read at its offset. -/
theorem readAt_timNow (d : Dev) (w : Nat) : ∃ v, d.readAt w (pg bTIM 0) 0x100 2 = some v := by
  unfold Dev.readAt
  rw [if_pos rfl, if_neg (by decide)]
  split
  · exact ⟨_, rfl⟩
  · split <;> exact ⟨_, rfl⟩

/-- Such a read latches the upper word for its requester. -/
theorem run_timNowRead {a : Agent} {s : State} (hp : s.dev.rd F.pwrState_state 0 ≠ 4)
    (hw : worldOf a = s.dev.pageWorld (pg bTIM 0)) :
    ∃ v, regRead ⟨pg bTIM 0, 0x100, 2, 0, a⟩ s.image s.start = .ok v ⟨{ s.dev with time := { s.dev.time with
      latch := (a, s.dev.time.et / 2 ^ 32 % 2 ^ 32) :: s.dev.time.latch.filter fun e => e.1 != a } }, []⟩ := by
  obtain ⟨v, hv⟩ := readAt_timNow s.dev (worldOf a)
  refine ⟨v, ?_⟩
  unfold regRead
  rw [run_bind, timNow_passesRead hp hw]
  simp [hv, State.start]

/-- Settles O19: each event's conditions are those of its command, and what it then does runs to its end. -/
theorem timeEvents : Obligations.TimeEvents := by
  refine ⟨fun s h => ?_, fun s skew h => ?_, fun s a hp hw => ?_, fun s h hs => ?_, fun s h hs hd hb => ?_, fun s hs hd => ?_⟩
  · exact transact_put (by simp [h])
  · obtain ⟨⟨⟩, t, ht, ⟨hc, hb, he, hr⟩, hk⟩ := (total_measureTree s.dev skew.toNat).out s.image s.start rfl
    have hx : exec (.treeCalibration skew) s = .next (settle s t) :=
      transact_runs (by unfold Runs; simp only [run_bind, run_dev, chain_ok, start_dev, run_need, h, decide_true, if_true, ht])
    exact ⟨_, hx, hk, hc, hb, he, hr, (silent_execTreeCalibration skew s _ hx).1⟩
  · obtain ⟨v, hv⟩ := run_timNowRead hp hw
    exact transact_put (by simp only [run_bind, hv, chain_ok, run_pure])
  · exact transact_after (by simp [h, hs, sourceLost, State.start]) ((total_setTimState _).ends _ _)
  · exact transact_put (by simp [h, hs, hd, hb, sourceLost, tSLEWING, tLOCKED])
  · exact transact_after (by simp [hs, hd]) ((total_setTimState _).ends _ _)

end Sys2Proof.Machine
end

section
/-! Region 0 with nothing left to end: what its fence and the end of its work leave as it is. -/

namespace Sys2Proof.Machine

variable {α β : Type} {d e g : Dev}

/-! ### Changes that leave PAGE_CTRL -/

/-- The page of region 0, and the place of its PAGE_CTRL in the register window. -/
def regionPage : Nat := pg bRGN 0
def ctrlKey : Nat := RegName.pageCtrl.info.key regionPage 0

/-- Two machines with the same descriptors, nodes and clusters, and the same PAGE_CTRL of region 0. -/
structure Like (d e : Dev) : Prop where
  descs : d.descs = e.descs
  peers : d.peers = e.peers
  clusters : d.clusters = e.clusters
  ctrl : SameRegs (· = ctrlKey) d e

theorem Like.refl (d : Dev) : Like d d := ⟨rfl, rfl, rfl, SameRegs.refl d _⟩

theorem Like.trans (h : Like d e) (k : Like e g) : Like d g :=
  ⟨h.descs.trans k.descs, h.peers.trans k.peers, h.clusters.trans k.clusters, SameRegs.trans h.ctrl k.ctrl⟩

/-- A fold of such changes. -/
theorem like_foldl {f : Dev → β → Dev} (h : ∀ d b, Like (f d b) d) (l : List β) (d : Dev) : Like (l.foldl f d) d := by
  induction l generalizing d with
  | nil => exact Like.refl d
  | cons b l ih => exact (ih (f d b)).trans (h d b)

theorem like_setWord {r : RegName} {p i : Nat} (v : Nat) (h : r.info.key p i ≠ ctrlKey) : Like (d.setWord r p i v) d :=
  ⟨rfl, rfl, rfl, SameRegs.setWord d _ r p i v h⟩

/-- Only the offset 0x10 of a page is that of a PAGE_CTRL. -/
theorem key_ne_ctrlKey {r : RegName} (p : Nat) (h : r.info.off % 4096 ≠ 0x10) : r.info.key p 0 ≠ ctrlKey := by
  rw [show ctrlKey = 3328 * 4096 + 0x10 from rfl, RegInfo.key]
  omega

theorem like_wr {f : Fld} (p v : Nat) (h : f.reg.info.off % 4096 ≠ 0x10) : Like (d.wr f p v) d :=
  like_setWord _ (key_ne_ctrlKey p h)

theorem like_bump {f : Fld} (p n : Nat) (h : f.reg.info.off % 4096 ≠ 0x10) : Like (d.bump f p n) d := by
  unfold Dev.bump
  exact ite_keeps (Like · d) (Like.refl d) (like_wr p _ h)

theorem like_setBatcher (die : Nat) (b : Batcher) : Like (d.setBatcher die b) d := by
  have h : Like (if die = 0 then { d with xl := { d.xl with b0 := b } } else { d with xl := { d.xl with b1 := b } }) d :=
    ite_keeps (Like · d) ⟨rfl, rfl, rfl, SameRegs.refl d _⟩ ⟨rfl, rfl, rfl, SameRegs.refl d _⟩
  exact (like_wr _ _ (by decide)).trans <| (like_wr _ _ (by decide)).trans <| (like_wr _ _ (by decide)).trans h

theorem like_retireBatches (die : Nat) : Like (d.retireBatches die) d := like_setBatcher die _

theorem like_xl (x : Xlat) : Like { d with xl := x } d := ⟨rfl, rfl, rfl, fun _ _ _ => rfl⟩

theorem like_dropWaiters (p : Waiter → Bool) : Like (d.dropWaiters p) d := by
  unfold Dev.dropWaiters
  dsimp only
  exact (like_retireBatches 1).trans <| (like_retireBatches 0).trans <| (like_xl _).trans <|
    (like_setBatcher 1 _).trans <| like_setBatcher 0 _

theorem like_keepHeld (p : Nat × Nat × Nat × Nat × Nat → Bool) : Like (d.keepHeld p) d :=
  (like_wr _ _ (by decide)).trans ⟨rfl, rfl, rfl, fun _ _ _ => rfl⟩

theorem like_keepCapo (p : CapoHold → Bool) : Like (d.keepCapo p) d := ⟨rfl, rfl, rfl, fun _ _ _ => rfl⟩

theorem like_setOwner (tile : Nat) (o : Option (Nat × Bool)) : Like (d.setOwner tile o) d :=
  (like_wr _ _ (by decide)).trans ⟨rfl, rfl, rfl, fun _ _ _ => rfl⟩

theorem like_remotes (l : List RemoteOp) : Like { d with remotes := l } d := ⟨rfl, rfl, rfl, fun _ _ _ => rfl⟩

theorem like_setLane (key v : Nat) : Like (d.setLane key v) d := ⟨rfl, rfl, rfl, fun _ _ _ => rfl⟩

theorem like_syncInt : Like d.syncInt d :=
  like_foldl (fun _ _ => (like_wr _ _ (by decide)).trans (like_wr _ _ (by decide))) _ d

/-! ### Meanings that leave it -/

/-- Nothing is left to end: each descriptor has ended and pools nothing, no node is known, and no cluster but 0 has a
slice. -/
structure NoWork (d : Dev) : Prop where
  descs : ∀ x ∈ d.descs, x.ended = true ∧ x.isPool = false
  peers : d.peers = []
  slices : ∀ c, c ≠ 0 → (d.cl c).slice = none

theorem NoWork.of_like (h : NoWork e) (k : Like d e) : NoWork d := by
  refine ⟨k.descs ▸ h.descs, k.peers.trans h.peers, fun c hc => ?_⟩
  rw [Dev.cl, k.clusters]
  exact h.slices c hc

theorem NoWork.setCl (h : NoWork d) (k : Cluster) : NoWork (d.setCl 0 k) := by
  refine ⟨h.descs, h.peers, fun c hc => ?_⟩
  rw [show (d.setCl 0 k).cl c = d.cl c from SMap.get_set_ne _ _ _ _ (Ne.symm hc)]
  exact h.slices c hc

theorem NoWork.wr (h : NoWork d) (f : Fld) (p v i : Nat) : NoWork (d.wr f p v i) := ⟨h.descs, h.peers, h.slices⟩

theorem NoWork.putDesc {x : Desc} (h : NoWork d) (hx : x.ended = true ∧ x.isPool = false) :
    NoWork (d.putDesc x) := by
  refine ⟨fun y hy => ?_, h.peers, h.slices⟩
  obtain ⟨z, hz, rfl⟩ := List.mem_map.mp hy
  split
  · exact hx
  · exact h.descs z hz

theorem NoWork.users (h : NoWork d) (page : Nat) : d.users page = [] := by
  refine List.filter_eq_nil_iff.mpr fun x hx => ?_
  simp [Dev.uses, (h.descs x hx).1]

/-- Nothing is left to end, and PAGE_CTRL of region 0 is that of `e`. -/
def Resting (e d : Dev) : Prop := NoWork d ∧ SameRegs (· = ctrlKey) d e

/-- A meaning that, where nothing is left to end, runs to its end, and leaves PAGE_CTRL of region 0. -/
def Spares (m : M α) : Prop := ∀ e, Total (Resting e) (Resting e) m

theorem spares_pure (a : α) : Spares (pure a : M α) := fun _ => total_pure a
theorem Spares.bind {m : M α} {f : α → M β} (h : Spares m) (g : ∀ a, Spares (f a)) : Spares (m >>= f) :=
  fun e => total_bind (h e) fun a => g a e
theorem spares_ite {c : Prop} [Decidable c] {a b : M α} (h : Spares a) (g : Spares b) : Spares (if c then a else b) :=
  fun e => total_ite (h e) (g e)
theorem spares_modDev {f : Dev → Dev} (h : ∀ d, Like (f d) d) : Spares (modDev f) :=
  fun _ => total_modDev fun d hd => ⟨hd.1.of_like (h d), SameRegs.trans (h d).ctrl hd.2⟩
theorem spares_rd (f : Fld) (p n : Nat) : Spares (rd f p n) := fun _ => ⟨fun _ _ h => ⟨_, _, rfl, h⟩⟩
theorem spares_wr {f : Fld} (p v : Nat) (h : f.reg.info.off % 4096 ≠ 0x10) : Spares (wr f p v) :=
  spares_modDev fun _ => like_wr p v h
theorem spares_bump {f : Fld} (p n : Nat) (h : f.reg.info.off % 4096 ≠ 0x10) : Spares (bump f p n) :=
  spares_modDev fun _ => like_bump p n h

theorem spares_modCl (f : Cluster → Cluster) : Spares (modCl 0 f) := fun _ => total_modDev fun d hd =>
  ⟨hd.1.setCl _, SameRegs.trans (SameRegs.wr _ _ _ _ _ _ (key_ne_ctrlKey (r := .seqStatus) 0 (by decide)))
    (SameRegs.trans (fun _ _ _ => rfl) hd.2)⟩

/-- What the machine tells, the rest may use. -/
theorem spares_dev {f : Dev → M β} (h : ∀ d, NoWork d → Spares (f d)) : Spares (dev >>= f) :=
  fun e => total_dev_bind fun d hd => ⟨fun i t ht => (h d hd.1 e).out i t (ht ▸ hd)⟩

theorem spares_each {l : List β} {f : β → M Unit} (h : ∀ b ∈ l, Spares (f b)) : Spares (each l f) := by
  induction l with
  | nil => exact spares_pure ()
  | cons b l ih =>
    exact (h b List.mem_cons_self).bind fun _ => ih fun c hc => h c (List.mem_cons_of_mem b hc)

theorem spares_modDesc {q n : Nat} {f : Desc → Desc} (h : ∀ x, (f x).ended = x.ended ∧ (f x).raw = x.raw) :
    Spares (modDesc q n f) := by
  refine spares_dev fun d hd => ?_
  split
  · rename_i x hx
    have hp : (f x).ended = true ∧ (f x).isPool = false := by
      have := hd.descs x (List.mem_of_find?_eq_some hx)
      simpa [Desc.isPool, Desc.opcode, Desc.field, h x] using this
    exact fun e => total_modDev fun d hd => ⟨hd.1.putDesc hp, hd.2⟩
  · exact spares_pure ()

theorem spares_raiseFlag (q n f : Nat) : Spares (raiseFlag q n f) :=
  spares_modDesc (f := fun x => x.flag f) fun _ => ⟨rfl, rfl⟩
theorem spares_progress (q n rows bytes coh : Nat) : Spares (progress q n rows bytes coh) :=
  spares_modDesc (f := fun x => x.count rows bytes coh) fun _ => ⟨rfl, rfl⟩

/-! ### The end of the work of region 0 -/

theorem spares_stopAll_users (page st rs : Nat) : Spares (do stopAll ((← dev).users page) st rs) :=
  spares_dev fun d hd => by
    rw [hd.users page]
    exact spares_pure ()

theorem spares_dropItems : Spares (dropItems 0) :=
  spares_dev fun _ _ => (spares_bump _ _ (by decide)).bind fun _ => (spares_bump _ _ (by decide)).bind fun _ =>
    spares_modCl _

theorem spares_stopSlice (c : Nat) : Spares (stopSlice c) := by
  unfold stopSlice
  refine spares_dev fun d hd => ?_
  by_cases hc : c = 0
  · subst hc
    have freed : Spares (freeCluster 0) := (spares_modCl _).bind fun _ => spares_wr _ _ (by decide)
    split
    · exact spares_pure ()
    · refine spares_dropItems.bind fun _ => spares_dev fun d hd => ?_
      split
      · rename_i x hx
        rw [(hd.descs x (List.mem_of_find?_eq_some hx)).2]
        exact freed
      · exact freed
  · rw [hd.slices c hc]
    exact spares_pure ()

theorem spares_loseTiles (c : Nat) : Spares (loseTiles c) := by
  refine Spares.bind (spares_each fun tile _ => spares_modDev fun d => like_setOwner tile none) fun _ =>
    Spares.bind (spares_modDev fun d => ⟨rfl, rfl, rfl, fun _ _ _ => rfl⟩) fun _ => spares_modDev fun d => ?_
  have word (d : Dev) (n : Nat) (hn : n < 4) : Like (d.setWord .acmSat c n 0) d := by
    refine like_setWord 0 ?_
    rw [show ctrlKey = 3328 * 4096 + 0x10 from rfl]
    simp only [RegInfo.key, RegName.info]
    omega
  exact (word _ 3 (by decide)).trans <| (word _ 2 (by decide)).trans <| (word _ 1 (by decide)).trans <| word _ 0 (by decide)

theorem spares_endCluster (c : Nat) : Spares (endCluster c) := by
  refine spares_dev fun d hd => ?_
  rw [hd.users]
  exact Spares.bind (spares_pure ()) fun _ => (spares_stopSlice c).bind fun _ =>
    (spares_modDev fun _ => like_dropWaiters _).bind fun _ => spares_loseTiles c

theorem spares_losePort (p : Nat) : Spares (losePort p) :=
  spares_dev fun d hd => by
    rw [Dev.peersOn, hd.peers]
    exact spares_pure ()

/-- The end of the work of region 0. -/
theorem spares_endWork : Spares (endWork regionPage) := by
  refine Spares.bind (spares_each fun c _ => spares_endCluster c) fun _ => spares_dev fun d hd => ?_
  rw [hd.users]
  refine Spares.bind (spares_pure ()) fun _ => (spares_losePort _).bind fun _ => spares_stopAll_users _ _ _

theorem spares_rest (page : Nat) : Spares (rest page) := spares_modDev fun _ => like_wr _ _ (by decide)

/-- A cluster without a slice shows FENCED, and that is all. -/
theorem spares_holdCluster {c st : Nat} (hc : c ≠ 0) : Spares (holdCluster c st) :=
  spares_dev fun d hd => by
    rw [hd.slices c hc]
    exact spares_wr _ _ (by decide)

end Sys2Proof.Machine
end

section
/-! A run with far more lanes than its chain: while a fence is set, the marks of its saturation reach PAGE_CTRL of the region.
The chain of a descriptor has at most 4,096 lanes (R119), so no slice makes such a run; but a state may hold one. -/

namespace Sys2Proof.Machine

variable {α β : Type}

/-- Where a condition holds, its first branch is what runs. -/
theorem total_if {P Q : Dev → Prop} {c : Prop} [Decidable c] {a b : M α} (hc : c) (h : Total P Q a) :
    Total P Q (if c then a else b) := by rwa [if_pos hc]

/-- A field is read as the machine has it. -/
theorem total_rd_bind {d : Dev} {Q : Dev → Prop} {f : Fld} {p n : Nat} {k : Nat → M β} (h : Total (· = d) Q (k (d.rd f p n))) :
    Total (· = d) Q (rd f p n >>= k) := by
  refine ⟨fun i t ht => ?_⟩
  subst ht
  exact h.out i t rfl

/-! ### The marks of a saturated run -/

/-- The index at which the words of ACM_SAT of cluster 0, were they that many, would come to PAGE_CTRL of region 0. -/
def farIndex : Nat := 1834944

theorem farIndex_key : RegName.acmSat.info.key 0 farIndex = ctrlKey := rfl

/-- The first tile of the word at that index is marked as saturated. -/
def Marked (d : Dev) : Prop := (d.word .acmSat 0 farIndex).testBit 0 = true

/-- An entry that is not the default of one reading is read alike under every default. -/
theorem get_listed {m : SMap α} {a : Nat} (u v : α) (h : SMap.get u m a ≠ u) : SMap.get v m a = SMap.get u m a := by
  induction m with
  | nil => exact absurd rfl h
  | cons e m ih =>
    simp only [SMap.get] at h ⊢
    split at h
    · rename_i he
      rw [if_pos he, if_pos he]
    · rename_i he
      rw [if_neg he, if_neg he]
      exact ih h

/-- A marked tile reads as ENABLE of region 0. -/
theorem Marked.enable {d : Dev} (h : Marked d) : d.rd F.pageCtrl_enable regionPage = 1 := by
  have hw : d.word .pageCtrl regionPage 0 = d.word .acmSat 0 farIndex := by
    refine congrArg BitVec.toNat (get_listed _ _ fun hn => ?_)
    have hz : d.word .acmSat 0 farIndex = 0 := congrArg BitVec.toNat hn
    rw [Marked, hz] at h
    exact absurd h (by decide)
  rw [Dev.rd, hw, bits]
  simpa [Marked, Nat.testBit_zero] using h

/-- The tile of a saturated lane is marked. -/
def Dev.satMarked (d : Dev) (tile : Nat) : Dev :=
  d.setWord .acmSat 0 (tile / 32) (Nat.lor (d.word .acmSat 0 (tile / 32)) (2 ^ (tile % 32)))

theorem marked_satMarked (d : Dev) : Marked (d.satMarked (32 * farIndex)) := by
  have hi : 32 * farIndex / 32 = farIndex := rfl
  rw [Marked, Dev.satMarked, hi, Dev.word_setWord_same]
  simp [farIndex]

/-- Another mark leaves it: marks are only added. -/
theorem Marked.satMarked {d : Dev} (h : Marked d) (tile : Nat) : Marked (d.satMarked tile) := by
  rw [Marked, Dev.satMarked]
  by_cases ht : tile / 32 = farIndex
  · rw [ht, Dev.word_setWord_same]
    rw [Marked] at h
    exact Nat.testBit_mod_two_pow .. ▸ by simp [-Nat.testBit_zero, h]
  · rwa [Dev.word_setWord_ne]
    simpa [RegInfo.key, RegName.info] using ht

/-- Nothing is left to end, and the tile is marked. -/
def Stained (d : Dev) : Prop := NoWork d ∧ Marked d

/-- A meaning that spares PAGE_CTRL keeps the mark there. -/
theorem Spares.stained {m : M α} (h : Spares m) : Total Stained Stained m := by
  refine ⟨fun i t ht => ?_⟩
  obtain ⟨a, u, e, hw, hk⟩ := (h t.dev).out i t ⟨ht.1, SameRegs.refl _ _⟩
  refine ⟨a, u, e, hw, ?_⟩
  rw [Marked, hk.word .acmSat 0 farIndex farIndex_key]
  exact ht.2

theorem NoWork.satMarked {d : Dev} (h : NoWork d) (tile : Nat) : NoWork (d.satMarked tile) :=
  ⟨h.descs, h.peers, h.slices⟩

/-- Once a list of tiles that names it has been marked, the tile is. -/
theorem total_marks {ts : List Nat} (h : 32 * farIndex ∈ ts) :
    Total NoWork Stained (each ts fun tile => modDev fun d => d.satMarked tile) := by
  have more (ts : List Nat) : Total Stained Stained (each ts fun tile => modDev fun d => d.satMarked tile) :=
    total_each fun tile => total_modDev fun d hd => ⟨hd.1.satMarked tile, hd.2.satMarked tile⟩
  induction ts with
  | nil => exact absurd h List.not_mem_nil
  | cons tile ts ih =>
    rcases List.mem_cons.mp h with rfl | h
    · exact total_bind (total_modDev fun d hd => ⟨hd.satMarked _, marked_satMarked d⟩) fun _ => more ts
    · exact total_bind (total_modDev fun d hd => hd.satMarked tile) fun _ => ih h

/-- The lanes of a run that saturate in its promotion to a chain of cluster 0, each with what it comes to. -/
def Dev.satLanes (d : Dev) (x : Desc) (slot : Nat) (r : Run) : List (Nat × Int × Bool) :=
  ((List.range r.ints.length).map fun l =>
    (l, sat48 (toSigned 48 (d.lane (x.laneKey 0 slot l)) + r.ints.getD l 0))).filter fun l => l.2.2

/-- The tiles that hold such lanes, by number in the cluster. -/
def Dev.satTiles (d : Dev) (x : Desc) (slot : Nat) (r : Run) : List Nat :=
  ((((d.satLanes x slot r).map fun l => l.1 / 256).eraseDups).map fun j =>
    x.lkTile + (slot * x.chainRows + j) / 64).eraseDups

variable {x : Desc} {slot lane : Nat} {r : Run} {d : Dev}

theorem mem_satLanes (hl : lane < r.ints.length)
    (hs : (sat48 (toSigned 48 (d.lane (x.laneKey 0 slot lane)) + r.ints.getD lane 0)).2 = true) :
    (lane, sat48 (toSigned 48 (d.lane (x.laneKey 0 slot lane)) + r.ints.getD lane 0)) ∈ d.satLanes x slot r :=
  List.mem_filter.mpr ⟨List.mem_map.mpr ⟨lane, List.mem_range.mpr hl, rfl⟩, hs⟩

theorem mem_satTiles {p : Int × Bool} (h : (lane, p) ∈ d.satLanes x slot r) :
    x.lkTile + (slot * x.chainRows + lane / 256) / 64 ∈ d.satTiles x slot r :=
  List.mem_eraseDups.mpr <| List.mem_map.mpr ⟨lane / 256, List.mem_eraseDups.mpr (List.mem_map.mpr ⟨_, h, rfl⟩), rfl⟩

/-- A run of integer terms of which a lane saturates is promoted: the tile that would hold that lane is marked, whether the
chain has it or not. -/
theorem total_promoteRun (hd : NoWork d) (hr : r.terms ≠ 0) (hp : (d.side (x.sideKey 0 slot)).intPath = true)
    (hl : lane < r.ints.length)
    (hs : (sat48 (toSigned 48 (d.lane (x.laneKey 0 slot lane)) + r.ints.getD lane 0)).2 = true)
    (hz : (sat48 ((d.side (x.sideKey 0 slot)).zsum + r.zchunk)).2 = false)
    (ht : x.lkTile + (slot * x.chainRows + lane / 256) / 64 = 32 * farIndex) :
    Total (· = d) Stained (promoteRun x 0 slot r) := by
  have hit := mem_satLanes hl hs
  have tile := mem_satTiles hit
  rw [ht] at tile
  have clamped : (!(d.satLanes x slot r).isEmpty) = true := by simpa using List.ne_nil_of_mem hit
  unfold promoteRun
  rw [if_neg hr]
  refine total_dev_bind fun e he => ?_
  subst he
  dsimp only
  rw [if_pos hp, hz]
  refine total_bind (Q := NoWork) (total_modDev fun g hg => ?_) fun _ => ?_
  · subst hg
    exact hd.of_like (like_foldl (fun _ _ => like_setLane _ _) _ _)
  refine total_bind (Q := NoWork) (total_modDev fun g hg => ⟨hg.descs, hg.peers, hg.slices⟩) fun _ => ?_
  refine total_if clamped <| total_bind (total_marks tile) fun _ => Spares.stained ?_
  exact (spares_bump _ _ (by decide)).bind fun _ => (spares_raiseFlag _ _ _).bind fun _ =>
    spares_ite (spares_progress _ _ _ _ _) (spares_pure ())

/-! ### A cluster with such a run -/

/-- The run: every lane of it saturates, the last in the tile whose mark is ENABLE of region 0. -/
def farLane : Nat := 64 * 256 * (32 * farIndex)
def overrun : Run := ⟨1, 1, List.replicate (farLane + 1) (2 ^ 48), 0, []⟩

/-- A descriptor that has ended, its slice, whose program is not read, and a machine whose cluster 0 holds that slice
beside an integer chain; region 0 is neither enabled nor fenced. -/
def strayDesc : Desc := ⟨0, 0, 0, 0, 0, 0, 0, 0, 0, 0, 0, true, false, [], .none⟩
def straySlice : Slice := ⟨0, 0, 0, 0, 0, [], [], Resume.start, Resume.start, 0, [(0, overrun)], true⟩
def strayDev : Dev :=
  { State.resetDev.wr F.pageCtrl_enable regionPage 0 with
    descs := [strayDesc]
    clusters := [(0, { Cluster.idle with slice := some straySlice })]
    accs := ⟨[], [(0, some { Side.clear with intPath := true })], []⟩ }

theorem strayDev_noWork : NoWork strayDev := by
  refine ⟨fun x hx => ?_, rfl, fun c hc => ?_⟩
  · rw [List.mem_singleton.mp hx]
    exact ⟨rfl, rfl⟩
  · rw [Dev.cl, strayDev, SMap.get, if_neg (Ne.symm hc)]
    rfl

/-- The machine once FENCE is set and the page shows FENCED: what the fence of its first cluster begins with. -/
def fencedDev : Dev := (strayDev.wr F.pageCtrl_fence regionPage 1).wr F.pageState_state regionPage 3

theorem fencedDev_noWork : NoWork fencedDev := (strayDev_noWork.wr ..).wr ..

theorem straySlice_slot : straySlice.slot strayDesc 0 = 0 := by decide +kernel

theorem fencedDev_side : fencedDev.side (strayDesc.sideKey 0 0) = { Side.clear with intPath := true } := by decide +kernel

theorem strayDesc_lkTile : strayDesc.lkTile = 0 := by decide +kernel

/-- The promotion of the run marks that tile. -/
theorem total_overrun : Total (· = fencedDev) Stained (promoteRun strayDesc 0 0 overrun) := by
  refine total_promoteRun (lane := farLane) fencedDev_noWork Nat.one_ne_zero (by rw [fencedDev_side]) ?_ ?_
    (by rw [fencedDev_side]; decide) ?_
  · rw [overrun, List.length_replicate]
    exact Nat.lt_succ_self farLane
  · have hn : fencedDev.lane (strayDesc.laneKey 0 0 farLane) = 0 := rfl
    have hg : overrun.ints.getD farLane 0 = 2 ^ 48 := by
      rw [overrun, List.getD_eq_getElem?_getD, List.getElem?_replicate, if_pos (Nat.lt_succ_self farLane), Option.getD_some]
    rw [hn, hg]
    decide
  · rw [strayDesc_lkTile, Nat.zero_mul, Nat.zero_add, Nat.zero_add]
    rfl

/-! ### Its fence -/

theorem total_promoteOpen_stray : Total (· = fencedDev) Stained (promoteOpen 0 strayDesc) := by
  refine total_dev_bind fun d hd => ?_
  subst hd
  rw [show (fencedDev.cl 0).slice = some straySlice from rfl]
  refine total_bind (Q := Stained) ?_ fun _ => (spares_modCl _).stained
  rw [show straySlice.bags = [(0, overrun)] from rfl, each, straySlice_slot]
  exact total_bind total_overrun fun _ => total_pure ()

theorem total_holdCluster_stray : Total (· = fencedDev) Stained (holdCluster 0 3) := by
  refine total_dev_bind fun d hd => ?_
  subst hd
  rw [show (fencedDev.cl 0).slice = some straySlice from rfl]
  refine total_if rfl <| total_dev_bind fun d hd => ?_
  subst hd
  rw [show fencedDev.desc straySlice.q straySlice.seq = some strayDesc from rfl]
  refine total_dev_bind fun d hd => ?_
  subst hd
  rw [if_neg (by rw [show (fencedDev.cl 0).taken = [] from rfl]; decide)]
  refine total_bind total_promoteOpen_stray fun _ => Spares.stained ?_
  refine (spares_modDev fun d => ?_).bind fun _ => (spares_modDev fun d => ?_).bind fun _ => (spares_modCl _).bind fun _ =>
    (spares_wr _ _ (by decide)).bind fun _ => spares_wr _ _ (by decide)
  · exact (like_remotes _).trans (like_dropWaiters _)
  · exact (like_keepCapo _).trans (like_keepHeld _)

/-- The fence of region 0 runs to its end, and leaves the mark: cluster 0 promotes the run, the others hold nothing. -/
theorem total_fence_stray : Total (· = strayDev) Stained (fence regionPage 3) := by
  refine total_bind (Q := (· = strayDev.wr F.pageCtrl_fence regionPage 1)) (total_modDev fun d hd => by rw [hd]) fun _ => ?_
  rw [if_neg (by decide)]
  refine total_bind (Q := (· = fencedDev)) (total_modDev fun d hd => by rw [hd]; rfl) fun _ => ?_
  refine total_bind (Q := Stained) ?_ fun _ => (spares_modDev fun _ => like_syncInt).stained
  rw [show range' (8 * (regionPage % 256)) 8 = 0 :: List.range' 1 7 from rfl, each]
  refine total_bind (Q := Stained) ?_ fun _ => Spares.stained <| spares_each fun c hc => ?_
  · refine total_rd_bind ?_
    rw [if_neg (show fencedDev.rd F.pageState_state (pg bGCL 0) 0 ≠ 4 by decide +kernel)]
    exact total_holdCluster_stray
  · have hc : c ≠ 0 := by
      have := List.mem_range'.mp hc
      omega
    exact (spares_rd _ _ _).bind fun _ => spares_ite (spares_pure ()) (spares_holdCluster hc)

/-! ### The statement -/

/-- The machine with no command waiting and both memories blank. -/
def strayState : State := ⟨[], [], [], strayDev⟩

theorem stray_ctrlWith : strayDev.ctrlWith regionPage 4 0 = 4 := by decide +kernel

/-- A write of ENABLE as 0 then finds it set: it clears it, and ends the work of the region. -/
theorem stray_enableWrite {i : Image} {t : Tx} (h : Stained t.dev) :
    ∃ u, enableWrite regionPage false i t = .ok () u ∧ u.dev.rd F.pageCtrl_enable regionPage = 0 := by
  have hw : NoWork (t.dev.wr F.pageCtrl_enable regionPage 0) := h.1.wr ..
  obtain ⟨⟨⟩, u, hu, -, hk⟩ := (spares_endWork.bind fun _ => spares_rest regionPage) _ |>.out i
    { t with dev := t.dev.wr F.pageCtrl_enable regionPage 0 } ⟨hw, SameRegs.refl _ _⟩
  refine ⟨u, ?_, ?_⟩
  · rw [← hu]
    simp [enableWrite, h.2.enable, show enableable regionPage = true from rfl, b2n]
  · rw [hk.rd F.pageCtrl_enable regionPage 0 rfl, Dev.rd_wr_same _ _ _ _ _ (by decide)]
    rfl

/-- So the command that sets FENCE leaves ENABLE 0. -/
theorem exec_pageFence_stray {a : Agent} {u : Tx} (hr : (pageAcc regionPage 0x10 4 a).reaches strayDev = true)
    (hf : Runs (fence regionPage 3) strayState.image strayState.start () u) (hs : Stained u.dev) :
    ∃ w, exec (.pageFence ⟨regionPage, by decide⟩ a) strayState = .next (settle strayState w) ∧
      w.dev.rd F.pageCtrl_enable regionPage = 0 := by
  obtain ⟨w, hw, he⟩ := stray_enableWrite (i := strayState.image) hs
  refine ⟨w, transact_runs ?_, he⟩
  unfold Runs ctrlChange
  have hd : strayState.start.dev = strayDev := rfl
  have hz : strayState.dev.rd F.pageCtrl_fence regionPage = 0 := by decide +kernel
  unfold Runs at hf
  simp only [run_bind, run_dev, chain_ok, hd, stray_ctrlWith]
  rw [RegAcc.run_reaches (by exact hr)]
  simp [ctrlWrite, fenceWrite, hz, hf, hw, show fenceable regionPage = true from rfl, bit]

/-- Refutes O49, by its clause on setting FENCE. In `strayState` ENABLE of region 0 is 0, and cluster 0 holds a run of more
than 2^39 lanes. The fence promotes the run (R134), and the mark of its last lane in ACM_SAT, made at the index that the
lane's number gives, falls on PAGE_CTRL of the region: `fence` alone leaves ENABLE 1, while the command, which writes ENABLE
as it stood, then clears it. The statement is of every state; one that bounded the runs by their chains would exclude this. -/
theorem not_pageControl : ¬ Obligations.PageControl := by
  unfold Obligations.PageControl
  intro h
  obtain ⟨-, -, hsteady, -⟩ := h strayState ⟨regionPage, by decide⟩ (.ccSecure 0) strayState.start
  have steady : strayDev.ctrlSteady regionPage := ⟨by decide +kernel, .inl rfl⟩
  have reaches : (pageAcc regionPage 0x10 4 (.ccSecure 0)).reaches strayDev = true := by decide +kernel
  obtain ⟨-, -, -, hfence, -⟩ := hsteady steady
  have hx : exec (.pageFence ⟨regionPage, by decide⟩ (.ccSecure 0)) strayState =
      .next (strayState.after strayDev (fence regionPage 3)) :=
    hfence (by exact stray_ctrlWith ▸ reaches) rfl (by decide +kernel)
  obtain ⟨⟨⟩, u, hu, hs⟩ := total_fence_stray.out strayState.image strayState.start rfl
  obtain ⟨w, hw, he⟩ := exec_pageFence_stray reaches hu hs
  have hafter : strayState.after strayDev (fence regionPage 3) = settle strayState u :=
    congrArg (settle strayState) (ran_runs hu)
  rw [hw, hafter, Host.Outcome.next.injEq] at hx
  have hdev : w.dev = u.dev := congrArg State.dev hx
  rw [hdev, hs.2.enable] at he
  exact Nat.one_ne_zero he

end Sys2Proof.Machine
end

section
/-! What a dispatch and a launch come to: a queue without its turn, a descriptor that a CANCEL has marked, and set-ups that
run to their end, fail or wait. -/

namespace Sys2Proof.Machine

variable {s : State} {q raw n st rs : Nat} {i : Image} {t u : Tx} {sel : Nat → Bool} {body : Desc → M Unit} {m : M Unit}

theorem transact_skips (h : m s.image s.start = .error .skip u) : transact m s = .next s := by
  have h' : m ⟨s.mem, s.host⟩ ⟨s.dev, []⟩ = .error .skip u := h
  simp only [transact, h']

@[simp] theorem run_malformedIf (b : Bool) (rs : Nat) :
    malformedIf b rs i t = if b then .error (.fail sMALFORMED rs) t else .ok () t := by
  cases b <;> rfl

/-- Work that fails ends its descriptor with that status. -/
theorem run_orEnd_fail (h : m i t = .error (.fail st rs) u) :
    orEnd q n m i t = .ok () { u with dev := u.dev.failed q n st rs } := by
  simp only [orEnd, run_tryCatch, h, handle_error, run_endWith]

theorem run_attemptWork_fail (h : m i t = .error (.fail st rs) u) : attemptWork q n m i t = .error (.fail st rs) u := by
  simp only [attemptWork, run_bind, run_get, chain_ok, run_tryCatch, h, handle_error, run_dev, run_throw]

/-- Work that has to wait leaves what it waits for, and the tables that it has read. -/
theorem run_attemptWork_wait {reg : Dev → Dev} (h : m i t = .error (.wait reg) u) :
    attemptWork q n m i t = .ok () { t with dev := (reg t.dev).keepTabs u.dev q n } := by
  simp only [attemptWork, run_bind, run_get, chain_ok, run_tryCatch, h, handle_error, run_dev, run_set, run_modDev]

/-- With nothing that waits to start, a launch is a dispatch. -/
theorem run_launch_fresh (hn : s.dev.noneWaits q sel) :
    launch q sel body s.image s.start = dispatch q sel (fun x => attemptWork q x.seq (body x)) s.image s.start := by
  unfold Dev.noneWaits at hn
  simp only [launch, run_bind, run_dev, chain_ok, start_dev, hn]

theorem run_dispatch_closed (h : s.dev.turn s.image q = false) :
    dispatch q sel body s.image s.start = .error .skip s.start := by
  simp only [dispatch, run_bind, run_dev, run_read, chain_ok, start_dev, run_need, h, Bool.false_eq_true, if_false,
    chain_error]

/-- A descriptor that a CANCEL has marked is listed, and ends as CANCELLED in place of its set-up. -/
theorem run_dispatch_marked (hturn : s.dev.turn s.image q = true)
    (hmark : (s.dev.qh q).marks.any (inMark (s.dev.qrd F.queHead_head q)) = true)
    (hread : Runs (readDesc q (s.dev.qrd F.queHead_head q)) s.image s.start raw t) (hs : sel raw = true) :
    dispatch q sel body s.image s.start = .ok () { s.opened q raw t with
      dev := (s.opened q raw t).dev.failed q (s.dev.qrd F.queHead_head q) sCANCELLED rNONE } := by
  unfold Runs at hread
  unfold dispatch
  simp only [run_bind, chain_ok, run_dev, start_dev, run_read, run_need, hturn, if_true, run_caught hread, Bool.false_or, hs,
    run_modDev, run_qwr, run_bump, run_tap, hmark, run_endWith]
  rfl

/-- Two meanings that run alike from the start are one transaction. -/
theorem transact_congr {k : M Unit} (h : m s.image s.start = k s.image s.start) : transact m s = transact k s := by
  have h' : m ⟨s.mem, s.host⟩ ⟨s.dev, []⟩ = k ⟨s.mem, s.host⟩ ⟨s.dev, []⟩ := h
  simp only [transact, h']

/-- The command of an opcode whose descriptor is at HEAD launches it, with none of its queue that waits to start. -/
theorem transact_launch (h : s.atHead q raw t) (ho : sel raw = true ∧ s.dev.noneWaits q sel) :
    transact (launch q sel body) s = .next (settle s (s.launched q raw t body)) :=
  transact_runs (runs_launched ho.2 h ho.1)

/-! ### What stands before a dispatch -/

/-- Each command that only dispatches is one launch, of the opcodes that it takes. -/
theorem exec_dispatchCommand : ∀ e ∈ dispatchCommands,
    ∃ body, ∀ (q : Fin 1024) (s : State), exec (e.2 q) s = transact (launch q.val e.1 body) s := by
  unfold dispatchCommands
  repeat' refine List.forall_mem_cons.mpr ⟨⟨_, fun _ _ => rfl⟩, ?_⟩
  exact List.forall_mem_nil _

/-- Settles O17, by the three ways in which a set-up can stop. -/
theorem dispatchGate : Obligations.DispatchGate := by
  unfold Obligations.DispatchGate
  refine ⟨fun e he s q hn => ?_, fun s q raw t body => ⟨fun u hu => ?_, fun u st rs hu => ?_, fun u reg hu => ?_⟩⟩
  · obtain ⟨body, hx⟩ := exec_dispatchCommand e he
    refine ⟨fun hturn => ?_, fun raw t hturn hmark hread hs => ?_⟩ <;> rw [hx]
    · exact transact_skips ((run_launch_fresh hn).trans (run_dispatch_closed hturn))
    · exact transact_runs ((run_launch_fresh hn).trans (run_dispatch_marked hturn hmark hread hs))
  · exact ran_runs (a := ()) (run_orEnd (run_attemptWork hu))
  · exact ran_runs (a := ()) (run_orEnd_fail (run_attemptWork_fail hu))
  · exact ran_runs (a := ()) (run_orEnd (run_attemptWork_wait hu))

/-! ### Dispatches with a set-up -/

/-- Settles O15: each opcode's command is a launch. -/
theorem dispatchWork : Obligations.DispatchWork := by
  unfold Obligations.DispatchWork
  refine ⟨fun s q raw t h => ⟨?_, ?_, ?_⟩, fun s q raw t h => ⟨?_, ?_, ?_, ?_, ?_, ?_⟩⟩
  all_goals exact fun ho => transact_launch h ho

/-- A queue whose descriptors of an opcode have all ended has none that goes on with its bags. -/
theorem find_running_none {op : Nat} {p : Desc → Bool}
    (hi : ∀ y ∈ s.dev.descs, y.q = q → y.opcode = op → y.ended = true) :
    (s.dev.descs.find? fun x => x.q == q && !x.ended && x.opcode == op && p x) = none := by
  refine List.find?_eq_none.mpr fun y hy => ?_
  have hy' := hi y hy
  grind

theorem exec_exchange_idle {q : Fin 1024} (hi : ∀ y ∈ s.dev.descs, y.q = q.val → y.opcode = 0x40 → y.ended = true) :
    exec (.exchange q) s = transact (launch q.val (opcodeIs 0x40) exchange) s := by
  refine transact_congr ?_
  rw [run_bind, run_dev, chain_ok, start_dev, find_running_none hi]

theorem exec_chainReduce_idle {q : Fin 1024}
    (hi : ∀ y ∈ s.dev.descs, y.q = q.val → y.opcode = 0x41 → y.ended = true) :
    exec (.chainReduce q) s = transact (launch q.val (opcodeIs 0x41) chainReduce) s := by
  refine transact_congr ?_
  rw [run_bind, run_dev, chain_ok, start_dev, find_running_none hi]

/-- Settles O16: each opcode's command is a launch; that of EXCHANGE and of CHAIN_REDUCE where no bags are still to begin. -/
theorem dispatchMoves : Obligations.DispatchMoves := by
  unfold Obligations.DispatchMoves
  refine ⟨fun s q raw t h => ⟨?_, ?_, ?_, ?_, fun ho hi => ?_, fun ho hi => ?_, ?_, ?_⟩, fun s q raw t act h hs hn => ?_⟩
  case refine_5 => exact (exec_exchange_idle hi).trans (transact_launch h ho)
  case refine_6 => exact (exec_chainReduce_idle hi).trans (transact_launch h ho)
  case refine_9 => refine ⟨?_, ?_, ?_, ?_, ?_, ?_, ?_, ?_⟩ <;> rintro rfl <;> exact transact_launch h ⟨hs, hn⟩
  all_goals exact fun ho => transact_launch h ho

/-! ### NOP, FENCE, STAMP, CANCEL, and an opcode that is not defined -/

variable {x : Desc}

/-- A plain descriptor passes checks 2 to 4 of R60 where the whole of its body is reserved. -/
theorem Desc.plain.run_formChecks (h : x.plain) : x.formChecks [(8, 0, 448)] [] false i t = .ok () t := by
  obtain ⟨h1, h2, h3, h4, h5, h6⟩ := h
  simp [Desc.formChecks, Desc.anySet, h1, h2, h3, h4, h5, h6]

theorem run_needOldest (h : t.dev.descsOf x.q = [x]) : needOldest x i t = .ok () t := by
  simp [needOldest, h]

theorem opcodeIs_raw (op : Nat) (x : Desc) : opcodeIs op x.raw = (x.opcode == op) := by
  simp [opcodeIs, Desc.opcode, Desc.field, bits]

theorem exec_nop_plain {q : Fin 1024} (h : s.atHead q raw t) (hs : opcodeIs 0 raw = true) (hp : (s.dev.fresh q raw).plain) :
    exec (.nop q) s = .next (settle s { t with
      dev := (t.dev.listed s.dev q raw).endDesc q (s.dev.fresh q raw).seq }) := by
  refine transact_runs (runs_dispatch h hs ?_)
  unfold Runs
  rw [run_bind, hp.run_formChecks]
  rfl

theorem exec_fence_oldest {q : Fin 1024} (h : s.atHead q raw t) (hs : opcodeIs 1 raw = true)
    (hp : (s.dev.fresh q raw).plain) (hn : s.dev.noneWaits q (opcodeIs 1))
    (ho : (t.dev.listed s.dev q raw).descsOf q = [s.dev.fresh q raw]) :
    exec (.fence q) s = .next (settle s { t with
      dev := (t.dev.listed s.dev q raw).endDesc q (s.dev.fresh q raw).seq }) := by
  refine transact_runs (runs_launch hn h hs ?_)
  unfold Runs
  rw [run_bind, hp.run_formChecks, chain_ok, run_bind, run_needOldest (by exact ho)]
  rfl

/-- With no stamp taken and not yet written, STAMP is a launch. -/
theorem exec_stamp_launch {q : Fin 1024} (hw : ∀ y ∈ s.dev.descs, y.q = q.val → y.ended = true ∨ y.stamped = none) :
    exec (.stamp q) s = transact (launch q.val (opcodeIs 2) stamp) s := by
  have idle : (s.dev.descs.find? fun x => x.q == q.val && !x.ended && x.stamped.isSome) = none := by
    refine List.find?_eq_none.mpr fun y hy => ?_
    have hy' := hw y hy
    grind
  refine transact_congr ?_
  rw [run_bind, run_dev, chain_ok, start_dev, idle]

/-- With no CANCEL that runs, CANCEL is a launch. -/
theorem exec_cancel_launch {q : Fin 1024} (hc : ∀ y ∈ s.dev.descs, y.q = q.val → y.opcode ≠ 0x60 ∨ y.ended = true) :
    exec (.cancel q) s = transact (launch q.val (opcodeIs 0x60) cancel) s := by
  have idle : (s.dev.descs.find? fun x => x.q == q.val && x.opcode == 0x60 && !x.ended) = none := by
    refine List.find?_eq_none.mpr fun y hy => ?_
    have hy' := hc y hy
    grind
  refine transact_congr ?_
  rw [run_bind, run_dev, chain_ok, start_dev, idle]

/-- A CANCEL that waits to start is one that runs. -/
theorem noneWaits_cancel (hc : ∀ y ∈ s.dev.descs, y.q = q → y.opcode ≠ 0x60 ∨ y.ended = true) :
    s.dev.noneWaits q (opcodeIs 0x60) := by
  refine List.find?_eq_none.mpr fun y hy => ?_
  have hy' := hc y hy
  rw [opcodeIs_raw, Desc.starting]
  grind

theorem exec_opcodeNotDefined {q : Fin 1024} (h : s.atHead q raw t) (hr : raw % 256 ∉ definedOpcodes) :
    exec (.opcodeNotDefined q) s = .next (settle s { t with
      dev := (t.dev.listed s.dev q raw).failed q (s.dev.fresh q raw).seq sMALFORMED rOPCODE }) := by
  refine transact_runs ?_
  unfold Runs
  rw [run_dispatch h (by simpa using hr)]
  exact run_orEnd_fail (run_fail ..)

/-- Settles O14: NOP and an undefined opcode are dispatches, the others launches. -/
theorem dispatchControl : Obligations.DispatchControl := by
  unfold Obligations.DispatchControl
  refine ⟨fun s q raw t h => ⟨fun hs hp => ?_, fun hs hp hn ho => ?_, fun hs hw => ?_, fun hr => ?_⟩,
    fun s q raw t h hs hc => ?_⟩
  · exact exec_nop_plain h hs hp
  · exact exec_fence_oldest h hs hp hn ho
  · exact (exec_stamp_launch hw.2).trans (transact_launch h ⟨hs, hw.1⟩)
  · exact exec_opcodeNotDefined h hr
  · exact (exec_cancel_launch hc).trans (transact_launch h ⟨hs, noneWaits_cancel hc⟩)

end Sys2Proof.Machine
end

section
/-! Writes of a queue's registers. -/

namespace Sys2Proof.Machine

variable {s : State} {q : Nat} {i : Image} {t u : Tx}

/-- A register write that reaches its register does what the register does. -/
theorem transact_reaches {w : RegAcc} {m : M Unit} (hw : w.reaches s.dev = true) (h : m s.image s.start = .ok () t) :
    transact (w.run m) s = .next (settle s t) :=
  transact_runs ((RegAcc.run_reaches (t := s.start) hw m).trans h)

/-! ### QUE_TAIL and QUE_STATE -/

theorem run_tailWrite {v : Nat} {w : RegAcc}
    (h : t.dev.qrd F.queState_state q = qDISABLED ∨
      (diff32 v (t.dev.qrd F.queHead_head q) ≤ ringEntries (t.dev.qrd F.queRingCfg_size q) ∧
        diff32 (t.dev.qrd F.queTail_tail q) (t.dev.qrd F.queHead_head q) ≤ diff32 v (t.dev.qrd F.queHead_head q))) :
    tailWrite q v w i t = .ok () { t with dev := t.dev.qset F.queTail_tail q v } := by
  simp only [tailWrite, run_bind, run_qrd, chain_ok, run_ite, Bool.or_eq_true, Bool.and_eq_true, decide_eq_true_eq]
  rw [if_pos h, run_qwr]
  rfl

theorem run_enableQueue {w : RegAcc} (hd : t.dev.qrd F.queState_state q = qDISABLED)
    (hr : t.dev.qrd F.queRingCfg_size q ≤ 10) (hc : t.dev.qrd F.queCplCfg_size q ≤ 10)
    (hw : t.dev.ringsInWorld q = true) :
    enableQueue q w i t = .ok () { t with dev := ((((t.dev.qset F.queHead_head q (t.dev.qrd F.queTail_tail q)).qset
      F.queCplTail_index q (t.dev.qrd F.queCplHead_index q)).qset F.queState_enable q 1).consumeMarks q
      (t.dev.qrd F.queTail_tail q)).setQState q qRUNNING } := by
  have hn : ¬(qDISABLED = qRUNNING ∨ qDISABLED = qSTOPPED) := by decide
  have hf : ¬((decide (10 < t.dev.qrd F.queRingCfg_size q) || decide (10 < t.dev.qrd F.queCplCfg_size q) ||
      !t.dev.ringsInWorld q) = true) := by simp [hr, hc, hw]
  simp only [enableQueue, run_bind, run_dev, chain_ok, hd, if_neg hn, ne_eq, not_true_eq_false, if_false, if_neg hf, run_qwr,
    run_modDev]
  rfl

theorem run_drainQueue (h : t.dev.qrd F.queState_state q = qRUNNING ∨ t.dev.qrd F.queState_state q = qSTOPPED) :
    drainQueue q i t = .ok () { t with
      dev := ((t.dev.qset F.queState_enable q 0).setQState q qDRAINING).drained q } := by
  simp only [drainQueue, run_bind, run_qrd, chain_ok, if_pos h, run_qwr, run_modDev]
  rfl

theorem run_resumeQueue (h : t.dev.qrd F.queState_state q = qSTOPPED) :
    resumeQueue q i t = .ok () { t with dev := t.dev.setQState q qRUNNING } := by
  simp only [resumeQueue, run_bind, run_qrd, chain_ok, if_pos h, run_modDev]

/-! ### QRESET -/

/-- A queue as QRESET finds it once ENABLE is cleared: it drains, and its pending marks are discarded. -/
def Dev.resetBegun (d : Dev) (q : Nat) : Dev :=
  ((d.qset F.queState_enable q 0).setQState q qDRAINING).setQh q
    { (d.qset F.queState_enable q 0).qh q with marks := [], resetting := true }

theorem descsOf_resetBegun (d : Dev) (q : Nat) : (d.resetBegun q).descsOf q = d.descsOf q := by
  simp [Dev.descsOf, Dev.resetBegun, Dev.qset]

theorem run_dropUnwritten (h : t.dev.ringGone q = false ∨ t.dev.descsOf q = []) : dropUnwritten q i t = .ok () t := by
  simp only [dropUnwritten, run_bind, run_dev, chain_ok]
  rcases h with h | h
  · rw [h, if_neg Bool.false_ne_true, run_pure]
  · simp only [h, List.filter_nil, each, run_ite, run_bind, run_dev, chain_ok, run_pure, ite_self]

theorem run_resetQueue (hd : t.dev.qrd F.queState_state q ≠ qDISABLED)
    (hs : Runs (stopAll ((t.dev.resetBegun q).descsOf q) sCANCELLED rNONE) i { t with dev := t.dev.resetBegun q } () u)
    (hg : u.dev.ringGone q = false ∨ u.dev.descsOf q = []) :
    resetQueue q i t = .ok () { u with dev := (u.dev.dropKept q).drained q } := by
  unfold Runs Dev.resetBegun Dev.qset at hs
  simp only [resetQueue, run_bind, run_qrd, chain_ok, if_pos hd, run_qwr, run_modDev, run_dev, hs, run_dropUnwritten hg]

/-- Settles O13: each write is one change of the queue's registers. -/
theorem queueRegisters : Obligations.QueueRegisters := by
  unfold Obligations.QueueRegisters
  refine ⟨fun s q v a hw h => ?_, ⟨fun s q a hw hd hr hc hi => ?_, fun s q a hw h => ?_, fun s q a hw h => ?_⟩,
    fun s q a hw hd => ⟨fun he => ?_, fun t hs hg => ?_⟩⟩
  · exact transact_reaches hw (run_tailWrite h)
  · exact transact_reaches hw (run_enableQueue hd hr hc hi)
  · exact transact_reaches hw (run_drainQueue h)
  · exact transact_reaches hw (run_resumeQueue h)
  · have hs : stopAll ((s.dev.resetBegun q).descsOf q) sCANCELLED rNONE s.image ⟨s.dev.resetBegun q, []⟩ =
        .ok () ⟨s.dev.resetBegun q, []⟩ := by
      rw [descsOf_resetBegun, he]
      rfl
    exact transact_reaches hw (run_resetQueue hd hs (.inr ((descsOf_resetBegun ..).trans he)))
  · exact transact_reaches hw (run_resetQueue hd hs (.inl hg))

end Sys2Proof.Machine
end

section
/-! The end of a descriptor: its record is written, it leaves its queue, and what waited for it goes on, with nothing there
that waits or fails. -/

namespace Sys2Proof.Machine

variable {α β : Type} {P : Dev → Prop} {s : State} {i : Image} {t u : Tx} {x : Desc} {q n : Nat}

theorem total_foldM' {f : β → α → M β} (h : ∀ b a, Total P P (f b a)) (l : List α) (b : β) : Total P P (foldM' f b l) := by
  induction l generalizing b with
  | nil => exact total_pure b
  | cons a l ih => exact total_bind (h b a) fun b => ih b

theorem total_setWork (q n : Nat) (w : Work) : Total Always Always (setWork q n w) := total_modDesc ..

theorem total_progress (q n rows bytes coh : Nat) : Total Always Always (progress q n rows bytes coh) := total_modDesc ..

theorem total_endDesc (q n : Nat) : Total Always Always (endDesc q n) := total_always_modDev _

theorem Total.answers {m : M α} (h : Total Always Always m) (i : Image) (t : Tx) : ∃ a u, m i t = .ok a u := by
  obtain ⟨a, u, e, -⟩ := h.out i t True.intro
  exact ⟨a, u, e⟩

/-- An attempt neither waits nor gives up: it comes to its end, or fails. -/
theorem attempt_answers (m : M Unit) (i : Image) (t : Tx) :
    (∃ u, attempt m i t = .ok () u) ∨ ∃ st rs u, attempt m i t = .error (.fail st rs) u := by
  simp only [attempt, run_bind, run_get, chain_ok, run_tryCatch]
  cases m i t with
  | ok a u => exact .inl ⟨u, rfl⟩
  | error e u =>
    cases e with
    | skip => exact .inl ⟨t, rfl⟩
    | wait reg => exact .inl ⟨_, rfl⟩
    | fail st rs => exact .inr ⟨st, rs, u, rfl⟩

/-- Work that ends its descriptor where it fails, and is otherwise an attempt. -/
theorem total_orEnd_attempt {k : M Unit} (m : M Unit) (hk : Total Always Always k) :
    Total Always Always (orEnd q n do k; attempt m) := by
  refine ⟨fun i t _ => ?_⟩
  obtain ⟨u, hu⟩ := hk.ends i t
  have hm : (do k; attempt m : M Unit) i t = attempt m i u := by rw [run_bind, hu, chain_ok]
  obtain ⟨v, hv⟩ | ⟨st, rs, v, hv⟩ := attempt_answers m i u
  · exact ⟨(), v, run_orEnd (hm.trans hv), True.intro⟩
  · exact ⟨(), _, run_orEnd_fail (hm.trans hv), True.intro⟩

/-! ### What goes on as a descriptor leaves its queue -/

theorem total_retireHead (q : Nat) : Total Always Always (retireHead q) := by
  refine total_bind total_dev fun d => ?_
  split
  · exact total_pure ()
  · refine total_ite (total_ite (total_endDesc ..) (total_ite ?_ (total_pure ()))) (total_pure ())
    exact total_bind total_now fun et => total_orEnd_attempt _ (total_setWork ..)

theorem total_countMarked (q : Nat) (m : Nat × Nat) (fuel idx k : Nat) : Total P P (countMarked q m fuel idx k) := by
  induction fuel generalizing idx k with
  | zero => exact total_pure k
  | succ fuel ih =>
    exact total_bind total_dev fun d => total_ite (total_pure k) <| total_bind total_read fun i => ih _ _

theorem total_markRange (m : Nat × Nat × Nat) : Total Always Always (markRange m) := by
  obtain ⟨q, lo, hi⟩ := m
  unfold markRange
  refine total_bind total_dev fun d => ?_
  split
  · exact total_pure _
  · refine total_ite (total_pure _) <| total_bind (total_always_modDev _) fun _ => ?_
    exact total_bind (total_countMarked ..) fun _ => total_pure _

theorem total_cancelGo (q n : Nat) : Total Always Always (cancelGo q n) := by
  refine total_bind total_dev fun d => ?_
  split
  · exact total_pure ()
  · split
    · refine total_ite (total_bind (total_foldM' (fun left m => ?_) ..) fun left => ?_) (total_pure ())
      · refine total_bind (total_markRange m) fun k => ?_
        cases k with
        | none => exact total_pure _
        | some k => exact total_bind (total_progress ..) fun _ => total_pure _
      · exact total_bind total_dev fun d => total_bind (total_setWork ..) fun _ => total_ite (total_endDesc ..) (total_pure ())
    · exact total_pure ()

theorem total_settleCancels : Total Always Always settleCancels :=
  total_bind total_dev fun _ => total_each fun _ => total_cancelGo ..

/-- A descriptor that is no COPY or FILL has no journal entry to close, and leaves its queue at once. -/
theorem total_leaveQueue (hc : x.copy = none) : Total Always Always (leaveQueue x) := by
  have journal : journalRecorded x = pure () := by rw [journalRecorded, hc]
  unfold leaveQueue
  rw [journal]
  exact total_change <| total_bind (total_pure ()) fun _ => total_change <| total_bind (total_retireHead _) fun _ =>
    total_bind total_settleCancels fun _ => total_always_modDev _

/-! ### The record -/

theorem length_toBytes (w v : Nat) : (toBytes w v).length = w := by
  induction w generalizing v with
  | zero => rfl
  | succ w ih => simp [toBytes, ih]

theorem total_hostPut (mark : Option (Nat × Nat)) (cache : Bool) (a : Nat) (bs : List Byte) :
    Total Always Always (hostPut mark cache a bs) :=
  total_bind (total_peeks ..) fun _ => total_bind (total_pokes ..) fun _ => total_always_modDev _

/-- The address of the next record of a queue (R51). -/
def Dev.recordAddr (d : Dev) (q : Nat) : Nat :=
  d.qrd F.queCplBase_base q * 4096 + d.qrd F.queCplTail_index q % ringEntries (d.qrd F.queCplCfg_size q) * 32

/-- A record can be written to a ring that is open (R67). -/
theorem run_writeRing {bs : List Byte} (ho : t.dev.ringOpen q) (hl : bs.length = 32) :
    ∃ u, writeRing q n (t.dev.qrd F.queCplCfg_loc q == 1) (t.dev.recordAddr q) bs i t = .ok () u := by
  unfold Dev.ringOpen at ho
  by_cases hh : t.dev.qrd F.queCplCfg_loc q = 1
  · rw [if_pos hh] at ho
    obtain ⟨hup, hd0⟩ := ho
    have ready : hostReady i t = .ok true t := by simp [hostReady, hup, hd0]
    obtain ⟨u, hu⟩ := (total_bind (total_always_modDev fun d => d.bump F.hlkTxBytes_count 0 bs.length) fun _ =>
      total_hostPut none false (t.dev.recordAddr q) bs).ends i t
    refine ⟨u, ?_⟩
    simp only [writeRing, hh, beq_self_eq_true, if_true, run_bind, ready, chain_ok, run_need]
    rw [← hu, run_bind]
    rfl
  · rw [if_neg hh] at ho
    have free : t.dev.accessFree .wr (t.dev.queueWorld q) (t.dev.recordAddr q % 2 ^ 46) bs.length := by
      rw [hl]
      exact ho
    have who : ringWho q n i t = .ok ⟨8, 0, 5, t.dev.queueWorld q, q, n, queuePage q, 3⟩ t := rfl
    simp only [writeRing, beq_eq_false_iff_ne.mpr hh, Bool.false_eq_true, if_false, run_bind, who, chain_ok]
    exact ⟨_, run_writeLocal (Nat.le_refl 5) free⟩

theorem total_qwr (f : Fld) (q v : Nat) : Total Always Always (qwr f q v) :=
  total_always_modDev fun d => d.wr f (1 + q / 16) v (q % 16)

theorem total_signalQueue (q : Nat) : Total Always Always (signalQueue q) :=
  total_change (total_always_modDev _)

/-- The writing of a record to a ring that is open comes to its end. -/
theorem writeRecord_ends (ho : t.dev.ringOpen x.q) : ∃ b u, writeRecord x i t = .ok b u := by
  obtain ⟨v, hv⟩ := run_writeRing (i := i) (n := x.seq) ho (length_toBytes 32 (payloadOf _))
  unfold writeRecord
  rw [run_bind, run_dev, chain_ok, run_bind, run_caught (by exact hv), chain_ok]
  have signalled {c : Prop} [Decidable c] : Total Always Always (do
      if c then signalQueue x.q
      return true) :=
    total_when (total_signalQueue _) (total_pure true)
  refine Total.answers ?_ i v
  exact total_bind (total_always_modDev _) fun _ => total_bind (total_qwr ..) fun _ =>
    total_bind (total_always_modDev _) fun _ => total_when (total_always_modDev _) <| total_change signalled

/-- So the retirement of a descriptor whose ring is open, or cannot be reached, comes to its end. -/
theorem retire_ends (hc : x.copy = none) (hr : t.dev.ringGone x.q = true ∨ t.dev.ringOpen x.q) :
    ∃ u, retire x i t = .ok () u := by
  unfold retire
  rw [run_bind, run_dev, chain_ok]
  by_cases hg : t.dev.ringGone x.q = true
  · rw [if_pos hg]
    exact (total_leaveQueue hc).ends i t
  · rw [if_neg hg, run_bind]
    obtain ⟨b, u, hu⟩ := writeRecord_ends (i := i) (hr.resolve_left hg)
    rw [hu, chain_ok]
    exact (total_ite (total_leaveQueue hc) (total_pure ())).ends i u

/-! ### The commands -/

theorem exec_completionRecordWrite {q : Fin 1024} {seq : BitVec 32} (hx : s.dev.desc q.val seq.toNat = some x)
    (he : x.ended = true)
    (ho : x.relaxed = true ∨ (s.dev.descsOf q.val).head?.map (fun y => y.seq) = some x.seq) :
    exec (.completionRecordWrite q seq) s = transact (retire x) s := by
  refine transact_congr ?_
  have ho' : (x.relaxed || ((s.dev.descsOf q.val).head?.map fun y => y.seq) == some x.seq) = true := by simpa using ho
  simp only [run_bind, run_getDesc (t := s.start) hx, chain_ok, run_dev, start_dev, run_need, he, ho', if_true]

theorem exec_descriptorTimeout {q : Fin 1024} {seq : BitVec 32} (hx : s.dev.desc q.val seq.toNat = some x)
    (hs : s.dev.stoppable x = true) (hl : x.limit ≠ 0) (ht : x.issued + x.limit * usTicks < s.dev.time.et) :
    exec (.descriptorTimeout q seq) s = transact (stopWork x sTIMEOUT rNONE) s := by
  refine transact_congr ?_
  simp only [run_bind, run_getDesc (t := s.start) hx, chain_ok, run_dev, start_dev, run_need, hs, bne_iff_ne.mpr hl, ht,
    decide_true, Bool.and_self, if_true]

/-- A descriptor with nothing to wind up ends as it is stopped (R77). -/
theorem run_stopWork_atOnce {st rs : Nat} (he : x.ended = false) (hw : x.endsAtOnce = true) :
    stopWork x st rs i t = .ok () { t with dev := t.dev.failed x.q x.seq st rs } := by
  unfold stopWork
  rw [he, if_neg Bool.false_ne_true]
  unfold Desc.endsAtOnce at hw
  split at hw
  case h_6 => cases hw
  all_goals
    rename_i work
    rw [work]
    exact run_endWith ..

theorem Dev.not_ended_of_stoppable {d : Dev} (h : d.stoppable x = true) : x.ended = false := by
  simp only [Dev.stoppable, Bool.and_eq_true, Bool.not_eq_true'] at h
  exact h.1.1

/-- Settles O21: a record of an open ring is written, and what waited for its descriptor goes on without waiting. -/
theorem descriptorEvents : Obligations.DescriptorEvents := by
  unfold Obligations.DescriptorEvents
  refine ⟨fun s q seq x t hx => ⟨fun he ho => ⟨fun hr => ?_, fun hc hg => ?_⟩, fun hs hl ht => ⟨fun hr => ?_, fun hw => ?_⟩⟩,
    fun s q hd hu ht => ?_⟩
  · exact (exec_completionRecordWrite hx he ho).trans (transact_runs hr)
  · exact (exec_completionRecordWrite hx he ho).trans (transact_after rfl (retire_ends hc hg))
  · exact (exec_descriptorTimeout hx hs hl ht).trans (transact_runs hr)
  · exact (exec_descriptorTimeout hx hs hl ht).trans (transact_put (run_stopWork_atOnce (Dev.not_ended_of_stoppable hs) hw))
  · refine transact_put ?_
    simp only [run_bind, run_dev, start_dev, chain_ok, run_need, bne_iff_ne.mpr hd, bne_iff_ne.mpr hu, ht, decide_true,
      Bool.and_self, if_true, signalQueue, run_modDev, run_raise]
    rfl

end Sys2Proof.Machine
end

section
/-! How a sequencer stands before its next command: at a word of its program, or past the last. -/

namespace Sys2Proof.Machine

variable {α : Type} {s : State} {c : Nat} {x : Slice} {w : Nat} {d : Desc} {i : Image} {t : Tx}

/-- The sequencer of a cluster is about to execute what stands at the position of its running slice `x`. -/
def Dev.executes (d : Dev) (c : Nat) (x : Slice) : Prop :=
  d.clusterRuns c = true ∧ (d.cl c).fetching = true ∧ (d.cl c).wait = none ∧ (d.cl c).slice = some x ∧ x.stopped = false

theorem Dev.atWord.executes {d : Dev} (h : d.atWord c x w) : d.executes c x := by
  obtain ⟨hr, hf, hw, hs, hn, -⟩ := h
  exact ⟨hr, hf, hw, hs, hn⟩

theorem Dev.atWord.word {d : Dev} (h : d.atWord c x w) : x.prog[x.cur.pc]? = some w := by
  obtain ⟨-, -, -, -, -, hw⟩ := h
  exact hw

theorem run_sequencing_executes (h : t.dev.executes c x) : sequencing c i t = .ok x t := by
  obtain ⟨hr, hf, hw, hs, hn⟩ := h
  simp only [sequencing, run_bind, run_dev, chain_ok, run_need, hr, hf, hw, hs, hn, Option.isNone_none, Bool.and_self,
    Bool.not_false, if_true, run_have_some, run_pure]

/-- A command that looks its word up begins with the slice and that word. -/
theorem run_atWord {k : Slice → Nat → M α} (h : t.dev.atWord c x w) :
    (do let s ← sequencing c; let w ← have! s.prog[s.cur.pc]?; k s w) i t = k x w i t := by
  simp only [run_bind, run_sequencing_executes h.executes, chain_ok, h.word, run_have_some]

/-- A command that looks its descriptor up begins with the slice and that descriptor. -/
theorem run_withDesc {k : Slice → Desc → M α} (h : t.dev.executes c x) (hd : t.dev.desc x.q x.seq = some d) :
    (do let s ← sequencing c; let y ← getDesc s.q s.seq; k s y) i t = k x d i t := by
  simp only [run_bind, run_sequencing_executes h, chain_ok, run_getDesc hd]

/-! ### Commands that give the slice a new resume point -/

section
variable {op : Nat} {f : Slice → Nat → Option Resume} {r : Resume}

theorem transact_seqPlain (h : s.dev.atWord c x w) (ho : wOp w = op) (hf : f x w = some r) :
    transact (seqPlain c op f) s = .next (s.put (s.dev.putSlice c { x with cur := r })) :=
  transact_put (run_seqPlain (t := s.start) h ho hf)

theorem transact_seqPlain_bounds (h : s.dev.atWord c x w) (ho : wOp w = op) (hf : f x w = none) :
    transact (seqPlain c op f) s = .next (s.put (s.dev.seqFailed c x sBOUNDS rBOUNDS_ADDR ekBOUNDS 0)) :=
  transact_put (run_seqPlain_none (t := s.start) h ho hf)

/-- Past the last word no instruction stands that `seqPlain` could execute. -/
theorem run_seqPlain_beyond (h : t.dev.executes c x) (hp : x.prog[x.cur.pc]? = none) :
    seqPlain c op f i t = .error .skip t := by
  simp only [seqPlain, run_bind, run_sequencing_executes h, chain_ok, hp, run_have_none, chain_error]

end

/-! ### Commands whose resume point depends on the descriptor -/

section
variable {c : Fin 64}

/-! With its descriptor looked up, each of these is a plain instruction. -/

theorem exec_seqMovc_plain (h : s.dev.executes c.val x) (hd : s.dev.desc x.q x.seq = some d) :
    exec (.seqMovc c) s = transact (seqPlain c.val 0x11 fun x w =>
      some (x.cur.put (wD w) (contextValue s.dev c.val d x (wImm w % 256))).next) s :=
  transact_congr (run_withDesc (t := s.start) h hd)

theorem exec_seqRow_plain (h : s.dev.executes c.val x) (hd : s.dev.desc x.q x.seq = some d) :
    exec (.seqRow c) s = transact (seqPlain c.val 0x19 fun x w =>
      if d.tableRows s.dev.self ≤ x.cur.reg (wT w) then none
      else some (x.cur.put (wD w) (d.table.base + x.cur.reg (wT w) * d.table.stride)).next) s :=
  transact_congr (run_withDesc (t := s.start) h hd)

theorem exec_seqHash_plain (h : s.dev.executes c.val x) (hd : s.dev.desc x.q x.seq = some d) :
    exec (.seqHash c) s = transact (seqPlain c.val 0x1A fun x w =>
      if d.tableRows s.dev.self = 0 then none
      else some (x.cur.put (wD w)
        (hashRow (x.cur.reg (wS w)) (x.cur.reg (wT w)) (wImm w % 64) (d.tableRows s.dev.self))).next) s :=
  transact_congr (run_withDesc (t := s.start) h hd)

theorem exec_seqSeek_plain (h : s.dev.executes c.val x) (hd : s.dev.desc x.q x.seq = some d) :
    exec (.seqSeek c) s = transact (seqPlain c.val 0x21 fun x w =>
      if d.lkIndexCount < x.cur.reg (wS w) then none else some { x.cur.next with ixc := x.cur.reg (wS w) }) s :=
  transact_congr (run_withDesc (t := s.start) h hd)

/-! ### END -/

/-- END is what stands at the position, as its word or because the program ends before it (R100). -/
def Slice.atEnd (x : Slice) : Prop := ∀ w, x.prog[x.cur.pc]? = some w → wOp w = 0x01

theorem exec_seqEnd_runs {m : M Unit} (h : s.dev.executes c.val x) (hd : s.dev.desc x.q x.seq = some d) (he : x.atEnd)
    (hm : (if (if d.isPool then x.cur.closes else x.cur.emits) < x.count then seqBounds c.val x
      else do setSlice c.val { x with stopped := true }; toPool c.val) = m) : exec (.seqEnd c) s = transact m s := by
  refine transact_congr ((run_withDesc (t := s.start) h hd).trans ?_)
  rw [run_bind, run_need, if_pos ?_, chain_ok, ← hm]
  split
  · rename_i w hw
    exact beq_iff_eq.mpr (he w hw)
  · rfl

theorem Dev.atWord.atEnd {d : Dev} {c : Nat} (h : d.atWord c x w) (ho : wOp w = 0x01) : x.atEnd := fun v hv => by
  rw [h.word, Option.some.injEq] at hv
  exact hv ▸ ho

theorem exec_seqEnd_complete (h : s.dev.executes c.val x) (hd : s.dev.desc x.q x.seq = some d) (he : x.atEnd)
    (hc : x.count ≤ if d.isPool then x.cur.closes else x.cur.emits) :
    exec (.seqEnd c) s = .next (s.put ((s.dev.putSlice c.val { x with stopped := true }).pooled c.val)) := by
  rw [exec_seqEnd_runs h hd he (if_neg (Nat.not_lt.mpr hc))]
  exact transact_put rfl

theorem exec_seqEnd_early (h : s.dev.executes c.val x) (hd : s.dev.desc x.q x.seq = some d) (he : x.atEnd)
    (hc : (if d.isPool then x.cur.closes else x.cur.emits) < x.count) :
    exec (.seqEnd c) s = .next (s.put (s.dev.seqFailed c.val x sBOUNDS rBOUNDS_ADDR ekBOUNDS 0)) := by
  rw [exec_seqEnd_runs h hd he (if_pos hc)]
  exact transact_put (run_seqFail ..)

/-! ### NEXT -/

/-- NEXT reads the entry of the index list at its cursor, while the list has one. -/
def nextEntry (c : Nat) (x : Slice) (d : Desc) (w : Nat) : M Unit :=
  if d.lkIndexCount ≤ x.cur.ixc then seqBounds c x
  else seqRead c x (d.lkIndex + x.cur.ixc * nextWidth (wX w)) (nextWidth (wX w)) fun v =>
    setSlice c { x with cur := { (x.cur.put (wD w) v).next with ixc := x.cur.ixc + 1 } }

theorem exec_seqNext_word (h : s.dev.atWord c.val x w) (hd : s.dev.desc x.q x.seq = some d) (ho : wOp w = 0x20) :
    exec (.seqNext c) s = transact (nextEntry c.val x d w) s := by
  refine transact_congr ((run_withDesc (t := s.start) h.executes hd).trans ?_)
  simp only [run_bind, h.word, run_have_some, chain_ok, run_need, ho, beq_self_eq_true, if_true]
  rfl

end

end Sys2Proof.Machine
end

section
/-! The stream instructions that compute, steer and end a phase, and their bounds. -/

namespace Sys2Proof.Machine

variable {s : State} {c : Fin 64} {x : Slice} {w : Nat} {d : Desc} {i : Image} {t : Tx}

/-- Settles O8: each of these gives the slice the resume point that its word, and for some its descriptor, work out. -/
theorem seqComputes : Obligations.SeqComputes := by
  unfold Obligations.SeqComputes
  refine ⟨fun s c x w h => ⟨fun ho hf => ?_, fun ho hf => ?_, fun ho hf => ?_, fun ho hf => ?_, fun ho hf => ?_,
    fun ho => ?_, fun ho => ?_⟩, fun s c x w d h hd => ⟨fun ho => ?_, fun ho hr => ?_, fun ho hr => ?_, fun ho hi => ?_⟩⟩
  · exact transact_seqPlain h ho (by simp only [hf, Bool.false_eq_true, if_false])
  · exact transact_seqPlain h ho (by simp only [hf, if_true])
  · exact transact_seqPlain h ho (by simp only [hf, Bool.false_eq_true, if_false])
  · exact transact_seqPlain h ho (by simp only [hf, if_true, Nat.add_zero])
  · exact transact_seqPlain h ho (by simp only [hf, Bool.false_and, Bool.false_eq_true, if_false])
  · exact transact_seqPlain h ho rfl
  · exact transact_seqPlain h ho rfl
  · exact (exec_seqMovc_plain h.executes hd).trans (transact_seqPlain h ho rfl)
  · exact (exec_seqRow_plain h.executes hd).trans (transact_seqPlain h ho (if_neg (Nat.not_le.mpr hr)))
  · exact (exec_seqHash_plain h.executes hd).trans (transact_seqPlain h ho (if_neg hr))
  · exact (exec_seqSeek_plain h.executes hd).trans (transact_seqPlain h ho (if_neg (Nat.not_lt.mpr hi)))

/-- Settles O9: each of these gives the slice the resume point at which the sequencer goes on. -/
theorem seqSteers : Obligations.SeqSteers := by
  unfold Obligations.SeqSteers
  refine fun s c x w h => ⟨fun ho => ?_, fun ho hx => ?_, fun ho hx => ?_, fun ho h0 hn => ?_, fun ho hn => ?_,
    fun ho hl => ?_, fun ho hl => ?_, fun ho hb => ?_⟩
  · exact transact_seqPlain h ho rfl
  · exact transact_seqPlain h ho (if_pos hx)
  · exact transact_seqPlain h ho (if_neg (Bool.eq_false_iff.mp hx))
  · exact transact_seqPlain h ho ((if_neg (Nat.not_le.mpr hn)).trans (if_neg (Nat.ne_of_gt h0)))
  · exact transact_seqPlain h ho ((if_neg (by omega)).trans (if_pos hn))
  · exact transact_seqPlain h ho (if_pos (Nat.sub_pos_of_lt hl))
  · have h0 : x.cur.l.getD (wX w) 0 - 1 = 0 := Nat.sub_eq_zero_of_le hl
    exact transact_seqPlain h ho (by simp only [h0, Nat.lt_irrefl, if_false, Resume.next])
  · exact transact_seqPlain h ho (if_neg (Nat.not_le.mpr hb))

/-- Settles O11: an instruction out of its bounds gives no resume point, and the error takes its position of the stream. -/
theorem seqBoundsErrors : Obligations.SeqBoundsErrors := by
  unfold Obligations.SeqBoundsErrors
  refine fun s c x w d h hd => ⟨fun ho hn => ?_, fun ho hf hv => ?_, fun ho hr => ?_, fun ho hb => ?_, fun ho hi => ?_,
    fun ho hi => ?_, fun ho hc => ?_⟩
  · exact transact_seqPlain_bounds h ho (if_pos hn)
  · exact transact_seqPlain_bounds h ho (if_pos (by simp only [hf, hv, decide_true, Bool.and_self]))
  · exact (exec_seqRow_plain h.executes hd).trans (transact_seqPlain_bounds h ho (if_pos hr))
  · exact transact_seqPlain_bounds h ho (if_pos hb)
  · exact (exec_seqNext_word h hd ho).trans (by rw [nextEntry, if_pos hi]; exact transact_put (run_seqFail ..))
  · exact (exec_seqSeek_plain h.executes hd).trans (transact_seqPlain_bounds h ho (if_pos hi))
  · exact exec_seqEnd_early h.executes hd (h.atEnd ho) hc

/-! ### TRAP and WAIT -/

theorem exec_seqTrap_word (h : s.dev.atWord c.val x w) (ho : wOp w = 0x02) :
    exec (.seqTrap c) s = .next (s.put (s.dev.seqFailed c.val x sBOUNDS rBOUNDS_ADDR ekTRAP (wImm w % 65536))) := by
  refine transact_put ((run_atWord (t := s.start) h).trans ?_)
  simp only [run_bind, run_need, ho, beq_self_eq_true, if_true, chain_ok, run_seqFail, start_dev, start_log]

/-- The word at the position is left behind before a WAIT ends the phase or holds the sequencer. -/
theorem exec_seqWait_word (h : s.dev.atWord c.val x w) (ho : wOp w = 0x03) :
    let d := s.dev.putSlice c.val { x with cur := x.cur.next }
    let until' := if wX w = 1 then s.dev.time.et + wImm w else x.cur.reg (wS w)
    exec (.seqWait c) s = .next (s.put (if wX w = 0 then d.pooled c.val
      else (d.setCl c.val { d.cl c.val with wait := some until' }).wr F.seqStatus_state c.val qsWAITING)) := by
  refine transact_put ((run_atWord (t := s.start) h).trans ?_)
  simp only [run_bind, run_need, ho, beq_self_eq_true, if_true, chain_ok, setSlice, run_modCl, run_ite, toPool, run_wr,
    run_now, start_dev, start_log, Dev.time_setCl]
  split <;> rfl

/-- Settles O10: END stops the slice and enters the pool phase, TRAP fails at its position, WAIT enters the pool phase or
keeps the time that it waits for. -/
theorem seqPhases : Obligations.SeqPhases := by
  unfold Obligations.SeqPhases
  refine ⟨fun s c x w d h hd ho hc => exec_seqEnd_complete h.executes hd (h.atEnd ho) hc,
    fun s c x w h => ⟨exec_seqTrap_word h, fun ho hx => ?_, fun ho hx => ?_, fun ho hx => ?_⟩,
    fun s c u hr hw hu => ?_⟩
  · rw [exec_seqWait_word h ho, if_pos hx]
  · rw [exec_seqWait_word h ho, if_neg (by omega), if_pos hx]
  · rw [exec_seqWait_word h ho, if_neg (by omega), if_neg (by omega)]
  · refine transact_put ?_
    simp only [run_bind, run_dev, start_dev, chain_ok, run_need, hr, hw, hu, decide_true, if_true, run_have_some, run_modCl,
      run_wr, start_log]

/-! ### Beyond the last instruction -/

/-- Past the last instruction a command that looks its word up cannot occur. -/
theorem run_atWord_beyond {α : Type} {k : Slice → Nat → M α} {c : Nat} (h : t.dev.executes c x)
    (hp : x.prog[x.cur.pc]? = none) :
    (do let s ← sequencing c; let w ← have! s.prog[s.cur.pc]?; k s w) i t = .error .skip t := by
  simp only [run_bind, run_sequencing_executes h, chain_ok, hp, run_have_none, chain_error]

/-- No stream command but END has a meaning past the last instruction. -/
theorem exec_streamCommand_beyond (h : s.dev.executes c.val x) (hd : s.dev.desc x.q x.seq = some d)
    (hp : x.prog[x.cur.pc]? = none) : ∀ f ∈ streamCommands, f c ≠ .seqEnd c → exec (f c) s = .next s := by
  have plain {op : Nat} {f : Slice → Nat → Option Resume} : transact (seqPlain c.val op f) s = .next s :=
    transact_skips (run_seqPlain_beyond (t := s.start) h hp)
  have word {k : Slice → Nat → M Unit} :
      transact (do let s ← sequencing c.val; let w ← have! s.prog[s.cur.pc]?; k s w) s = .next s :=
    transact_skips (run_atWord_beyond (t := s.start) h hp)
  simp only [streamCommands, List.forall_mem_cons]
  refine ⟨fun _ => plain, fun hn => absurd rfl hn, fun _ => word, fun _ => word, fun _ => plain, fun _ => plain,
    fun _ => plain, fun _ => plain, fun _ => (exec_seqMovc_plain h hd).trans plain, fun _ => plain, fun _ => plain,
    fun _ => plain, fun _ => plain, fun _ => (exec_seqRow_plain h hd).trans plain,
    fun _ => (exec_seqHash_plain h hd).trans plain, fun _ => plain, fun _ => (exec_seqSeek_plain h hd).trans plain,
    fun _ => word, List.forall_mem_nil _⟩

/-- Settles O59: past the last instruction END still stands at the position, and no word for another command to execute. -/
theorem beyondTheEnd : Obligations.BeyondTheEnd := by
  unfold Obligations.BeyondTheEnd
  intro s c x d hr hf hw hs hn hp hd
  have h : s.dev.executes c.val x := ⟨hr, hf, hw, hs, hn⟩
  have hp : x.prog[x.cur.pc]? = none := List.getElem?_eq_none hp
  have he : x.atEnd := fun w hw => by simp [hp] at hw
  exact ⟨exec_seqEnd_complete h hd he, exec_seqEnd_early h hd he, exec_streamCommand_beyond h hd hp⟩

end Sys2Proof.Machine
end

section
/-! Meanings that do not fail: they may wait, or find that their event cannot occur. As an attempt such a meaning runs to its
end. -/

namespace Sys2Proof.Machine

variable {α β : Type}

structure Unfailing (m : M α) : Prop where
  ne : ∀ i t st rs u, m i t ≠ .error (.fail st rs) u

theorem unfailing_pure (a : α) : Unfailing (pure a : M α) := ⟨fun _ _ _ _ _ => nofun⟩
theorem unfailing_dev : Unfailing dev := ⟨fun _ _ _ _ _ => nofun⟩
theorem unfailing_modDev (f : Dev → Dev) : Unfailing (modDev f) := ⟨fun _ _ _ _ _ => nofun⟩

theorem unfailing_modItem (c id : Nat) (f : Item → Item) : Unfailing (modItem c id f) := ⟨fun _ _ _ _ _ => nofun⟩

theorem unfailing_bind {m : M α} {f : α → M β} (h : Unfailing m) (g : ∀ a, Unfailing (f a)) : Unfailing (m >>= f) := by
  refine ⟨fun i t st rs u e => ?_⟩
  rw [run_bind] at e
  cases r : m i t with
  | ok a t' =>
    rw [r, chain_ok] at e
    exact (g a).ne i t' st rs u e
  | error x t' =>
    rw [r, chain_error] at e
    cases e
    exact h.ne i t st rs _ r

theorem unfailing_ite {c : Prop} [Decidable c] {a b : M α} (h : Unfailing a) (g : Unfailing b) :
    Unfailing (if c then a else b) := by
  split <;> assumption

/-- A failure that is caught is a value. -/
theorem unfailing_caught (m : M α) : Unfailing (caught m) := by
  refine ⟨fun i t st rs u e => ?_⟩
  simp only [caught, run_tryCatch, run_bind] at e
  cases r : m i t with
  | ok a t' => simp [r] at e
  | error x t' => cases x <;> simp [r] at e

theorem unfailing_collect {l : List α} {f : α → M β} (h : ∀ a, Unfailing (f a)) : Unfailing (collect l f) := by
  induction l with
  | nil => exact unfailing_pure []
  | cons a l ih => exact unfailing_bind (h a) fun _ => unfailing_bind ih fun _ => unfailing_pure _

/-- An attempt of it runs to its end. -/
theorem Unfailing.attempt_ends {m : M Unit} (h : Unfailing m) (i : Image) (t : Tx) : ∃ u, attempt m i t = .ok () u := by
  obtain h' | ⟨st, rs, u, e⟩ := attempt_answers m i t
  · exact h'
  · simp only [attempt, run_bind, run_get, chain_ok, run_tryCatch] at e
    cases r : m i t with
    | ok a v => simp [r] at e
    | error x v =>
      cases x with
      | skip => simp [r] at e
      | wait reg => simp [r] at e
      | fail a b => exact absurd r (h.ne i t a b v)

/-! ### Reads of a cluster -/

theorem unfailing_clusterSegs (c q seq world asid va len : Nat) : Unfailing (clusterSegs c q seq world asid va len) := by
  unfold clusterSegs
  refine unfailing_bind (unfailing_caught _) fun r => ?_
  cases r with
  | error e => exact unfailing_pure _
  | ok segs => exact unfailing_bind unfailing_dev fun _ => unfailing_ite (unfailing_pure _) (unfailing_pure _)

theorem unfailing_askItem (c : Nat) (x : Slice) (e : Item) : Unfailing (askItem c x e) := by
  unfold askItem
  refine unfailing_bind unfailing_dev fun d => unfailing_bind (unfailing_collect fun r => unfailing_clusterSegs ..)
    fun rs => ?_
  split
  · exact unfailing_modItem ..
  · exact unfailing_modItem ..

end Sys2Proof.Machine
end

section
/-! The stream instructions that read memory or put an item into the stream buffer. -/

namespace Sys2Proof.Machine

variable {s : State} {c : Fin 64} {x : Slice} {w : Nat} {d : Desc} {t : Tx} {bs : List Byte}

/-- What can be read goes to what follows the read. -/
theorem run_seqRead {c va n : Nat} {f : Nat → M Unit} (h : s.clusterReads c x va n bs t) :
    seqRead c x va n f s.image s.start = f (fromBytes bs) s.image t := by
  unfold State.clusterReads Runs at h
  simp only [seqRead, run_bind, run_dev, start_dev, chain_ok, h]

theorem exec_seqNext_reads (h : s.dev.atWord c.val x w) (hd : s.dev.desc x.q x.seq = some d) (ho : wOp w = 0x20)
    (hi : x.cur.ixc < d.lkIndexCount)
    (hr : s.clusterReads c.val x (d.lkIndex + x.cur.ixc * nextWidth (wX w)) (nextWidth (wX w)) bs t) :
    exec (.seqNext c) s = .next (settle s { t with dev := t.dev.putSlice c.val { x with
      cur := { (x.cur.put (wD w) (fromBytes bs)).next with ixc := x.cur.ixc + 1 } } }) := by
  rw [exec_seqNext_word h hd ho, nextEntry, if_neg (Nat.not_le.mpr hi)]
  exact transact_runs (run_seqRead hr)

theorem exec_seqLd_reads (h : s.dev.atWord c.val x w) (ho : wOp w = 0x22) :
    let n := if wX w = 1 then 8 else if wX w = 3 then 1 else 4
    let va := (x.cur.reg (wS w) + wSext w) % 2 ^ 64
    let v := if wX w = 2 then ofSigned 64 (toSigned 32 (fromBytes bs)) else fromBytes bs
    va % n = 0 → s.clusterReads c.val x va n bs t →
    exec (.seqLd c) s = .next (settle s { t with dev := t.dev.putSlice c.val { x with cur := (x.cur.put (wD w) v).next } }) := by
  intro n va v ha hr
  refine transact_runs ((run_atWord (t := s.start) h).trans ?_)
  rw [run_bind, run_need, ho, if_pos (beq_self_eq_true _), chain_ok, if_neg (not_not.mpr ha)]
  exact run_seqRead hr

/-! ### EMIT and CLOSE -/

/-- What R96 asks of the operands of an EMIT leaves none of the conditions under which it fails. -/
theorem emitFits.not_out {self : Nat} (h : emitFits x d self w) :
    ¬(x.cur.reg (wS w) < d.table.base ∨ d.table.base + d.tableRows self * d.table.stride ≤ x.cur.reg (wS w) ∨
      (x.cur.reg (wS w) - d.table.base) % d.table.stride ≠ 0 ∨
      (wF w ∧ (wImm w / 65536 = 0 ∨ d.table.payload / 16 < wImm w % 65536 + wImm w / 65536)) ∨
      (!wF w ∧ wImm w ≠ 0) ∨ (d.isPool ∧ 2 ^ 24 - 1 ≤ x.openRows) ∨ (!d.isPool ∧ x.count ≤ x.cur.emits) ∨
      ((d.isPool && d.lkMode == 2) ∧ x.cur.ixc = 0)) := by
  obtain ⟨hlo, hhi, hmod, hrange, hopen, hix⟩ := h
  rintro (h | h | h | ⟨hf, h⟩ | ⟨hf, h⟩ | ⟨hp, h⟩ | ⟨hp, h⟩ | ⟨hm, h⟩)
  · exact absurd hlo (Nat.not_le.mpr h)
  · exact absurd hhi (Nat.not_lt.mpr h)
  · exact h hmod
  · rw [if_pos hf] at hrange
    omega
  · rw [if_neg (by simpa using hf)] at hrange
    exact h hrange
  · rw [if_pos hp] at hopen
    omega
  · rw [if_neg (by simpa using hp)] at hopen
    omega
  · rw [Bool.and_eq_true, beq_iff_eq] at hm
    exact hix hm.1 hm.2 h

theorem run_pushItem (c : Nat) (e : Item) (i : Image) (t : Tx) :
    pushItem c e i t = .ok () { t with dev := t.dev.pushed c e } := rfl

theorem exec_seqEmit_fits (h : s.dev.atWord c.val x w) (hd : s.dev.desc x.q x.seq = some d) (ho : wOp w = 0x28)
    (hf : emitFits x d s.dev.self w) :
    let e := emitted x d w (s.dev.cl c).nextId
    let y : Slice := { x with cur := e.after, openRows := x.openRows + 1 }
    let d1 := s.dev.pushed c.val e
    let k := d1.cl c.val
    let d2 := (d1.setCl c.val { k with slice := some y, filled := k.filled + e.stored }).bump F.seqEmitted_count c.val 1
    let t := ran (attempt (askItem c.val y e)) s.image ⟨d2, []⟩
    exec (.seqEmit c) s = .next (settle s { t with dev := t.dev.limited c.val }) := by
  intro e y d1 k d2 t
  have asked : attempt (askItem c.val y e) s.image ⟨d2, []⟩ = .ok () t :=
    runs_ran ((unfailing_askItem c.val y e).attempt_ends s.image ⟨d2, []⟩)
  refine transact_runs ((run_withDesc (t := s.start) h.executes hd).trans ?_)
  rw [run_bind, h.word, run_have_some, chain_ok, run_bind, run_need, ho, if_pos (beq_self_eq_true _), chain_ok, run_bind,
    run_dev, chain_ok, start_dev, if_neg hf.not_out, run_bind, run_pushItem, chain_ok,
    run_bind, run_modCl, chain_ok, run_bind, run_bump, chain_ok, run_bind]
  change chain (attempt (askItem c.val y e) s.image ⟨d2, []⟩) (fun _ => phaseLimit c.val) s.image = _
  rw [asked, chain_ok, run_phaseLimit]

theorem exec_seqClose_open (h : s.dev.atWord c.val x w) (ho : wOp w = 0x29) (hc : x.cur.closes < x.count) :
    let r : Resume := { x.cur.next with closes := x.cur.closes + 1 }
    exec (.seqClose c) s = .next (s.put ((((s.dev.pushed c.val (Item.plain .close x.cur.pc r)).putSlice c.val
      { x with cur := r, openRows := 0 }).bump F.seqEmitted_count c.val 1).limited c.val)) := by
  intro r
  refine transact_put ((run_atWord (t := s.start) h).trans ?_)
  rw [run_bind, run_need, ho, if_pos (beq_self_eq_true _), chain_ok, if_neg (Nat.not_le.mpr hc)]
  rw [run_bind, run_pushItem, chain_ok, run_bind, setSlice, run_modCl, chain_ok, run_bind, run_bump, chain_ok, run_phaseLimit]
  rfl

/-- Settles O12: a read that can be made gives its value to the slice; EMIT and CLOSE put their item at the end of the
buffer, and what then asks for a row's data does not fail. -/
theorem seqReadsAndItems : Obligations.SeqReadsAndItems := by
  unfold Obligations.SeqReadsAndItems
  exact ⟨fun s c x w d bs t h hd ho hi hr => exec_seqNext_reads h hd ho hi hr,
    fun s c x w bs t h ho => exec_seqLd_reads h ho, fun s c x w d h hd ho hf => exec_seqEmit_fits h hd ho hf,
    fun s c x w h ho hc => exec_seqClose_open h ho hc⟩

end Sys2Proof.Machine
end

section
/-! A cluster beside its registers, and the arrival of row data. -/

namespace Sys2Proof.Machine

variable {s : State} {c : Fin 64} {t : Tx} {item n : Nat}

/-! ### Clusters and their status -/

section
variable (d : Dev) (c : Nat)

@[simp] theorem Dev.cl_setCl (k : Cluster) : (d.setCl c k).cl c = k := SMap.get_set_same ..

@[simp] theorem Dev.cl_bump (f : Fld) (p n c : Nat) : (d.bump f p n).cl c = d.cl c := by
  simp only [Dev.cl, Dev.clusters_bump]

/-- A counter leaves every other register as it is. -/
theorem Dev.rd_bump_ne {f g : Fld} {p p' i : Nat} (n : Nat) (h : f.reg.info.key p 0 ≠ g.reg.info.key p' i) :
    (d.bump f p n).rd g p' i = d.rd g p' i := by
  unfold Dev.bump
  exact ite_keeps (fun e : Dev => e.rd g p' i = d.rd g p' i) rfl (Dev.rd_wr_ne d _ h)

/-- The state in SEQ_STATUS stands as the items outstanding change. -/
@[simp] theorem Dev.seqState_setCl (k : Cluster) :
    (d.setCl c k).rd F.seqStatus_state c = d.rd F.seqStatus_state c :=
  (Dev.rd_wr_field { d with clusters := SMap.set Cluster.idle d.clusters c k } c k.items.length 0
    (f := F.seqStatus_outstanding) (g := F.seqStatus_state) rfl (by decide) (by decide)).trans (Dev.rd_congr rfl ..)

/-- So it does as another register of the SEQ page counts. -/
theorem Dev.seqState_bump {f : Fld} (n : Nat) (hb : f.reg.info.blk = bSEQ)
    (ho : f.reg.info.off ≠ RegName.seqStatus.info.off) :
    (d.bump f c n).rd F.seqStatus_state c = d.rd F.seqStatus_state c := by
  refine Dev.rd_bump_ne d n fun h => ho ?_
  rw [show F.seqStatus_state.reg = .seqStatus from rfl, RegInfo.key, RegInfo.key, hb,
    show RegName.seqStatus.info.blk = bSEQ from rfl] at h
  omega

end

/-! ### Data of an item, and of one that was dropped -/

/-- The data of a row that was asked for goes into its item. -/
theorem run_itemArrives {c : Nat} {y : Slice} {i : Item} {bs : List Byte} {paged : Option (Nat × Nat)}
    (hr : s.dev.clusterRuns c = true) (hi : ((s.dev.cl c).items.find? fun i => i.id == item) = some i)
    (hw : (i.kind == .row && i.got.isNone && i.status == 0) = true) (hy : (s.dev.cl c).slice = some y)
    (hb : s.rowReads c y i bs paged t) :
    itemArrives c item s.image s.start =
      modItem c item (fun i => { i with asked := true, got := some bs, paged := paged }) s.image t := by
  unfold State.rowReads Runs at hb
  simp only [itemArrives, run_bind, run_dev, start_dev, chain_ok, run_need, hr, hi, hw, hy, run_have_some, hb, if_true]

/-- What is left of a cluster when a dropped item's data has arrived, before its status is looked at. -/
def Dev.dropCounted (d : Dev) (c item n : Nat) : Dev :=
  ((d.setCl c { d.cl c with dropped := (d.cl c).dropped.filter fun e => e.1 != item }).bump F.seqWastedBytes_count c n).bump
    F.seqWastedRows_count c 1

@[simp] theorem Dev.cl_dropCounted (d : Dev) (c item n : Nat) :
    (d.dropCounted c item n).cl c = { d.cl c with dropped := (d.cl c).dropped.filter fun e => e.1 != item } := by
  simp only [Dev.dropCounted, Dev.cl_bump, Dev.cl_setCl]

@[simp] theorem Dev.seqState_dropCounted (d : Dev) (c item n : Nat) :
    (d.dropCounted c item n).rd F.seqStatus_state c = d.rd F.seqStatus_state c := by
  rw [Dev.dropCounted, Dev.seqState_bump _ _ _ rfl (by decide), Dev.seqState_bump _ _ _ rfl (by decide), Dev.seqState_setCl]

/-- The same after it: with the last of a slice in ERROR the cluster goes to IDLE. -/
def Dev.dropArrived (d : Dev) (c item n : Nat) : Dev :=
  if ((d.cl c).dropped.filter fun e => e.1 != item) = [] ∧ d.rd F.seqStatus_state c = qsERROR then
    (d.dropCounted c item n).wr F.seqStatus_state c qsIDLE
  else d.dropCounted c item n

theorem run_dropArrives (c item n : Nat) (i : Image) (t : Tx) :
    dropArrives c (item, n) i t = .ok () { t with dev := t.dev.dropArrived c item n } := by
  unfold dropArrives
  simp only [run_bind, run_modCl, run_bump, run_dev, chain_ok, run_ite, run_wr, run_pure]
  rw [← Dev.dropCounted, Dev.cl_dropCounted, Dev.seqState_dropCounted, Dev.dropArrived]
  simp only [Bool.and_eq_true, List.isEmpty_iff, beq_iff_eq]
  split <;> rfl

theorem exec_rowDataArrival_listed (h : ((s.dev.cl c).dropped.find? fun e => e.1 == item) = none) :
    exec (.rowDataArrival c item) s = transact (itemArrives c item) s := by
  refine transact_congr ?_
  simp only [run_bind, run_dev, start_dev, chain_ok, h]

theorem exec_rowDataArrival_dropped (h : ((s.dev.cl c).dropped.find? fun e => e.1 == item) = some (item, n)) :
    exec (.rowDataArrival c item) s = .next (s.put (s.dev.dropArrived c item n)) := by
  refine transact_put ?_
  simp only [run_bind, run_dev, start_dev, chain_ok, h]
  exact run_dropArrives c item n s.image s.start

/-- Settles O24: data of an item on the list goes into it; data of a dropped one is counted, and the last of a slice in ERROR
ends its teardown. -/
theorem rowData : Obligations.RowData := by
  unfold Obligations.RowData
  constructor
  · intro s c y item i bs paged t k hd hr hi hk hg hs hy hb
    have hw : (i.kind == .row && i.got.isNone && i.status == 0) = true := by
      rw [hk, hg, hs]
      rfl
    exact (exec_rowDataArrival_listed hd).trans (transact_runs (run_itemArrives hr hi hw hy hb))
  · intro s c item n k dropped d hd
    refine ⟨fun h => ?_, fun h he => ?_⟩
    · have hn : ¬(dropped = [] ∧ s.dev.rd F.seqStatus_state c.val = qsERROR) := fun ⟨h1, h2⟩ => h.elim (· h1) (· h2)
      rw [exec_rowDataArrival_dropped hd, Dev.dropArrived, if_neg hn]
      rfl
    · rw [exec_rowDataArrival_dropped hd, Dev.dropArrived, if_pos ⟨h, he⟩]
      rfl

end Sys2Proof.Machine
end

section
/-! What a stream command that reads no memory leaves as it is. -/

namespace Sys2Proof.Machine

variable {α β : Type} {c : Nat} {d e : Dev}

/-! ### Changes of the stream of one cluster -/

/-- `e` differs from `d` in the stream of cluster `c` and the registers of its SEQ page alone. -/
structure StreamOnly (c : Nat) (e d : Dev) : Prop where
  rest : { e with clusters := [], regs := [] } = { d with clusters := [], regs := [] }
  others : ∀ k, k ≠ c → e.cl k = d.cl k
  regs : SameRegs (fun a => a / 4096 ≠ pg bSEQ c) e d

theorem StreamOnly.refl (c : Nat) (d : Dev) : StreamOnly c d d := ⟨rfl, fun _ _ => rfl, SameRegs.refl d _⟩

theorem StreamOnly.trans {f : Dev} (h : StreamOnly c f e) (g : StreamOnly c e d) : StreamOnly c f d :=
  ⟨h.rest.trans g.rest, fun k hk => (h.others k hk).trans (g.others k hk), SameRegs.trans h.regs g.regs⟩

/-- The registers of a SEQ page lie in it. -/
theorem key_seq {r : RegName} (c : Nat) (hb : r.info.blk = bSEQ) (ho : r.info.off < 4096) :
    r.info.key c 0 / 4096 = pg bSEQ c := by
  rw [RegInfo.key, hb, pg]
  omega

theorem streamOnly_wr (d : Dev) {f : Fld} (v : Nat) (hb : f.reg.info.blk = bSEQ) (ho : f.reg.info.off < 4096) :
    StreamOnly c (d.wr f c v) d :=
  ⟨rfl, fun _ _ => rfl, SameRegs.wr d _ f c v 0 (not_not.mpr (key_seq c hb ho))⟩

theorem streamOnly_bump (d : Dev) {f : Fld} (n : Nat) (hb : f.reg.info.blk = bSEQ) (ho : f.reg.info.off < 4096) :
    StreamOnly c (d.bump f c n) d := by
  unfold Dev.bump
  exact ite_keeps (StreamOnly c · d) (.refl c d) (streamOnly_wr d _ hb ho)

theorem streamOnly_setCl (d : Dev) (k : Cluster) : StreamOnly c (d.setCl c k) d :=
  (streamOnly_wr _ _ rfl (by decide)).trans
    ⟨rfl, fun _ hk => SMap.get_set_ne _ _ _ _ hk.symm, fun _ _ _ => rfl⟩

/-! ### Meanings that make such changes alone -/

/-- A meaning that runs to its end with such a change, or whose event cannot occur. -/
structure InStream (c : Nat) (m : M α) : Prop where
  out : ∀ i t, match m i t with
    | .ok _ u => StreamOnly c u.dev t.dev
    | .error .skip _ => True
    | .error _ _ => False

theorem inStream_pure (a : α) : InStream c (pure a : M α) := ⟨fun _ t => .refl c t.dev⟩
theorem inStream_dev : InStream c dev := ⟨fun _ t => .refl c t.dev⟩
theorem inStream_now : InStream c now := ⟨fun _ t => .refl c t.dev⟩

theorem inStream_need (b : Bool) : InStream c (need b) := by
  cases b with
  | true => exact ⟨fun _ t => .refl c t.dev⟩
  | false => exact ⟨fun _ _ => trivial⟩

theorem inStream_have (o : Option α) : InStream c (have! o) := by
  cases o with
  | some _ => exact ⟨fun _ t => .refl c t.dev⟩
  | none => exact ⟨fun _ _ => trivial⟩

theorem inStream_modDev {f : Dev → Dev} (h : ∀ d, StreamOnly c (f d) d) : InStream c (modDev f) :=
  ⟨fun _ t => h t.dev⟩

theorem inStream_bind {m : M α} {f : α → M β} (h : InStream c m) (g : ∀ a, InStream c (f a)) : InStream c (m >>= f) := by
  refine ⟨fun i t => ?_⟩
  rw [run_bind]
  have hm := h.out i t
  cases e : m i t with
  | ok a u =>
    rw [e] at hm
    have hg := (g a).out i u
    rw [chain_ok]
    cases e' : f a i u with
    | ok b v =>
      rw [e'] at hg
      exact hg.trans hm
    | error x v =>
      rw [e'] at hg
      cases x <;> exact hg
  | error x u =>
    rw [e] at hm
    cases x <;> exact hm

theorem inStream_ite {b : Prop} [Decidable b] {m n : M α} (h : InStream c m) (g : InStream c n) :
    InStream c (if b then m else n) := by
  split <;> assumption

theorem inStream_modCl (f : Cluster → Cluster) : InStream c (modCl c f) := inStream_modDev fun d => streamOnly_setCl d _
theorem inStream_wr {f : Fld} (v : Nat) (hb : f.reg.info.blk = bSEQ) (ho : f.reg.info.off < 4096) : InStream c (wr f c v) :=
  inStream_modDev fun d => streamOnly_wr d v hb ho
theorem inStream_bump {f : Fld} (hb : f.reg.info.blk = bSEQ) (ho : f.reg.info.off < 4096) : InStream c (bump f c) :=
  inStream_modDev fun d => streamOnly_bump d 1 hb ho

/-! ### The operations of a sequencer -/

theorem inStream_sequencing : InStream c (sequencing c) :=
  inStream_bind inStream_dev fun _ => inStream_bind (inStream_need _) fun _ => inStream_bind (inStream_need _) fun _ =>
    inStream_bind (inStream_have _) fun _ => inStream_bind (inStream_need _) fun _ => inStream_pure _

theorem inStream_getDesc (q n : Nat) : InStream c (getDesc q n) := inStream_bind inStream_dev fun _ => inStream_have _

theorem inStream_toPool : InStream c (toPool c) :=
  inStream_bind (inStream_modCl _) fun _ => inStream_wr _ rfl (by decide)

theorem inStream_seqFail (x : Slice) (st rs k code : Nat) : InStream c (seqFail c x st rs k code) :=
  inStream_bind (inStream_modCl _) fun _ => inStream_bind (inStream_modCl _) fun _ => inStream_toPool

theorem inStream_phaseLimit : InStream c (phaseLimit c) :=
  inStream_bind inStream_dev fun _ => inStream_ite inStream_toPool (inStream_pure ())

/-- A command that looks its word up, and what it does with it. -/
theorem inStream_word {k : Slice → Nat → M Unit} (h : ∀ x w, InStream c (k x w)) :
    InStream c (do let s ← sequencing c; let w ← have! s.prog[s.cur.pc]?; k s w) :=
  inStream_bind inStream_sequencing fun x => inStream_bind (inStream_have _) fun w => h x w

/-- A command that looks its descriptor up, and what it does with it. -/
theorem inStream_withDesc {k : Slice → Desc → M Unit} (h : ∀ x d, InStream c (k x d)) :
    InStream c (do let s ← sequencing c; let y ← getDesc s.q s.seq; k s y) :=
  inStream_bind inStream_sequencing fun x => inStream_bind (inStream_getDesc ..) fun d => h x d

theorem inStream_seqPlain {op : Nat} {f : Slice → Nat → Option Resume} : InStream c (seqPlain c op f) := by
  refine inStream_word fun x w => inStream_bind (inStream_need _) fun _ => ?_
  split
  · exact inStream_modCl _
  · exact inStream_seqFail ..

/-! ### The commands -/

/-- Each stream command that reads no memory is such a meaning. -/
theorem exec_streamCommand (c : Fin 64) :
    ∀ f ∈ streamCommands, ∃ m, InStream c.val m ∧ ∀ s, exec (f c) s = transact m s := by
  have plain {op : Nat} {f : Slice → Nat → Option Resume} : InStream c.val (seqPlain c.val op f) := inStream_seqPlain
  have after {x : Slice} : InStream c.val (setSlice c.val x) := inStream_modCl _
  simp only [streamCommands, List.forall_mem_cons]
  refine ⟨⟨_, plain, fun _ => rfl⟩, ⟨_, inStream_withDesc fun x d => ?atEnd, fun _ => rfl⟩,
    ⟨_, inStream_word fun x w => ?trap, fun _ => rfl⟩, ⟨_, inStream_word fun x w => ?wait, fun _ => rfl⟩,
    ⟨_, plain, fun _ => rfl⟩, ⟨_, plain, fun _ => rfl⟩, ⟨_, plain, fun _ => rfl⟩, ⟨_, plain, fun _ => rfl⟩,
    ⟨_, inStream_withDesc fun x d => inStream_bind inStream_dev fun _ => plain, fun _ => rfl⟩, ⟨_, plain, fun _ => rfl⟩,
    ⟨_, plain, fun _ => rfl⟩, ⟨_, plain, fun _ => rfl⟩, ⟨_, plain, fun _ => rfl⟩,
    ⟨_, inStream_withDesc fun x d => inStream_bind inStream_dev fun _ => plain, fun _ => rfl⟩,
    ⟨_, inStream_withDesc fun x d => inStream_bind inStream_dev fun _ => plain, fun _ => rfl⟩, ⟨_, plain, fun _ => rfl⟩,
    ⟨_, inStream_withDesc fun x d => plain, fun _ => rfl⟩, ⟨_, inStream_word fun x w => ?close, fun _ => rfl⟩,
    List.forall_mem_nil _⟩
  case atEnd =>
    exact inStream_bind (inStream_need _) fun _ =>
      inStream_ite (inStream_seqFail ..) (inStream_bind after fun _ => inStream_toPool)
  case trap => exact inStream_bind (inStream_need _) fun _ => inStream_seqFail ..
  case wait =>
    exact inStream_bind (inStream_need _) fun _ => inStream_bind after fun _ => inStream_ite inStream_toPool <|
      inStream_bind inStream_now fun _ => inStream_bind (inStream_modCl _) fun _ => inStream_wr _ rfl (by decide)
  case close =>
    exact inStream_bind (inStream_need _) fun _ => inStream_ite (inStream_seqFail ..) <|
      inStream_bind (inStream_modCl _) fun _ => inStream_bind after fun _ =>
        inStream_bind (inStream_bump rfl (by decide)) fun _ => inStream_phaseLimit

theorem streamCommand_storesNothing (c : Fin 64) : ∀ f ∈ streamCommands, storesNothing (f c) = true := by
  unfold streamCommands
  repeat' refine List.forall_mem_cons.mpr ⟨rfl, ?_⟩
  exact List.forall_mem_nil _

theorem transact_inStream {m : M Unit} {s t : State} (h : InStream c m) (e : transact m s = .next t) :
    StreamOnly c t.dev s.dev := by
  have hm := h.out ⟨s.mem, s.host⟩ ⟨s.dev, []⟩
  unfold transact at e
  cases r : m ⟨s.mem, s.host⟩ ⟨s.dev, []⟩ with
  | ok a u =>
    rw [r] at e hm
    cases e
    exact hm
  | error x u =>
    rw [r] at e hm
    cases x with
    | skip =>
      cases e
      exact .refl c s.dev
    | wait f => exact hm.elim
    | fail a b => exact hm.elim

/-- Settles O55: each such command changes the stream of its cluster and its SEQ page alone, and stores nothing. -/
theorem sequencerFrame : Obligations.SequencerFrame := by
  unfold Obligations.SequencerFrame
  intro f hf s t c he
  obtain ⟨m, hm, hx⟩ := exec_streamCommand c f hf
  obtain ⟨hrest, hothers, hregs⟩ := transact_inStream hm ((hx s).symm.trans he)
  obtain ⟨hmem, hhost⟩ := exec_silent (streamCommand_storesNothing c f hf) s t he
  obtain ⟨u, hu, hp, -⟩ := exec_next (f c) s
  rw [hu] at he
  cases he
  refine ⟨?_, hothers, fun v a ha => hregs v a ha⟩
  rw [State.mk.injEq]
  exact ⟨hp, hmem, hhost, hrest⟩

end Sys2Proof.Machine
end

section
/-! The assignment of slices to clusters. -/

namespace Sys2Proof.Machine

variable {α : Type} {P Q : Dev → Prop} {s : State} {c : Fin 64} {x : Desc} {l : Lookup} {t : Tx}

/-! ### Meanings that come to an end or fail -/

/-- Where the machine has the property `P`, the meaning comes to its end or fails: it neither waits nor gives up. -/
structure Answers (P : Dev → Prop) (m : M Unit) : Prop where
  out : ∀ i t, P t.dev → (∃ u, m i t = .ok () u) ∨ ∃ st rs u, m i t = .error (.fail st rs) u

theorem answers_bind {m : M α} {f : α → M Unit} (h : Total P Q m) (g : ∀ a, Answers Q (f a)) : Answers P (m >>= f) := by
  refine ⟨fun i t ht => ?_⟩
  obtain ⟨a, u, e, hu⟩ := h.out i t ht
  rw [run_bind, e, chain_ok]
  exact (g a).out i u hu

/-- A failure leaves what a meaning has come to, as an end does. -/
theorem Answers.transact {m : M Unit} (h : Answers P m) (hs : P s.dev) : transact m s = .next (s.after s.dev m) := by
  obtain ⟨u, e⟩ | ⟨st, rs, u, e⟩ := h.out s.image s.start hs
  · exact transact_after rfl ⟨u, e⟩
  · have e' : m ⟨s.mem, s.host⟩ ⟨s.dev, []⟩ = .error (.fail st rs) u := e
    have ha : ran m s.image ⟨s.dev, []⟩ = u := by simp only [ran, State.image, e']
    simp only [Machine.transact, e', State.after, ha]

/-! ### The beginning of a slice -/

theorem Dev.desc_putDesc_same {d : Dev} {q n : Nat} {y : Desc} (hx : d.desc q n = some x) (hq : y.q = q) (hn : y.seq = n) :
    (d.putDesc y).desc q n = some y := by
  subst hq hn
  obtain ⟨hm, as, bs, hd, hb⟩ := List.find?_eq_some_iff_append.mp hx
  refine List.find?_eq_some_iff_append.mpr
    ⟨by simp, as, bs.map fun z => if z.q == y.q && z.seq == y.seq then y else z, ?_, hb⟩
  have ha : as.map (fun z => if z.q == y.q && z.seq == y.seq then y else z) = as :=
    
    (List.map_congr_left fun z hz => if_neg (by simpa [or_iff_not_imp_left] using hb z hz)).trans as.map_id'
  simp only [Dev.putDesc, hd, List.map_append, List.map_cons, hm, if_true, ha]

/-- A look-up is listed under its queue and sequence. -/
def ListsLookup (q n : Nat) (d : Dev) : Prop := ∃ x l, d.desc q n = some x ∧ x.lookup = some l

theorem ListsLookup.of_descs {q n : Nat} {d e : Dev} (h : ListsLookup q n d) (he : e.descs = d.descs) : ListsLookup q n e := by
  unfold ListsLookup Dev.desc at *
  rwa [he]

theorem total_lists_modDev {q n : Nat} {f : Dev → Dev} (h : ∀ d, (f d).descs = d.descs) :
    Total (ListsLookup q n) (ListsLookup q n) (modDev f) := total_modDev fun d hd => hd.of_descs (h d)

theorem total_lists_modLookup (q n : Nat) (f : Lookup → Lookup) :
    Total (ListsLookup q n) (ListsLookup q n) (modLookup q n f) := by
  refine total_dev_bind fun d ⟨x, l, hx, hl⟩ => ?_
  rw [hx]
  refine total_modDev fun e he => ?_
  subst he
  unfold Desc.lookup at hl
  split at hl
  · rename_i k hw
    have hq := List.find?_some hx
    simp only [Bool.and_eq_true, beq_iff_eq] at hq
    simp only [hw]
    exact ⟨_, _, Dev.desc_putDesc_same hx hq.1 hq.2, rfl⟩
  · cases hl

theorem total_lists_noteHazard {q n : Nat} (c : Nat) : Total (ListsLookup q n) (ListsLookup q n) (noteHazard c) := by
  unfold noteHazard
  have mark (b : Bool) : Total (ListsLookup q n) (ListsLookup q n) (modCl c fun k => { k with hazard := b }) :=
    total_lists_modDev fun d => d.descs_setCl ..
  refine total_bind total_dev fun d => total_ite ?_ (total_pure ())
  exact total_when (total_lists_modDev fun d => d.descs_bump ..) (mark _)

theorem Dev.descs_showResume (d : Dev) (c : Nat) (r : Resume) : (d.showResume c r).descs = d.descs := rfl

/-- What a look-up is attempted with is there while it is listed. -/
theorem answers_lookupAttempt {q n : Nat} (f : Desc → Lookup → M Unit) :
    Answers (ListsLookup q n) (do let y ← getDesc q n; let k ← have! y.lookup; attempt (f y k)) := by
  refine ⟨fun i t ⟨y, k, hy, hk⟩ => ?_⟩
  simp only [run_bind, run_getDesc hy, chain_ok, hk, run_have_some]
  exact attempt_answers ..

/-- A slice of a listed look-up begins: only the load of its program may have to wait, and it does so by itself. -/
theorem answers_beginSlice (c : Nat) (x : Desc) (l : Lookup) : Answers (ListsLookup x.q x.seq) (beginSlice c x l) := by
  have write (f : Fld) (v : Nat) : Total (ListsLookup x.q x.seq) (ListsLookup x.q x.seq) (wr f c v) :=
    total_lists_modDev fun _ => rfl
  exact answers_bind (total_lists_modLookup ..) fun _ =>
    answers_bind (total_lists_modDev fun d => d.descs_setCl ..) fun _ =>
    answers_bind (write ..) fun _ => answers_bind (write ..) fun _ => answers_bind (write ..) fun _ =>
    answers_bind (write ..) fun _ => answers_bind (total_lists_modDev fun d => d.descs_showResume ..) fun _ =>
    answers_bind (total_lists_noteHazard c) fun _ => answers_lookupAttempt _

/-! ### The command -/

theorem exec_sliceStart_loading {y : Slice} (hv : s.dev.inService (pg bGCL c) = true) (hp : s.dev.pow.phase = 0)
    (hy : (s.dev.cl c).slice = some y) (hst : s.dev.rd F.seqStatus_state c = qsLOADING) (hr : s.dev.clusterRuns c = true)
    (hx : s.dev.desc y.q y.seq = some x) (hl : x.lookup = some l) :
    exec (.sliceStart c) s = transact (loadProgram c y x l) s := by
  refine transact_congr ?_
  simp only [run_bind, run_dev, start_dev, chain_ok, run_need, hv, hp, hy, hst, hr, run_getDesc (t := s.start) hx, hl,
    run_have_some, beq_self_eq_true, Bool.and_self, if_true]

/-- A free cluster for which a slice is ready begins it in E0; in E1 and E2 the exit begins. -/
theorem exec_sliceStart_free (hv : s.dev.inService (pg bGCL c) = true) (hp : s.dev.pow.phase = 0)
    (hy : (s.dev.cl c).slice = none) (hx : (s.dev.descs.find? fun x => s.dev.sliceReady x c) = some x)
    (hst : s.dev.rd F.seqStatus_state c ≠ qsERROR) (hw : s.dev.pow.want = none) (hl : x.lookup = some l)
    (he : s.dev.rd F.pwrState_state 0 ≤ 2) :
    exec (.sliceStart c) s = transact (
      if s.dev.rd F.pwrState_state 0 ≠ 0 then do
        need (s.dev.pow.exitEt == 0)
        modDev fun d => { d with pow := { d.pow with
          exitEt := d.time.et + if s.dev.rd F.pwrState_state 0 = 1 then usTicks else 40 * usTicks } }
      else beginSlice c x l) s := by
  refine transact_congr ?_
  simp only [run_bind, run_dev, start_dev, chain_ok, run_need, hv, hp, hy, bne_iff_ne.mpr hst, hx, hw, hl, run_have_some, he,
    Option.isNone_none, decide_true, beq_self_eq_true, Bool.and_self, if_true]

/-- Settles O22: a cluster that loads goes on; a free one begins the slice, or the exit from its power state. -/
theorem sliceAssignment : Obligations.SliceAssignment := by
  unfold Obligations.SliceAssignment
  intro s c x l t hv hp hl free pst
  refine ⟨fun y hy hst hr hx h => ?_, fun ⟨hy, hx, hst, hw⟩ h0 hd => ?_,
    fun ⟨hy, hx, hst, hw⟩ (h1 : s.dev.rd F.pwrState_state 0 = 1) he => ?_,
    fun ⟨hy, hx, hst, hw⟩ (h2 : s.dev.rd F.pwrState_state 0 = 2) he => ?_⟩
  · exact (exec_sliceStart_loading hv hp hy hst hr hx hl).trans (transact_runs h)
  · rw [exec_sliceStart_free hv hp hy hx hst hw hl (h0.trans_le (by decide)), if_neg (not_not.mpr h0)]
    exact (answers_beginSlice c x l).transact ⟨x, l, hd, hl⟩
  · rw [exec_sliceStart_free hv hp hy hx hst hw hl (h1.trans_le (by decide)), if_pos (by omega), if_pos h1, he]
    exact transact_put rfl
  · rw [exec_sliceStart_free hv hp hy hx hst hw hl (h2.trans_le (by decide)), if_pos (by omega),
      if_neg (by omega), he]
    exact transact_put rfl

end Sys2Proof.Machine
end

section
/-! What leaves a stream buffer: nothing in the turn of a row, a close or an error waits, where it reads no memory and its
record has a place. -/

namespace Sys2Proof.Machine

variable {α β : Type} {P Q : Dev → Prop}

/-! ### Operations that run to their end, whatever the machine -/

theorem Total.anywhere {m : M α} (h : Total Always Q m) : Total P Q m := ⟨fun i t _ => h.out i t True.intro⟩

/-- A meaning that runs to its end, with an answer of which `R` holds. -/
structure Gives (P Q : Dev → Prop) (R : α → Prop) (m : M α) : Prop where
  out : ∀ i t, P t.dev → ∃ a t', m i t = .ok a t' ∧ Q t'.dev ∧ R a

section
variable {S : Dev → Prop} {R : β → Prop}

theorem gives_pure {b : β} (h : R b) : Gives P P R (pure b : M β) := ⟨fun _ t ht => ⟨b, t, rfl, ht, h⟩⟩

theorem gives_bind {m : M α} {f : α → M β} (h : Total P Q m) (g : ∀ a, Gives Q S R (f a)) : Gives P S R (m >>= f) := by
  refine ⟨fun i t ht => ?_⟩
  obtain ⟨a, u, e, hu⟩ := h.out i t ht
  rw [run_bind, e, chain_ok]
  exact (g a).out i u hu

theorem gives_ite {b : Prop} [Decidable b] {m n : M β} (h : Gives P Q R m) (g : Gives P Q R n) :
    Gives P Q R (if b then m else n) := by
  split <;> assumption

/-- What follows may use what holds of the answer. -/
theorem Gives.bind {m : M β} {f : β → M α} (h : Gives P Q R m) (g : ∀ b, R b → Total Q S (f b)) :
    Total P S (m >>= f) := by
  refine ⟨fun i t ht => ?_⟩
  obtain ⟨b, u, e, hu, hb⟩ := h.out i t ht
  rw [run_bind, e, chain_ok]
  exact (g b hb).out i u hu

end

theorem total_attempt {m : M Unit} (h : Unfailing m) : Total Always Always (attempt m) := by
  refine ⟨fun i t _ => ?_⟩
  obtain ⟨u, e⟩ := h.attempt_ends i t
  exact ⟨(), u, e, True.intro⟩

theorem total_always_rd (f : Fld) (p n : Nat) : Total Always Always (rd f p n) := ⟨fun _ _ _ => ⟨_, _, rfl, True.intro⟩⟩
theorem total_modLookup (q n : Nat) (f : Lookup → Lookup) : Total Always Always (modLookup q n f) := total_modDesc ..
theorem total_failItem (c n : Nat) (e : Nat × Nat × Nat) : Total Always Always (failItem c n e) :=
  ⟨fun _ _ _ => ⟨(), _, rfl, True.intro⟩⟩

theorem total_endWith (q n st rs : Nat) : Total Always Always (endWith q n st rs) :=
  total_bind (total_modDesc ..) fun _ => total_endDesc ..

theorem total_freeCluster (c : Nat) : Total Always Always (freeCluster c) := total_change (total_always_modDev _)

theorem total_commit (c : Nat) (r : Resume) : Total Always Always (commit c r) := total_change (total_always_modDev _)

theorem total_deliverItem (c : Nat) (i : Item) : Total Always Always (deliverItem c i) :=
  total_change <| total_change <| total_bind (total_commit ..) fun _ => total_always_modDev _

theorem total_holdItem (c : Nat) (i : Item) : Total Always Always (holdItem c i) :=
  total_bind (total_deliverItem ..) fun _ => total_always_modDev _

theorem total_endSlice (c : Nat) (y : Slice) : Total Always Always (endSlice c y) :=
  total_bind (total_modLookup ..) fun _ => total_bind (total_freeCluster c) fun _ =>
    total_bind (total_lookupDone ..) fun _ => total_noteHazard c

/-! ### Access counters (R373 to R375) -/

theorem unfailing_heatRecord (die : Nat) (h : Heat) (tier size pa : Nat) : Unfailing (heatRecord die h tier size pa) := by
  have read (f : Fld) (p : Nat) : Unfailing (rd f p) := ⟨fun _ _ _ _ _ => nofun⟩
  have change (f : Dev → Dev) : Unfailing (modDev f) := unfailing_modDev f
  unfold heatRecord
  refine unfailing_bind (read ..) fun _ => unfailing_bind (read ..) fun _ => unfailing_bind (read ..) fun _ =>
    unfailing_ite (change _) ?_
  refine unfailing_bind ⟨fun _ _ _ _ _ => nofun⟩ fun who => unfailing_bind (read ..) fun _ =>
    unfailing_bind ⟨fun _ _ _ _ _ => nofun⟩ fun et => unfailing_bind (unfailing_caught _) fun r => ?_
  cases r with
  | ok _ => exact unfailing_bind (change _) fun _ => unfailing_bind (change _) fun _ => change _
  | error e => exact change _

theorem total_heatCount (asid va pa leaf size : Nat) : Total Always Always (heatCount asid va pa leaf size) := by
  have told (die part : Nat) (h : Heat) (f : Dev → Dev) :
      Total Always Always (attempt do heatRecord die h part size pa; modDev f) :=
    total_attempt (unfailing_bind (unfailing_heatRecord ..) fun _ => unfailing_modDev f)
  have count {die part : Nat} {f : Dev → Dev} {own : Heat → Bool} {mark : Heat → Dev → Dev} : Total Always Always (do
      modDev f
      match (← dev).xl.heat.find? own with
      | some h =>
        if (← rd F.migCfg_hot die) ≤ h.count && !h.told then attempt do heatRecord die h part size pa; modDev (mark h)
      | none => pure ()) := by
    refine total_change <| total_bind total_dev fun d => ?_
    split
    · exact total_bind (total_always_rd ..) fun _ => total_ite (told ..) (total_pure ())
    · exact total_pure ()
  refine total_bind total_dev fun d => total_ite (total_change ?_) (total_pure ())
  refine total_ite (total_ite (total_bind (total_freeValue 64 fun _ _ => True.intro) fun i => ?_) (total_change count)) count
  split
  · exact total_change <| total_change <| total_change count
  · exact total_change count

/-! ### Operations beside the streams -/

/-- A property that depends on the clusters and on the records held for the ports alone. -/
def Aside (P : Dev → Prop) : Prop := ∀ d e, e.clusters = d.clusters → e.ports = d.ports → P d → P e

theorem aside_always : Aside Always := fun _ _ _ _ _ => True.intro

/-- A change of the machine that leaves the clusters and those records. -/
structure SetAside (f : Dev → Dev) : Prop where
  clusters : ∀ d, (f d).clusters = d.clusters
  ports : ∀ d, (f d).ports = d.ports

theorem Aside.total {f : Dev → Dev} (hP : Aside P) (h : SetAside f) : Total P P (modDev f) :=
  total_modDev fun d => hP d (f d) (h.clusters d) (h.ports d)

theorem Aside.total_modDesc (hP : Aside P) (q n : Nat) (f : Desc → Desc) : Total P P (modDesc q n f) := by
  unfold modDesc
  refine total_bind total_dev fun d => ?_
  split
  · exact hP.total ⟨fun _ => rfl, fun _ => rfl⟩
  · exact total_pure ()

theorem setAside_setLane (k v : Dev → Nat) : SetAside fun d => d.setLane (k d) (v d) := ⟨fun _ => rfl, fun _ => rfl⟩
theorem setAside_setSide (k : Nat) (e : Side) : SetAside fun d => d.setSide k e := ⟨fun _ => rfl, fun _ => rfl⟩
theorem setAside_setWord (r : RegName) (p n : Nat) (v : Dev → Nat) : SetAside fun d => d.setWord r p n (v d) :=
  ⟨fun d => d.clusters_setWord .., fun d => d.ports_setWord ..⟩
theorem setAside_bump (f : Fld) (p n : Nat) : SetAside fun d => d.bump f p n :=
  ⟨fun d => d.clusters_bump .., fun d => d.ports_bump ..⟩

theorem setAside_foldl {f : Dev → β → Dev} (h : ∀ b, SetAside (f · b)) (l : List β) : SetAside fun d => l.foldl f d := by
  induction l with
  | nil => exact ⟨fun _ => rfl, fun _ => rfl⟩
  | cons b l ih =>
    exact ⟨fun d => (ih.clusters (f d b)).trans ((h b).clusters d), fun d => (ih.ports (f d b)).trans ((h b).ports d)⟩

theorem setAside_clearChain (x : Desc) (c slot : Nat) : SetAside fun d => d.clearChain x c slot := by
  have lanes : SetAside fun d => (List.range (x.chainRows * 256)).foldl (fun d l => d.setLane (x.laneKey c slot l) 0) d :=
    setAside_foldl (fun _ => setAside_setLane ..) _
  exact ⟨fun d => lanes.clusters d, fun d => lanes.ports d⟩

/-- The promotion of a run changes lanes, its side record, marks and counters. -/
theorem Aside.total_promoteRun (hP : Aside P) (x : Desc) (c slot : Nat) (r : Run) : Total P P (promoteRun x c slot r) := by
  have rest (n : Nat) : Total P P (if !x.lkDeliver then progress x.q x.seq 0 0 n else pure ()) :=
    total_ite (hP.total_modDesc ..) (total_pure ())
  unfold promoteRun
  dsimp only
  refine total_ite (total_pure ()) <| total_bind total_dev fun d => total_ite ?_ ?_
  · refine total_bind (hP.total (setAside_foldl (fun _ => setAside_setLane ..) _)) fun _ =>
      total_bind (hP.total (setAside_setSide ..)) fun _ => total_ite ?_ (rest _)
    exact total_bind (total_each fun tile => hP.total (setAside_setWord ..)) fun _ =>
      total_bind (hP.total (setAside_bump ..)) fun _ => total_bind (hP.total_modDesc ..) fun _ => rest _
  · exact total_bind (hP.total (setAside_foldl (fun _ => setAside_setLane ..) _)) fun _ =>
      total_bind (hP.total (setAside_setSide ..)) fun _ => rest _

/-! ### A bag, while its cluster runs a slice and no record enters a port -/

/-- The cluster runs a slice, and the records held for the ports are these. -/
def Turn (c : Nat) (ps : List PortRec) (d : Dev) : Prop := (d.cl c).slice.isSome = true ∧ d.ports = ps

variable {c : Nat} {ps : List PortRec} {x : Desc} {y : Slice} {i : Item}

theorem aside_turn : Aside (Turn c ps) := fun d e hc hp h => by
  obtain ⟨hs, hd⟩ := h
  exact ⟨by rwa [Dev.cl, hc], hp.trans hd⟩

/-- A change of the cluster that leaves it a slice. -/
theorem total_turn_modCl {f : Cluster → Cluster} (h : ∀ k, (f k).slice.isSome = k.slice.isSome) :
    Total (Turn c ps) (Turn c ps) (modCl c f) :=
  total_modDev fun d ⟨hs, hd⟩ => ⟨by rw [Dev.cl_setCl, h, hs], (d.ports_setCl ..).trans hd⟩

theorem total_turn_setRun (bag : Nat) (r : Run) : Total (Turn c ps) (Turn c ps) (setRun c bag r) :=
  total_turn_modCl fun _ => Option.isSome_map ..

theorem total_turn_failItem (n : Nat) (e : Nat × Nat × Nat) : Total (Turn c ps) (Turn c ps) (failItem c n e) := by
  unfold failItem modItem
  exact total_turn_modCl fun _ => rfl

theorem total_openBag (bag : Nat) : Total (Turn c ps) (Turn c ps) (openBag c y x bag) := by
  have cleared : Total (Turn c ps) (Turn c ps) (modDev fun d => d.clearChain x c (y.slot x bag)) :=
    aside_turn.total (setAside_clearChain ..)
  exact total_ite (total_when cleared (total_turn_setRun ..)) (total_pure ())

/-- Outside WSUM a row joins its bag, or fails, with nothing read; what joins is that row. -/
theorem gives_joinBag (hm : x.lkMode ≠ 2) :
    Gives (Turn c ps) (Turn c ps) (fun o => ∀ j, o = some j → j.husk = i.husk) (joinBag c y x i) := by
  have hw : rowWeight c y x i.pos (y.first + y.committed.closes) = pure (.ok (1, 0)) := by rw [rowWeight, if_pos hm]
  have same {j k : Item} (h : j.husk = i.husk) : some j = some k → k.husk = i.husk := fun e => Option.some.inj e ▸ h
  unfold joinBag
  dsimp only
  rw [hw, pure_bind]
  refine gives_bind (total_openBag _) fun _ => gives_bind total_dev fun d => gives_ite ?_ (gives_ite ?_ ?_)
  · exact gives_bind (total_turn_failItem ..) fun _ => gives_pure nofun
  · exact gives_bind (aside_turn.total (setAside_setSide ..)) fun _ => gives_pure fun _ => same rfl
  · exact gives_pure fun _ => same rfl

/-! ### Rows -/

/-- What a row without a husk leaves in the counters: it has no access counter of its own (R227). -/
theorem total_countRow (hh : i.husk = none) : Total Always Always (countRow c y i) := by
  have access : countAccess i = pure () := by rw [countAccess, hh]
  unfold countRow
  rw [access]
  refine total_bind total_dev fun d => total_change <| total_change <| total_change <| total_bind (total_pure ()) fun _ => ?_
  split
  · exact total_heatCount ..
  · exact total_pure ()

theorem total_setRun (bag : Nat) (r : Run) : Total Always Always (setRun c bag r) := by
  unfold setRun modCl
  exact total_always_modDev _

theorem total_accumulate : Total Always Always (accumulate c x y i) := by
  unfold accumulate
  split
  dsimp only
  refine total_bind total_dev fun d => total_ite ?_ ?_
  · have counted (n : Nat) (e : Side) (run : Run) : Total Always Always (do
        modDev fun d => d.setSide (x.sideKey c (y.slot x i.bag)) e
        setRun c i.bag run
        if !x.lkDeliver then progress x.q x.seq 0 0 n) :=
      total_change <| total_bind (total_setRun ..) fun _ => total_ite (total_progress ..) (total_pure ())
    exact total_ite (total_change (counted ..)) (total_change (counted ..))
  · exact total_ite (total_bind (aside_always.total_promoteRun ..) fun _ => total_setRun ..) (total_setRun ..)

theorem total_consumePooled (hh : i.husk = none) : Total (Turn c ps) Always (consumePooled c x i) := by
  refine total_dev_bind fun d ⟨hs, _⟩ => ?_
  obtain ⟨y, hy⟩ := Option.isSome_iff_exists.mp hs
  rw [hy]
  refine Total.anywhere (total_bind (Q := Always) (total_pure _) fun y => ?_)
  exact total_bind total_accumulate fun _ => total_bind (total_countRow hh) fun _ => total_progress ..

/-- A row of a LOOKUP_POOL outside WSUM, without a husk. -/
theorem total_poolRow (hm : x.lkMode ≠ 2) (hh : i.husk = none) (resident : Bool) :
    Total (Turn c ps) Always (poolRow c y x resident i) := by
  refine (gives_joinBag (i := i) hm).bind fun o ho => ?_
  cases o with
  | none => exact (total_pure ()).anywhere
  | some j =>
    exact total_ite (total_holdItem ..).anywhere
      (total_bind (total_consumePooled ((ho j rfl).trans hh)) fun _ => total_deliverItem ..)

/-! ### Records for a client port -/

/-- A record for a client port that has taken the last one of its cluster is delivered. -/
theorem total_deliverRecord {r : PortRec} {after : M Unit} (hd : x.lkDest = 1) (hu : ∀ d, P d → d.unaccepted x c = [])
    (ha : Total Always Always after) : Total P Always (deliverRecord c x i r after) := by
  refine total_dev_bind fun d hP => total_if hd ?_
  rw [hu d hP]
  exact (total_bind (total_need fun _ _ => rfl) fun _ => total_change ha).anywhere

/-- No record of the look-up from the cluster waits in these, as long as they are the records held. -/
theorem Turn.unaccepted {d e : Dev} (h : Turn c d.ports e) (hu : d.unaccepted x c = []) : e.unaccepted x c = [] := by
  rw [← hu, Dev.unaccepted, Dev.unaccepted, h.2]

theorem total_freeHusk : Total (Turn c ps) (Turn c ps) freeHusk := by
  have draw : Total (Turn c ps) (Turn c ps) (freeValue 64) := total_freeValue 64 fun d h => aside_turn d _ rfl rfl h
  exact total_bind draw fun _ => total_bind draw fun _ => total_bind draw fun _ => total_bind draw fun _ => total_pure _

/-- A row of a LOOKUP_ROWS for a client port, without a husk. -/
theorem total_passRow {d : Dev} (hd : x.lkDest = 1) (hu : d.unaccepted x c = []) (hh : i.husk = none) :
    Total (Turn c d.ports) Always (passRow c y x i) := by
  have counted : Total Always Always (do countRow c y i; deliverItem c i) :=
    total_bind (total_countRow hh) fun _ => total_deliverItem ..
  unfold passRow
  split
  refine total_bind total_dev fun e => total_ite
    (total_bind (total_ite (total_pure _) total_freeHusk) fun lead => ?_) (total_bind (total_pure _) fun lead => ?_)
  all_goals
    dsimp only
    exact total_deliverRecord hd (fun e he => he.unaccepted hu) (total_when (total_always_modDev _) counted)

/-- A row without a husk, of a LOOKUP_POOL outside WSUM or of a LOOKUP_ROWS for a client port that is free. -/
theorem total_rowTurn {d : Dev} (hh : i.husk = none) (resident : Bool)
    (h : (x.isPool = true ∧ x.lkMode ≠ 2) ∨ (x.isPool = false ∧ x.lkDest = 1 ∧ d.unaccepted x c = [])) :
    Total (Turn c d.ports) Always (rowTurn c y x resident i) := by
  unfold rowTurn
  refine total_bind total_dev fun e => ?_
  split
  rw [hh]
  simp only [Option.isSome_none, Bool.and_false, Bool.false_and, Bool.false_eq_true, if_false]
  refine total_ite (total_failItem ..).anywhere ?_
  obtain ⟨hp, hm⟩ | ⟨hp, hd, hu⟩ := h
  · rw [if_pos hp]
    exact total_poolRow hm hh resident
  · rw [hp, if_neg Bool.false_ne_true]
    exact total_passRow hd hu hh

/-- A bag that stays in its chain, or whose record goes to a client port that is free. -/
theorem total_closeBag {d : Dev} (bag : Nat) {done : M Unit} (hdone : Total Always Always done)
    (h : x.lkDeliver = false ∨ (x.lkDest = 1 ∧ d.unaccepted x c = [])) :
    Total (Turn c d.ports) Always (closeBag c y x bag i done) := by
  have finish : Total Always Always (do
      bump F.gclBags_count c
      modCl c fun k => { k with slice := k.slice.map fun s => { s with bags := s.bags.filter fun b => b.1 != bag } }
      done) := total_change <| total_change hdone
  unfold closeBag
  refine total_bind (total_openBag bag) fun _ => total_bind (aside_turn.total_promoteRun ..) fun _ =>
    total_bind (total_turn_setRun ..) fun _ => ?_
  obtain hn | ⟨hd, hu⟩ := h
  · rw [hn]
    exact finish.anywhere
  · refine total_ite (total_bind total_dev fun e => ?_) finish.anywhere
    split
    exact total_deliverRecord hd (fun e he => he.unaccepted hu) (total_when (total_always_modDev _) finish)

/-! ### Errors -/

/-- The cluster runs the slice `y`, and its look-up has no residency slot. -/
structure Unslotted (c : Nat) (y : Slice) (d : Dev) : Prop where
  slice : (d.cl c).slice = some y
  slot : ∀ x, d.desc y.q y.seq = some x → (x.lookup.bind fun l => l.slot) = none

theorem Unslotted.of_same {d e : Dev} (h : Unslotted c y d) (hs : (e.cl c).slice = (d.cl c).slice)
    (hd : e.descs = d.descs) : Unslotted c y e := by
  refine ⟨hs.trans h.slice, fun x hx => h.slot x ?_⟩
  rwa [Dev.desc, ← hd]

theorem total_unslotted_wr (f : Fld) (p v : Nat) : Total (Unslotted c y) (Unslotted c y) (wr f p v) :=
  total_modDev fun _ h => h.of_same rfl rfl

theorem total_dropItems : Total (Unslotted c y) (Unslotted c y) (dropItems c) := by
  have count (f : Fld) (n : Nat) : Total (Unslotted c y) (Unslotted c y) (bump f c n) :=
    total_modDev fun d h => h.of_same (by rw [Dev.cl_bump]) (d.descs_bump ..)
  exact total_bind total_dev fun d => total_bind (count ..) fun _ => total_bind (count ..) fun _ =>
    total_modDev fun d h => h.of_same (by rw [Dev.cl_setCl]) (d.descs_setCl ..)

theorem total_promoteOpen : Total Always Always (promoteOpen c x) := by
  refine total_bind total_dev fun d => ?_
  split
  · exact total_pure ()
  · exact total_bind (total_each fun b => aside_always.total_promoteRun ..) fun _ => total_always_modDev _

/-- A slice stops: with no part of a resident table to wait for, its units hold nothing. -/
theorem total_stopSlice : Total (Unslotted c y) Always (stopSlice c) := by
  refine total_dev_bind fun d hd => ?_
  rw [hd.slice]
  refine total_bind (Q := Unslotted c y) ⟨fun i t ht => total_dropItems.out i t (ht ▸ hd)⟩ fun _ =>
    total_dev_bind fun e he => ?_
  refine Total.anywhere ?_
  split
  · rename_i x hx
    have held : finishHeld c x = pure () := by rw [finishHeld, he.slot x hx]
    rw [held]
    exact total_ite (total_bind (total_pure ()) fun _ => total_bind total_promoteOpen fun _ => total_freeCluster c)
      (total_freeCluster c)
  · exact total_freeCluster c

/-- A look-up on this cluster alone stops. -/
theorem total_stopLookup (hc : x.clusterSet = [c]) (st rs : Nat) : Total (Unslotted c y) Always (stopLookup x st rs) := by
  have slices : Total (Unslotted c y) Always (stopSlices x) := by
    unfold stopSlices
    rw [hc]
    refine total_bind (total_dev_bind fun d hd => ?_) fun _ => total_pure ()
    rw [hd.slice]
    exact total_ite ⟨fun i t ht => total_stopSlice.out i t (ht ▸ hd)⟩ (total_pure ()).anywhere
  exact total_bind slices fun _ => total_change <| total_bind (total_endWith ..) fun _ => total_each fun _ => total_noteHazard _

theorem total_streamError (hc : x.clusterSet = [c]) : Total (Unslotted c y) Always (streamError c x i) :=
  total_bind (total_unslotted_wr ..) fun _ => total_bind (total_unslotted_wr ..) fun _ =>
    total_bind (total_unslotted_wr ..) fun _ => total_bind (total_stopLookup hc ..) fun _ =>
      total_bind total_dev fun _ => total_ite (total_always_modDev _) (total_pure ())

end Sys2Proof.Machine
end

section
/-! The commands of the pool phase. -/

namespace Sys2Proof.Machine

variable {s : State} {c : Fin 64} {x : Desc} {l : Lookup} {y : Slice} {e : Item} {i : Image} {t : Tx}

theorem run_pooling {c : Nat} (h : t.dev.inPool c y) : pooling c i t = .ok y t := by
  simp only [pooling, run_bind, run_dev, chain_ok, run_need, h.1, h.2, if_true, run_have_some]

theorem transact_total {P Q : Dev → Prop} {m k : M Unit} (h : m s.image s.start = k s.image s.start) (hk : Total P Q k)
    (hs : P s.dev) : transact m s = .next (s.after s.dev k) := transact_after h ⟨_, hk.runs hs⟩

/-- A cluster whose buffer hands items out runs its slice. -/
theorem Dev.inPool.turn {d : Dev} {c : Nat} (h : d.inPool c y) : Turn c d.ports d :=
  ⟨Option.isSome_iff_exists.mpr ⟨y, h.2⟩, rfl⟩

theorem exec_poolPhaseEnd_idle (h : s.dev.inPool c y) (hi : (s.dev.cl c).items = []) (hf : (s.dev.cl c).fetching = false)
    (ht : y.stopped = false ∨ (s.dev.cl c).taken = []) :
    exec (.poolPhaseEnd c) s = transact (if y.stopped then endSlice c y else toFetch c) s := by
  have hn : (!y.stopped || (s.dev.cl c).taken.isEmpty) = true := by simpa using ht
  refine transact_congr ?_
  simp only [run_bind, run_pooling (t := s.start) h, chain_ok, run_dev, start_dev, run_need, hi, hf, hn, Bool.not_false,
    List.isEmpty_nil, Bool.and_self, if_true]

theorem exec_rowItemConsume_head (hy : (s.dev.cl c).slice = some y) (hx : s.dev.desc y.q y.seq = some x)
    (hl : x.lookup = some l) (hs : s.dev.scaleHeld x = false) (hr : s.dev.headRow c = some e) :
    exec (.rowItemConsume c) s = transact (rowTurn c y x l.slot.isSome e) s := by
  refine transact_congr ?_
  simp only [run_bind, run_dev, start_dev, chain_ok, hy, run_have_some, run_getDesc (t := s.start) hx, hl, run_need, hs,
    Bool.not_false, if_true, hr]

/-- Without ADD a close needs no kind of its bag, and without a resident table it takes effect at once. -/
theorem exec_bagDeliver_head (hy : (s.dev.cl c).slice = some y) (hx : s.dev.desc y.q y.seq = some x)
    (hl : x.lookup = some l) (hs : s.dev.scaleHeld x = false) (hr : s.dev.headClose c = some e) (ha : x.lkAdd = false)
    (hn : l.slot = none) :
    exec (.bagDeliver c) s = transact (closeBag c y x y.committed.closes e (deliverItem c e)) s := by
  have fits : closeFits c y x e = pure true := by
    simp only [closeFits, ha, Bool.false_and, Bool.false_eq_true, if_false]
  refine transact_congr ?_
  simp only [run_bind, run_dev, start_dev, chain_ok, hy, run_have_some, run_getDesc (t := s.start) hx, hl, run_need, hs,
    Bool.not_false, if_true, hr, fits, run_pure, hn, Option.isSome_none, Bool.false_eq_true, if_false]

theorem exec_streamErrorEffect_head (h : s.dev.inPool c y) (hx : s.dev.desc y.q y.seq = some x)
    (hi : (s.dev.cl c).items.head? = some e) (he : e.kind = .error ∨ e.status ≠ 0) :
    exec (.streamErrorEffect c) s = transact (streamError c x e) s := by
  have hk : (e.kind == .error || e.status != 0) = true := by simpa using he
  refine transact_congr ?_
  simp only [run_bind, run_pooling (t := s.start) h, chain_ok, run_dev, start_dev, hi, run_have_some, run_need, hk, if_true,
    run_getDesc (t := s.start) hx]

/-- Settles O23: each command of a pool phase is one meaning, the turn of what stands at the head, which runs to its end where
it reads no memory and its record has a place. -/
theorem poolPhase : Obligations.PoolPhase := by
  unfold Obligations.PoolPhase
  intro s c y t h k
  refine ⟨fun hi hf hs ht => ?_, fun hi hf hs => ?_,
    fun x l i hx hl => ⟨fun hr hh => ?_, fun hr hh ha hn => ?_, fun hi he => ?_⟩⟩
  · rw [exec_poolPhaseEnd_idle h hi hf (.inr ht), hs, if_pos rfl]
    exact transact_total rfl (total_endSlice ..) True.intro
  · rw [exec_poolPhaseEnd_idle h hi hf (.inl hs), hs, if_neg Bool.false_ne_true]
    exact transact_put rfl
  · rw [exec_rowItemConsume_head h.2 hx hl hh hr]
    exact ⟨transact_runs, fun hk hp => transact_total rfl (total_rowTurn hk _ hp) h.turn⟩
  · rw [exec_bagDeliver_head h.2 hx hl hh hr ha hn]
    exact ⟨transact_runs, fun hp => transact_total rfl (total_closeBag _ (total_deliverItem ..) hp) h.turn⟩
  · rw [exec_streamErrorEffect_head h hx hi he]
    refine ⟨transact_runs, fun hc hn => transact_total rfl (total_streamError (y := y) hc) ⟨h.2, fun z hz => ?_⟩⟩
    rw [hx] at hz
    cases hz
    rw [hl]
    exact hn

end Sys2Proof.Machine
end

section
/-! The residency slots, and the release of a tile. -/

namespace Sys2Proof.Machine

variable {s : State} {i : Image} {t u : Tx} {n v : Nat} {w : RegAcc} {tab : Table}

/-! ### What a slot and its users depend on -/

@[simp] theorem Dev.resident_wr (d : Dev) (f : Fld) (p v i n : Nat) : (d.wr f p v i).resident n = d.resident n := by
  simp only [Dev.resident, Dev.residents_wr]

@[simp] theorem Dev.resident_bump (d : Dev) (f : Fld) (p k n : Nat) : (d.bump f p k).resident n = d.resident n := by
  simp only [Dev.resident, Dev.residents_bump]

@[simp] theorem Dev.slotUsers_bump (d : Dev) (f : Fld) (p k n : Nat) : (d.bump f p k).slotUsers n = d.slotUsers n := by
  simp only [Dev.slotUsers, Dev.descs_bump]

@[simp] theorem run_setSlot (n st : Nat) (i : Image) (t : Tx) :
    setSlot n st i t = .ok () { t with dev := t.dev.wr F.gclResCfg_state 64 st n } := run_wr ..

/-! ### A write of GCL_RES_CFG (R147, R148, R161) -/

/-- Slot `n` can be loaded with a table, of number `k`: an INTPATH table of this node that no other slot has, and whose part
fits (R147). -/
structure Dev.LoadFits (d : Dev) (n k : Nat) (tab : Table) : Prop where
  intPath : tab.intPath = true
  whole : tab.form = 0
  part : partBytes tab ≤ 8 * 2 ^ 20
  alone : ∀ m ∈ (List.range 8).filter fun m => m != n,
    d.rd F.gclResCfg_enable 64 m ≠ 1 ∨ d.rd F.gclResCfg_table 64 m ≠ k
  room : d.residentBytes ((List.range 8).filter fun m => m != n) + 2 * partBytes tab ≤ d.pinnedCapacity

/-- The machine whose slot `n` loads a table. -/
def Dev.slotLoading (d : Dev) (n : Nat) (tab : Table) : Dev :=
  let e := (d.wr F.gclResCfg_part_kib 64 ((partBytes tab + 1023) / 1024) n).wr F.gclResCfg_state 64 1 n
  e.setResident n { e.resident n with next := (tab.rows + 63) / 64, bytes := partBytes tab, emptying := false }

/-- A table that can be read and fits is loaded. -/
theorem run_residentLoad {k : Nat} (hr : Runs (readTable 1024 0 k true >>= fun y => Machine.dev >>= fun e =>
    readShards 1024 0 (e.pageWorld (pg bGCL 64)) y) i t tab u) (h : u.dev.LoadFits n k tab) :
    residentLoad n k w i t = .ok () { u with dev := u.dev.slotLoading n tab } := by
  have hread := run_caught hr
  have alone : ((List.range 8).filter fun m => m != n).any (fun m =>
      u.dev.rd F.gclResCfg_enable 64 m == 1 && u.dev.rd F.gclResCfg_table 64 m == k) = false := by
    refine List.any_eq_false.mpr fun m hm => ?_
    have := h.alone m hm
    grind
  have part : decide (8 * 2 ^ 20 < partBytes tab) = false := decide_eq_false h.part.not_gt
  have room : decide (u.dev.pinnedCapacity <
      u.dev.residentBytes ((List.range 8).filter fun m => m != n) + 2 * partBytes tab) = false :=
    decide_eq_false h.room.not_gt
  unfold residentLoad
  rw [run_bind, hread, chain_ok]
  simp only [run_bind, run_dev, chain_ok, h.intPath, h.whole, alone, part, room, Bool.not_true, bne_self_eq_false,
    Bool.false_and, Bool.or_self, Bool.false_eq_true, if_false, run_wr, run_setSlot, run_modDev, Dev.slotLoading]

/-- ENABLE = 1 written to a slot whose ENABLE is 0 sets TABLE and ENABLE, and loads. -/
theorem run_residentWrite_on (hn : t.dev.rd F.gclResCfg_enable 64 n ≠ 1) (hv : bit v 16 = true) :
    residentWrite n v w i t = residentLoad n (v % 2 ^ 16) w i
      { t with dev := (t.dev.wr F.gclResCfg_table 64 (v % 2 ^ 16) n).wr F.gclResCfg_enable 64 1 n } := by
  have off : (t.dev.rd F.gclResCfg_enable 64 n == 1) = false := beq_eq_false_iff_ne.mpr hn
  simp only [residentWrite, run_bind, run_dev, chain_ok, off, hv, Bool.false_and, Bool.not_false, Bool.true_or,
    Bool.false_eq_true, if_false, if_true, run_wr]

theorem steady_residentEmpty (n : Nat) : Steady (residentEmpty n) :=
  steady_dev.bind fun _ => steady_ite (steady_modDev _) <| (steady_setSlot n 0).bind fun _ => steady_modDev _

/-- ENABLE = 0 written to a slot that has it, with TABLE as it is, empties the slot: nothing there waits or fails. -/
theorem ends_residentWrite_off (hn : t.dev.rd F.gclResCfg_enable 64 n = 1)
    (hk : v % 2 ^ 16 = t.dev.rd F.gclResCfg_table 64 n) (hv : bit v 16 = false) :
    ∃ u, residentWrite n v w i t = .ok () u := by
  have same : (v % 2 ^ 16 != t.dev.rd F.gclResCfg_table 64 n) = false := by simpa using hk
  obtain ⟨⟨⟩, u, hu, -⟩ := steady_residentEmpty n i
    { t with dev := (t.dev.wr F.gclResCfg_table 64 (v % 2 ^ 16) n).wr F.gclResCfg_enable 64 0 n }
  refine ⟨u, ?_⟩
  simp only [residentWrite, run_bind, run_dev, chain_ok, hn, same, hv, beq_self_eq_true, Bool.and_false,
    Bool.false_eq_true, if_false, if_true, run_wr, hu]

/-! ### The end of a load, and of an epoch (R148, R150, R163) -/

theorem exec_residentLoadDone_loading {n : Fin 8} (hl : s.dev.rd F.gclResCfg_state 64 n = 1)
    (hu : s.dev.slotUsers n = false) :
    exec (.residentLoadDone n) s = .next (s.put ((s.dev.wr F.gclResCfg_state 64 2 n).setResident n
      { s.dev.resident n with part := (s.dev.resident n).next, image := s.mem, epoch := 0 })) := by
  refine transact_put ?_
  simp only [run_bind, run_dev, chain_ok, start_dev, run_need, hl, hu, beq_self_eq_true, Bool.not_false, Bool.and_self,
    if_true, run_read, run_setSlot, run_modDev, Dev.resident_wr, image_mem, start_log]

theorem exec_residentEpochEnd_over {n : Fin 8} (h : s.dev.epochOver n) :
    exec (.residentEpochEnd n) s = transact (endEpoch n) s := by
  obtain ⟨hneeded, hfence, hdone⟩ := h
  have needed : (s.dev.slotUsers n || (s.dev.resident n).emptying) = true := by simpa using hneeded
  have consumed : (List.range 64).all (s.dev.partDone n) = true :=
    List.all_eq_true.mpr fun c hc => hdone c (List.mem_range.mp hc)
  refine transact_congr ?_
  simp only [run_bind, run_dev, chain_ok, start_dev, run_need, needed, hfence, consumed, Bool.not_false, Bool.and_self, if_true]

/-- A machine once an epoch of slot `n` has ended: the epoch is counted, and the parts move on, or the slot is EMPTY. -/
def Dev.epochEnded (d : Dev) (n : Nat) : Dev :=
  let e := d.bump F.gclResEpoch_count 64 1
  let r := d.resident n
  if r.emptying then
    (e.wr F.gclResCfg_state 64 0 n).setResident n
      (if d.slotUsers n then { r with epoch := r.epoch + 1, emptying := false } else ⟨0, 0, false, [], 0, 0⟩)
  else e.setResident n { r with epoch := r.epoch + 1 }

theorem run_endEpoch (n : Nat) (i : Image) (t : Tx) :
    endEpoch n i t = .ok () { t with dev := t.dev.epochEnded n } := by
  simp only [endEpoch, run_bind, run_bump, run_dev, chain_ok, run_ite, run_setSlot, run_modDev, Dev.epochEnded,
    Dev.resident_bump, Dev.slotUsers_bump]
  split
  · split <;> rfl
  · rfl

/-- The end of an epoch that may end. -/
theorem exec_residentEpochEnd_ended {n : Fin 8} (h : s.dev.epochOver n) :
    exec (.residentEpochEnd n) s = .next (s.put (s.dev.epochEnded n)) :=
  (exec_residentEpochEnd_over h).trans (transact_put (run_endEpoch ..))

/-! ### A write of ACM_RELEASE (R162) -/

theorem run_acmRelease {c tile : Nat} (h : ∀ x ∈ t.dev.descs, x.names (c * 128 + tile) = false) :
    acmRelease c tile w i t = .ok () { t with dev := t.dev.setOwner (c * 128 + tile) none } := by
  have unnamed : (t.dev.descs.any fun x => x.names (c * 128 + tile)) = false :=
    List.any_eq_false.mpr fun x hx => ne_true_of_eq_false (h x hx)
  simp only [acmRelease, run_bind, run_dev, chain_ok, unnamed, Bool.false_eq_true, if_false, run_modDev]

/-! ### The statement -/

/-- Settles O25: a write of GCL_RES_CFG loads or empties its slot, what ends a load or an epoch is one change of the machine,
and so is the release of a tile. -/
theorem residentSlots : Obligations.ResidentSlots := by
  unfold Obligations.ResidentSlots
  refine ⟨?_, fun s n hl hu => exec_residentLoadDone_loading hl hu,
    fun s n h => ⟨fun he => ?_, fun he hu => ?_, fun he hu => ?_⟩, fun s c tile a hw hx => ?_⟩
  · intro s n v a t tab w d part others hw
    refine ⟨fun ht => ?_, fun hn hv hr hp hf hs ho hc => ?_, fun hn hk hv => ?_⟩
    · exact transact_reaches hw ht
    · exact transact_reaches hw ((run_residentWrite_on hn hv).trans (run_residentLoad hr ⟨hp, hf, hs, ho, hc⟩))
    · exact transact_after (RegAcc.run_reaches (t := s.start) hw _) (ends_residentWrite_off hn hk hv)
  · rw [exec_residentEpochEnd_ended h, Dev.epochEnded, he, if_neg Bool.false_ne_true]
  · rw [exec_residentEpochEnd_ended h, Dev.epochEnded, he, if_pos rfl, hu, if_pos rfl]
  · rw [exec_residentEpochEnd_ended h, Dev.epochEnded, he, if_pos rfl, hu, if_neg Bool.false_ne_true]
  · exact transact_reaches hw (run_acmRelease hx)

end Sys2Proof.Machine
end

section
/-! The load engine: a WAITING load that runs. -/

namespace Sys2Proof.Machine

variable {s : State}

/-- A machine whose WAITING load has begun to run (R181): STATE is RUNNING, ERR is 0, and no user is kept. The bits that the
register stores in the place of USERS are not written: a read computes that field. -/
def Dev.loadRunning (d : Dev) : Dev :=
  { (d.wr F.qntLoadStat_state 2 2).wr F.qntLoadStat_err 2 0 with quant := { d.quant with users := [] } }

theorem exec_qntLoadRun_waited (hst : s.dev.rd F.qntLoadStat_state 2 = 1) (hu : s.dev.waitedUsers = []) :
    exec .qntLoadRun s = .next (s.put s.dev.loadRunning) := by
  refine transact_put ?_
  simp only [run_bind, run_rd, run_dev, chain_ok, start_dev, run_need, hst, hu, beq_self_eq_true, List.isEmpty_nil, if_true,
    setLoad, run_wr, run_modDev, Dev.quant_wr, Dev.loadRunning, start_log]

theorem Dev.loadRunning_users (d : Dev) : d.loadRunning.rd F.qntLoadStat_users 2 = d.rd F.qntLoadStat_users 2 := by
  have regs : d.loadRunning.regs = ((d.wr F.qntLoadStat_state 2 2).wr F.qntLoadStat_err 2 0).regs := rfl
  calc d.loadRunning.rd F.qntLoadStat_users 2
      = ((d.wr F.qntLoadStat_state 2 2).wr F.qntLoadStat_err 2 0).rd F.qntLoadStat_users 2 := Dev.rd_congr regs _ _ _
    _ = (d.wr F.qntLoadStat_state 2 2).rd F.qntLoadStat_users 2 := Dev.rd_wr_field _ _ _ _ rfl (by decide) (by decide)
    _ = d.rd F.qntLoadStat_users 2 := Dev.rd_wr_field _ _ _ _ rfl (by decide) (by decide)

/-- The machine that the clause of the statement names: a 0 is stored in the place of USERS as well. -/
def Dev.loadCleared (d : Dev) : Dev :=
  { ((d.wr F.qntLoadStat_state 2 2).wr F.qntLoadStat_err 2 0).wr F.qntLoadStat_users 2 0 with
    quant := { d.quant with users := [] } }

theorem Dev.loadCleared_users (d : Dev) : d.loadCleared.rd F.qntLoadStat_users 2 = 0 := by
  have regs : d.loadCleared.regs =
      (((d.wr F.qntLoadStat_state 2 2).wr F.qntLoadStat_err 2 0).wr F.qntLoadStat_users 2 0).regs := rfl
  rw [Dev.rd_congr regs, Dev.rd_wr_same _ _ _ _ _ (by decide), Nat.zero_mod]

/-- The command does not come to that machine from one where another number stands there. -/
theorem exec_qntLoadRun_ne_loadCleared (hst : s.dev.rd F.qntLoadStat_state 2 = 1) (hu : s.dev.waitedUsers = [])
    (hs : s.dev.rd F.qntLoadStat_users 2 ≠ 0) : exec .qntLoadRun s ≠ .next (s.put s.dev.loadCleared) := by
  rw [exec_qntLoadRun_waited hst hu]
  intro h
  have same : s.dev.loadRunning = s.dev.loadCleared := congrArg State.dev (Host.Outcome.next.inj h)
  rw [← Dev.loadRunning_users, same, Dev.loadCleared_users] at hs
  exact hs rfl

/-! ### The statement -/

/-- A machine whose load is WAITING, and whose QNT_LOAD_STAT stores a 1 in the place of USERS. -/
def Dev.staleUsers (d : Dev) : Dev := (d.wr F.qntLoadStat_state 2 1).wr F.qntLoadStat_users 2 1

theorem Dev.staleUsers_state (d : Dev) : d.staleUsers.rd F.qntLoadStat_state 2 = 1 :=
  calc d.staleUsers.rd F.qntLoadStat_state 2
      = (d.wr F.qntLoadStat_state 2 1).rd F.qntLoadStat_state 2 := Dev.rd_wr_field _ _ _ _ rfl (by decide) (by decide)
    _ = 1 := Dev.rd_wr_same _ _ _ _ _ (by decide)

theorem Dev.staleUsers_users (d : Dev) : d.staleUsers.rd F.qntLoadStat_users 2 = 1 := Dev.rd_wr_same _ _ _ _ _ (by decide)

theorem Dev.staleUsers_waitedUsers {d : Dev} (h : d.descs = []) : d.staleUsers.waitedUsers = [] := by
  have idle : d.staleUsers.descs = [] := by rw [Dev.staleUsers, Dev.descs_wr, Dev.descs_wr, h]
  rw [Dev.waitedUsers, idle, List.filter_nil]

/-- Such a machine, otherwise as it comes out of reset. -/
def staleState : State := State.reset.put State.resetDev.staleUsers

/-- Refutes O30, by its clause on the WAITING load that runs: it has the command store a 0 in the place of USERS, and the
command stores nothing there (`Dev.loadRunning_users`). In `staleState` a 1 stands there, and stays. A read of QNT_LOAD_STAT
computes USERS, so no reader sees the difference; a clause that leaves USERS out is `exec_qntLoadRun_waited`. -/
theorem not_loadEngine : ¬ Obligations.LoadEngine := by
  unfold Obligations.LoadEngine
  intro h
  obtain ⟨-, -, -, hrun, -⟩ := h staleState (.ccSecure 0) staleState.start
  have hst : staleState.dev.rd F.qntLoadStat_state 2 = 1 := State.resetDev.staleUsers_state
  have hu : staleState.dev.waitedUsers = [] := Dev.staleUsers_waitedUsers rfl
  have hs : staleState.dev.rd F.qntLoadStat_users 2 ≠ 0 := ne_of_eq_of_ne State.resetDev.staleUsers_users Nat.one_ne_zero
  exact exec_qntLoadRun_ne_loadCleared hst hu hs (hrun hst hu)

end Sys2Proof.Machine
end

section
/-! Writes of the optimiser's registers that work in flight depends on. -/

namespace Sys2Proof.Machine

variable {d : Dev} {r : RegName} {i : Image} {t : Tx}

theorem Dev.descs_captured (d : Dev) (page kind : Nat) (isWrite : Bool) (world source req off size data : Nat) :
    (d.captured page kind isWrite world source req off size data).descs = d.descs := by
  unfold Dev.captured
  split
  · exact Dev.descs_wr ..
  · rw [Dev.descs_wr, Dev.descs_setWord, Dev.descs_setWord, Dev.descs_setWord, Dev.descs_setWord, Dev.descs_setWord]

/-- A descriptor in flight depends on the register (R225, R262). -/
def Dev.dependsOn (d : Dev) (r : RegName) : Prop :=
  (r = .optGsc ∧ ∃ x ∈ d.descs, x.opcode = 0x20) ∨
  (r ∈ [.optUrec, .optHpdir, .optHpcnt, .optStash] ∧ ∃ x ∈ d.descs, x.opcode ∈ [0x21, 0x22, 0x12]) ∨
  (r = .optSite ∧ d.descs ≠ [])

theorem Dev.dependsOn.of_descs {e : Dev} (h : d.dependsOn r) (he : e.descs = d.descs) : e.dependsOn r := by
  unfold Dev.dependsOn
  rwa [he]

theorem Dev.dispatched_of_mem {ops : List Nat} (h : ∃ x ∈ d.descs, x.opcode ∈ ops) : d.dispatched ops = true := by
  obtain ⟨x, hx, ho⟩ := h
  exact List.any_eq_true.mpr ⟨x, hx, List.elem_eq_true_of_mem ho⟩

theorem Dev.not_updateQuiet (h : ∃ x ∈ d.descs, x.opcode ∈ [0x21, 0x22, 0x12]) : d.updateQuiet = false := by
  have hd : d.dispatched [0x12, 0x21, 0x22] = true := by
    obtain ⟨x, hx, ho⟩ := h
    exact Dev.dispatched_of_mem ⟨x, hx, by simp only [List.mem_cons, List.not_mem_nil] at ho ⊢; tauto⟩
  rw [Dev.updateQuiet, hd, Bool.not_true]

/-- The condition of such a register fails, whatever is written. -/
theorem Dev.dependsOn.not_takes (h : d.dependsOn r) (page idx old v : Nat) : d.takes r page idx old v = false := by
  obtain ⟨rfl, x, hx, ho⟩ | ⟨hr, hx⟩ | ⟨rfl, hn⟩ := h
  · have hd : d.dispatched [0x20] = true := Dev.dispatched_of_mem ⟨x, hx, List.mem_singleton.mpr ho⟩
    simp only [Dev.takes, hd, Bool.not_true]
  · have hq := Dev.not_updateQuiet hx
    simp only [List.mem_cons, List.not_mem_nil, or_false] at hr
    obtain rfl | rfl | rfl | rfl := hr
    all_goals simp only [Dev.takes, hq, Bool.false_and]
  · simp only [Dev.takes, Dev.noneDispatched, List.isEmpty_eq_false_iff.mpr hn]

theorem Dev.dependsOn.writable (h : d.dependsOn r) : (r.info.fields.all fun f => f.acc == .ro) = false := by
  obtain ⟨rfl, -⟩ | ⟨hr, -⟩ | ⟨rfl, -⟩ := h
  · decide
  · simp only [List.mem_cons, List.not_mem_nil, or_false] at hr
    obtain rfl | rfl | rfl | rfl := hr
    all_goals decide
  · decide

/-- A write that enters the error capture of its page (R532). -/
def RegAcc.captured (w : RegAcc) (kind : Nat) (d : Dev) : Dev :=
  d.captured w.page kind true (worldOf w.agent) (agentSource w.agent) (agentReq w.agent) (w.page * 4096 + w.off) w.size w.data

theorem RegAcc.run_capture (w : RegAcc) (kind : Nat) (i : Image) (t : Tx) :
    w.capture kind i t = .ok () ⟨w.captured kind t.dev, t.log⟩ := rfl

/-- The lock is judged first (R19, log entry 136), and a write that it has stopped is not captured again. -/
theorem Dev.dependsOn.run_regPut (h : t.dev.dependsOn r) (page idx v : Nat) (w : RegAcc) :
    regPut r page idx v w i t = .ok () ⟨w.captured
      (if t.dev.rd F.pageWorld_lock w.page = 1 ∧ r.locked (t.dev.word r page idx) v ≠ v then kLOCKED else kIGNORED) t.dev,
      t.log⟩ := by
  have locked_not_takes (v' : Nat) : (w.captured kLOCKED t.dev).takes r page idx (t.dev.word r page idx) v' = false :=
    (h.of_descs (Dev.descs_captured ..)).not_takes ..
  simp only [regPut, run_bind, run_dev, chain_ok, h.writable, Bool.false_eq_true, if_false, RegAcc.ignore]
  by_cases hl : t.dev.rd F.pageWorld_lock w.page = 1
  · by_cases hv : r.locked (t.dev.word r page idx) v = v
    · simp only [hl, hv, if_true, ne_eq, not_true_eq_false, and_false, if_false, run_bind, run_dev, chain_ok, h.not_takes,
        Bool.false_eq_true, RegAcc.run_capture]
    · simp only [hl, hv, if_true, ne_eq, not_false_eq_true, and_self, run_bind, run_dev, chain_ok, RegAcc.run_capture,
        locked_not_takes, Bool.false_eq_true, if_false, run_pure]
  · simp only [hl, if_false, ne_eq, not_true_eq_false, false_and, run_bind, run_dev, chain_ok, h.not_takes,
      Bool.false_eq_true, RegAcc.run_capture]

theorem RegAcc.run_regWrite {w : RegAcc} {page idx v : Nat}
    (h : t.dev.target w.page w.off w.size w.data = some (some (r, page, idx, v))) :
    regWrite w i t = regPut r page idx v w i t := by
  simp only [regWrite, run_bind, run_dev, chain_ok, h]

/-- Settles O58: the register's condition fails in every machine with these descriptors, and the write is captured. -/
theorem heldRegisters : Obligations.HeldRegisters := by
  unfold Obligations.HeldRegisters
  intro s off size data a r page idx v w hw ht h
  have hd : s.dev.dependsOn r := h
  exact transact_reaches hw ((RegAcc.run_regWrite (t := s.start) ht).trans (hd.run_regPut page idx v w))

end Sys2Proof.Machine
end

section
/-! The scale rule: an order of dyadic numbers, its least exponent, and the search that finds it. -/

namespace Sys2Proof.Machine

variable {m : Nat} {x e : Int} {margin : Nat}

/-- The comparison of two numbers that are not below zero is one of integers, over the lower of their exponents. -/
theorem Val.cmp_ne_one_iff (m n : Nat) (x f : Int) : (Val.fin false m x).cmp (.fin false n f) ≠ 1 ↔
    m * 2 ^ (x - min x f).toNat ≤ n * 2 ^ (f - min x f).toNat := by
  have hg : (if x < f then x else f) = min x f := by rw [min_def]; split <;> split <;> omega
  simp only [Val.cmp, Val.scaled, hg, Bool.false_eq_true, if_false]
  split
  · omega
  · split <;> omega

/-- The comparison of R200, in the rationals. -/
theorem scaleFits_iff : scaleFits m x margin e ↔ (m : ℚ) * 2 ^ x ≤ 57344 * 2 ^ (e - margin) := by
  have lift (k y : Int) (h : k ≤ y) : (2 : ℚ) ^ y = 2 ^ (y - k).toNat * 2 ^ k := by
    rw [← zpow_natCast, Int.toNat_of_nonneg (by omega), ← zpow_add₀ two_ne_zero, Int.sub_add_cancel]
  unfold scaleFits
  rw [lift (min x (e - margin)) x (min_le_left ..), lift (min x (e - margin)) (e - margin) (min_le_right ..), ← mul_assoc,
    ← mul_assoc, mul_le_mul_iff_left₀ (by positivity)]
  exact_mod_cast Iff.rfl

theorem scaleFits_mono {e' : Int} (h : scaleFits m x margin e) (he : e ≤ e') : scaleFits m x margin e' := by
  rw [scaleFits_iff] at *
  refine h.trans (mul_le_mul_of_nonneg_left ?_ (by norm_num))
  exact zpow_le_zpow_right₀ one_le_two (by omega)

theorem scaleFits_large : scaleFits m x margin (x + margin + m) := by
  rw [scaleFits_iff, show x + margin + m - margin = x + m by omega, zpow_add₀ two_ne_zero, mul_comm ((2 : ℚ) ^ x), ← mul_assoc]
  refine mul_le_mul_of_nonneg_right ?_ (by positivity)
  have hm : (m : ℚ) < 2 ^ m := by exact_mod_cast Nat.lt_two_pow_self
  rw [zpow_natCast]
  linarith

theorem le_of_scaleFits (hm : 0 < m) (h : scaleFits m x margin e) : x + margin - 16 ≤ e := by
  rw [scaleFits_iff] at h
  have hx : (2 : ℚ) ^ x < 2 ^ (16 + (e - margin)) :=
    calc (2 : ℚ) ^ x ≤ m * 2 ^ x := le_mul_of_one_le_left (by positivity) (by exact_mod_cast hm)
      _ ≤ 57344 * 2 ^ (e - margin) := h
      _ < 2 ^ (16 : Int) * 2 ^ (e - margin) := mul_lt_mul_of_pos_right (by norm_num) (by positivity)
      _ = 2 ^ (16 + (e - margin)) := (zpow_add₀ two_ne_zero _ _).symm
  have := (zpow_lt_zpow_iff_right₀ one_lt_two).mp hx
  omega

/-- Above zero the comparison holds from one exponent on. -/
theorem exists_scaleFits_from (hm : 0 < m) (x : Int) (margin : Nat) : ∃ e, ∀ e', scaleFits m x margin e' ↔ e ≤ e' := by
  obtain ⟨e, he, hl⟩ := Int.exists_least_of_bdd (P := scaleFits m x margin) ⟨_, fun _ => le_of_scaleFits hm⟩
    ⟨_, scaleFits_large⟩
  exact ⟨e, fun e' => ⟨hl e', scaleFits_mono he⟩⟩

/-- The search of the scale rule, from −128 up, for the exponent from which its test holds: it ends with 112. -/
theorem scaleSearch {fits : Nat → Bool} (h : ∀ i : Nat, fits i = true ↔ e ≤ (i : Int) - 128) :
    (match (List.range 241).find? fits with
      | some i => (i : Int) - 128
      | none => 112) = max (-128) (min 112 e) := by
  cases hf : (List.range 241).find? fits with
  | none =>
    have last := List.find?_eq_none.mp hf 240 (by decide)
    rw [h] at last
    simp only
    omega
  | some i =>
    obtain ⟨hi, hr, below⟩ := List.find?_range_eq_some.mp hf
    have hr := List.mem_range.mp hr
    rw [h] at hi
    have before : i = 0 ∨ ¬e ≤ ((i - 1 : Nat) : Int) - 128 := by
      rw [← h]
      rcases Nat.eq_zero_or_pos i with h0 | h0
      · exact .inl h0
      · exact .inr (by simpa using below (i - 1) (by omega))
    simp only
    omega

theorem scaleRule_pos {h : F32} (hv : h.val = .fin false m x) (hm : 0 < m) (he : ∀ e', scaleFits m x margin e' ↔ e ≤ e') :
    scaleRule h margin = some (max (-128) (min 112 e)) := by
  have above : h.val.cmp (.fin false 0 0) = 1 := by
    by_contra hc
    rw [hv, ← ne_eq, Val.cmp_ne_one_iff, Nat.zero_mul, Nat.le_zero] at hc
    exact absurd hc (by positivity)
  rw [scaleRule, if_neg (not_not.mpr above)]
  refine congrArg some (scaleSearch fun i => ?_)
  rw [← he, bne_iff_ne, hv, Val.cmp_ne_one_iff]
  rfl

theorem scaleRule_zero {h : F32} {neg : Bool} (hv : h.val = .fin neg 0 x) : scaleRule h margin = none := by
  have zero : h.val.cmp (.fin false 0 0) = 0 := by
    rw [hv]
    simp [Val.cmp, Val.scaled]
  rw [scaleRule, zero, if_pos (by decide)]

end Sys2Proof.Machine

namespace Sys2Proof

open Machine

/-- Settles O60: the comparison holds from its least exponent on, so the search ends there, or at the end of its range. -/
theorem scaleRule : Obligations.ScaleRule := by
  unfold Obligations.ScaleRule
  refine ⟨fun h margin m x hv hm _ => ?_, fun h neg x margin hv => scaleRule_zero hv, fun r t neg x hv => ?_,
    fun x g c neg e hv hr => ?_⟩
  · obtain ⟨e, he⟩ := exists_scaleFits_from hm x margin
    exact ⟨e, (he e).mpr le_rfl, fun e' hlt hf => absurd ((he e').mp hf) (by omega), scaleRule_pos hv hm he⟩
  · rw [ScaleRec.histScale, scaleRule_zero hv, Option.getD_none]
  · simp only [commitScale, hr, Bool.not_true, Bool.and_false, Bool.false_eq_true, if_false, scaleRule_zero hv,
      Option.getD_none]
    split <;> rfl

end Sys2Proof
end

section
/-! The lines that the last-level store holds: meanings that let none of them go, and updates of ranges whose lines are all
there. -/

namespace Sys2Proof.Machine

variable {α β : Type} {P : Dev → Prop} {d e : Dev}

/-- Every line held in `d` is held in `e`, perhaps with other contents. -/
def Dev.linesStay (d e : Dev) : Prop := ∀ n, (d.line n).isSome = true → (e.line n).isSome = true

theorem Dev.linesStay_of_ms (h : e.ms.lines = d.ms.lines) : d.linesStay e := by
  intro n hn
  unfold Dev.line at *
  rwa [h]

theorem Dev.linesStay.trans {f : Dev} (h : d.linesStay e) (g : e.linesStay f) : d.linesStay f := fun n hn => g n (h n hn)

theorem Dev.linesStay.held (h : d.linesStay e) {a len : Nat} (hd : d.linesHeld a len = true) : e.linesHeld a len = true := by
  unfold Dev.linesHeld at *
  rw [Bool.or_eq_true, List.all_eq_true] at *
  exact hd.imp_right fun hl n hn => h n (hl n hn)

/-! ### Changes of the machine -/

theorem Dev.ms_traced (d : Dev) (k inst op world q n len addr : Nat) : (d.traced k inst op world q n len addr).ms = d.ms := by
  unfold Dev.traced
  refine ite_keeps (Dev.ms · = d.ms) (ite_keeps (Dev.ms · = d.ms) rfl ?_) rfl
  rw [Dev.ms_bump]

theorem Dev.ms_captured (d : Dev) (page kind : Nat) (isWrite : Bool) (world source req off size data : Nat) :
    (d.captured page kind isWrite world source req off size data).ms = d.ms := by
  unfold Dev.captured
  split
  · exact Dev.ms_wr ..
  · rw [Dev.ms_wr, Dev.ms_setWord, Dev.ms_setWord, Dev.ms_setWord, Dev.ms_setWord, Dev.ms_setWord]

theorem Dev.lines_turnTo (d : Dev) (pc dir : Nat) : (d.turnTo pc dir).ms.lines = d.ms.lines := by
  unfold Dev.turnTo
  dsimp only
  split
  · rw [Dev.ms_bump]
  · rfl

/-! ### Meanings -/

/-- A meaning that lets no line go: neither where it ends or fails, nor by what it registers where it waits. -/
structure KeepsLines (m : M α) : Prop where
  out : ∀ i t, match m i t with
    | .ok _ u => t.dev.linesStay u.dev
    | .error (.fail _ _) u => t.dev.linesStay u.dev
    | .error (.wait reg) _ => ∀ d : Dev, d.linesStay (reg d)
    | .error .skip _ => True

theorem keepsLines_same {m : M α} (h : ∀ i t, ∃ a, m i t = .ok a t) : KeepsLines m := by
  refine ⟨fun i t => ?_⟩
  obtain ⟨a, e⟩ := h i t
  rw [e]
  exact fun _ hn => hn

theorem keepsLines_pure (a : α) : KeepsLines (pure a : M α) := keepsLines_same fun _ _ => ⟨a, rfl⟩
theorem keepsLines_dev : KeepsLines dev := keepsLines_same fun _ t => ⟨t.dev, rfl⟩
theorem keepsLines_now : KeepsLines now := keepsLines_same fun _ t => ⟨t.dev.time.et, rfl⟩
theorem keepsLines_rd (f : Fld) (p n : Nat) : KeepsLines (rd f p n) := keepsLines_same fun _ t => ⟨t.dev.rd f p n, rfl⟩
theorem keepsLines_skip : KeepsLines (skip : M α) := ⟨fun _ _ => trivial⟩
theorem keepsLines_fail (st rs : Nat) : KeepsLines (fail st rs : M α) := ⟨fun _ _ _ hn => hn⟩

theorem keepsLines_waitFor {f : Dev → Dev} (h : ∀ d : Dev, (f d).ms.lines = d.ms.lines) : KeepsLines (waitFor f : M α) :=
  ⟨fun _ _ d => Dev.linesStay_of_ms (h d)⟩

theorem keepsLines_modDev {f : Dev → Dev} (h : ∀ d : Dev, (f d).ms.lines = d.ms.lines) : KeepsLines (modDev f) :=
  ⟨fun _ t => Dev.linesStay_of_ms (h t.dev)⟩

theorem keepsLines_need (b : Bool) : KeepsLines (need b) := by
  cases b with
  | true => exact keepsLines_pure ()
  | false => exact keepsLines_skip

theorem keepsLines_bind {m : M α} {f : α → M β} (h : KeepsLines m) (g : ∀ a, KeepsLines (f a)) : KeepsLines (m >>= f) := by
  refine ⟨fun i t => ?_⟩
  rw [run_bind]
  have hm := h.out i t
  cases r : m i t with
  | error x u =>
    rw [r] at hm
    cases x <;> exact hm
  | ok a u =>
    rw [r] at hm
    have hg := (g a).out i u
    rw [chain_ok]
    cases r' : f a i u with
    | ok b v => rw [r'] at hg; exact hm.trans hg
    | error x v =>
      rw [r'] at hg
      cases x with
      | fail st rs => exact hm.trans hg
      | _ => exact hg

theorem keepsLines_ite {c : Prop} [Decidable c] {a b : M α} (h : KeepsLines a) (g : KeepsLines b) :
    KeepsLines (if c then a else b) := by
  split <;> assumption

/-- One of two ways, where the first goes on with the second. -/
theorem keepsLines_branch {c : Prop} [Decidable c] {a k : M α} (hk : KeepsLines k) (h : KeepsLines k → KeepsLines a) :
    KeepsLines (if c then a else k) := keepsLines_ite (h hk) hk

theorem keepsLines_each {l : List β} {f : β → M Unit} (h : ∀ b, KeepsLines (f b)) : KeepsLines (each l f) := by
  induction l with
  | nil => exact keepsLines_pure ()
  | cons b l ih => exact keepsLines_bind (h b) fun _ => ih

theorem keepsLines_caught {m : M α} (h : KeepsLines m) : KeepsLines (caught m) := by
  refine ⟨fun i t => ?_⟩
  have hm := h.out i t
  simp only [caught, run_tryCatch, run_bind]
  cases r : m i t with
  | ok a u => rw [r] at hm; exact hm
  | error x u => rw [r] at hm; cases x <;> exact hm

/-- An attempt keeps of a wait only what is registered, and of an event that cannot occur nothing. -/
theorem keepsLines_attempt {m : M Unit} (h : KeepsLines m) : KeepsLines (attempt m) := by
  refine ⟨fun i t => ?_⟩
  have hm := h.out i t
  simp only [attempt, run_bind, run_get, chain_ok, run_tryCatch]
  cases r : m i t with
  | ok a u => rw [r] at hm; exact hm
  | error x u =>
    rw [r] at hm
    cases x with
    | skip => exact fun _ hn => hn
    | wait reg => exact hm t.dev
    | fail st rs => exact hm

/-- What follows a change of the machine. -/
theorem keepsLines_change {f : Dev → Dev} {k : Unit → M α} (hf : ∀ d : Dev, (f d).ms.lines = d.ms.lines)
    (h : KeepsLines (k ())) : KeepsLines (modDev f >>= k) := keepsLines_bind (keepsLines_modDev hf) fun _ => h

theorem keepsLines_wr (f : Fld) (p v n : Nat) : KeepsLines (wr f p v n) := keepsLines_modDev fun _ => rfl
theorem keepsLines_bump (f : Fld) (p n : Nat) : KeepsLines (bump f p n) :=
  keepsLines_modDev fun d => congrArg MemSys.lines (Dev.ms_bump d f p n)
theorem keepsLines_raise (p b : Nat) : KeepsLines (raise p b) :=
  keepsLines_modDev fun d => congrArg MemSys.lines (Dev.ms_raised d p b)
theorem keepsLines_record (code sev page payload : Nat) : KeepsLines (record code sev page payload) :=
  keepsLines_modDev fun d => congrArg MemSys.lines (Dev.ms_event d code sev page payload)
theorem keepsLines_tap (k inst op world q n len addr : Nat) : KeepsLines (tap k inst op world q n len addr) :=
  keepsLines_modDev fun d => congrArg MemSys.lines (Dev.ms_traced d k inst op world q n len addr)
theorem keepsLines_captureEngine (page kind off : Nat) : KeepsLines (captureEngine page kind off) :=
  keepsLines_modDev fun d => congrArg MemSys.lines (Dev.ms_captured d ..)
theorem keepsLines_freeValue (n : Nat) : KeepsLines (freeValue n) :=
  keepsLines_bind keepsLines_dev fun _ => keepsLines_change (fun _ => rfl) (keepsLines_pure _)

theorem keepsLines_peeks (host : Bool) (n a : Nat) : KeepsLines (peeks host a n) :=
  keepsLines_same fun i t => run_peeks host i t n a

theorem keepsLines_pokes (host : Bool) (a : Nat) (bs : List Byte) : KeepsLines (pokes host a bs) := by
  induction bs generalizing a with
  | nil => exact keepsLines_pure ()
  | cons b bs ih => exact keepsLines_bind ⟨fun _ _ _ hn => hn⟩ fun _ => ih _

/-- A line that is set to some contents is held. -/
theorem keepsLines_setLine (n : Nat) (l : Line) : KeepsLines (setLine n (some l)) := by
  refine ⟨fun _ t k hk => ?_⟩
  show (SMap.get none (SMap.set none t.dev.ms.lines n (some l)) k).isSome = true
  by_cases h : n = k
  · rw [← h, SMap.get_set_same]
    rfl
  · rw [SMap.get_set_ne _ _ _ _ h]
    exact hk

/-! ### Accesses of local memory -/

theorem keepsLines_violation (source world kind : Nat) (region : Option Nat) (queue addr srcPage : Nat) :
    KeepsLines (violation source world kind region queue addr srcPage) := by
  refine keepsLines_bind (keepsLines_bump ..) fun _ => keepsLines_bind (keepsLines_rd ..) fun _ => keepsLines_ite ?_
    (keepsLines_record ..)
  exact keepsLines_bind (keepsLines_wr ..) fun _ => keepsLines_change (fun _ => rfl) <|
    keepsLines_bind keepsLines_now fun _ => keepsLines_bind (keepsLines_wr ..) fun _ =>
    keepsLines_bind (keepsLines_raise ..) fun _ => keepsLines_record ..

theorem keepsLines_localCheck (w : Who) (n : Need) (a len : Nat) : KeepsLines (localCheck w n a len) := by
  refine keepsLines_bind keepsLines_dev fun _ => keepsLines_ite ?_ (keepsLines_fail ..)
  refine keepsLines_bind keepsLines_dev fun _ => ?_
  dsimp only
  split
  · exact keepsLines_pure ()
  · exact keepsLines_bind (keepsLines_violation ..) fun _ => keepsLines_fail ..

theorem keepsLines_clear (w : Who) (isRead : Bool) (a len : Nat) : KeepsLines (clear! w isRead a len) := by
  refine keepsLines_bind keepsLines_dev fun _ => keepsLines_ite ?_ (keepsLines_pure ())
  split
  · exact keepsLines_skip
  · refine keepsLines_ite keepsLines_skip (keepsLines_waitFor fun d => ?_)
    refine ite_keeps (fun e : Dev => e.ms.lines = d.ms.lines) ?_ rfl
    rw [Dev.ms_bump]
    rfl

theorem keepsLines_regulate (w : Who) (key limit : Nat) (yields : Bool) (len : Nat) :
    KeepsLines (regulate w key limit yields len) :=
  keepsLines_bind keepsLines_dev fun _ => keepsLines_ite (keepsLines_modDev fun _ => rfl) (keepsLines_waitFor fun _ => rfl)

theorem keepsLines_carry (src dst len : Nat) : KeepsLines (carry src dst len) :=
  keepsLines_ite (keepsLines_bind (keepsLines_bump ..) fun _ => keepsLines_bind (keepsLines_bump ..) fun _ =>
    keepsLines_ite (keepsLines_bind (keepsLines_bump ..) fun _ => keepsLines_bump ..) (keepsLines_pure ()))
    (keepsLines_pure ())

theorem keepsLines_capoIssue (w : Who) (r p c len : Nat) : KeepsLines (capoIssue w r p c len) :=
  keepsLines_ite (keepsLines_pure ()) (keepsLines_bind keepsLines_dev fun _ => keepsLines_regulate ..)

theorem keepsLines_issue (w : Who) (op a len : Nat) : KeepsLines (issue w op a len) := by
  refine keepsLines_bind (keepsLines_capoIssue ..) fun _ => keepsLines_bind keepsLines_dev fun _ => keepsLines_branch
    (keepsLines_branch (keepsLines_bind (keepsLines_each fun _ => keepsLines_tap ..) fun _ => ?_) fun rest =>
      keepsLines_bind (keepsLines_tap ..) fun _ => rest) fun rest => keepsLines_bind (keepsLines_capoIssue ..) fun _ => rest
  split
  · exact keepsLines_ite (keepsLines_carry ..) (keepsLines_carry ..)
  · exact keepsLines_pure ()

theorem keepsLines_countFound (a len : Nat) : KeepsLines (countFound a len) :=
  keepsLines_bind keepsLines_dev fun _ => keepsLines_bind (keepsLines_bump ..) fun _ => keepsLines_pure _

theorem keepsLines_meter (w : Who) (hold : Bool) (a len : Nat) : KeepsLines (meter w hold a len) := by
  refine keepsLines_each fun _ => keepsLines_bind keepsLines_dev fun _ => ?_
  split
  · exact keepsLines_ite (keepsLines_regulate ..) (keepsLines_modDev fun _ => rfl)
  · exact keepsLines_modDev fun _ => rfl

theorem keepsLines_homeTraffic (w : Who) (isWrite : Bool) (a len : Nat) : KeepsLines (homeTraffic w isWrite a len) := by
  refine keepsLines_each fun g => ?_
  dsimp only
  cases homeOf g.1 with
  | hbm r o =>
    exact keepsLines_ite
      (keepsLines_bind (keepsLines_bump ..) fun _ => keepsLines_change (Dev.lines_turnTo · _ _) (keepsLines_tap ..))
      (keepsLines_bind (keepsLines_bump ..) fun _ => keepsLines_change (Dev.lines_turnTo · _ _) (keepsLines_tap ..))
  | cap r o =>
    exact keepsLines_ite (keepsLines_bind (keepsLines_bump ..) fun _ => keepsLines_tap ..)
      (keepsLines_bind (keepsLines_bump ..) fun _ => keepsLines_tap ..)
  | _ => exact keepsLines_pure ()

theorem keepsLines_clearMarks (a len : Nat) : KeepsLines (clearMarks a len) :=
  keepsLines_modDev fun d => ite_keeps (fun e : Dev => e.ms.lines = d.ms.lines) rfl rfl

theorem keepsLines_writeChecked (w : Who) (a : Nat) (bs : List Byte) : KeepsLines (writeChecked w a bs) := by
  refine keepsLines_bind (keepsLines_clear ..) fun _ => keepsLines_bind keepsLines_dev fun _ =>
    keepsLines_bind (keepsLines_need _) fun _ => keepsLines_bind (keepsLines_issue ..) fun _ =>
    keepsLines_bind (keepsLines_countFound ..) fun _ => keepsLines_bind (keepsLines_meter ..) fun _ =>
    keepsLines_bind (keepsLines_homeTraffic ..) fun _ => keepsLines_bind keepsLines_dev fun _ =>
    keepsLines_ite (keepsLines_pure ()) <| keepsLines_bind (keepsLines_clearMarks ..) fun _ =>
    keepsLines_bind (keepsLines_each fun n => keepsLines_bind keepsLines_dev fun d => ?_) fun _ => keepsLines_pokes ..
  split
  · exact keepsLines_setLine ..
  · exact keepsLines_pure ()

theorem keepsLines_writeLocal (w : Who) (a : Nat) (bs : List Byte) : KeepsLines (writeLocal w a bs) :=
  keepsLines_bind (keepsLines_localCheck ..) fun _ => keepsLines_writeChecked w a bs

/-! ### Access counters -/

theorem keepsLines_heatRecord (die : Nat) (h : Heat) (tier size pa : Nat) : KeepsLines (heatRecord die h tier size pa) := by
  refine keepsLines_bind (keepsLines_rd ..) fun _ => keepsLines_bind (keepsLines_rd ..) fun _ =>
    keepsLines_bind (keepsLines_rd ..) fun _ => keepsLines_ite (keepsLines_bump ..) ?_
  refine keepsLines_bind (keepsLines_same fun _ _ => ⟨_, rfl⟩) fun who => keepsLines_bind (keepsLines_rd ..) fun _ =>
    keepsLines_bind keepsLines_now fun et => keepsLines_bind (keepsLines_caught (keepsLines_writeLocal ..)) fun r => ?_
  cases r with
  | ok _ => exact keepsLines_bind (keepsLines_bump ..) fun _ => keepsLines_bind (keepsLines_wr ..) fun _ => keepsLines_raise ..
  | error _ => exact keepsLines_captureEngine ..

theorem keepsLines_heatCount (asid va pa leaf size : Nat) : KeepsLines (heatCount asid va pa leaf size) := by
  have told (die part : Nat) (h : Heat) (f : Heat → Heat) : KeepsLines (attempt do
      heatRecord die h part size pa
      modDev fun d => { d with xl := { d.xl with heat := d.xl.heat.map f } }) :=
    keepsLines_attempt (keepsLines_bind (keepsLines_heatRecord ..) fun _ => keepsLines_modDev fun _ => rfl)
  have count {die part : Nat} {own : Heat → Bool} {f : Dev → Dev} {mark : Heat → Heat → Heat}
      (hf : ∀ d : Dev, (f d).ms.lines = d.ms.lines) : KeepsLines (do
        modDev f
        match (← dev).xl.heat.find? own with
        | some h =>
          if (← rd F.migCfg_hot die) ≤ h.count && !h.told then attempt do
            heatRecord die h part size pa
            modDev fun d => { d with xl := { d.xl with heat := d.xl.heat.map (mark h) } }
        | none => pure ()) := by
    refine keepsLines_change hf <| keepsLines_bind keepsLines_dev fun d => ?_
    split
    · exact keepsLines_bind (keepsLines_rd ..) fun _ => keepsLines_ite (told ..) (keepsLines_pure ())
    · exact keepsLines_pure ()
  refine keepsLines_bind keepsLines_dev fun d => keepsLines_ite (keepsLines_bind (keepsLines_bump ..) fun _ => ?_)
    (keepsLines_pure ())
  refine keepsLines_branch (count fun _ => rfl) fun rest => keepsLines_branch (keepsLines_change (fun _ => rfl) rest)
    fun entered => keepsLines_bind (keepsLines_freeValue 64) fun i => ?_
  split
  · exact keepsLines_change (fun _ => rfl) <| keepsLines_bind (keepsLines_bump ..) fun _ => entered
  · exact entered

end Sys2Proof.Machine
end

section
/-! Updates of local memory whose lines are held: nothing has to make room for them. -/

namespace Sys2Proof.Machine

variable {α β : Type} {P Q R : Dev → Prop} {d : Dev} {a len : Nat} {i : Image} {t : Tx}

/-- A property that lasts while no line is let go. -/
def LineClosed (P : Dev → Prop) : Prop := ∀ d e : Dev, d.linesStay e → P d → P e

theorem lineClosed_linesHeld (a len : Nat) : LineClosed (·.linesHeld a len = true) := fun _ _ h hd => h.held hd

theorem lineClosed_rowHere (gs : List (List Seg)) : LineClosed (·.rowHere gs) := fun _ _ h hd p hp => h.held (hd p hp)

/-- A meaning that lets no line go leaves such a property. -/
theorem KeepsLines.total {m : M α} (hk : KeepsLines m) (hP : LineClosed P) (hm : Total Q R m) (hQ : ∀ d, Q d → P d) :
    Total Q P m := by
  refine ⟨fun i t ht => ?_⟩
  obtain ⟨a, u, e, -⟩ := hm.out i t ht
  have stay := hk.out i t
  rw [e] at stay
  exact ⟨a, u, e, hP _ _ stay (hQ _ ht)⟩

theorem total_each_mem {l : List β} {f : β → M Unit} (h : ∀ b ∈ l, Total P P (f b)) : Total P P (each l f) := by
  induction l with
  | nil => exact total_pure ()
  | cons b l ih => exact total_bind (h b List.mem_cons_self) fun _ => ih fun c hc => h c (List.mem_cons_of_mem b hc)

theorem linesOf_subset {n : Nat} (h : n ≤ len) : linesOf a n ⊆ linesOf a len := by
  intro k hk
  unfold linesOf range' at *
  split at hk
  · cases hk
  · rw [if_neg (by omega)]
    rw [List.mem_range'_1] at *
    omega

theorem Dev.linesHeld_le {n : Nat} (h : n ≤ len) (hd : d.linesHeld a len = true) : d.linesHeld a n = true := by
  unfold Dev.linesHeld at *
  rw [Bool.or_eq_true, List.all_eq_true] at *
  exact hd.imp_right fun hl k hk => hl k (linesOf_subset h hk)

/-- Lines that are held are not brought in. -/
theorem total_bringIn (hl : ∀ d, P d → d.linesHeld a len = true) : Total P P (bringIn a len) := by
  unfold bringIn
  split
  · exact total_pure ()
  · rename_i hp
    refine total_each_mem fun n hn => total_dev_bind fun d hd => ?_
    have held := hl d hd
    unfold Dev.linesHeld at held
    rw [beq_false_of_ne hp, Bool.false_or, List.all_eq_true] at held
    rw [if_neg (by rw [← Option.not_isSome, held n hn]; decide)]
    exact (total_pure ()).mono fun _ he => he ▸ hd

theorem total_dirtyLines (a len : Nat) : Total Always Always (dirtyLines a len) := by
  refine total_ite (total_pure ()) (total_each fun n => total_bind total_dev fun d => ?_)
  split
  · exact total_pure ()
  · exact total_bind (total_peeks ..) fun _ => total_always_modDev _

theorem keepsLines_dirtyLines (a len : Nat) : KeepsLines (dirtyLines a len) := by
  refine keepsLines_ite (keepsLines_pure ()) (keepsLines_each fun n => keepsLines_bind keepsLines_dev fun d => ?_)
  split
  · exact keepsLines_pure ()
  · exact keepsLines_bind (keepsLines_peeks ..) fun _ => keepsLines_setLine ..

/-- What follows once the lines of an update are there. -/
theorem total_updateChecked {op : Nat} {bs : List Byte} (hP : LineClosed P)
    (hl : ∀ d, P d → d.linesHeld a bs.length = true) : Total P P (updateChecked op a bs) := by
  have keep {m : M Unit} (hk : KeepsLines m) (hm : Total Always Always m) : Total P P m :=
    hk.total hP hm.anywhere fun _ h => h
  have store : Total P P (do
      if (← dev).outOfService a then pure () else
        clearMarks a bs.length
        pokes false a bs) :=
    total_bind total_dev fun d => total_ite (total_pure ()) <|
      total_bind (keep (keepsLines_clearMarks ..) (total_always_modDev _)) fun _ => keep (keepsLines_pokes ..) (total_pokes ..)
  exact total_bind (total_bringIn hl) fun _ => total_bind (keep (keepsLines_dirtyLines ..) (total_dirtyLines ..)) fun _ =>
    total_when (keep (keepsLines_bump ..) (total_always_modDev _)) store

/-- One of two ways, where the first goes on with the second. -/
theorem total_branch {c : Prop} [Decidable c] {m k : M α} (hk : Total P Q k) (h : Total P Q k → Total P Q m) :
    Total P Q (if c then m else k) := total_ite (h hk) hk

/-- What follows a result ends where the result leaves what it asks for. -/
theorem chain_ends {r : EStateM.Result Stop Tx α} {k : α → M β} (hr : ∃ a u, r = .ok a u ∧ P u.dev)
    (hk : ∀ a, Total P Always (k a)) : ∃ b u, chain r k i = .ok b u := by
  obtain ⟨a, u, rfl, hu⟩ := hr
  obtain ⟨b, v, e, -⟩ := (hk a).out i u hu
  exact ⟨b, v, e⟩

/-! ### Atomics on records (R203, R328) -/

theorem run_localCheck {w : Who} {n : Need} (h : t.dev.accessFree n w.world a len) :
    localCheck w n a len i t = .ok () t := by
  obtain ⟨⟨⟩, ⟨dev, log⟩, e, hd⟩ := (total_localCheck h).out i t rfl
  have hl := quiet_localCheck w n a len i t
  rw [e] at hl
  rw [e, show (⟨dev, log⟩ : Tx) = t from congrArg₂ Tx.mk hd hl]

/-- A hit is counted, and goes to no controller. -/
theorem total_countHit_held (w : Who) : Total (·.linesHeld a len = true) (·.linesHeld a len = true) (countHit w a len) := by
  refine ⟨fun i t ht => ⟨(), { t with dev := t.dev.bump F.llsHits_count (owningSlice a) 1 }, ?_, ?_⟩⟩
  · simp only [countHit, countFound, run_bind, run_dev, chain_ok, ht, if_true, run_bump, run_pure]
  · exact (Dev.linesStay_of_ms (congrArg MemSys.lines (Dev.ms_bump ..))).held ht

theorem total_atomicLocal {w : Who} {f : List Byte → List Byte} (hw : 5 ≤ w.cls) (h : d.atomicFree w.world a len)
    (hf : ∀ bs, (f bs).length = len) : Total (· = d) Always (atomicLocal w .record a len f) := by
  obtain ⟨hfree, hwait, hlines⟩ := h
  obtain ⟨-, -, -, hmove, hthrottle⟩ := id hfree
  have issued : Total (· = d) (·.linesHeld a len = true) (issue w 2 a len) :=
    (keepsLines_issue ..).total (lineClosed_linesHeld a len) ⟨fun i t ht => (total_issue hw 2 a len).out i t (ht ▸ hthrottle)⟩
      fun e he => he ▸ hlines
  refine total_bind (total_localCheck hfree) fun _ => total_bind (Q := (· = d)) ?_ fun _ => total_bind issued fun _ =>
    total_bind (total_countHit_held w) fun _ => total_bind (total_peeks ..) fun old => total_bind ?_ fun _ => total_pure _
  · refine total_bind (total_clear hwait) fun _ => total_dev_bind fun e he => ?_
    subst he
    exact total_need fun _ _ => by rw [hmove]; rfl
  · exact (total_updateChecked (lineClosed_linesHeld a len) fun e he => by rwa [hf]).mono fun _ _ => True.intro

/-- The access source of an intake for its scale-control record (R203). -/
def Dev.recordWho (d : Dev) (x : Desc) : Who := ⟨8, 0, 5, d.pageWorld (pg bOPT 8), x.q, x.seq, pg bOPT 8, 3⟩

theorem run_structWho_record (x : Desc) (i : Image) (t : Tx) :
    structWho 8 0 5 (pg bOPT 8) x.q x.seq i t = .ok (t.dev.recordWho x) t := rfl

/-- The atomic of an intake on its scale-control record is made where nothing holds it. -/
theorem recordAtomic_ends {x : Desc} (f : ScaleRec → ScaleRec)
    (h : t.dev.atomicFree (t.dev.pageWorld (pg bOPT 8)) (t.dev.gscAddr x.giTable) 128) :
    ∃ r u, recordAtomic x f i t = .ok r u ∧ Always u.dev := by
  obtain ⟨old, u, e, -⟩ := (total_atomicLocal (w := t.dev.recordWho x) (f := fun bs => toBytes 128 (f (fromBytes bs))) le_rfl h
    fun _ => length_toBytes ..).out i t rfl
  refine ⟨fromBytes old, u, ?_, trivial⟩
  simp only [recordAtomic, run_bind, run_structWho_record, run_dev, chain_ok, run_pure, e]

end Sys2Proof.Machine
end

section
/-! GRAD_INTAKE: its counting pass, and its commit. -/

namespace Sys2Proof.Machine

variable {s : State} {q : Fin 1024} {seq : BitVec 32} {x : Desc} {g : Intake} {c : GradCount} {t : Tx}

theorem exec_intakeCountEnd_counting (hx : s.dev.desc q.val seq.toNat = some x) (he : x.ended = false)
    (hw : x.work = .intake g) (hr : s.dev.intakeRuns x = true) (hc : g.counted = none) :
    exec (.intakeCountEnd q seq) s = transact (endCount x g) s := by
  refine transact_congr ?_
  simp only [run_bind, run_getDesc (t := s.start) hx, chain_ok, hw, run_dev, start_dev, run_need, he, hr, hc,
    Option.isNone_none, Bool.not_false, Bool.and_true, if_true]

theorem exec_intakeCommit_counted (hx : s.dev.desc q.val seq.toNat = some x) (he : x.ended = false)
    (hw : x.work = .intake g) (hr : s.dev.intakeRuns x = true) (hc : g.counted = some c) :
    exec (.intakeCommit q seq) s = transact (orEnd q.val seq.toNat (intakeCommit x g c)) s := by
  refine transact_congr ?_
  simp only [run_bind, run_getDesc (t := s.start) hx, chain_ok, hw, run_dev, start_dev, run_need, he, hr, hc, run_have_some,
    Bool.not_false, Bool.and_true, if_true]

/-- What an intake does once it has counted, where the saturation does not hold it: it goes on to write. -/
def countKept (x : Desc) (g : Intake) (c : GradCount) : M Unit := do
  if c.nf ≠ 0 then raiseFlag x.q x.seq fNONFINITE
  setWork x.q x.seq (.intake { g with counted := some c })

theorem total_countKept (x : Desc) (g : Intake) (c : GradCount) : Total Always Always (countKept x g c) :=
  total_when (total_modDesc ..) (total_setWork ..)

theorem run_endCount_kept (hc : s.tensorCounts x g c t) (hh : holds x g c = false) :
    endCount x g s.image s.start = .ok () (ran (countKept x g c) s.image t) := by
  unfold State.tensorCounts Runs at hc
  refine run_orEnd ?_
  rw [← runs_ran ((total_countKept x g c).ends s.image t)]
  simp only [run_bind, hc, chain_ok, hh, Bool.false_eq_true, if_false]
  rfl

/-- What a commit does once its record is written: it counts, shows and ends. -/
theorem total_commitEnd {old above below repaired : Bool} {bytes coh : Nat} : Total Always Always (do
    if old then bump F.optGscOld_count 8
    if above then
      bump F.optGscFlagged_count 8
      raiseFlag x.q x.seq fSCALE_OVER
    if below then raiseFlag x.q x.seq fSCALE_UNDER
    if repaired then
      bump F.optGscRepaired_count 8
      each (maskRegions x.giMask) fun r => bump F.optGiRepairs_count r
    progress x.q x.seq x.length bytes coh
    endDesc x.q x.seq) := by
  have ended : Total Always Always (do progress x.q x.seq x.length bytes coh; endDesc x.q x.seq) :=
    total_bind (total_progress ..) fun _ => total_endDesc ..
  exact total_branch (total_branch (total_branch (total_branch ended
    fun rest => total_change <| total_bind (total_each fun _ => total_always_modDev _) fun _ => rest)
    fun rest => total_bind (total_modDesc ..) fun _ => rest)
    fun rest => total_change <| total_bind (total_modDesc ..) fun _ => rest)
    fun rest => total_change rest

/-- Payload, header and record of a commit are written. -/
theorem intakeCommit_ends {w : Written} (hw : s.tensorWrites x (commitScale x g c).1 (commitScale x g c).2.2 w t)
    (hf : s.commitFree x (commitHeader x g c w) t) : ∃ r u, intakeCommit x g c s.image s.start = .ok r u := by
  obtain ⟨hrec, et, v, hhead, hrec'⟩ := hf
  unfold State.tensorWrites Runs at hw
  unfold Runs at hhead
  have checked := run_localCheck (i := s.image) (w := t.dev.recordWho x) hrec.1
  simp only [intakeCommit, run_bind, hw, chain_ok, run_dev, run_structWho_record, checked, hhead, run_now]
  exact chain_ends (recordAtomic_ends _ hrec') fun _ => total_commitEnd

end Sys2Proof.Machine
end

section
/-! REQUANT: the rows it takes, and its end. -/

namespace Sys2Proof.Machine

variable {s : State} {q : Fin 1024} {seq : BitVec 32} {x : Desc} {n : Nat} {st st' : Stats} {t t' : Tx} {P : Dev → Prop}

/-! ### The command -/

theorem exec_requantRow_last (hx : s.dev.desc q.val seq.toNat = some x) (he : x.ended = false) (hw : x.work = .requant n st)
    (hl : x.stopping = true ∨ x.length ≤ n) : exec (.requantRow q seq) s = transact (endRequant x st) s := by
  have last : (x.stopping || decide (x.length ≤ n)) = true := by simpa using hl
  refine transact_congr ?_
  simp only [run_bind, run_getDesc (t := s.start) hx, chain_ok, hw, run_need, he, Bool.not_false, if_true, last]

theorem exec_requantRow_next (hx : s.dev.desc q.val seq.toNat = some x) (he : x.ended = false) (hw : x.work = .requant n st)
    (hs : x.stopping = false) (hn : n + 1 < x.length) (hh : s.dev.scaleHeld x = false)
    (hr : Runs (requantRow x n st) s.image s.start st' t) (hu : Runs (setWork x.q x.seq (.requant (n + 1) st')) s.image t () t') :
    exec (.requantRow q seq) s = .next (settle s t') := by
  have more : (x.stopping || decide (x.length ≤ n)) = false := by
    rw [hs, Bool.false_or, decide_eq_false_iff_not]
    omega
  unfold Runs at hu
  refine transact_runs ?_
  unfold Runs
  simp only [run_bind, run_getDesc (t := s.start) hx, chain_ok, hw, run_need, he, Bool.not_false, if_true, more,
    Bool.false_eq_true, if_false, run_dev, start_dev, hh, run_caught hr, hu, if_neg hn.ne, run_pure]

/-! ### Its end -/

theorem run_foldStats_off {table : Nat} {i : Image} (h : t.dev.foldsNothing) : foldStats x table st i t = .ok () t := by
  have off : (t.dev.rd F.qntStats_enable 2 == 1) = false := by rw [show t.dev.rd F.qntStats_enable 2 = 0 from h]; rfl
  simp only [foldStats, run_bind, run_rdB, chain_ok, off, Bool.false_and, Bool.false_eq_true, if_false, run_pure]

theorem Dev.desc_self {d : Dev} {q n : Nat} (h : d.desc q n = some x) : d.desc x.q x.seq = some x := by
  have key := List.find?_some h
  rw [Bool.and_eq_true, beq_iff_eq, beq_iff_eq] at key
  rw [key.1, key.2, h]

/-- With no RESULT address, and nothing to fold, nothing of the end has to wait. -/
theorem endRequant_ends {i : Image} (hx : t.dev.desc x.q x.seq = some x) (hr : x.rqResult = 0)
    (hf : x.rqMeasure = true ∨ t.dev.foldsNothing) : ∃ u, endRequant x st i t = .ok () u := by
  have shown (b : Bool) : Total Always Always (do
      if b then raiseFlag x.q x.seq fREQUANT_ERR_HIGH
      endDesc x.q x.seq) := total_when (total_modDesc ..) (total_endDesc ..)
  simp only [endRequant, endStats, run_bind, run_getDesc hx, chain_ok, run_dev, hr, ne_eq, not_true_eq_false, if_false]
  cases hm : x.rqMeasure with
  | true => exact (shown _).ends i t
  | false =>
    have off : t.dev.foldsNothing := hf.resolve_left (by rw [hm]; decide)
    simp only [Bool.not_false, if_true, run_bind, run_caught (run_foldStats_off off), chain_ok]
    exact (shown _).ends i t

/-! ### A row -/

theorem total_groupRead (g : List Seg) : Total P P (groupRead g) :=
  total_bind (total_collect fun _ => total_peeks ..) fun _ => total_pure _

theorem total_readRow (tab : Table) (gs : List (List Seg)) : Total P P (readRow tab gs) := by
  refine total_bind (total_groupRead _) fun _ => total_ite (total_pure _) (total_ite ?_ (total_pure _))
  exact total_bind (total_groupRead _) fun _ => total_pure _

/-- A row operation of the secure world meets no row that it may not use (R229). -/
theorem secureCheck_secure {who : Who} (h : who.world = 1) (tab : Table) (k : Husk) (gs : List (List Seg)) :
    secureCheck who tab k gs = pure () := by
  rw [secureCheck, h]
  rfl

theorem total_heatRow (asid : Nat) (gs : List (List Seg)) : Total Always Always (heatRow asid gs) := by
  unfold heatRow
  split
  · exact total_heatCount ..
  · exact total_pure ()

theorem keepsLines_heatRow (asid : Nat) (gs : List (List Seg)) : KeepsLines (heatRow asid gs) := by
  unfold heatRow
  split
  · exact keepsLines_heatCount ..
  · exact keepsLines_pure ()

theorem total_countEncode (die k : Nat) (e : Option Encoded) : Total Always Always (countEncode die k e) := by
  cases e with
  | none => exact (total_always_modDev _ : Total Always Always (bump F.qntNfRows_count die))
  | some e => exact total_change <| total_change <| total_change <| total_ite (total_always_modDev _) (total_pure ())

theorem keepsLines_countEncode (die k : Nat) (e : Option Encoded) : KeepsLines (countEncode die k e) := by
  cases e with
  | none => exact keepsLines_bump ..
  | some e =>
    exact keepsLines_bind (keepsLines_bump ..) fun _ => keepsLines_bind (keepsLines_bump ..) fun _ =>
      keepsLines_bind (keepsLines_bump ..) fun _ => keepsLines_ite (keepsLines_bump ..) (keepsLines_pure ())

theorem total_groupWrite {op : Nat} {g : List Seg} {bs : List Byte} (hP : LineClosed P)
    (hl : ∀ p ∈ g, ∀ d, P d → d.linesHeld (p.pa % 2 ^ 46) p.len = true) : Total P P (groupWrite op g bs) := by
  induction g generalizing bs with
  | nil => exact total_pure ()
  | cons p g ih =>
    refine total_bind (total_updateChecked hP fun d hd => ?_) fun _ => ih fun r hr => hl r (List.mem_cons_of_mem p hr)
    exact Dev.linesHeld_le (List.length_take_le ..) (hl p List.mem_cons_self d hd)

/-- A row whose lines are held is written at once. -/
theorem total_writeRow (tab : Table) (gs : List (List Seg)) (k : Husk) (bs : List Byte) :
    Total (·.rowHere gs) (·.rowHere gs) (writeRow tab gs k bs) := by
  have write {g : List Seg} (hg : ∀ p ∈ g, p ∈ gs.flatten) (bs : List Byte) :
      Total (·.rowHere gs) (·.rowHere gs) (groupWrite 3 g bs) :=
    total_groupWrite (lineClosed_rowHere gs) fun p hp d hd => hd p.at' (List.mem_map_of_mem (hg p hp))
  have head : ∀ p ∈ gs.headD [], p ∈ gs.flatten := by
    cases gs with
    | nil => exact fun _ h => nomatch h
    | cons g gs => exact fun _ h => List.mem_flatten_of_mem List.mem_cons_self h
  have husk : ∀ p ∈ gs.getD 1 [], p ∈ gs.flatten := by
    match gs with
    | [] => exact fun _ h => nomatch h
    | [_] => exact fun _ h => nomatch h
    | _ :: g :: gs => exact fun _ h => List.mem_flatten_of_mem (List.mem_cons_of_mem _ List.mem_cons_self) h
  exact total_ite (write head _) (total_bind (write head _) fun _ => total_ite (write husk _) (total_pure ()))

/-- A row is only measured, or the lines of its pieces are held. -/
def Desc.rowReady (x : Desc) (gs : List (List Seg)) (d : Dev) : Prop := x.rqMeasure = true ∨ d.rowHere gs

theorem lineClosed_rowReady (x : Desc) (gs : List (List Seg)) : LineClosed (x.rowReady gs) :=
  fun d e h => Or.imp_right (lineClosed_rowHere gs d e h)

theorem total_writeRow_ready {gs : List (List Seg)} (hm : x.rqMeasure = false) (tab : Table) (k : Husk) (bs : List Byte) :
    Total (x.rowReady gs) Always (writeRow tab gs k bs) := by
  refine ⟨fun i t ht => ?_⟩
  obtain ⟨a, u, e, -⟩ := (total_writeRow tab gs k bs).out i t (ht.resolve_left (by rw [hm]; decide))
  exact ⟨a, u, e, trivial⟩

/-- A row that is open runs to its end where it is only measured, or where its lines are held: the secure world passes the
check of R229, and what is counted meanwhile lets no line go. -/
theorem requantRow_ends {src dst : List (List Seg)} (ho : s.requantOpens x n src dst t) (hd : x.rowReady dst t.dev)
    (hw : s.dev.queueWorld x.q = 1) : ∃ st' u, requantRow x n st s.image s.start = .ok st' u := by
  have keep {m : M Unit} (hk : KeepsLines m) (hm : Total Always Always m) : Total (x.rowReady dst) (x.rowReady dst) m :=
    hk.total (lineClosed_rowReady x dst) hm.anywhere fun _ h => h
  have shown {P : Dev → Prop} (bytes : Nat) (y : Stats) : Total P Always (do
      progress x.q x.seq 1 bytes (← now)
      return y) :=
    (total_bind total_now fun et => total_bind (total_progress ..) fun _ => total_pure y).anywhere
  have secure (r : Nat) : (optWho r (s.dev.queueWorld x.q) x.q x.seq).world = 1 := hw
  unfold State.requantOpens Runs at ho
  simp only [requantRow, run_bind, run_dev, start_dev, chain_ok, ho, secureCheck_secure (secure _)]
  refine chain_ends ((total_readRow ..).out _ t hd) fun (hs, ps) => ?_
  refine total_bind (total_pure ()) fun _ => total_bind (total_readRow ..) fun (ht, _) => total_bind (total_pure ()) fun _ =>
    total_bind (keep (keepsLines_heatRow ..) (total_heatRow ..)) fun _ =>
    total_bind (keep (keepsLines_countEncode ..) (total_countEncode ..)) fun _ => ?_
  split
  · exact (total_bind (total_modDesc ..) fun _ => total_pure _).anywhere
  · cases hm : x.rqMeasure with
    | true => exact shown ..
    | false => exact total_bind (total_writeRow_ready hm ..) fun _ => shown ..

/-! ### The statement -/

/-- Settles O27: each command is the meaning of its descriptor's work, and that runs to its end where nothing holds what it
accesses. -/
theorem intakeAndRequant : Obligations.IntakeAndRequant := by
  unfold Obligations.IntakeAndRequant
  intro s q seq x t hx he
  refine ⟨fun g hw hr => ⟨fun hc => ⟨fun h => ?_, fun c hc' hh => ?_⟩, fun c hc => ⟨fun h => ?_, fun w htw hf => ?_⟩⟩,
    fun n st hw => ⟨fun hl => ⟨fun h => ?_, fun hres hm => ?_⟩,
      fun hs hn hh => ⟨fun st' t' h h' => ?_, fun src dst ho hm hq => ?_⟩⟩⟩
  · exact (exec_intakeCountEnd_counting hx he hw hr hc).trans (transact_runs h)
  · exact (exec_intakeCountEnd_counting hx he hw hr hc).trans (transact_runs (run_endCount_kept hc' hh))
  · exact (exec_intakeCommit_counted hx he hw hr hc).trans (transact_runs (run_orEnd h))
  · obtain ⟨⟨⟩, u, hu⟩ := intakeCommit_ends htw hf
    exact (exec_intakeCommit_counted hx he hw hr hc).trans (transact_after ((run_orEnd hu).trans hu.symm) ⟨u, hu⟩)
  · exact (exec_requantRow_last hx he hw hl).trans (transact_runs h)
  · exact (exec_requantRow_last hx he hw hl).trans
      (transact_after rfl (endRequant_ends (t := s.start) (Dev.desc_self hx) hres hm))
  · exact exec_requantRow_next hx he hw hs hn hh h h'
  · obtain ⟨st', u, hu⟩ := requantRow_ends (st := st) ho hm hq
    obtain ⟨v, hv⟩ := (total_setWork x.q x.seq (.requant (n + 1) st')).ends s.image u
    exact ⟨st', u, v, hu, hv, exec_requantRow_next hx he hw hs hn hh hu hv⟩

end Sys2Proof.Machine
end

section
/-! Meanings that keep a property of the machine, whichever way they end: the frame under the steps of the row work. -/

namespace Sys2Proof.Machine

variable {α β : Type} {P Q R : Dev → Prop} {d e f : Dev}

/-- A meaning that keeps `P` where it ends or fails, and by what it registers where it waits. -/
structure Keeps (P : Dev → Prop) (m : M α) : Prop where
  out : ∀ i t, P t.dev → match m i t with
    | .ok _ u => P u.dev
    | .error (.fail _ _) u => P u.dev
    | .error (.wait reg) _ => ∀ d : Dev, P d → P (reg d)
    | .error .skip _ => True

theorem keeps_same {m : M α} (h : ∀ i t, ∃ a, m i t = .ok a t) : Keeps P m := by
  refine ⟨fun i t ht => ?_⟩
  obtain ⟨a, e⟩ := h i t
  rw [e]
  exact ht

theorem keeps_pure (a : α) : Keeps P (pure a : M α) := keeps_same fun _ _ => ⟨a, rfl⟩
theorem keeps_dev : Keeps P dev := keeps_same fun _ t => ⟨t.dev, rfl⟩
theorem keeps_now : Keeps P now := keeps_same fun _ t => ⟨t.dev.time.et, rfl⟩
theorem keeps_rd (f : Fld) (p n : Nat) : Keeps P (rd f p n) := keeps_same fun _ t => ⟨t.dev.rd f p n, rfl⟩
theorem keeps_peeks (host : Bool) (n a : Nat) : Keeps P (peeks host a n) := keeps_same fun i t => run_peeks host i t n a
theorem keeps_skip : Keeps P (skip : M α) := ⟨fun _ _ _ => trivial⟩
theorem keeps_fail (st rs : Nat) : Keeps P (fail st rs : M α) := ⟨fun _ _ ht => ht⟩
theorem keeps_waitFor {f : Dev → Dev} (h : ∀ d, P d → P (f d)) : Keeps P (waitFor f : M α) := ⟨fun _ _ _ => h⟩
theorem keeps_modDev {f : Dev → Dev} (h : ∀ d, P d → P (f d)) : Keeps P (modDev f) := ⟨fun _ t => h t.dev⟩

theorem keeps_need (b : Bool) : Keeps P (need b) := by
  cases b with
  | true => exact keeps_pure ()
  | false => exact keeps_skip

theorem keeps_have (o : Option α) : Keeps P (have! o) := by
  cases o with
  | some a => exact keeps_pure a
  | none => exact keeps_skip

theorem keeps_bind {m : M α} {f : α → M β} (h : Keeps P m) (g : ∀ a, Keeps P (f a)) : Keeps P (m >>= f) := by
  refine ⟨fun i t ht => ?_⟩
  rw [run_bind]
  have hm := h.out i t ht
  cases r : m i t with
  | error x u =>
    rw [r] at hm
    cases x <;> exact hm
  | ok a u =>
    rw [r] at hm
    exact (g a).out i u hm

theorem keeps_ite {c : Prop} [Decidable c] {a b : M α} (h : Keeps P a) (g : Keeps P b) : Keeps P (if c then a else b) := by
  split <;> assumption

/-- One of two ways, where the first goes on with the second. -/
theorem keeps_branch {c : Prop} [Decidable c] {a k : M α} (hk : Keeps P k) (h : Keeps P k → Keeps P a) :
    Keeps P (if c then a else k) := keeps_ite (h hk) hk

theorem keeps_each {l : List β} {f : β → M Unit} (h : ∀ b, Keeps P (f b)) : Keeps P (each l f) := by
  induction l with
  | nil => exact keeps_pure ()
  | cons b l ih => exact keeps_bind (h b) fun _ => ih

theorem keeps_pokes (host : Bool) (a : Nat) (bs : List Byte) : Keeps P (pokes host a bs) := by
  induction bs generalizing a with
  | nil => exact keeps_pure ()
  | cons b bs ih => exact keeps_bind ⟨fun _ _ ht => ht⟩ fun _ => ih _

theorem keeps_caught {m : M α} (h : Keeps P m) : Keeps P (caught m) := by
  refine ⟨fun i t ht => ?_⟩
  have hm := h.out i t ht
  simp only [caught, run_tryCatch, run_bind]
  cases r : m i t with
  | ok a u => rw [r] at hm; exact hm
  | error x u => rw [r] at hm; cases x <;> exact hm

/-- An attempt keeps of a wait only what is registered, and of an event that cannot occur nothing. -/
theorem keeps_attempt {m : M Unit} (h : Keeps P m) : Keeps P (attempt m) := by
  refine ⟨fun i t ht => ?_⟩
  have hm := h.out i t ht
  simp only [attempt, run_bind, run_get, chain_ok, run_tryCatch]
  cases r : m i t with
  | ok a u => rw [r] at hm; exact hm
  | error x u =>
    rw [r] at hm
    cases x with
    | skip => exact ht
    | wait reg => exact hm t.dev ht
    | fail st rs => exact hm

/-- A meaning that runs to its end leaves what it keeps besides. -/
theorem Keeps.total {m : M α} (h : Keeps P m) (g : Total Q R m) :
    Total (fun d => P d ∧ Q d) (fun d => P d ∧ R d) m := by
  refine ⟨fun i t ht => ?_⟩
  obtain ⟨a, u, e, hu⟩ := g.out i t ht.2
  have hm := h.out i t ht.1
  rw [e] at hm
  exact ⟨a, u, e, hm, hu⟩

/-- The same, of what is kept alone. -/
theorem Keeps.only {m : M α} (h : Keeps P m) (g : Total Always Always m) : Total P P m := by
  refine ⟨fun i t ht => ?_⟩
  obtain ⟨a, u, e, hu, -⟩ := (h.total g).out i t ⟨ht, True.intro⟩
  exact ⟨a, u, e, hu⟩

/-! ### Set-up registers -/

/-- The places 0x000 and 0x010 of each 256 bytes of the register window. OPT_CUSTOM, QNT_STATS and MRG_RMT stand there, and no
counter, no capture, and no register that shows work. -/
def setupKey (k : Nat) : Prop := k % 256 = 0 ∨ k % 256 = 16

/-- The register stands elsewhere in its 256 bytes. -/
abbrev RegName.offSetup (r : RegName) : Prop := r.info.off % 256 ≠ 0 ∧ r.info.off % 256 ≠ 16

/-- A property that the registers at these places alone decide. -/
def OfSetup (P : Dev → Prop) : Prop := ∀ d e : Dev, SameRegs setupKey e d → P d → P e

theorem ofSetup_foldsNothing : OfSetup Dev.foldsNothing := fun _ _ h hd =>
  (h.rd F.qntStats_enable 2 0 (.inr rfl)).trans hd

theorem ofSetup_rmtOff : OfSetup (·.rmtOn = false) := fun d e h (hd : d.rmtOn = false) => by
  show e.rmtOn = false
  rwa [Dev.rmtOn, h.rd F.mrgRmt_base 8 0 (.inr rfl)]

/-- The control core of a region takes handlers, or not (R258). -/
theorem ofSetup_ready (home v : Nat) : OfSetup (·.rd F.optCustom_ready home = v) := fun d e h (hd : _ = v) => by
  refine (h.rd F.optCustom_ready home 0 (.inl ?_)).trans hd
  simp only [RegInfo.key, RegName.info]
  omega

theorem setup_setWord {r : RegName} (p v : Nat) (h : r.offSetup) : SameRegs setupKey (d.setWord r p 0 v) d := by
  refine SameRegs.setWord d _ r p 0 v ?_
  unfold setupKey
  rw [RegInfo.key]
  omega

theorem setup_wr {f : Fld} (p v : Nat) (h : f.reg.offSetup) : SameRegs setupKey (d.wr f p v) d := setup_setWord p _ h

theorem setup_bump {f : Fld} (p n : Nat) (h : f.reg.offSetup) : SameRegs setupKey (d.bump f p n) d := by
  unfold Dev.bump
  exact ite_keeps (SameRegs setupKey · d) (SameRegs.refl d _) (setup_wr p _ h)

/-- The registers of a queue stand 256 bytes apart. -/
theorem setup_queue {f : Fld} (q v : Nat) (h : f.reg.offSetup) (hs : f.reg.info.stride = 256) :
    SameRegs setupKey (d.wr f (1 + q / 16) v (q % 16)) d := by
  refine SameRegs.wr d _ f _ v _ ?_
  unfold setupKey
  rw [RegInfo.key, hs]
  omega

theorem setup_raised (page b : Nat) : SameRegs setupKey (d.raised page b) d := fun x k hk =>
  SameRegs.raised d page b x k (by unfold setupKey at hk; unfold offIrq; omega)

theorem setup_stage (r : EventRec) : SameRegs setupKey (d.stage r) d := by
  have shown (d : Dev) : SameRegs setupKey d.syncRecorder d :=
    (setup_wr 0 _ (by decide)).trans <| (setup_wr 0 _ (by decide)).trans <| (setup_wr 0 _ (by decide)).trans <|
      (setup_wr 0 _ (by decide)).trans <| (setup_wr 0 _ (by decide)).trans <| setup_wr 0 _ (by decide)
  unfold Dev.stage
  refine ite_keeps (SameRegs setupKey · d) (setup_bump 0 1 (by decide)) ?_
  refine ite_keeps (SameRegs setupKey · d) ((shown _).trans fun _ _ _ => rfl) ?_
  dsimp only
  split <;> exact (SameRegs.trans (fun _ _ _ => rfl) (setup_bump (f := F.evrDropped_count) 0 1 (by decide)))

theorem setup_captured (page kind : Nat) (isWrite : Bool) (world source req off size data : Nat) :
    SameRegs setupKey (d.captured page kind isWrite world source req off size data) d := by
  refine ite_keeps (SameRegs setupKey · d) (setup_wr page _ (by decide)) ?_
  exact (setup_wr page _ (by decide)).trans <| (setup_setWord page _ (by decide)).trans <|
    (setup_setWord page _ (by decide)).trans <| (setup_setWord page _ (by decide)).trans <|
    (setup_setWord page _ (by decide)).trans <| setup_setWord page _ (by decide)

theorem setup_traced (k inst op world q n len addr : Nat) : SameRegs setupKey (d.traced k inst op world q n len addr) d := by
  refine ite_keeps (SameRegs setupKey · d) (ite_keeps (SameRegs setupKey · d) (fun _ _ _ => rfl) ?_) (SameRegs.refl d _)
  exact (setup_bump 0 1 (by decide)).trans fun _ _ _ => rfl

theorem setup_turnTo (pc dir : Nat) : SameRegs setupKey (d.turnTo pc dir) d :=
  SameRegs.trans (fun _ _ _ => rfl) <|
    ite_keeps (SameRegs setupKey · d) (setup_bump (f := F.hbcTurns_count) _ 1 (by decide)) (SameRegs.refl d _)

theorem setup_keepHeld (p : Nat × Nat × Nat × Nat × Nat → Bool) : SameRegs setupKey (d.keepHeld p) d :=
  (setup_wr 0 _ (by decide)).trans fun _ _ _ => rfl

theorem setup_setBatcher (die : Nat) (b : Batcher) : SameRegs setupKey (d.setBatcher die b) d := by
  have put : SameRegs setupKey
      (if die = 0 then { d with xl := { d.xl with b0 := b } } else { d with xl := { d.xl with b1 := b } }) d :=
    ite_keeps (SameRegs setupKey · d) (fun _ _ _ => rfl) (fun _ _ _ => rfl)
  exact (setup_wr _ _ (by decide)).trans <| (setup_wr _ _ (by decide)).trans <| (setup_wr _ _ (by decide)).trans put

theorem setup_xl (x : Xlat) : SameRegs setupKey { d with xl := x } d := fun _ _ _ => rfl
theorem setup_putDesc (x : Desc) : SameRegs setupKey (d.putDesc x) d := fun _ _ _ => rfl
theorem setup_keepCapo (p : CapoHold → Bool) : SameRegs setupKey (d.keepCapo p) d := fun _ _ _ => rfl
theorem setup_retireBatches (die : Nat) : SameRegs setupKey (d.retireBatches die) d := setup_setBatcher die _

theorem setup_dropWaiters (p : Waiter → Bool) : SameRegs setupKey (d.dropWaiters p) d := by
  unfold Dev.dropWaiters
  dsimp only
  exact (setup_retireBatches 1).trans <| (setup_retireBatches 0).trans <| (setup_xl _).trans <|
    (setup_setBatcher 1 _).trans <| setup_setBatcher 0 _

/-- The place of a stop (R70): the state of the queue, and what stopped it. -/
theorem setup_stopQueue (x : Desc) (st rs : Nat) : SameRegs setupKey (d.stopQueue x st rs) d := by
  have noted (e : Dev) : SameRegs setupKey (((e.wr F.queErr_status (1 + x.q / 16) st (x.q % 16)).wr F.queErr_reason
      (1 + x.q / 16) rs (x.q % 16)).wr F.queErrSeq_seq (1 + x.q / 16) x.seq (x.q % 16)) e :=
    (setup_queue x.q _ (by decide) rfl).trans <| (setup_queue x.q _ (by decide) rfl).trans <|
      setup_queue x.q _ (by decide) rfl
  have stopped : SameRegs setupKey ((d.setQState x.q qSTOPPED).bump F.queStops_count 0 1) d :=
    (setup_bump 0 1 (by decide)).trans (setup_queue x.q _ (by decide) rfl)
  unfold Dev.stopQueue
  dsimp only
  split
  · split
    · exact SameRegs.refl d _
    · split
      · exact (noted _).trans stopped
      · exact noted d
  · exact SameRegs.refl d _

theorem setup_endDesc (q n : Nat) : SameRegs setupKey (d.endDesc q n) d := by
  unfold Dev.endDesc
  split
  · exact SameRegs.refl d _
  · split
    · exact SameRegs.refl d _
    · exact (setup_stopQueue _ _ _).trans <| (setup_keepCapo _).trans <| (setup_keepHeld _).trans <|
        (setup_dropWaiters _).trans <| setup_putDesc _

theorem setup_setMerges (r : Nat) (l : List Merge) : SameRegs setupKey (d.setMerges r l) d :=
  (setup_wr r _ (by decide)).trans <| (setup_wr r _ (by decide)).trans fun _ _ _ => rfl

/-! ### Meanings that leave the set-up -/

section
variable (hP : OfSetup P)
include hP

theorem OfSetup.modDev {f : Dev → Dev} (h : ∀ d, SameRegs setupKey (f d) d) : Keeps P (Machine.modDev f) :=
  keeps_modDev fun d hd => hP _ _ (h d) hd

/-- A change of the machine that leaves the registers, and what follows it. -/
theorem OfSetup.change {f : Dev → Dev} {k : Unit → M α} (h : ∀ d, (f d).regs = d.regs) (g : Keeps P (k ())) :
    Keeps P (Machine.modDev f >>= k) :=
  keeps_bind (hP.modDev fun d _ _ _ => by rw [h d]) fun _ => g

theorem OfSetup.wr {f : Fld} (p v : Nat) (h : f.reg.offSetup) : Keeps P (wr f p v) := hP.modDev fun _ => setup_wr p v h
theorem OfSetup.bump {f : Fld} (p n : Nat) (h : f.reg.offSetup) : Keeps P (bump f p n) := hP.modDev fun _ => setup_bump p n h
theorem OfSetup.raise (p b : Nat) : Keeps P (raise p b) := hP.modDev fun _ => setup_raised p b
theorem OfSetup.record (code sev page payload : Nat) : Keeps P (record code sev page payload) :=
  hP.modDev fun _ => setup_stage _
theorem OfSetup.captureEngine (page kind off : Nat) : Keeps P (captureEngine page kind off) :=
  hP.modDev fun _ => setup_captured _ _ _ _ _ _ _ _ _
theorem OfSetup.tap (k inst op world q n len addr : Nat) : Keeps P (tap k inst op world q n len addr) :=
  hP.modDev fun _ => setup_traced _ _ _ _ _ _ _ _
theorem OfSetup.freeValue (n : Nat) : Keeps P (freeValue n) :=
  keeps_bind keeps_dev fun _ => hP.change (fun _ => rfl) (keeps_pure _)
theorem OfSetup.setLine (n : Nat) (l : Option Line) : Keeps P (setLine n l) := hP.modDev fun _ _ _ _ => rfl
theorem OfSetup.clearMarks (a len : Nat) : Keeps P (clearMarks a len) := hP.modDev fun d =>
  ite_keeps (SameRegs setupKey · d) (SameRegs.refl d _) ((setup_keepHeld _).trans fun _ _ _ => rfl)

theorem OfSetup.modDesc (q n : Nat) (f : Desc → Desc) : Keeps P (modDesc q n f) := by
  refine keeps_bind keeps_dev fun d => ?_
  split
  · exact hP.modDev fun _ _ _ _ => rfl
  · exact keeps_pure ()

theorem OfSetup.endDesc (q n : Nat) : Keeps P (endDesc q n) := hP.modDev fun _ => setup_endDesc q n
theorem OfSetup.modMerges (r : Nat) (f : List Merge → List Merge) : Keeps P (modMerges r f) :=
  hP.modDev fun _ => setup_setMerges r _

/-! ### Accesses of local memory -/

theorem OfSetup.violation (source world kind : Nat) (region : Option Nat) (queue addr srcPage : Nat) :
    Keeps P (violation source world kind region queue addr srcPage) := by
  refine keeps_bind (hP.bump _ _ (by decide)) fun _ => keeps_bind (keeps_rd ..) fun _ =>
    keeps_branch (hP.record ..) fun recorded => ?_
  exact keeps_bind (hP.wr _ _ (by decide)) fun _ => keeps_bind (hP.modDev fun _ => setup_setWord _ _ (by decide)) fun _ =>
    keeps_bind keeps_now fun _ => keeps_bind (hP.wr _ _ (by decide)) fun _ => keeps_bind (hP.raise ..) fun _ => recorded

theorem OfSetup.localCheck (w : Who) (n : Need) (a len : Nat) : Keeps P (localCheck w n a len) := by
  refine keeps_bind keeps_dev fun _ => keeps_ite (keeps_bind keeps_dev fun _ => ?_) (keeps_fail ..)
  dsimp only
  split
  · exact keeps_pure ()
  · exact keeps_bind (hP.violation ..) fun _ => keeps_fail ..

theorem OfSetup.clear (w : Who) (isRead : Bool) (a len : Nat) : Keeps P (clear! w isRead a len) := by
  refine keeps_bind keeps_dev fun _ => keeps_ite ?_ (keeps_pure ())
  split
  · exact keeps_skip
  · refine keeps_ite keeps_skip (keeps_waitFor fun d => hP _ _ ?_)
    have noted {c : Dev} (h : c.regs = d.regs) : SameRegs setupKey c.syncHeld d :=
      (setup_wr 0 _ (by decide)).trans fun _ _ _ => by rw [h]
    exact ite_keeps (SameRegs setupKey · d) ((setup_bump _ 1 (by decide)).trans (noted rfl)) (noted rfl)

theorem OfSetup.clearUpdate (w : Who) (a len : Nat) : Keeps P (clearUpdate w a len) :=
  keeps_bind (hP.clear ..) fun _ => keeps_bind keeps_dev fun _ => keeps_need _

theorem OfSetup.regulate (w : Who) (key limit : Nat) (yields : Bool) (len : Nat) : Keeps P (regulate w key limit yields len) :=
  keeps_bind keeps_dev fun _ => keeps_ite (hP.modDev fun _ _ _ _ => rfl) (keeps_waitFor fun d => hP d _ fun _ _ _ => rfl)

theorem OfSetup.capoIssue (w : Who) (r p c len : Nat) : Keeps P (capoIssue w r p c len) :=
  keeps_ite (keeps_pure ()) (keeps_bind keeps_dev fun _ => hP.regulate ..)

theorem OfSetup.carry (src dst len : Nat) : Keeps P (carry src dst len) := by
  refine keeps_ite (keeps_bind (hP.bump _ _ (by decide)) fun _ => keeps_bind (hP.bump _ _ (by decide)) fun _ => ?_)
    (keeps_pure ())
  exact keeps_ite (keeps_bind (hP.bump _ _ (by decide)) fun _ => hP.bump _ _ (by decide)) (keeps_pure ())

theorem OfSetup.issue (w : Who) (op a len : Nat) : Keeps P (issue w op a len) := by
  refine keeps_bind (hP.capoIssue ..) fun _ => keeps_bind keeps_dev fun _ => keeps_branch
    (keeps_branch (keeps_bind (keeps_each fun _ => hP.tap ..) fun _ => ?_) fun rest => keeps_bind (hP.tap ..) fun _ => rest)
    fun rest => keeps_bind (hP.capoIssue ..) fun _ => rest
  split
  · exact keeps_ite (hP.carry ..) (hP.carry ..)
  · exact keeps_pure ()

theorem OfSetup.countFound (a len : Nat) : Keeps P (countFound a len) := by
  refine keeps_bind keeps_dev fun d => keeps_bind ?_ fun _ => keeps_pure _
  split
  · exact hP.bump _ _ (by decide)
  · exact hP.bump _ _ (by decide)

theorem OfSetup.meter (w : Who) (hold : Bool) (a len : Nat) : Keeps P (meter w hold a len) := by
  refine keeps_each fun _ => keeps_bind keeps_dev fun _ => ?_
  split
  · exact keeps_ite (hP.regulate ..) (hP.modDev fun _ _ _ _ => rfl)
  · exact hP.modDev fun _ _ _ _ => rfl

theorem OfSetup.homeTraffic (w : Who) (isWrite : Bool) (a len : Nat) : Keeps P (homeTraffic w isWrite a len) := by
  refine keeps_each fun g => ?_
  dsimp only
  have turned {pc dir : Nat} {k : Unit → M Unit} (h : Keeps P (k ())) : Keeps P (Machine.modDev (·.turnTo pc dir) >>= k) :=
    keeps_bind (hP.modDev fun _ => setup_turnTo _ _) fun _ => h
  cases homeOf g.1 with
  | hbm r o =>
    exact keeps_ite (keeps_bind (hP.bump _ _ (by decide)) fun _ => turned (hP.tap ..))
      (keeps_bind (hP.bump _ _ (by decide)) fun _ => turned (hP.tap ..))
  | cap r o =>
    exact keeps_ite (keeps_bind (hP.bump _ _ (by decide)) fun _ => hP.tap ..)
      (keeps_bind (hP.bump _ _ (by decide)) fun _ => hP.tap ..)
  | _ => exact keeps_pure ()

theorem OfSetup.countHit (w : Who) (a len : Nat) : Keeps P (countHit w a len) :=
  keeps_bind (hP.countFound ..) fun _ => keeps_ite (keeps_pure ()) (keeps_bind (hP.meter ..) fun _ => hP.homeTraffic ..)

theorem OfSetup.writeLocal (w : Who) (a : Nat) (bs : List Byte) : Keeps P (writeLocal w a bs) := by
  refine keeps_bind (hP.localCheck ..) fun _ => keeps_bind (hP.clear ..) fun _ => keeps_bind keeps_dev fun _ =>
    keeps_bind (keeps_need _) fun _ => keeps_bind (hP.issue ..) fun _ => keeps_bind (hP.countFound ..) fun _ =>
    keeps_bind (hP.meter ..) fun _ => keeps_bind (hP.homeTraffic ..) fun _ => keeps_bind keeps_dev fun _ =>
    keeps_ite (keeps_pure ()) <| keeps_bind (hP.clearMarks ..) fun _ =>
    keeps_bind (keeps_each fun n => keeps_bind keeps_dev fun d => ?_) fun _ => keeps_pokes ..
  split
  · exact hP.setLine ..
  · exact keeps_pure ()

theorem OfSetup.writeBack (n : Nat) : Keeps P (writeBack n) := by
  refine keeps_bind keeps_dev fun d => ?_
  split
  · exact keeps_bind (hP.bump _ _ (by decide)) fun _ => keeps_bind (hP.meter ..) fun _ =>
      keeps_bind (hP.homeTraffic ..) fun _ => hP.setLine ..
  · exact keeps_pure ()

theorem OfSetup.makeRoom (n : Nat) (keep : List Nat) : Keeps P (makeRoom n keep) :=
  keeps_bind keeps_dev fun _ => keeps_ite (keeps_pure ()) <| keeps_ite (keeps_pure ()) <|
    keeps_bind (hP.freeValue 64) fun _ => keeps_bind (keeps_have _) fun _ => keeps_bind (hP.writeBack _) fun _ => hP.setLine ..

theorem OfSetup.bringIn (a len : Nat) : Keeps P (bringIn a len) :=
  keeps_ite (keeps_pure ()) <| keeps_each fun _ => keeps_bind keeps_dev fun _ => keeps_ite (keeps_bind (hP.makeRoom ..) fun _ =>
    keeps_bind (hP.bump _ _ (by decide)) fun _ => hP.setLine ..) (keeps_pure ())

theorem OfSetup.dirtyLines (a len : Nat) : Keeps P (dirtyLines a len) := by
  refine keeps_ite (keeps_pure ()) <| keeps_each fun n => keeps_bind keeps_dev fun d => ?_
  split
  · exact keeps_pure ()
  · exact keeps_bind (keeps_peeks ..) fun _ => hP.setLine ..

theorem OfSetup.updateChecked (op a : Nat) (bs : List Byte) : Keeps P (updateChecked op a bs) :=
  keeps_bind (hP.bringIn ..) fun _ => keeps_bind (hP.dirtyLines ..) fun _ => keeps_branch
    (keeps_bind keeps_dev fun _ => keeps_ite (keeps_pure ()) <| keeps_bind (hP.clearMarks ..) fun _ => keeps_pokes ..)
    fun rest => keeps_bind (hP.bump _ _ (by decide)) fun _ => rest

theorem OfSetup.atomicLocal (w : Who) (n : Need) (a len : Nat) (f : List Byte → List Byte) :
    Keeps P (atomicLocal w n a len f) :=
  keeps_bind (hP.localCheck ..) fun _ => keeps_bind (hP.clearUpdate ..) fun _ => keeps_bind (hP.issue ..) fun _ =>
    keeps_bind (hP.countHit ..) fun _ => keeps_bind (keeps_peeks ..) fun _ => keeps_bind (hP.updateChecked ..) fun _ =>
    keeps_pure _

theorem OfSetup.groupWrite (op : Nat) (g : List Seg) (bs : List Byte) : Keeps P (groupWrite op g bs) := by
  induction g generalizing bs with
  | nil => exact keeps_pure ()
  | cons p g ih => exact keeps_bind (hP.updateChecked ..) fun _ => ih _

/-! ### Access counters -/

theorem OfSetup.heatRecord (die : Nat) (h : Heat) (tier size pa : Nat) : Keeps P (heatRecord die h tier size pa) := by
  refine keeps_bind (keeps_rd ..) fun _ => keeps_bind (keeps_rd ..) fun _ => keeps_bind (keeps_rd ..) fun _ =>
    keeps_ite (hP.bump _ _ (by decide)) ?_
  refine keeps_bind (keeps_same fun _ _ => ⟨_, rfl⟩) fun who => keeps_bind (keeps_rd ..) fun _ =>
    keeps_bind keeps_now fun et => keeps_bind (keeps_caught (hP.writeLocal ..)) fun r => ?_
  cases r with
  | ok _ => exact keeps_bind (hP.bump _ _ (by decide)) fun _ => keeps_bind (hP.wr _ _ (by decide)) fun _ => hP.raise ..
  | error _ => exact hP.captureEngine ..

theorem OfSetup.heatCount (asid va pa leaf size : Nat) : Keeps P (heatCount asid va pa leaf size) := by
  have count {die part : Nat} {own : Heat → Bool} {f : Dev → Dev} {mark : Heat → Heat → Heat}
      (hf : ∀ d : Dev, (f d).regs = d.regs) : Keeps P (do
        Machine.modDev f
        match (← dev).xl.heat.find? own with
        | some h =>
          if (← rd F.migCfg_hot die) ≤ h.count && !h.told then attempt do
            Machine.heatRecord die h part size pa
            Machine.modDev fun d => { d with xl := { d.xl with heat := d.xl.heat.map (mark h) } }
        | none => pure ()) := by
    refine hP.change hf <| keeps_bind keeps_dev fun d => ?_
    split
    · refine keeps_bind (keeps_rd ..) fun _ => keeps_ite (keeps_attempt ?_) (keeps_pure ())
      exact keeps_bind (hP.heatRecord ..) fun _ => hP.modDev fun _ _ _ _ => rfl
    · exact keeps_pure ()
  refine keeps_bind keeps_dev fun d => keeps_ite (keeps_bind (hP.bump _ _ (by decide)) fun _ => ?_) (keeps_pure ())
  refine keeps_branch (count fun _ => rfl) fun rest => keeps_branch (hP.change (fun _ => rfl) rest) fun entered =>
    keeps_bind (hP.freeValue 64) fun i => ?_
  split
  · exact hP.change (fun _ => rfl) <| keeps_bind (hP.bump _ _ (by decide)) fun _ => entered
  · exact entered

theorem OfSetup.heatRow (asid : Nat) (gs : List (List Seg)) : Keeps P (heatRow asid gs) := by
  unfold Machine.heatRow
  split
  · exact hP.heatCount ..
  · exact keeps_pure ()

end
end Sys2Proof.Machine
end

section
/-! SCATTER_UPDATE and the merge table: what is taken in, what drains, and the unit. -/

namespace Sys2Proof.Machine

variable {α β : Type} {s : State} {q : Fin 1024} {seq : BitVec 32} {x : Desc} {c : Scatter} {i : Image} {t u : Tx}

/-! ### Attempts, one after another -/

/-- A result that is neither a wait nor an event that cannot occur. -/
def Answered : EStateM.Result Stop Tx α → Prop
  | .error .skip _ => False
  | .error (.wait _) _ => False
  | _ => True

/-- A command that comes to a meaning with such a result leaves what that meaning leaves, whether it ends or fails. -/
theorem transact_answered {m k : M Unit} (h : m s.image s.start = k s.image t) (hk : Answered (k s.image t)) :
    transact m s = .next (settle s (ran k s.image t)) := by
  have h' : m ⟨s.mem, s.host⟩ ⟨s.dev, []⟩ = k s.image t := h
  unfold transact ran
  rw [h']
  cases r : k s.image t with
  | ok a u => rfl
  | error e u =>
    rw [r] at hk
    cases e with
    | fail st rs => rfl
    | skip => exact hk.elim
    | wait reg => exact hk.elim

theorem answered_attempt (m : M Unit) (i : Image) (t : Tx) : Answered (attempt m i t) := by
  obtain ⟨u, h⟩ | ⟨st, rs, u, h⟩ := attempt_answers m i t
  · rw [h]; trivial
  · rw [h]; trivial

theorem answered_bind {m : M α} {f : α → M β} (h : Answered (m i t)) (g : ∀ a t, Answered (f a i t)) :
    Answered ((m >>= f) i t) := by
  rw [run_bind]
  cases r : m i t with
  | ok a u => exact g a u
  | error e u =>
    rw [r] at h
    cases e <;> exact h

theorem answered_each {l : List β} {f : β → M Unit} (h : ∀ b t, Answered (f b i t)) (t : Tx) : Answered (each l f i t) := by
  induction l generalizing t with
  | nil => trivial
  | cons b l ih =>
    exact answered_bind (h b t) fun _ => ih

theorem Total.answered {m : M α} (h : Total Always Always m) (i : Image) (t : Tx) : Answered (m i t) := by
  obtain ⟨a, u, e⟩ := h.answers i t
  rw [e]
  trivial

theorem answered_drainAged (r : Nat) (m : Merge) (i : Image) (t : Tx) : Answered (drainAged r m i t) := by
  rw [drainAged, run_bind, run_dev, chain_ok, run_ite]
  split
  · exact answered_attempt ..
  · trivial

theorem exec_mergeHoldExpiry_aged {r : Fin 8} (h : (s.dev.merges r.val).filter (s.dev.aged r.val) ≠ []) :
    exec (.mergeHoldExpiry r) s =
      .next (s.after s.dev (each ((s.dev.merges r.val).filter (s.dev.aged r.val)) (drainAged r.val))) := by
  refine transact_answered (t := s.start) ?_ (answered_each (answered_drainAged r.val · s.image ·) s.start)
  simp only [run_bind, run_dev, start_dev, chain_ok, run_need, List.isEmpty_eq_false_iff.mpr h, Bool.not_false, if_true]

theorem exec_touchedListAppend_waits {r : Fin 8} (h : (s.dev.appends.filter fun a => a.1 == r.val) ≠ []) :
    exec (.touchedListAppend r) s =
      .next (s.after s.dev (each (s.dev.appends.filter fun a => a.1 == r.val) (retryAppend r.val))) := by
  refine transact_answered (t := s.start) ?_ (answered_each (fun _ => answered_attempt _ s.image) s.start)
  simp only [run_bind, run_dev, start_dev, chain_ok, run_need, List.isEmpty_eq_false_iff.mpr h, Bool.not_false, if_true]

theorem Total.ends_at {P Q : Dev → Prop} {m : M Unit} (h : Total P Q m) (ht : P t.dev) : ∃ u, m i t = .ok () u := by
  obtain ⟨⟨⟩, u, e, -⟩ := h.out i t ht
  exact ⟨u, e⟩

/-! ### Contributions (R241 to R245) -/

theorem exec_contributionTakeIn_next {row : Nat} (hx : s.dev.desc q.val seq.toNat = some x) (hc : x.scatter = some c)
    (he : x.ended = false) (ht : c.taken = false)
    (hr : c.rows.getD (c.next + (c.rows.drop c.next).findIdx Option.isSome) none = some row)
    (h : Runs (takeNext x c (c.next + (c.rows.drop c.next).findIdx Option.isSome) row) s.image s.start () t) :
    exec (.contributionTakeIn q seq) s = .next (settle s t) := by
  refine transact_runs ?_
  unfold Runs
  simp only [run_bind, run_getDesc (t := s.start) hx, chain_ok, hc, run_have_some, run_need, he, ht, Bool.not_false,
    Bool.and_self, if_true, hr, run_caught h, run_pure]

/-- A contribution is taken in where its lane groups all find a free entry, or may (R243 to R245). -/
theorem total_takeIn {d : Dev} {r : Nat} {es : List Merge} (h : (d.merges r).length + es.length ≤ 32768) :
    Total (· = d) Always (takeIn r es) := by
  refine total_dev_bind fun e he => ?_
  subst he
  have room (n : Nat) (hn : n ≤ es.length) : ¬ 32768 < (e.merges r).length + n := by omega
  rw [if_neg (room _ (List.length_filter_le ..))]
  refine Total.anywhere (total_bind (total_each fun m => total_each fun e => total_each fun u => total_modDesc ..) fun _ => ?_)
  exact total_change <| total_change <| total_change <| total_ite (total_always_modDev _) (total_pure ())

theorem takeNext_ends {p row r : Nat} {lanes : List F32} (hc : s.contributes x c p row r lanes t)
    (hs : s.dev.stageRuns ((if x.suKind = 2 then p else bagAt c.offs p) / 64 % 8) = true)
    (hf : s.dev.regionFenced r = false) (hr : s.dev.stalls.contains r = false)
    (hroom : (t.dev.merges r).length + (x.table.elems + 127) / 128 ≤ 32768)
    (hmore : (c.rows.drop (p + 1)).any Option.isSome = true) :
    ∃ u, takeNext x c p row s.image s.start = .ok () u := by
  obtain ⟨t1, hregion, hlanes⟩ := hc
  unfold Runs at hregion hlanes
  simp only [takeNext, run_bind, run_dev, start_dev, chain_ok, run_need, hs, if_true, hregion, hf, hr, Bool.not_false,
    Bool.and_self, hlanes, hmore, Bool.not_true, Bool.false_eq_true, if_false]
  rw [← run_bind]
  refine Total.ends_at (Q := Always) (total_bind (total_takeIn ?_) fun _ => ?_) rfl
  · rwa [List.length_map, List.length_range]
  · exact total_bind (total_progress ..) fun _ => total_bind (total_setWork ..) fun _ => total_pure ()

/-! ### The end of a SCATTER_UPDATE (R190, R248) -/

theorem run_endStats_plain {q n table limit : Nat} {st : Stats} (hx : t.dev.desc q n = some x) (hf : t.dev.foldsNothing) :
    endStats q n 0 table limit false st i t = (do
      if !f32Zero limit && st.count != 0 && f32Lt limit (meanSquare st.pair.1 st.pair.2 st.count) then
        raiseFlag q n fREQUANT_ERR_HIGH
      endDesc q n : M Unit) i t := by
  simp only [endStats, run_bind, run_getDesc hx, chain_ok, run_dev, ne_eq, not_true_eq_false, if_false, Bool.not_false, if_true,
    run_caught (run_foldStats_off hf)]

/-- With nothing to fold into records, the end has nothing to wait for. -/
theorem total_endStats {q n table limit : Nat} {st : Stats} {d : Dev} (hx : d.desc q n = some x) (hf : d.foldsNothing) :
    Total (· = d) Dev.foldsNothing (endStats q n 0 table limit false st) := by
  have hP := ofSetup_foldsNothing
  have rest : Total Dev.foldsNothing Dev.foldsNothing (do
      if !f32Zero limit && st.count != 0 && f32Lt limit (meanSquare st.pair.1 st.pair.2 st.count) then
        raiseFlag q n fREQUANT_ERR_HIGH
      endDesc q n) :=
    total_when ((hP.modDesc ..).only (total_modDesc ..)) ((hP.endDesc ..).only (total_endDesc ..))
  refine ⟨fun i t ht => ?_⟩
  subst ht
  rw [run_endStats_plain hx hf]
  exact rest.out i t hf

theorem total_scatterCheck (q n : Nat) : Total Dev.foldsNothing Dev.foldsNothing (scatterCheck q n) := by
  refine total_dev_bind fun d hd => ?_
  have none' : Total (· = d) Dev.foldsNothing (pure () : M Unit) := (total_pure ()).mono fun e he => he ▸ hd
  split
  · exact none'
  · rename_i x hx
    split
    · exact none'
    · exact total_ite (total_endStats hx hd) none'

/-! ### Drains (R246, R247) -/

theorem exec_mergeDrain_may {r : Fin 8} {entry : Nat} {m : Merge} (hm : (s.dev.merges r.val)[entry]? = some m)
    (hd : s.dev.mayDrain r.val m = true) : exec (.mergeDrain r entry) s = transact (drainUnit r.val m) s := by
  refine transact_congr ?_
  simp only [run_bind, run_dev, start_dev, chain_ok, hm, run_have_some, run_need, hd, if_true]

theorem mem_flatten_of_mem_headD {gs : List (List Seg)} {p : Seg} (h : p ∈ gs.headD []) : p ∈ gs.flatten := by
  cases gs with
  | nil => exact nomatch h
  | cons g gs => exact List.mem_flatten_of_mem List.mem_cons_self h

/-- Pieces of a row whose lines are held are written at once. -/
theorem total_groupWrite_here {op : Nat} {g : List Seg} {gs : List (List Seg)} (hg : ∀ p ∈ g, p ∈ gs.flatten)
    (bs : List Byte) : Total (·.rowHere gs) (·.rowHere gs) (groupWrite op g bs) :=
  total_groupWrite (lineClosed_rowHere gs) fun p hp _ hd => hd p.at' (List.mem_map_of_mem (hg p hp))

/-- A sum that is pending already takes what a drain adds, and its row is listed already (R247). -/
theorem drainSum_ends {r count : Nat} {w : Waiter} {who : Who} {m : Merge} {lanes : List (Option F32)} {gs : List (List Seg)}
    {h : Husk} {p : List Byte} {t1 : Tx} (hopen : openSum w who m i t = .ok (gs, h, p) t1) (hp : SumHdr.pending h = true)
    (hissue : issueRow who 2 gs i t1 = .ok () u) (hf : u.dev.foldsNothing) (hhere : u.dev.rowHere gs) :
    ∃ v, drainSum r w who m lanes count i t = .ok false v ∧ v.dev.foldsNothing := by
  have added (bs : List Byte) :
      ∃ v, chain (groupWrite 2 (gs.headD []) bs i u) (fun _ => pure false) i = .ok false v ∧ v.dev.foldsNothing := by
    have write := (ofSetup_foldsNothing.groupWrite 2 (gs.headD []) bs).total
      (total_groupWrite_here (fun _ => mem_flatten_of_mem_headD) bs)
    obtain ⟨⟨⟩, v, e, hv, -⟩ := write.out i u ⟨hf, hhere⟩
    exact ⟨v, by rw [e, chain_ok, run_pure], hv⟩
  simp only [drainSum, run_bind, hopen, chain_ok, hp, Bool.not_true, Bool.false_eq_true, if_false, hissue, run_now, if_true]
  exact added _

theorem drainHere_ends {r : Nat} {es : List Merge} {m : Merge} {gs : List (List Seg)} {h : Husk} {p : List Byte}
    (ho : s.sumOpens r m gs h p t) (hp : SumHdr.pending h = true) (hk : m.kind = 0) (hf : t.dev.foldsNothing)
    (hu : ∀ u ∈ m.users, ∀ x, s.dev.desc u.1 u.2 = some x → s.dev.scaleHeld x = false) :
    ∃ u, drainHere r es m s.image s.start = .ok false u ∧ u.dev.foldsNothing := by
  obtain ⟨t1, hopen, hissue, hhere⟩ := ho
  rw [drainHere, run_bind, run_dev, chain_ok, run_bind, run_need, if_pos ?free, chain_ok]
  case free =>
    rw [Bool.not_eq_true', List.any_eq_false]
    intro u hm
    split
    · rename_i x hx
      rw [start_dev, hu u hm x hx]
      decide
    · decide
  dsimp only
  rw [if_pos hk]
  exact drainSum_ends (m := { m with users := _ }) hopen hp hissue hf hhere

/-- What follows such a drain: the unit leaves the table, and the descriptors that wait for it alone end (R248). -/
theorem drainUnit_ends {r : Nat} {m : Merge} (hs : s.dev.stageRuns r = true) (hn : m.node = s.dev.self)
    (hd : ∃ u, drainHere r ((s.dev.merges r).filter fun e => Merge.same e m) m s.image s.start = .ok false u ∧
      u.dev.foldsNothing) : ∃ u, drainUnit r m s.image s.start = .ok () u := by
  have hP := ofSetup_foldsNothing
  obtain ⟨u, hu, hf⟩ := hd
  simp only [drainUnit, run_bind, run_dev, start_dev, chain_ok, run_need, hs, if_true, hn, ne_eq, not_true_eq_false, if_false,
    run_caught hu, run_now, Bool.false_eq_true]
  rw [← run_bind]
  exact Total.ends_at (total_bind (total_each fun _ => (hP.modDesc ..).only (total_progress ..)) fun _ =>
    total_bind (total_bind ((hP.modMerges ..).only (total_always_modDev _)) fun _ =>
      (hP.bump _ _ (by decide)).only (total_always_modDev _)) fun _ => total_each fun _ => total_scatterCheck ..) hf

/-! ### The unit of a GRAD update (R248, R252) -/

/-- The unit of an update is added, and its records are sent. -/
def unitAdded (x : Desc) (c : Scatter) : M Unit := addUnit x.q x.seq x.suTable c.step false >>= fun _ => sendUnits x c

theorem exec_unitAdd_runs {t' t'' : Tx} (hx : s.dev.desc q.val seq.toNat = some x) (hc : x.scatter = some c)
    (he : x.ended = false) (hk : x.suKind = 0) (ht : c.taken = true) (hu : c.unit = false)
    (hd : s.dev.draining x.q x.seq = false) (h : Runs (unitAdded x c) s.image s.start () t)
    (hw : Runs (setWork x.q x.seq (.scatter { c with unit := true })) s.image t () t')
    (hs : Runs (scatterCheck x.q x.seq) s.image t' () t'') : exec (.unitAdd q seq) s = .next (settle s t'') := by
  refine transact_runs ?_
  unfold Runs at *
  have added : caught (do addUnit x.q x.seq x.suTable c.step false; sendUnits x c) s.image s.start = .ok (.ok ()) t :=
    run_caught h
  have may : (!x.ended && x.suKind == 0 && c.taken && !c.unit && !s.dev.draining x.q x.seq) = true := by
    rw [he, hk, ht, hu, hd]
    rfl
  simp only [run_bind, run_getDesc (t := s.start) hx, chain_ok, hc, run_have_some, run_dev, start_dev, run_need, may, if_true,
    added, hw, hs]

/-- With nothing in the way of its record a unit is added; this does not set remote traffic up. -/
theorem addUnit_ends {step : Nat} (he : s.dev.rd F.optUrec_enable 8 ≠ 0)
    (ha : s.dev.atomicFree (s.dev.pageWorld (pg bOPT 8)) (s.dev.urecAddr x.suTable) 64) (hr : s.dev.rmtOn = false) :
    ∃ u, addUnit x.q x.seq x.suTable step false s.image s.start = .ok () u ∧ u.dev.rmtOn = false := by
  have hatomic := (ofSetup_rmtOff.atomicLocal (s.dev.recordWho x) .record (s.dev.urecAddr x.suTable) 64
    fun bs => toBytes 64 (URec.addUnit (fromBytes bs) step)).total
      (total_atomicLocal (w := s.dev.recordWho x) le_rfl ha fun _ => length_toBytes ..)
  obtain ⟨old, u, e, hu, -⟩ := hatomic.out s.image s.start ⟨hr, rfl⟩
  have who : structWho 8 0 5 (pg bOPT 8) x.q x.seq s.image s.start = .ok (s.dev.recordWho x) s.start := rfl
  refine ⟨{ u with dev := u.dev.testArmed x.suTable (URec.addUnit (fromBytes old) step) false }, ?_, hu⟩
  simp only [addUnit, urecAtomic, run_bind, run_rd, start_dev, run_malformedIf, beq_false_of_ne he, Bool.false_eq_true,
    if_false, chain_ok, who, run_dev, e, run_pure, run_modDev]

/-- Where remote traffic is off no unit record is sent (R295). -/
theorem unitAdded_ends (he : s.dev.rd F.optUrec_enable 8 ≠ 0)
    (ha : s.dev.atomicFree (s.dev.pageWorld (pg bOPT 8)) (s.dev.urecAddr x.suTable) 64) (hr : s.dev.rmtOn = false) :
    ∃ u, unitAdded x c s.image s.start = .ok () u := by
  obtain ⟨u, e, hu⟩ := addUnit_ends (step := c.step) he ha hr
  refine ⟨u, ?_⟩
  simp only [unitAdded, sendUnits, run_bind, e, chain_ok, run_dev, hu, Bool.not_false, if_true, run_pure]

theorem scatterCheck_after_ends {w : Work} (hf : t.dev.foldsNothing) :
    ∃ t' u, setWork x.q x.seq w i t = .ok () t' ∧ scatterCheck x.q x.seq i t' = .ok () u := by
  obtain ⟨⟨⟩, t', e, hf'⟩ := ((ofSetup_foldsNothing.modDesc ..).only (total_setWork x.q x.seq w)).out i t hf
  obtain ⟨⟨⟩, u, e', -⟩ := (total_scatterCheck x.q x.seq).out i t' hf'
  exact ⟨t', u, e, e'⟩

/-! ### The statement -/

/-- What a meaning leaves that runs to its end. -/
theorem after_runs {m : M Unit} (h : m s.image s.start = .ok () t) : s.after s.dev m = settle s t :=
  congrArg (settle s) (ran_runs h)

/-- Settles O28: each command is the meaning of what it takes up; that runs to its end where nothing holds it, or is a list of
attempts, none of which waits. -/
theorem scatterSteps : Obligations.ScatterSteps := by
  unfold Obligations.ScatterSteps
  refine ⟨fun s q seq x c row t hx hc he ht => ?_, fun s r => ⟨exec_mergeHoldExpiry_aged, exec_touchedListAppend_waits⟩,
    fun s r entry m t hm hd => ?_, fun s q seq x c hx hc he hk ht hu hd => ?_⟩
  · intro p b hr
    refine ⟨exec_contributionTakeIn_next hx hc he ht hr, fun r lanes hcon hs hf hst hroom hmore => ?_⟩
    obtain ⟨u, e⟩ := takeNext_ends hcon hs hf hst hroom hmore
    exact (exec_contributionTakeIn_next hx hc he ht hr e).trans (congrArg _ (after_runs e).symm)
  · refine ⟨fun h => (exec_mergeDrain_may hm hd).trans (transact_runs h), fun gs h p ho hp hk hn hs hf hfree => ?_⟩
    exact (exec_mergeDrain_may hm hd).trans (transact_after rfl (drainUnit_ends hs hn (drainHere_ends ho hp hk hf hfree)))
  · refine ⟨fun t t' t'' => exec_unitAdd_runs hx hc he hk ht hu hd, fun hen ha hoff hf => ?_⟩
    obtain ⟨t', t'', hw, hs⟩ := scatterCheck_after_ends hf
    refine (exec_unitAdd_runs hx hc he hk ht hu hd (runs_ran (unitAdded_ends hen ha hoff)) hw hs).trans ?_
    refine congrArg _ (congrArg _ (ran_runs (a := ()) ?_).symm)
    unfold Runs
    rw [run_bind, hw, chain_ok, hs]

end Sys2Proof.Machine
end

section
/-! OPTIMIZE and its CUSTOM handlers: firing, the update of a row, and the end. -/

namespace Sys2Proof.Machine

variable {s : State} {q : Fin 1024} {seq : BitVec 32} {x : Desc} {o : Optimize} {row : Nat} {i : Image} {t u : Tx}
  {P : Dev → Prop}

/-! ### Firing (R253, R254) -/

/-- Work that ends its descriptor where it fails, and waits as an attempt does, runs to its end. -/
theorem total_orEnd_attemptWork (q n : Nat) (m : M Unit) : Total Always Always (orEnd q n (attemptWork q n m)) := by
  refine ⟨fun i t _ => ?_⟩
  cases r : m i t with
  | ok a u => exact ⟨(), u, run_orEnd (run_attemptWork r), True.intro⟩
  | error e u =>
    cases e with
    | fail st rs => exact ⟨(), _, run_orEnd_fail (run_attemptWork_fail r), True.intro⟩
    | wait reg => exact ⟨(), _, run_orEnd (run_attemptWork_wait r), True.intro⟩
    | skip =>
      refine ⟨(), { t with dev := t.dev.keepTabs u.dev q n }, run_orEnd ?_, True.intro⟩
      simp only [attemptWork, run_bind, run_get, chain_ok, run_tryCatch, r, handle_error, run_dev, run_set, run_modDev]

theorem exec_optimizeFire_ready (hx : s.dev.desc q.val seq.toNat = some x) (ho : x.optimize = some o) (ha : x.armed = true)
    (hr : o.ready = true) : exec (.optimizeFire q seq) s = .next (s.after s.dev do
      orEnd x.q x.seq (attemptWork x.q x.seq (fireOptimize x))
      modDev Dev.syncArmed) := by
  refine transact_after ?_ ((total_bind (total_orEnd_attemptWork ..) fun _ => total_always_modDev _).ends s.image s.start)
  simp only [run_bind, run_getDesc (t := s.start) hx, chain_ok, ho, run_have_some, run_need, ha, hr, Bool.and_self, if_true]
  rfl

/-! ### The row operation (R256 to R258) -/

theorem exec_optimizeRowUpdate_claimed (hx : s.dev.desc q.val seq.toNat = some x) (ho : x.optimize = some o)
    (he : x.ended = false) (hf : o.fired = true) (hcall : o.call = none) (hcur : o.cur = some row) :
    exec (.optimizeRowUpdate q seq) s = transact (runClaimed x o row) s := by
  refine transact_congr ?_
  simp only [run_bind, run_getDesc (t := s.start) hx, chain_ok, ho, run_have_some, run_need, he, hf, hcall, Option.isNone_none,
    Bool.not_false, Bool.and_self, if_true, hcur]

theorem keepsLines_modDesc (q n : Nat) (f : Desc → Desc) : KeepsLines (modDesc q n f) := by
  refine keepsLines_bind keepsLines_dev fun d => ?_
  split
  · exact keepsLines_modDev fun _ => rfl
  · exact keepsLines_pure ()

/-- The row is not refused: it is done, or a handler has it. -/
def RowEnd.accepted : RowEnd → Prop
  | .refused _ => False
  | _ => True

/-- The pieces of a row with its companions. -/
def OptRow.pieces (k : OptRow) : List (List Seg) := k.main ++ k.sum ++ k.states

theorem OptRow.mem_main {k : OptRow} {p : Seg} (h : p ∈ k.main.flatten) : p ∈ k.pieces.flatten := by
  rw [OptRow.pieces, List.flatten_append, List.flatten_append]
  exact List.mem_append_left _ (List.mem_append_left _ h)

theorem OptRow.mem_sum {k : OptRow} {p : Seg} (h : p ∈ k.sum.flatten) : p ∈ k.pieces.flatten := by
  rw [OptRow.pieces, List.flatten_append, List.flatten_append]
  exact List.mem_append_left _ (List.mem_append_right _ h)

theorem OptRow.mem_states {k : OptRow} {p : Seg} (h : p ∈ k.states.flatten) : p ∈ k.pieces.flatten := by
  rw [OptRow.pieces, List.flatten_append]
  exact List.mem_append_right _ h

theorem mem_flatten_of_mem_getD {gs : List (List Seg)} {n : Nat} {p : Seg} (h : p ∈ gs.getD n []) : p ∈ gs.flatten := by
  rw [List.getD_eq_getElem?_getD] at h
  cases e : gs[n]? with
  | none =>
    rw [e] at h
    exact nomatch h
  | some g =>
    rw [e] at h
    exact List.mem_flatten_of_mem (List.mem_of_getElem? e) h

/-- A row is written at once where its lines are held among others. -/
theorem total_writeRow_within {gs hs : List (List Seg)} (hg : ∀ p ∈ gs.flatten, p ∈ hs.flatten) (tab : Table) (k : Husk)
    (bs : List Byte) : Total (·.rowHere hs) (·.rowHere hs) (writeRow tab gs k bs) := by
  have head (bs : List Byte) := total_groupWrite_here (op := 3) (fun p h => hg p (mem_flatten_of_mem_headD h)) bs
  have husk (bs : List Byte) := total_groupWrite_here (op := 3) (fun p h => hg p (mem_flatten_of_mem_getD (n := 1) h)) bs
  exact total_ite (head _) (total_bind (head _) fun _ => total_ite (husk _) (total_pure ()))

theorem total_clearSum (x : Desc) (k : OptRow) : Total (·.rowHere k.pieces) Always (clearSum x k) :=
  total_bind (total_groupWrite_here (fun _ h => OptRow.mem_sum (mem_flatten_of_mem_headD h)) _) fun _ =>
    (total_bind total_now fun _ => total_progress ..).anywhere

/-- A row whose lines are held is finished at once. -/
theorem total_finishRow (x : Desc) (o : Optimize) (r : Nat) (k : OptRow) (v : OptVals) :
    Total (·.rowHere k.pieces) Always (finishRow x o r k v) := by
  refine total_bind total_dev fun d => total_bind ((keepsLines_countEncode ..).total (lineClosed_rowHere _)
    (total_countEncode ..).anywhere fun _ h => h) fun _ => ?_
  split
  · exact total_bind (total_clearSum ..) fun _ => total_bind (total_modDesc ..) fun _ => total_pure _
  · refine total_bind (total_writeRow_within (fun _ => OptRow.mem_main) ..) fun _ => total_bind (total_each_mem ?_) fun _ =>
      total_bind (total_clearSum ..) fun _ => total_change <| total_bind (total_progress ..) fun _ => total_pure _
    rintro ⟨⟨tab, g⟩, vs⟩ hc
    have hg : g ∈ k.states := (List.of_mem_zip (List.of_mem_zip hc).1).2
    exact total_groupWrite_here (fun _ h => OptRow.mem_states (List.mem_flatten_of_mem hg h)) _

theorem Gives.weaken {α : Type} {P' Q : Dev → Prop} {R : α → Prop} {m : M α} (h : Gives P Q R m) (g : ∀ d, P' d → P d) :
    Gives P' Q R m := ⟨fun i t ht => h.out i t (g _ ht)⟩

/-- An action that may be left out, and what follows it with its answer. -/
theorem gives_when {α : Type} {Q : Dev → Prop} {R : α → Prop} {c : Prop} [Decidable c] {m : M Unit} {k : M α} (h : Total P P m)
    (g : Gives P Q R k) : Gives P Q R (if c then m >>= fun _ => k else k) := gives_ite (gives_bind h fun _ => g) g

/-- A row needs no handler, or the control core of its home region takes one (R258). -/
def OptRow.served (x : Desc) (k : OptRow) (d : Dev) : Prop :=
  x.table.optKind ≠ 5 ∨ d.rd F.optCustom_ready ((oneHome k.main).getD 0) = 1

theorem ofSetup_served (x : Desc) (k : OptRow) : OfSetup (k.served x) :=
  fun d e h => Or.imp_right (ofSetup_ready _ 1 d e h)

/-- The row operation of a claimed row in the secure world: where its sum is pending and its lines are held it runs to its end,
and a handler that is to take it is ready. -/
theorem optimizeRow_ends {k : OptRow} (ho : s.optOpens x o row k t) (hp : SumHdr.pending k.hdr = true)
    (hw : s.dev.queueWorld x.q = 1) (hs : s.dev.stageRuns o.stage = true) (hh : s.dev.scaleHeld x = false)
    (hr : k.served x t.dev) : ∃ e u, optimizeRow x o o.stage row s.image s.start = .ok e u ∧ e.accepted := by
  obtain ⟨t1, hopen, hissue, hhere⟩ := ho
  unfold Runs at hopen hissue
  have secure : (optWho o.stage (s.dev.queueWorld x.q) x.q x.seq).world = 1 := hw
  have keep {m : M Unit} (hm : Keeps (k.served x) m) (hk : KeepsLines m) (h : Total Always Always m) :=
    hm.total (hk.total (lineClosed_rowHere k.pieces) h.anywhere fun _ h => h)
  have cleared (f : Fld) : Gives (fun d => k.served x d ∧ d.rowHere k.pieces) Always RowEnd.accepted (do
      clearSum x k
      bump f o.stage
      return .done o) :=
    (gives_bind (total_clearSum x k) fun _ => gives_bind (total_always_modDev _) fun _ => gives_pure trivial).weaken
      fun _ => And.right
  simp only [optimizeRow, run_bind, run_dev, start_dev, chain_ok, run_need, hs, hh, Bool.not_false, Bool.and_self, if_true,
    hopen, hp, Bool.not_true, Bool.false_eq_true, if_false, secureCheck_secure secure, run_pure, hissue]
  rw [← run_bind]
  suffices h : Gives (fun d => k.served x d ∧ d.rowHere k.pieces) Always RowEnd.accepted _ by
    obtain ⟨e, u, run, -, he⟩ := h.out s.image t ⟨hr, hhere⟩
    exact ⟨e, u, run, he⟩
  refine gives_bind (keep ((ofSetup_served x k).heatRow ..) (keepsLines_heatRow ..) (total_heatRow ..)) fun _ =>
    gives_ite (cleared _) <| gives_when
      (keep ((ofSetup_served x k).modDesc ..) (keepsLines_modDesc ..) (total_modDesc ..)) <| gives_ite (cleared _) ?_
  split
  · rename_i custom
    refine ⟨fun i t ht => ?_⟩
    have on : (t.dev.rd F.optCustom_ready ((oneHome k.main).getD 0) == 1) = true :=
      beq_iff_eq.mpr (ht.1.resolve_left (not_not.mpr custom))
    simp only [run_bind, run_rdB, chain_ok, on, if_true, run_pure]
    exact ⟨_, t, rfl, trivial, trivial⟩
  · exact (gives_bind (total_finishRow ..) fun _ => gives_pure trivial).weaken fun _ => And.right

/-- Once the row operation has run, what is left of the work on a row has nothing to wait for. -/
theorem answered_runClaimed (h : ∃ e u, optimizeRow x o o.stage row i t = .ok e u ∧ e.accepted) :
    Answered (runClaimed x o row i t) := by
  obtain ⟨e, u, run, he⟩ := h
  rw [runClaimed, run_bind, run_caught run, chain_ok]
  cases e with
  | done o' => exact answered_bind ((total_setWork ..).answered i u) fun _ => answered_attempt _ i
  | call o' c => exact (total_change (total_setWork ..)).answered i u
  | refused home => exact he.elim

/-! ### The end (R254) -/

theorem exec_optimizeRowUpdate_last {n : Nat} (hx : s.dev.desc q.val seq.toNat = some x) (ho : x.optimize = some o)
    (he : x.ended = false) (hf : o.fired = true) (hcall : o.call = none) (hcur : o.cur = none)
    (hr : Runs (readURec x.q x.seq x.opTable) s.image s.start n t)
    (hl : x.stopping = true ∨ o.reached n = true ∨ x.length ≤ x.rows) (h : Runs (endOpt x.q x.seq) s.image t () u) :
    exec (.optimizeRowUpdate q seq) s = .next (settle s u) := by
  have last : (x.stopping || o.reached n || decide (x.length ≤ x.rows)) = true := by
    simpa [or_assoc] using hl
  refine transact_runs ?_
  unfold Runs at *
  simp only [run_bind, run_getDesc (t := s.start) hx, chain_ok, ho, run_have_some, run_need, he, hf, hcall, Option.isNone_none,
    Bool.not_false, Bool.and_self, if_true, hcur, run_caught hr, last, h]

/-- With no RESULT address and nothing to fold, the end has nothing to wait for. -/
theorem endOpt_ends (hx : t.dev.desc x.q x.seq = some x) (ho : x.optimize = some o) (hr : x.opResult = 0)
    (hf : t.dev.foldsNothing) : ∃ u, endOpt x.q x.seq i t = .ok () u := by
  obtain ⟨⟨⟩, u, e, -⟩ := (total_endStats (table := x.opTable) (limit := x.table.mseLimit) (st := o.stats) hx hf).out i t rfl
  exact ⟨u, by simp only [endOpt, run_bind, run_getDesc hx, chain_ok, ho, hr, e]⟩

/-! ### CUSTOM handlers (R258) -/

/-- The machine without a call: its row operation holds the row no longer. -/
def Dev.callDropped (d : Dev) (id : Nat) : Dev := { d with calls := d.calls.filter fun y => y.id != id }.releaseHeld

theorem run_dropCall (id : Nat) : dropCall id i t = .ok () { t with dev := t.dev.callDropped id } := rfl

theorem exec_customHandlerReturn_form {r : Fin 8} {call : Nat} {k : Call} {data : List Byte} {o' : Optimize}
    (hk : (s.dev.calls.find? fun c => c.id == call && c.region == r.val) = some k) (hx : s.dev.desc k.q k.seq = some x)
    (ho : x.optimize = some o) (hl : data.length = 12 * x.table.elems + 4) (hs : s.dev.stageRuns o.stage = true)
    (hf : s.dev.regionFenced k.region = false)
    (h : Runs (handlerRow x o k.row data) s.image ⟨s.dev.callDropped call, []⟩ o' t) :
    exec (.customHandlerReturn r call true data) s = .next (settle s (ran (do
      setOpt x { o' with cur := none, call := none }
      finishOpt k.q k.seq) s.image t)) := by
  refine transact_answered ?_ (answered_bind ((total_setWork ..).answered s.image t) fun _ => answered_attempt _ s.image)
  have form : (true && data.length == 12 * x.table.elems + 4 && s.dev.stageRuns o.stage &&
      !s.dev.regionFenced k.region) = true := by
    rw [beq_iff_eq.mpr hl, hs, hf]
    rfl
  simp only [run_bind, run_dev, start_dev, chain_ok, hk, run_have_some, run_getDesc (t := s.start) hx, ho, run_need, form,
    if_true, run_dropCall, start_log, run_caught h]

/-- What a handler returns is written at once where the lines of its row are held. -/
theorem handlerRow_ends {n : Nat} {data : List Byte} {k : OptRow} (h : Runs (openOptRow x o.stage n) i t k u)
    (hh : u.dev.rowHere k.pieces) : ∃ o' v, handlerRow x o n data i t = .ok o' v := by
  unfold Runs at h
  simp only [handlerRow, run_bind, h, chain_ok, run_dev]
  obtain ⟨o', v, e, -⟩ := (total_finishRow ..).out i u hh
  exact ⟨o', v, e⟩

theorem exec_customHandlerTimeout_late {r : Fin 8} {call : Nat} {k : Call}
    (hk : (s.dev.calls.find? fun c => c.id == call && c.region == r.val) = some k) (hx : s.dev.desc k.q k.seq = some x)
    (ho : x.optimize = some o) (hl : s.dev.rd F.optCustom_limit r.val ≠ 0)
    (ht : k.et + s.dev.rd F.optCustom_limit r.val * usTicks ≤ s.dev.time.et)
    (h : Runs (reappend x o.stage k.row) s.image ⟨(s.dev.callDropped call).bump F.optCustomTo_count k.region 1, []⟩ () t) :
    exec (.customHandlerTimeout r call) s = .next (settle s (ran (do
      meet x.q x.seq sTIMEOUT rNONE
      setOpt x { o with cur := none, call := none }) s.image t)) := by
  refine transact_answered ?_ ((total_bind (total_modDesc ..) fun _ => total_setWork ..).answered s.image t)
  have late : (s.dev.rd F.optCustom_limit r.val != 0 &&
      decide (k.et + s.dev.rd F.optCustom_limit r.val * usTicks ≤ s.dev.time.et)) = true := by
    rw [bne_iff_ne.mpr hl, decide_eq_true ht]
    rfl
  unfold Runs at h
  simp only [run_bind, run_dev, start_dev, chain_ok, hk, run_have_some, run_need, late, if_true, run_getDesc (t := s.start) hx,
    ho, run_dropCall, start_log, customFailed, run_bump, h]

/-! ### The statement -/

/-- Settles O29: each command is the meaning of what its OPTIMIZE is at; where nothing holds what that accesses it runs to its
end, but for attempts, none of which waits. -/
theorem optimizeSteps : Obligations.OptimizeSteps := by
  unfold Obligations.OptimizeSteps
  refine ⟨fun s q seq x o t hx ho => ⟨exec_optimizeFire_ready hx ho, fun row he hf hcall hcur => ⟨fun h => ?_, ?_⟩,
    fun n he hf hcall hcur hr hl => ⟨fun u => exec_optimizeRowUpdate_last hx ho he hf hcall hcur hr hl, ?_⟩⟩,
    fun s r call k x o t hk hx ho => ⟨fun data hl hs hf => ⟨?_, ?_⟩, ?_⟩⟩
  · exact (exec_optimizeRowUpdate_claimed hx ho he hf hcall hcur).trans (transact_runs h)
  · intro k hopen hp hw hs hh hr
    exact (exec_optimizeRowUpdate_claimed hx ho he hf hcall hcur).trans
      (transact_answered rfl (answered_runClaimed (optimizeRow_ends hopen hp hw hs hh hr)))
  · intro hres hfold hx'
    exact exec_optimizeRowUpdate_last hx ho he hf hcall hcur hr hl (runs_ran (endOpt_ends hx' ho hres hfold))
  · exact fun o' t' => exec_customHandlerReturn_form hk hx ho hl hs hf
  · intro row t' hopen hhere
    obtain ⟨o', v, e⟩ := handlerRow_ends hopen hhere
    exact ⟨o', v, e, exec_customHandlerReturn_form hk hx ho hl hs hf e⟩
  · exact exec_customHandlerTimeout_late hk hx ho

end Sys2Proof.Machine
end

section
/-! Meanings that leave the descriptors and the messages to send: accesses of local memory, and the spill rings. -/

namespace Sys2Proof.Machine

variable {α β : Type} {P : Dev → Prop} {d e : Dev}

/-! ### Changes of the machine -/

/-- Two machines with the same descriptors and the same messages to send. -/
def SameWork (e d : Dev) : Prop := e.descs = d.descs ∧ e.outbox = d.outbox

theorem SameWork.refl (d : Dev) : SameWork d d := ⟨rfl, rfl⟩

theorem SameWork.trans {f : Dev} (h : SameWork f e) (g : SameWork e d) : SameWork f d := ⟨h.1.trans g.1, h.2.trans g.2⟩

theorem sameWork_bump (f : Fld) (p n : Nat) : SameWork (d.bump f p n) d := ⟨Dev.descs_bump .., Dev.outbox_bump ..⟩

theorem sameWork_traced (k inst op world q n len addr : Nat) : SameWork (d.traced k inst op world q n len addr) d :=
  ite_keeps (SameWork · d) (ite_keeps (SameWork · d) ⟨rfl, rfl⟩ ((sameWork_bump ..).trans ⟨rfl, rfl⟩)) (SameWork.refl d)

theorem sameWork_turnTo (pc dir : Nat) : SameWork (d.turnTo pc dir) d :=
  SameWork.trans ⟨rfl, rfl⟩ (ite_keeps (SameWork · d) (sameWork_bump ..) (SameWork.refl d))

theorem sameWork_ms (m : MemSys) : SameWork { d with ms := m } d := ⟨rfl, rfl⟩

theorem sameWork_wr (f : Fld) (p v n : Nat) : SameWork (d.wr f p v n) d := ⟨Dev.descs_wr .., Dev.outbox_wr ..⟩

theorem sameWork_syncHeld : SameWork d.syncHeld d := sameWork_wr ..

theorem sameWork_keepHeld (p : Nat × Nat × Nat × Nat × Nat → Bool) : SameWork (d.keepHeld p) d :=
  sameWork_syncHeld.trans (sameWork_ms _)

/-! ### Properties that they decide -/

/-- A property that the descriptors and the messages to send alone decide. -/
def OfWork (P : Dev → Prop) : Prop := ∀ d e : Dev, SameWork e d → P d → P e

theorem ofWork_always : OfWork Always := fun _ _ _ _ => True.intro

theorem ofWork_lossFree (n : Nat) : OfWork (·.lossFree n) := by
  rintro d e ⟨hx, hm⟩ h
  show (∀ m ∈ e.outbox, m.node ≠ n) ∧ ∀ x ∈ e.descs, x.armed = false
  rwa [hx, hm]

section
variable (hP : OfWork P)
include hP

theorem OfWork.total {f : Dev → Dev} (h : ∀ d, SameWork (f d) d) : Total P P (modDev f) :=
  total_modDev fun d hd => hP _ _ (h d) hd

theorem OfWork.modDev {f : Dev → Dev} (h : ∀ d, SameWork (f d) d) : Keeps P (modDev f) :=
  keeps_modDev fun d hd => hP _ _ (h d) hd

theorem OfWork.waitFor {f : Dev → Dev} (h : ∀ d, SameWork (f d) d) : Keeps P (waitFor f : M α) :=
  keeps_waitFor fun d hd => hP _ _ (h d) hd

theorem OfWork.bump (f : Fld) (p n : Nat) : Keeps P (bump f p n) := hP.modDev fun _ => sameWork_bump ..
theorem OfWork.wr (f : Fld) (p v n : Nat) : Keeps P (wr f p v n) := hP.modDev fun _ => sameWork_wr ..
theorem OfWork.raise (p b : Nat) : Keeps P (raise p b) := hP.modDev fun _ => ⟨Dev.descs_raised .., Dev.outbox_raised ..⟩
theorem OfWork.record (code sev page payload : Nat) : Keeps P (record code sev page payload) :=
  hP.modDev fun _ => ⟨Dev.descs_event .., Dev.outbox_event ..⟩
theorem OfWork.tap (k inst op world q n len addr : Nat) : Keeps P (tap k inst op world q n len addr) :=
  hP.modDev fun _ => sameWork_traced ..
theorem OfWork.modPeer (n : Nat) (f : Peer → Peer) : Keeps P (modPeer n f) := hP.modDev fun _ => ⟨rfl, rfl⟩

/-! ### Accesses of local memory -/

theorem OfWork.violation (source world kind : Nat) (region : Option Nat) (queue addr srcPage : Nat) :
    Keeps P (violation source world kind region queue addr srcPage) :=
  keeps_bind (hP.bump ..) fun _ => keeps_bind (keeps_rd ..) fun _ => keeps_branch (hP.record ..) fun recorded =>
    keeps_bind (hP.wr ..) fun _ => keeps_bind (hP.modDev fun _ => ⟨rfl, rfl⟩) fun _ => keeps_bind keeps_now fun _ =>
    keeps_bind (hP.wr ..) fun _ => keeps_bind (hP.raise ..) fun _ => recorded

theorem OfWork.localCheck (w : Who) (n : Need) (a len : Nat) : Keeps P (localCheck w n a len) := by
  refine keeps_bind keeps_dev fun _ => keeps_ite (keeps_bind keeps_dev fun _ => ?_) (keeps_fail ..)
  dsimp only
  split
  · exact keeps_pure ()
  · exact keeps_bind (hP.violation ..) fun _ => keeps_fail ..

theorem OfWork.clear (w : Who) (isRead : Bool) (a len : Nat) : Keeps P (clear! w isRead a len) := by
  refine keeps_bind keeps_dev fun _ => keeps_ite ?_ (keeps_pure ())
  split
  · exact keeps_skip
  · refine keeps_ite keeps_skip (hP.waitFor fun d => ?_)
    have noted (m : MemSys) : SameWork (Dev.syncHeld { d with ms := m }) d := sameWork_syncHeld.trans (sameWork_ms m)
    exact ite_keeps (SameWork · d) ((sameWork_bump ..).trans (noted _)) (noted _)

theorem OfWork.regulate (w : Who) (key limit : Nat) (yields : Bool) (len : Nat) :
    Keeps P (regulate w key limit yields len) :=
  keeps_bind keeps_dev fun _ => keeps_ite
    (hP.modDev fun _ => (sameWork_ms _).trans <| (sameWork_ms _).trans <| sameWork_ms _)
    (hP.waitFor fun _ => (sameWork_ms _).trans <| sameWork_ms _)

theorem OfWork.capoIssue (w : Who) (r p c len : Nat) : Keeps P (capoIssue w r p c len) :=
  keeps_ite (keeps_pure ()) (keeps_bind keeps_dev fun _ => hP.regulate ..)

theorem OfWork.carry (src dst len : Nat) : Keeps P (carry src dst len) :=
  keeps_ite (keeps_bind (hP.bump ..) fun _ => keeps_bind (hP.bump ..) fun _ =>
    keeps_ite (keeps_bind (hP.bump ..) fun _ => hP.bump ..) (keeps_pure ())) (keeps_pure ())

theorem OfWork.issue (w : Who) (op a len : Nat) : Keeps P (issue w op a len) := by
  refine keeps_bind (hP.capoIssue ..) fun _ => keeps_bind keeps_dev fun _ => keeps_branch
    (keeps_branch (keeps_bind (keeps_each fun _ => hP.tap ..) fun _ => ?_) fun rest => keeps_bind (hP.tap ..) fun _ => rest)
    fun rest => keeps_bind (hP.capoIssue ..) fun _ => rest
  split
  · exact keeps_ite (hP.carry ..) (hP.carry ..)
  · exact keeps_pure ()

theorem OfWork.meter (w : Who) (hold : Bool) (a len : Nat) : Keeps P (meter w hold a len) := by
  have count {key n : Nat} : Keeps P (Machine.modDev (·.capoCount key n)) := hP.modDev fun _ => ⟨rfl, rfl⟩
  refine keeps_each fun _ => keeps_bind keeps_dev fun _ => ?_
  split
  · exact keeps_ite (hP.regulate ..) count
  · exact count

theorem OfWork.homeTraffic (w : Who) (isWrite : Bool) (a len : Nat) : Keeps P (homeTraffic w isWrite a len) := by
  refine keeps_each fun g => ?_
  have turned {pc dir : Nat} {k : Unit → M Unit} (h : Keeps P (k ())) : Keeps P (Machine.modDev (·.turnTo pc dir) >>= k) :=
    keeps_bind (hP.modDev fun _ => sameWork_turnTo ..) fun _ => h
  dsimp only
  cases homeOf g.1 with
  | hbm r o =>
    exact keeps_ite (keeps_bind (hP.bump ..) fun _ => turned (hP.tap ..))
      (keeps_bind (hP.bump ..) fun _ => turned (hP.tap ..))
  | cap r o =>
    exact keeps_ite (keeps_bind (hP.bump ..) fun _ => hP.tap ..) (keeps_bind (hP.bump ..) fun _ => hP.tap ..)
  | _ => exact keeps_pure ()

theorem OfWork.clearMarks (a len : Nat) : Keeps P (clearMarks a len) := hP.modDev fun d =>
  ite_keeps (SameWork · d) (SameWork.refl d) ((sameWork_keepHeld _).trans (sameWork_ms _))

theorem OfWork.writeLocal (w : Who) (a : Nat) (bs : List Byte) : Keeps P (writeLocal w a bs) := by
  refine keeps_bind (hP.localCheck ..) fun _ => keeps_bind (hP.clear ..) fun _ => keeps_bind keeps_dev fun _ =>
    keeps_bind (keeps_need _) fun _ => keeps_bind (hP.issue ..) fun _ => keeps_bind
    (keeps_bind keeps_dev fun _ => keeps_bind (hP.bump ..) fun _ => keeps_pure _) fun _ =>
    keeps_bind (hP.meter ..) fun _ => keeps_bind (hP.homeTraffic ..) fun _ => keeps_bind keeps_dev fun _ =>
    keeps_ite (keeps_pure ()) <| keeps_bind (hP.clearMarks ..) fun _ =>
    keeps_bind (keeps_each fun n => keeps_bind keeps_dev fun d => ?_) fun _ => keeps_pokes ..
  split
  · exact hP.modDev fun _ => ⟨rfl, rfl⟩
  · exact keeps_pure ()

/-! ### Spill rings (R291) -/

theorem OfWork.spill (r : Nat) (x : Delta) (refused : Bool) : Keeps P (spill r x refused) :=
  keeps_bind keeps_dev fun _ => keeps_bind keeps_dev fun _ => keeps_ite (keeps_pure _) <|
    keeps_bind (keeps_same fun _ _ => ⟨_, rfl⟩) fun _ => keeps_bind (keeps_each fun _ => keeps_bind keeps_dev fun _ =>
      keeps_bind (hP.writeLocal ..) fun _ => keeps_bind (hP.wr ..) fun _ => hP.bump ..) fun _ => keeps_pure _

theorem OfWork.spillOwed (n : Nat) (us : List Delta) : Keeps P (spillOwed n us) := by
  induction us with
  | nil => exact keeps_pure ()
  | cons u us ih =>
    exact keeps_bind keeps_dev fun _ => keeps_bind (hP.spill ..) fun _ => keeps_ite
      (keeps_bind (hP.modDev fun _ => ⟨rfl, rfl⟩) fun _ => ih) (keeps_pure ())

end

end Sys2Proof.Machine
end

section
/-! Ports: frames leave, tears end, items are released and a node is lost without anything to wait for. -/

namespace Sys2Proof.Machine

variable {α β : Type} {P : Dev → Prop} {d : Dev} {i : Image} {t u : Tx}

theorem total_repeatM {m : M Bool} (h : Total P P m) (n : Nat) : Total P P (repeatM n m) := by
  induction n with
  | zero => exact total_pure ()
  | succ n ih => exact total_bind h fun _ => total_ite ih (total_pure ())

/-! ### Frames as they leave (R387 to R390) -/

theorem ofSetup_always : OfSetup Always := fun _ _ _ _ => True.intro

theorem OfSetup.total {f : Dev → Dev} (hP : OfSetup P) (h : ∀ d, SameRegs setupKey (f d) d) :
    Total P P (Machine.modDev f) :=
  total_modDev fun d hd => hP _ _ (h d) hd

section
variable (hP : OfSetup P)
include hP

theorem OfSetup.total_portEdge (p : Nat) (before : Bool) : Total P P (portEdge p before) :=
  total_bind total_dev fun _ => total_ite (hP.total fun _ _ _ _ => rfl) <|
    total_ite (total_bind (hP.total fun _ _ _ _ => rfl) fun _ => total_each fun _ => hP.total fun _ _ _ _ => rfl)
      (total_pure ())

theorem OfSetup.total_spendPn (p : Nat) : Total P P (spendPn p) := by
  refine total_bind total_dev fun d => ?_
  split
  · exact total_pure ()
  · exact total_bind total_dev fun _ => total_bind (hP.total fun _ _ _ _ => rfl) fun _ =>
      total_branch (hP.total_portEdge ..) fun rest => total_bind (hP.total fun _ => setup_wr _ _ (by decide)) fun _ =>
        total_bind (hP.total fun _ => setup_raised _ _) fun _ => rest

theorem OfSetup.total_sendFrame (n kind : Nat) (start last retx : Bool) (seq hdr : Nat) (body : List Byte) :
    Total P P (sendFrame n kind start last retx seq hdr body) :=
  total_bind total_dev fun _ => total_ite (total_pure ()) <| total_bind (hP.total fun _ _ _ _ => rfl) fun _ =>
    total_bind (hP.total fun _ => setup_bump _ _ (by decide)) fun _ => total_bind (hP.total fun _ _ _ _ => rfl) fun _ =>
    hP.total_spendPn _

end

theorem total_sendControl (n kind : Nat) (body : List Byte) : Total Always Always (sendControl n kind body) :=
  total_bind total_dev fun _ => ofSetup_always.total_sendFrame ..

theorem total_sendNak (n : Nat) : Total Always Always (sendNak n) :=
  total_bind total_dev fun _ => total_ite (total_always_modDev _) <|
    total_bind (total_sendControl ..) fun _ => total_bind total_now fun _ => total_always_modDev _

theorem total_resend (n : Nat) (f : TxFrame) : Total Always Always (resend n f) :=
  total_bind total_dev fun _ => total_bind total_dev fun _ => total_ite (total_pure ()) <| total_change <|
    total_bind (ofSetup_always.total_sendFrame ..) fun _ => total_bind total_now fun _ => total_always_modDev _

/-! ### Tears and occupancy (R398 to R402) -/

theorem OfWork.total_closeTear (hP : OfWork P) (n : Nat) (byLoss : Bool) : Total P P (closeTear n byLoss) := by
  refine total_bind total_dev fun d => ?_
  dsimp only
  split
  · exact total_pure ()
  · exact total_bind ((hP.record ..).only (total_always_modDev _)) fun _ =>
      total_bind ((hP.raise ..).only (total_always_modDev _)) fun _ =>
      total_bind (hP.total fun _ => sameWork_bump ..) fun _ => total_bind (hP.total fun _ => sameWork_bump ..) fun _ =>
      hP.total fun _ => ⟨rfl, rfl⟩

theorem total_settlePort (p : Nat) : Total Always Always (settlePort p) := by
  have repaired {c : Prop} [Decidable c] {l : List (Nat × Peer)} : Total Always Always (do if c then
      each l fun e =>
        if e.2.tear.isSome && e.2.live != some true then do
          closeTear e.1 false
          if (← dev).portRuns p then sendNak e.1
        else pure ()) := by
    refine total_ite (total_each fun e => total_ite ?_ (total_pure ())) (total_pure ())
    exact total_bind (ofWork_always.total_closeTear ..) fun _ => total_bind total_dev fun _ =>
      total_ite (total_sendNak _) (total_pure ())
  exact total_bind total_dev fun d => total_change <| total_change <| total_change <| total_change <|
    total_ite (total_change repaired) (total_when (total_always_modDev _) repaired)

/-! ### Items (R286) -/

theorem total_releaseItems : Total Always Always releaseItems := by
  refine total_change <| total_each fun p => total_repeatM (total_bind total_dev fun d => ?_) _
  refine total_ite ?_ (total_pure _)
  split
  · exact total_change <| total_change (total_pure _)
  · exact total_pure _

/-! ### What the loss of a node does to the work (R291, R292) -/

theorem unfailing_skip : Unfailing (skip : M α) := ⟨fun _ _ _ _ _ => nofun⟩

/-- What is tried runs to its end, unless it fails. -/
theorem total_tried {m : M Unit} (hm : Keeps P m) (hu : Unfailing m) : Total P P (tried m) := by
  refine ⟨fun i t ht => ?_⟩
  have kept := hm.out i t ht
  have unfailing := hu.ne i t
  simp only [tried, run_bind, run_get, chain_ok, run_tryCatch]
  cases r : m i t with
  | ok a u =>
    rw [r] at kept
    exact ⟨true, u, rfl, kept⟩
  | error x u =>
    rw [r] at kept
    cases x with
    | skip => exact ⟨false, t, rfl, ht⟩
    | wait reg => exact ⟨false, { t with dev := reg t.dev }, rfl, kept t.dev ht⟩
    | fail st rs => exact absurd r (unfailing st rs u)

theorem Desc.armed_met (x : Desc) (st rs : Nat) : (x.met st rs).armed = x.armed :=
  ite_keeps (fun y : Desc => y.armed = x.armed) rfl rfl

theorem lossFree_putDesc {n : Nat} {x : Desc} (hd : d.lossFree n) (hx : x.armed = false) : (d.putDesc x).lossFree n := by
  refine ⟨hd.1, fun y hy => ?_⟩
  obtain ⟨z, hz, rfl⟩ := List.mem_map.mp hy
  exact ite_keeps (fun y : Desc => y.armed = false) hx (hd.2 z hz)

theorem total_lossFree_modDesc {n q k : Nat} {f : Desc → Desc} (hf : ∀ x, x.armed = false → (f x).armed = false) :
    Total (·.lossFree n) (·.lossFree n) (modDesc q k f) := by
  refine total_dev_bind fun d hd => ?_
  split
  · rename_i x hx
    refine total_modDev fun e he => ?_
    subst he
    exact lossFree_putDesc hd (hf x (hd.2 x (List.mem_of_find?_eq_some hx)))
  · exact (total_pure ()).mono fun _ he => he ▸ hd

theorem total_lossFree_usersLost (n : Nat) (us : List (Nat × Nat)) :
    Total (·.lossFree n) (·.lossFree n) (usersLost us) :=
  total_each fun _ => total_lossFree_modDesc fun x hx =>
    ite_keeps (fun y : Desc => y.armed = false) hx ((x.armed_met ..).trans hx)

theorem sameWork_stopQueue (x : Desc) (st rs : Nat) : SameWork (d.stopQueue x st rs) d := by
  refine ite_keeps (SameWork · d) (ite_keeps (SameWork · d) (SameWork.refl d) ?_) (SameWork.refl d)
  have noted (e : Dev) : SameWork (((e.wr F.queErr_status (1 + x.q / 16) st (x.q % 16)).wr F.queErr_reason
      (1 + x.q / 16) rs (x.q % 16)).wr F.queErrSeq_seq (1 + x.q / 16) x.seq (x.q % 16)) e :=
    (sameWork_wr ..).trans <| (sameWork_wr ..).trans <| sameWork_wr ..
  exact (noted _).trans <| ite_keeps (SameWork · d) ((sameWork_bump ..).trans (sameWork_wr ..)) (SameWork.refl d)

theorem sameWork_setBatcher (die : Nat) (b : Batcher) : SameWork (d.setBatcher die b) d := by
  have put : SameWork
      (if die = 0 then { d with xl := { d.xl with b0 := b } } else { d with xl := { d.xl with b1 := b } }) d :=
    ite_keeps (SameWork · d) ⟨rfl, rfl⟩ ⟨rfl, rfl⟩
  exact (sameWork_wr ..).trans <| (sameWork_wr ..).trans <| (sameWork_wr ..).trans put

theorem sameWork_retireBatches (die : Nat) : SameWork (d.retireBatches die) d := sameWork_setBatcher die _

theorem sameWork_xl (x : Xlat) : SameWork { d with xl := x } d := ⟨rfl, rfl⟩

theorem sameWork_dropWaiters (p : Waiter → Bool) : SameWork (d.dropWaiters p) d := by
  unfold Dev.dropWaiters
  dsimp only
  exact (sameWork_retireBatches 1).trans <| (sameWork_retireBatches 0).trans <| (sameWork_xl _).trans <|
    (sameWork_setBatcher 1 _).trans <| sameWork_setBatcher 0 _

theorem sameWork_keepCapo (p : CapoHold → Bool) : SameWork (d.keepCapo p) d := ⟨rfl, rfl⟩

theorem total_lossFree_endDesc (n q k : Nat) : Total (·.lossFree n) (·.lossFree n) (endDesc q k) := by
  refine total_modDev fun d hd => ?_
  unfold Dev.endDesc
  split
  · exact hd
  · exact ite_keeps (Dev.lossFree · n) hd <| ofWork_lossFree n _ _ ((sameWork_stopQueue ..).trans <|
      (sameWork_keepCapo _).trans <| (sameWork_keepHeld _).trans <| sameWork_dropWaiters _) (lossFree_putDesc hd rfl)

theorem total_lossFree_exchangeLost (left : Dev) (n k : Nat) :
    Total (·.lossFree n) (·.lossFree n) (exchangeLost left k) := by
  have hP := ofWork_lossFree n
  refine total_bind total_dev fun d => total_each fun x => ?_
  split
  · refine total_bind (total_foldM' (fun hit a => ?_) _ _) fun hit => total_ite ?_ (total_pure ())
    · exact total_ite (total_pure _) <|
        total_bind (total_freeValue 1 fun d hd => hP d _ ⟨rfl, rfl⟩ hd) fun _ => total_ite (total_pure _) (total_pure _)
    · exact total_bind (hP.total fun _ => sameWork_bump ..) fun _ => total_bind (hP.total fun _ => ⟨rfl, rfl⟩) fun _ =>
        total_bind (total_lossFree_modDesc fun x hx => (x.armed_met ..).trans hx) fun _ => total_lossFree_endDesc ..
  · exact total_pure ()

theorem total_lossFree_spillAll (n k : Nat) (us : List Delta) :
    Total (·.lossFree n) (·.lossFree n) (spillAll k us) := by
  have hP := ofWork_lossFree n
  refine total_bind (hP.total fun _ => ⟨rfl, rfl⟩) fun _ =>
    total_bind (total_each fun u => total_lossFree_usersLost ..) fun _ => total_bind (total_tried ?_ ?_) fun _ => total_pure ()
  · refine keeps_bind keeps_dev fun d => keeps_bind (keeps_caught (hP.spillOwed ..)) fun r => ?_
    cases r with
    | ok _ => exact keeps_pure ()
    | error _ => exact keeps_skip
  · refine unfailing_bind unfailing_dev fun d => unfailing_bind (unfailing_caught _) fun r => ?_
    cases r with
    | ok _ => exact unfailing_pure ()
    | error _ => exact unfailing_skip

theorem total_lossFree_optimizeLost (n k : Nat) : Total (·.lossFree n) (·.lossFree n) (optimizeLost k) := by
  refine total_dev_bind fun d hd => ?_
  have none' : d.descs.filter (fun x => x.armed && x.opArm) = [] :=
    List.filter_eq_nil_iff.mpr fun x hx => by
      simp only [hd.2 x hx, Bool.false_and, Bool.false_eq_true, not_false_eq_true]
  rw [none']
  exact (total_pure ()).mono fun _ he => he ▸ hd

/-- With no message for the node and no OPTIMIZE that is armed, the loss of a node has nothing to wait for (R292, R413). -/
theorem total_losePeer (n reason : Nat) : Total (·.lossFree n) Always (losePeer n reason) := by
  have hP := ofWork_lossFree n
  refine total_bind total_dev fun before => total_ite ((total_pure ()).mono fun _ _ => True.intro) ?_
  refine total_bind (hP.total fun _ => sameWork_bump ..) fun _ =>
    total_bind ((hP.raise ..).only (total_always_modDev _)) fun _ =>
    total_bind ((hP.record ..).only (total_always_modDev _)) fun _ => total_bind (hP.total_closeTear ..) fun _ =>
    total_bind total_dev fun _ => total_bind (hP.total fun _ => ⟨rfl, rfl⟩) fun _ => total_dev_bind fun d hd => ?_
  have out : (d.outbox.filter fun m => m.node == n) = [] :=
    List.filter_eq_nil_iff.mpr fun m hm => by rw [beq_false_of_ne (hd.1 m hm)]; decide
  rw [out]
  refine total_bind (Q := (·.lossFree n)) (total_modDev fun e he => ?_) fun _ =>
    total_bind (total_lossFree_spillAll ..) fun _ => total_bind (total_pure ()) fun _ => total_bind (total_pure ()) fun _ =>
    total_bind (total_lossFree_exchangeLost ..) fun _ => total_bind (total_lossFree_optimizeLost ..) fun _ =>
    Total.anywhere <| total_change <| total_bind total_releaseItems fun _ =>
    total_bind (total_bind total_dev fun _ => total_always_modDev _) fun _ => total_settlePort _
  subst he
  exact ⟨fun m hm => hd.1 m (List.mem_of_mem_filter hm), hd.2⟩

end Sys2Proof.Machine
end

section
/-! What the transport sends: batches that close, data frames, and the timers of a session. -/

namespace Sys2Proof.Machine

variable {P : Dev → Prop} {d : Dev} {s : State} {i : Image} {t u : Tx}

/-! ### Batches (R284) -/

theorem total_modDesc_within (h : ∀ d x, P d → P (d.putDesc x)) (q n : Nat) (f : Desc → Desc) :
    Total P P (modDesc q n f) := by
  refine total_bind total_dev fun d => ?_
  split
  · exact total_modDev fun d => h d _
  · exact total_pure ()

theorem batchClosed_ends (b : OutBatch) (x : Delta) : ∃ u, batchClosed b x i t = .ok () u ∧ b ∉ u.dev.batches := by
  have count (f : Fld) (p n : Nat) : Total (b ∉ ·.batches) (b ∉ ·.batches) (bump f p n) :=
    total_modDev fun d hd => by rwa [Dev.batches_bump]
  have closed : Total Always (b ∉ ·.batches) (batchClosed b x) := by
    refine total_bind (Q := (b ∉ ·.batches)) (total_modDev fun d _ hb => ?_) fun _ => total_ite ?_ (total_pure ())
    · simpa using (List.mem_filter.mp hb).2
    · exact total_bind (count ..) fun _ => total_ite (total_bind (count ..) fun _ =>
        total_each fun _ => total_modDesc_within (fun _ _ hd => hd) ..) (total_pure ())
  obtain ⟨⟨⟩, u, e, hu⟩ := closed.out i t True.intro
  exact ⟨u, e, hu⟩

theorem exec_batchCloseTimer_due {r : Fin 8} {b : OutBatch}
    (hb : (s.dev.batches.filter fun b => b.port == r.val && decide (b.et + 2 * usTicks ≤ s.dev.time.et)) = [b])
    (hs : s.deltaGoes b.port (b.closing s.dev) t) :
    exec (.batchCloseTimer r) s = .next (settle s (ran (batchClosed b (b.closing s.dev)) s.image t)) := by
  obtain ⟨u, hu, hgone⟩ := batchClosed_ends (i := s.image) (t := t) b (b.closing s.dev)
  have closed : closeBatch b s.image s.start = .ok () u := by
    simp only [closeBatch, run_bind, run_dev, start_dev, chain_ok, run_caught hs, hu]
  have gone : u.dev.batches.contains b = false := by simpa using hgone
  rw [ran_runs hu]
  refine transact_runs ?_
  unfold Runs
  simp only [run_bind, run_dev, start_dev, chain_ok, hb, List.isEmpty_cons, Bool.not_false, run_need, if_true, each, closed,
    gone, Bool.false_and, Bool.false_eq_true, if_false, run_pure]

/-! ### Data frames (R397 to R399) -/

theorem total_capoIssue {w : Who} {r p c len : Nat} (h : d.capoPasses w r p c len) :
    Total (· = d) Always (capoIssue w r p c len) := by
  refine ⟨fun i t ht => ?_⟩
  subst ht
  by_cases hc : 5 ≤ c
  · exact ⟨(), t, by rw [capoIssue, if_pos hc, run_pure], True.intro⟩
  · obtain ⟨hy, hm⟩ := h.resolve_left hc
    refine ⟨(), { t with dev := t.dev.capoPass w (capoKey r p c) len }, ?_, True.intro⟩
    simp only [capoIssue, regulate, run_ite, if_neg hc, run_bind, run_dev, chain_ok, hy, Bool.not_false, Bool.true_and,
      decide_eq_true hm, if_true, run_modDev]

/-- What the departure of a message commits is committed at once, where nothing has to be folded (R44, R190). -/
def Commits (m : OutMsg) (d : Dev) : Prop := m.body.length ≤ m.sent + 8192 → m.users = [] ∨ d.foldsNothing

theorem ofSetup_commits (m : OutMsg) : OfSetup (Commits m) := fun d e h hd hl =>
  (hd hl).imp_right (ofSetup_foldsNothing d e h)

theorem sendData_ends {p : Nat} {m : OutMsg}
    (hc : t.dev.capoPasses (remoteWho p 0) p 3 (t.dev.sendClass m) (chargeOf (min 8192 (m.body.length - m.sent))))
    (hm : Commits m t.dev) : ∃ u, sendData p m i t = .ok () u := by
  have hP := ofSetup_commits m
  have length : ((m.body.drop m.sent).take 8192).length = min 8192 (m.body.length - m.sent) := by
    rw [List.length_take, List.length_drop]
  have committed : Total Dev.foldsNothing Always (each m.users fun u => do
      progress u.1 u.2 0 0 t.dev.time.et
      scatterCheck u.1 u.2) :=
    (total_each fun u => total_bind ((ofSetup_foldsNothing.modDesc ..).only (total_progress ..)) fun _ =>
      total_scatterCheck ..).mono fun _ _ => True.intro
  refine Total.ends_at (Q := Always) (total_dev_bind (P := (· = t.dev)) fun d hd => ?_) rfl
  subst hd
  rw [← length] at hc
  refine total_bind (Q := Commits m) ?_ fun _ => total_bind (hP.total_sendFrame ..) fun _ =>
    total_bind (hP.total fun _ => setup_traced _ _ _ _ _ _ _ _) fun _ => total_bind (hP.total fun _ _ _ _ => rfl) fun _ =>
    total_bind (hP.total fun _ _ _ _ => rfl) fun _ => total_bind (total_bind total_dev fun _ =>
    hP.total fun _ => setup_wr _ _ (by decide)) fun _ => ?_
  · refine ⟨fun i u hu => ?_⟩
    obtain ⟨a, v, e, hv, -⟩ := ((hP.capoIssue ..).total (total_capoIssue hc)).out i u ⟨hu ▸ hm, hu⟩
    exact ⟨a, v, e, hv⟩
  · split
    · rename_i last
      rw [decide_eq_true_eq, length] at last
      refine ⟨fun i u hu => ?_⟩
      obtain none' | folds := hu (by omega)
      · rw [none']
        exact ⟨(), u, rfl, True.intro⟩
      · exact committed.out i u folds
    · exact (total_pure ()).mono fun _ _ => True.intro

theorem exec_dataFrameSend_first {p : Fin 8} {m : OutMsg} (hr : s.dev.portRuns p.val = true)
    (hm : (s.dev.outbox.find? fun m => s.dev.sendable p.val m && decide (s.dev.retainUsed p.val +
      chargeOf (min 8192 (m.body.length - m.sent)) ≤ s.dev.rd F.txpRetainCfg_size p.val * 2 ^ 20)) = some m) :
    exec (.dataFrameSend p) s = transact (sendData p.val m) s := by
  refine transact_congr ?_
  simp only [run_bind, run_dev, start_dev, chain_ok, run_need, hr, if_true, hm, run_have_some]

/-! ### Timers (R394 to R396) -/

theorem run_sessionOf {n : Nat} (h : t.dev.sessionRuns n) : sessionOf n i t = .ok (t.dev.peer n) t := by
  obtain ⟨hs, hr⟩ := h
  simp only [sessionOf, run_bind, run_dev, chain_ok, run_need, hs, hr, Bool.and_self, if_true, run_pure]

@[simp] theorem run_portTicks (f : Fld) (p unit : Nat) : portTicks f p unit i t = .ok (t.dev.rd f p * unit) t := rfl

section
variable {n : BitVec 10} {x : Peer} {e : Nat} (hs : s.dev.sessionRuns n.toNat) (hx : s.dev.peer n.toNat = x)
include hs hx

theorem exec_ackTimer_due {v : Nat} (he : x.unackedEt = some e)
    (ht : e + s.dev.rd F.txpTimers_ack_us x.port * usTicks ≤ s.dev.time.et) (ha : s.appliedReads s.start n.toNat v t) :
    exec (.ackTimer n) s = .next (settle s (ran (sendControl n.toNat 0x01 (toBytes 8 v)) s.image t)) := by
  refine transact_runs ?_
  unfold State.appliedReads Runs at *
  simp only [run_bind, run_sessionOf (t := s.start) hs, start_dev, chain_ok, hx, he, run_have_some, run_portTicks, run_now,
    run_need, decide_eq_true ht, if_true, sendAck, ha]
  exact runs_ran ((total_sendControl ..).ends ..)

theorem exec_idleTimer_due (hu : x.state = nUP)
    (ht : x.lastTxEt + s.dev.rd F.txpTimers_idle_us x.port * usTicks ≤ s.dev.time.et) :
    exec (.idleTimer n) s = .next (s.after s.dev (sendControl n.toNat 0x03 [])) := by
  refine transact_after ?_ ((total_sendControl ..).ends ..)
  simp only [run_bind, run_sessionOf (t := s.start) hs, start_dev, chain_ok, hx, run_portTicks, run_now, run_need, hu,
    beq_self_eq_true, decide_eq_true ht, Bool.and_self, if_true]
  rfl

theorem exec_nakRepeatTimer_due (he : x.nakEt = some e) (hm : x.missing ≠ [])
    (ht : e + s.dev.rd F.txpRetxCfg_rto_min x.port * usTicks ≤ s.dev.time.et) :
    exec (.nakRepeatTimer n) s = .next (s.after s.dev (sendNak n.toNat)) := by
  refine transact_after ?_ ((total_sendNak _).ends ..)
  simp only [run_bind, run_sessionOf (t := s.start) hs, start_dev, chain_ok, hx, he, run_have_some, run_portTicks, run_now,
    run_need, List.isEmpty_eq_false_iff.mpr hm, decide_eq_true ht, Bool.not_false, Bool.and_self, if_true]
  rfl

variable (ha : x.acked ≠ x.nextSeq)
  (ht : x.rtoEt + max (s.dev.rd F.txpRetxCfg_rto_min x.port * usTicks) (2 * x.rtt) ≤ s.dev.time.et)
include ha ht

theorem exec_rtoExpiry_lost (hr : s.dev.rd F.txpRetxCfg_retry_max x.port ≤ x.retries + 1) :
    exec (.rtoExpiry n) s = transact (losePeer n.toNat 2) s := by
  refine transact_congr ?_
  simp only [run_bind, run_sessionOf (t := s.start) hs, start_dev, chain_ok, hx, run_now, run_portTicks, run_need,
    bne_iff_ne.mpr ha, decide_eq_true ht, Bool.and_self, if_true, run_rd, if_pos hr]

theorem exec_rtoExpiry_again {f : TxFrame} (hr : x.retries + 1 < s.dev.rd F.txpRetxCfg_retry_max x.port)
    (hf : (x.retained.find? fun t => decide (diff32 t.seq x.acked < 2 ^ 31)) = some f) :
    exec (.rtoExpiry n) s = .next (s.after
      (s.dev.setPeer n.toNat { x with retries := x.retries + 1, rtoEt := s.dev.time.et }) (resend n.toNat f)) := by
  refine transact_after ?_ ((total_resend ..).ends ..)
  simp only [run_bind, run_sessionOf (t := s.start) hs, start_dev, chain_ok, hx, run_now, run_portTicks, run_need,
    bne_iff_ne.mpr ha, decide_eq_true ht, Bool.and_self, if_true, run_rd, if_neg (not_le.mpr hr), run_modPeer, start_log, hf]

end

/-! ### The statement -/

/-- Settles O36: each command is what its timer or its queue has due. Where nothing holds a data frame, and where no
work waits for a lost node, that runs to its end. -/
theorem transportSends : Obligations.TransportSends := by
  unfold Obligations.TransportSends
  refine ⟨fun s r b t hb => exec_batchCloseTimer_due hb, fun s p m t hr hm => ⟨fun h => ?_, fun hc hf => ?_⟩,
    fun s n t hs => ⟨fun u v => exec_ackTimer_due hs rfl, exec_idleTimer_due hs rfl, fun u => exec_nakRepeatTimer_due hs rfl,
      fun ha ht => ⟨fun hr => ⟨fun h => ?_, fun hl => ?_⟩, fun f => exec_rtoExpiry_again hs rfl ha ht⟩⟩⟩
  · exact (exec_dataFrameSend_first hr hm).trans (transact_runs h)
  · exact (exec_dataFrameSend_first hr hm).trans (transact_after rfl (sendData_ends hc hf))
  · exact (exec_rtoExpiry_lost hs rfl ha ht hr).trans (transact_runs h)
  · exact (exec_rtoExpiry_lost hs rfl ha ht hr).trans (transact_after rfl ((total_losePeer ..).ends_at hl))

end Sys2Proof.Machine
end

section
/-! The reorder store and the spill rings. -/

namespace Sys2Proof.Machine

variable {s : State} {i : RoItem} {t u : Tx}

/-! ### Release (R286) -/

/-- An item of a region whose window is over and that is not released. -/
def RoItem.dueAt (r et : Nat) (i : RoItem) : Bool := i.port == r && !i.released && decide (i.due ≤ et)

theorem exec_reorderDeadline_due {r : Fin 8} (h : s.dev.reorder.any (RoItem.dueAt r.val s.dev.time.et) = true) :
    exec (.reorderDeadline r) s = .next (s.put { s.dev with
      reorder := s.dev.reorder.map fun i => if i.dueAt r.val s.dev.time.et then { i with released := true } else i }) := by
  unfold RoItem.dueAt at *
  refine transact_put ?_
  simp only [run_bind, run_dev, start_dev, chain_ok, run_need, h, if_true, run_modDev, start_log]

/-! ### Application (R287, R553) -/

theorem exec_releasedItemApply_first {r : Fin 8} (hs : s.dev.stageRuns r.val = true)
    (hi : firstItem (s.dev.reorder.filter fun i => i.port == r.val && s.dev.applicable i) = some i) :
    exec (.releasedItemApply r) s = transact (applyNext r.val i) s := by
  refine transact_congr ?_
  simp only [applyItem, run_bind, run_dev, start_dev, chain_ok, run_need, hs, if_true, hi, run_have_some]

/-- With nothing in the way of its update record a unit is added, late or not. -/
theorem addUnit_runs {q n table step : Nat} {late : Bool} (he : s.dev.rd F.optUrec_enable 8 ≠ 0)
    (ha : s.dev.atomicFree (s.dev.pageWorld (pg bOPT 8)) (s.dev.urecAddr table) 64) :
    ∃ u, addUnit q n table step late s.image s.start = .ok () u := by
  obtain ⟨old, u, e, -⟩ := (total_atomicLocal (w := ⟨8, 0, 5, s.dev.pageWorld (pg bOPT 8), q, n, pg bOPT 8, 3⟩)
    (f := fun bs => toBytes 64 (URec.addUnit (fromBytes bs) step)) le_rfl ha fun _ =>
      length_toBytes ..).out s.image s.start rfl
  have who : structWho 8 0 5 (pg bOPT 8) q n s.image s.start =
    .ok ⟨8, 0, 5, s.dev.pageWorld (pg bOPT 8), q, n, pg bOPT 8, 3⟩ s.start := rfl
  refine ⟨{ u with dev := u.dev.testArmed table (URec.addUnit (fromBytes old) step) late }, ?_⟩
  simp only [addUnit, urecAtomic, run_bind, run_rd, start_dev, run_malformedIf, beq_false_of_ne he, Bool.false_eq_true,
    if_false, chain_ok, who, run_dev, e, run_pure, run_modDev]

/-- A unit record is added to its update record, counted, and leaves the store. -/
def unitTaken (i : RoItem) : M Unit := do
  addUnit 1024 0 i.tab.num i.d.step i.late
  bump F.mrgUnitsRx_count 8
  modDev fun d => { d with reorder := d.reorder.filter fun j => !j.same i }

theorem applyNext_unit {r : Nat} (hu : i.d.unit = true) (he : s.dev.rd F.optUrec_enable 8 ≠ 0)
    (ha : s.dev.atomicFree (s.dev.pageWorld (pg bOPT 8)) (s.dev.urecAddr i.tab.num) 64)
    (hr : s.appliedRaises (ran (unitTaken i) s.image s.start) i t) :
    Runs (applyNext r i) s.image s.start () (ran (settlePort i.port) s.image t) := by
  obtain ⟨u, e⟩ := addUnit_runs (q := 1024) (n := 0) (step := i.d.step) (late := i.late) he ha
  have taken : ran (unitTaken i) s.image s.start = ⟨{ (u.dev.bump F.mrgUnitsRx_count 8 1) with
      reorder := (u.dev.bump F.mrgUnitsRx_count 8 1).reorder.filter fun j => !j.same i }, u.log⟩ :=
    ran_runs (a := ()) (by simp only [Runs, unitTaken, run_bind, e, chain_ok, run_bump, run_modDev])
  unfold State.appliedRaises Runs at *
  rw [taken] at hr
  simp only [applyNext, hu, if_true, run_bind, run_caught e, chain_ok, run_bump, itemDone, run_modDev, hr]
  exact runs_ran ((total_settlePort _).ends ..)

/-- What is added to a sum that is pending already is written at once, and its row is listed already (R247). -/
theorem drainSum_pending {r count : Nat} {w : Waiter} {who : Who} {m : Merge} {lanes : List (Option F32)}
    {gs : List (List Seg)} {h : Husk} {p : List Byte} {j : Image} {t1 : Tx} (hopen : openSum w who m j t = .ok (gs, h, p) t1)
    (hp : SumHdr.pending h = true) (hissue : issueRow who 2 gs j t1 = .ok () u) (hhere : u.dev.rowHere gs) :
    ∃ v, drainSum r w who m lanes count j t = .ok false v := by
  have added (bs : List Byte) : ∃ v, chain (groupWrite 2 (gs.headD []) bs j u) (fun _ => pure false) j = .ok false v := by
    obtain ⟨v, e⟩ := (total_groupWrite_here (op := 2) (fun _ => mem_flatten_of_mem_headD) bs).ends_at (i := j) hhere
    exact ⟨v, by rw [e, chain_ok, run_pure]⟩
  simp only [drainSum, run_bind, hopen, chain_ok, hp, Bool.not_true, Bool.false_eq_true, if_false, hissue, run_now, if_true]
  exact added _

theorem applyRow_ends {r : Nat} {es : List (Nat × Nat × List Nat)} (hk : i.d.kind = 0) (ho : s.itemOpens r i es) :
    ∃ u, applyRow r i es s.image s.start = .ok () u := by
  obtain ⟨a, b, g, gs, h, p, t1, t2, t3, hread, hopen, hp, hissue, hhere⟩ := ho
  unfold Runs at hread hopen hissue
  obtain ⟨u, e⟩ := drainSum_pending (r := r) (count := es.length)
    (lanes := groupLanes i.tab.elems (es.map fun e => (e.2.1, e.2.2))) hopen hp hissue hhere
  have kind : (i.merge s.dev.self s.dev.time.et es).kind = 0 := hk
  refine ⟨u, ?_⟩
  simp only [applyRow, run_bind, run_dev, start_dev, chain_ok, if_pos kind, hread, e, run_pure]

theorem exec_releasedItemApply_row {r : Fin 8} {e : Nat × Nat × List Nat} {es rest : List (Nat × Nat × List Nat)}
    (hs : s.dev.stageRuns r.val = true)
    (hi : firstItem (s.dev.reorder.filter fun i => i.port == r.val && s.dev.applicable i) = some i)
    (hu : i.d.unit = false) (hk : i.d.kind = 0) (hd : i.d.entries.drop i.next = e :: rest)
    (he : es = e :: rest.takeWhile fun f => f.1 == e.1) (ho : s.itemOpens r.val i es)
    (hn : i.next + es.length < i.d.entries.length) :
    exec (.releasedItemApply r) s = .next (s.after s.dev (do
      applyRow r.val i es
      putItem { i with next := i.next + es.length })) := by
  subst he
  obtain ⟨u, hrow⟩ := applyRow_ends hk ho
  refine (exec_releasedItemApply_first hs hi).trans
    (transact_after ?_ ⟨_, (run_bind ..).trans (congrArg (chain · _ _) hrow)⟩)
  simp only [applyNext, hu, Bool.false_eq_true, if_false, hd, run_bind, run_caught hrow, chain_ok, if_pos hn]
  rw [show (⟨s.dev, []⟩ : Tx) = s.start from rfl, hrow, chain_ok]

/-! ### Spill rings (R291, R294) -/

theorem exec_spillResend_head {n : BitVec 10} {r v : Nat} {heads : List (Nat × Nat)} {w : Tx}
    (hu : (s.dev.peer n.toNat).state = nUP) (hr : s.dev.rmtOn = true) (hh : s.headsRead heads t)
    (hf : (heads.find? fun h => bits h.2 0 10 == n.toNat && !bit h.2 35) = some (r, v))
    (h : Runs (resendRun n.toNat r v) s.image t () u) (ho : Runs (sendOwed n.toNat) s.image u () w) :
    exec (.spillResend n) s = .next (settle s w) := by
  refine transact_runs ?_
  unfold State.headsRead Runs at *
  simp only [run_bind, run_dev, start_dev, chain_ok, run_need, hu, hr, beq_self_eq_true, Bool.and_self, if_true, hh, hf,
    run_have_some, h, ho]

theorem run_sendOwed_none {n : Nat} {i : Image} (h : (t.dev.peer n).owed = []) : sendOwed n i t = .ok () t := by
  simp only [sendOwed, run_bind, run_dev, chain_ok, h, List.isEmpty_nil, Bool.not_true, Bool.false_eq_true, and_false,
    if_false, run_pure]

theorem resendRun_posts {n r v k : Nat} {x : Delta} (h : s.runReads t n r v x k u) :
    resendRun n r v s.image t = .ok () (ran (postRun r x k) s.image u) := by
  unfold State.runReads Runs at h
  simp only [resendRun, run_bind, h, chain_ok]
  exact runs_ran ⟨_, rfl⟩

theorem exec_mrgSpillSkip_refused {r : Fin 8} {a : Agent} {v : Nat}
    (hw : (regAcc .mrgSpillSkip r.val 0 1 a).reaches s.dev = true) (hh : s.dev.spillHeld r.val ≠ 0)
    (hv : s.spillReads r.val (s.dev.rd F.mrgSpillPtr_get r.val) v t) (hb : bit v 35 = true) :
    exec (.mrgSpillSkip r a) s = .next (settle s { t with
      dev := t.dev.wr F.mrgSpillPtr_get r.val
        ((s.dev.rd F.mrgSpillPtr_get r.val + 1) % max (s.dev.rd F.mrgSpillCfg_entries 8) 1) }) := by
  refine transact_reaches hw ?_
  unfold State.spillReads Runs at hv
  simp only [spillSkip, run_bind, run_dev, start_dev, chain_ok, if_neg hh, hv, run_pure, hb, if_true, run_wr]

theorem exec_mrgSpillSkip_empty {r : Fin 8} {a : Agent} (hw : (regAcc .mrgSpillSkip r.val 0 1 a).reaches s.dev = true)
    (hh : s.dev.spillHeld r.val = 0) :
    exec (.mrgSpillSkip r a) s = .next (s.after s.dev (regAcc .mrgSpillSkip r.val 0 1 a).ignore) := by
  refine transact_after ((RegAcc.run_reaches (t := s.start) hw _).trans ?_) ⟨_, rfl⟩
  simp only [spillSkip, run_bind, run_dev, start_dev, chain_ok, if_pos hh, run_pure, Bool.false_eq_true, if_false]
  rfl

/-! ### The statement -/

/-- Settles O38: each command is the meaning of what it takes up. Nothing holds the end of a unit record, the sum of an
open row, or what leaves a ring, once what they read and write can be accessed. -/
theorem reorderAndSpill : Obligations.ReorderAndSpill := by
  unfold Obligations.ReorderAndSpill
  refine ⟨fun s r => exec_reorderDeadline_due, fun s r i t hs hi => ⟨fun h => ?_, fun hu he ha hr => ?_, ?_⟩,
    fun s n r v heads t t' hu hr hh hf => ⟨fun t'' h ho => exec_spillResend_head hu hr hh hf h ho, fun x k h => ?_⟩,
    fun s r a v t hw => ⟨exec_mrgSpillSkip_refused hw, exec_mrgSpillSkip_empty hw⟩⟩
  · exact (exec_releasedItemApply_first hs hi).trans (transact_runs h)
  · exact (exec_releasedItemApply_first hs hi).trans (transact_runs (applyNext_unit hu he ha hr))
  · exact fun e rest hu hk hd ho hn => exec_releasedItemApply_row hs hi hu hk hd rfl ho hn
  · exact fun ho => exec_spillResend_head hu hr hh hf (resendRun_posts h) (run_sendOwed_none ho)

end Sys2Proof.Machine
end

section
/-! The memory system's own events: temperature readings, windows of the regulators, uncorrectable errors, and the fill of a
pin range. -/

namespace Sys2Proof.Machine

variable {s : State} {i : Image} {t : Tx} {m : M Unit}

/-! ### Temperature readings (R306 to R309, R521) -/

/-- A machine that has taken a new step for a stack or port; one that differs from the step before is counted. -/
def Dev.stepTaken (d : Dev) (key : Nat) (n : Nat × Nat) : Dev :=
  let e := if n.1 ≠ SMap.get 0 d.ms.steps key then d.bump F.mntTempSteps_count 0 1 else d
  { e with ms := { e.ms with steps := SMap.set 0 e.ms.steps key n.1, cool := SMap.set 0 e.ms.cool key n.2 } }

@[simp] theorem run_takeStep (key : Nat) (n : Nat × Nat) :
    takeStep key n i t = .ok () { t with dev := t.dev.stepTaken key n } := by
  simp only [takeStep, run_bind, run_dev, chain_ok, run_ite, run_bump, run_modDev, Dev.stepTaken]
  split <;> rfl

@[simp] theorem Dev.steps_stepTaken (d : Dev) (key : Nat) (n : Nat × Nat) :
    SMap.get 0 (d.stepTaken key n).ms.steps key = n.1 := SMap.get_set_same ..

theorem total_takeStep (key : Nat) (n : Nat × Nat) : Total Always Always (takeStep key n) :=
  ⟨fun _ _ _ => ⟨(), _, run_takeStep key n, True.intro⟩⟩

theorem total_countOpen (l : List (Fld × Nat)) : Total Always Always (countOpen l) :=
  total_each fun _ => total_bind (total_freeValue 32 fun _ _ => True.intro) fun _ => total_always_modDev _

theorem total_setHot (key : Nat) (on : Bool) : Total Always Always (setHot key on) :=
  total_change <| total_ite (total_always_modDev _) (total_always_modDev _)

/-- A step is taken and shown, whatever the machine. -/
theorem total_stepShown (key : Nat) (n : Nat × Nat) (f : Dev → Dev) : Total Always Always (do
    takeStep key n
    modDev f) := total_bind (total_takeStep ..) fun _ => total_always_modDev f

/-- So are the two ways in which a reading goes on: with the counts alone, and with critical self-refresh before them. -/
theorem total_staysCool (h : Total Always Always m) (l : List (Fld × Nat)) : Total Always Always (do
    m
    countOpen l) := total_bind h fun _ => total_countOpen l

theorem total_turnsCritical (h : Total Always Always m) (f : Fld) (p key page payload : Nat) (l : List (Fld × Nat)) :
    Total Always Always (do
      m
      wr f p 3
      setHot key true
      record 0x402 5 page payload
      countOpen l) :=
  total_bind h fun _ => total_change <| total_bind (total_setHot ..) fun _ => total_change <| total_countOpen l

/-- The reading of a die is shown in its own two fields. -/
theorem exec_dieTempReading_shown {die : Fin 2} {f g : Fld} (h : (if die.val = 0 then (F.trcTemp_die0, F.trcTemp_peak0)
    else (F.trcTemp_die1, F.trcTemp_peak1)) = (f, g)) (v : BitVec 8) :
    let e := s.dev.wr f 0 v.toNat
    exec (.dieTempReading die v) s = .next (s.after (e.wr g 0 (max (e.rd g 0) v.toNat))
      (countOpen [(F.brgWait_count, die.val), (F.brgRetries_count, die.val)])) := by
  simp only [exec, execDieTempReading, h]
  exact transact_after rfl ((total_countOpen _).ends ..)

/-- Settles O42: a reading takes its step, and then stays below the critical temperature or begins self-refresh; both run to
their end. -/
theorem temperatures : Obligations.Temperatures := by
  unfold Obligations.Temperatures
  refine ⟨fun s k t8 hgood => ⟨fun hlow hcool => ?_, fun hcrit hst => ?_⟩,
    fun s k t8 hgood => ⟨fun hlow hcool => ?_, fun hcrit hst => ?_⟩, fun s t8 => ⟨?_, ?_⟩⟩
  · refine transact_after ?_ ((total_staysCool (total_stepShown ..) _).ends ..)
    simp only [run_bind, run_dev, start_dev, start_log, chain_ok, run_need, hgood, if_true, run_wr, run_takeStep, run_modDev,
      not_le.mpr hlow, false_and, if_false, hcool, Bool.false_eq_true, and_false]
  · refine transact_after ?_ ((total_turnsCritical (total_stepShown ..) ..).ends ..)
    simp only [run_bind, run_dev, start_dev, start_log, chain_ok, run_need, hgood, if_true, run_wr, run_takeStep, run_modDev]
    rw [if_pos ⟨hcrit, hst⟩]
    simp only [run_bind, run_wr, chain_ok]
  · refine transact_after ?_ ((total_staysCool (total_stepShown ..) _).ends ..)
    simp only [run_bind, run_dev, start_dev, start_log, chain_ok, run_need, hgood, if_true, run_wr, run_takeStep,
      Dev.steps_stepTaken, not_le.mpr hlow, false_and, if_false, hcool, Bool.false_eq_true, and_false]
  · refine transact_after ?_ ((total_turnsCritical (total_stepShown ..) ..).ends ..)
    simp only [run_bind, run_dev, start_dev, start_log, chain_ok, run_need, hgood, if_true, run_wr, run_takeStep,
      Dev.steps_stepTaken]
    rw [if_pos ⟨hcrit, hst⟩]
    simp only [run_bind, run_wr, chain_ok]
  · exact exec_dieTempReading_shown rfl t8
  · exact exec_dieTempReading_shown rfl t8

/-! ### Windows and errors (R318, R319, R493) -/

theorem total_applyCapo (r : Nat) : Total Always Always (applyCapo r) :=
  total_bind total_dev fun _ => total_ite (total_each fun _ => total_change (total_always_modDev _))
    (total_always_modDev _)

theorem exec_capoWindow_due (h : s.dev.ms.capoEt / usTicks < s.dev.time.et / usTicks) :
    let d := s.dev.mapCapo fun e => { e with age := min 2 (e.age + 1) }
    exec .capoWindow s = .next (s.after { d with ms := { d.ms with capo := [], capoEt := s.dev.time.et, capoNext := [] } }
      (each s.dev.ms.capoNext applyCapo)) := by
  refine transact_after ?_ ((total_each total_applyCapo).ends ..)
  simp only [run_bind, run_dev, start_dev, start_log, chain_ok, run_need, decide_eq_true h, if_true, run_modDev]
  rfl

theorem total_markLine (line : Nat) (lls scrub : Bool) : Total Always Always (markLine line lls scrub) := by
  refine total_bind total_dev fun _ => total_ite (total_change <| total_change ?_) (total_pure ())
  cases homeOf (line * 64) with
  | _ =>
    refine total_when ⟨fun _ _ _ => ⟨(), _, rfl, True.intro⟩⟩ <| total_bind (total_always_rd ..) fun _ => total_ite ?_ (total_always_modDev _)
    exact total_change <| total_change <| total_change <| total_change <| total_change <| total_always_modDev _

theorem run_markLine_marked {line : Nat} {lls scrub : Bool} (h : t.dev.ms.marks.contains line = true) :
    markLine line lls scrub i t = .ok () t := by
  simp only [markLine, run_bind, run_dev, chain_ok, h, Bool.not_true, Bool.false_eq_true, if_false, run_pure]

theorem exec_ueDetect_populated {addr : BitVec 46} {lls scrub : Bool} (h : s.dev.populatedAt addr.toNat = true) :
    exec (.ueDetect addr lls scrub) s = transact (markLine (addr.toNat / 64) lls scrub) s :=
  transact_congr (by simp only [run_bind, run_dev, start_dev, chain_ok, run_need, h, if_true])

/-- Settles O44: a window begins with one change of the machine, and settings come into force in any; an error marks its
line, and a line with a mark is left as it is. -/
theorem memoryEvents : Obligations.MemoryEvents := by
  unfold Obligations.MemoryEvents
  refine ⟨fun s => exec_capoWindow_due, fun s addr lls scrub hp => ⟨fun hm => ?_, ?_⟩⟩
  · exact (exec_ueDetect_populated hp).trans (transact_put (run_markLine_marked hm))
  · exact (exec_ueDetect_populated hp).trans (transact_after rfl ((total_markLine ..).ends ..))

/-! ### A pin range that cannot be filled (R323, R324, R327) -/

/-- Pin 0 of region 0 is FILLING, and its one block is the first of region 1's capacity window. The lines of a pin of region 1
would be held whatever the ways; these count as lines of its CACHE, which here has no way (R324 leaves it one). -/
def strandedPin : Dev :=
  (((State.resetDev.wr F.llsPinBase_base 64 ((2 ^ 42 + 2 ^ 39) / 65536) 0).wr F.llsPinLen_blocks 64 1 0).wr
    F.llsPinCtl_state 64 1 0).wr F.llsPart_cache 65 0

/-- Such a machine, otherwise as it comes out of reset. -/
def strandedState : State := State.reset.put strandedPin

/-- What class MAINT has moved at the last-level store of region 0 in the running window. -/
def maintMoved (o : Host.Outcome State Fault Refusal) : Nat :=
  match o with
  | .next s => s.dev.capoMoved (capoKey 0 2 4)
  | _ => 0

/-- The fill of that range cannot end: its first line finds no room, and nothing is left of what was counted before. -/
theorem exec_pinFillDone_stranded : maintMoved (exec (.pinFillDone 0 0) strandedState) = 0 := by decide +kernel

/-- Refutes O45, by its clause on the end of a fill. In `strandedState` the range waits for nothing and class MAINT may
move, but its lines have no place in the last-level store: the command leaves the state as it is, while the statement has the
block of the range counted at the regulator. The clause does not ask that the range lies in its region's windows, as the
check of R327 does (`Dev.pinFits`). -/
theorem not_llsCommands : ¬ Obligations.LlsCommands := by
  unfold Obligations.LlsCommands
  intro h
  obtain ⟨-, -, -, hfill, -⟩ := h
  have filling : strandedPin.rd F.llsPinCtl_state 64 0 = 1 := by decide +kernel
  have free : strandedPin.mustWait true (strandedPin.pinBase 0 0) (strandedPin.pinBytes 0 0) = false := by decide +kernel
  have store : strandedPin.capoLimit 0 2 4 ≠ 0 := by decide +kernel
  have tier : strandedPin.capoLimit 0 (partitionOf (strandedPin.pinBase 0 0)) 4 ≠ 0 := by decide +kernel
  have stays := exec_pinFillDone_stranded
  rw [hfill strandedState 0 0 filling free store tier] at stays
  exact absurd stays (by decide +kernel)

end Sys2Proof.Machine
end

section
/-! Walks, fault batches and heat epochs. -/

namespace Sys2Proof.Machine

variable {s : State} {i : Image} {t : Tx} {d : Dev} {die : Nat}

/-! ### Walks (R344) -/

/-- What a walk leaves as it ends, it leaves at once: every request of it is served, or faults, or fails. -/
theorem total_walkEnds (n : Nat) (k : Walk) (c : AsidCtx) (e : WalkEnd) : Total Always Always (walkEnds n k c e) := by
  refine total_change ?_
  cases e with
  | leaf size pte =>
    refine total_when (total_always_modDev _) <| total_each fun r => total_ite ?_ <|
      total_ite (total_always_modDev _) (total_always_modDev _)
    split
    · exact total_always_modDev _
    · exact total_pure ()
  | fault kind level pte => exact total_each fun _ => total_always_modDev _
  | failed st rs => exact total_each fun _ => total_always_modDev _

theorem exec_pageWalk_out {die : Fin 2} {asid : BitVec 16} {va : BitVec 52} {k : Walk}
    (h : (s.dev.xl.walks.find? fun k => k.die == die.val && k.asid == asid.toNat && k.gran == va.toNat / 65536) = some k) :
    exec (.pageWalk die asid va) s = transact (endWalk k) s := by
  refine transact_congr ?_
  simp only [run_bind, run_dev, start_dev, chain_ok, h, run_have_some]

/-- A walk whose reads come to their end leaves what these have found. -/
theorem endWalk_ends {k : Walk} {c : AsidCtx} {e : WalkEnd} (h : s.walkReads k c e t) :
    endWalk k s.image s.start = .ok () (ran (walkEnds k.die k c e) s.image t) := by
  unfold State.walkReads Runs at h
  simp only [endWalk, run_bind, run_modDev, start_dev, start_log, chain_ok, run_caught h]
  exact (total_walkEnds k.die k c e).runs True.intro

/-! ### Fault batches (R360 to R362) -/

theorem exec_batchWindowExpiry_over {die : Fin 2} {o : FaultBatch} (ho : (s.dev.batcher die.val).opened = some o)
    (hp : s.dev.pow.phase = 0)
    (hw : o.openEt + s.dev.rd F.trnBatchCfg_window (64 + die.val) * usTicks ≤ s.dev.time.et) :
    exec (.batchWindowExpiry die) s =
      .next (s.put (s.dev.setBatcher die.val ((s.dev.batcher die.val).close s.dev.time.et 1))) := by
  refine transact_put ?_
  simp only [run_bind, run_dev, start_dev, start_log, chain_ok, ho, run_have_some, run_need, hp, beq_self_eq_true, hw,
    decide_true, if_true, run_modDev]

theorem exec_trnBatchFlush_reaches {die : Fin 2} {a : Agent}
    (h : (regAcc .trnBatchCfg (64 + die.val) 0 (setBits (s.dev.word .trnBatchCfg (64 + die.val) 0) 9 1 1) a).reaches s.dev
      = true) :
    exec (.trnBatchFlush die a) s =
      .next (s.put (s.dev.setBatcher die.val ((s.dev.batcher die.val).close s.dev.time.et 2))) := by
  refine Eq.trans (transact_congr ?_) (transact_reaches h (m := batchFlush die.val) rfl)
  simp only [run_bind, run_dev, start_dev, chain_ok]

/-- The fault ring of a die lies in host memory, and the host link passes what is written to it. -/
def HostRing (die : Nat) (d : Dev) : Prop := d.rd F.trnFqCfg_loc (64 + die) = 1 ∧ d.hostOpen

theorem hostRing_bump (h : HostRing die d) (n : Nat) : HostRing die (d.bump F.hlkTxBytes_count 0 n) := by
  obtain ⟨hloc, hup, hd0⟩ := h
  refine ⟨(Dev.rd_bump_ne d n ?_).trans hloc, (Dev.rd_bump_ne d n (by decide)).trans hup, ?_⟩
  · simp only [RegInfo.key, RegName.info]
    omega
  · unfold Dev.bump
    exact ite_keeps (fun e : Dev => e.d3hot = false) hd0 hd0

theorem total_writeFaultRing (idx : Nat) (bs : List Byte) :
    Total (HostRing die) (HostRing die) (writeFaultRing die idx bs) := by
  refine ⟨fun i t ht => ?_⟩
  have write (a : Nat) : Total (HostRing die) (HostRing die) (do
      bump F.hlkTxBytes_count 0 64
      hostPut none false a bs) :=
    total_bind (total_modDev fun _ hd => hostRing_bump hd 64) fun _ =>
      total_bind (total_peeks ..) fun _ => total_bind (total_pokes ..) fun _ => total_modDev fun _ hd => hd
  obtain ⟨hloc, hup, hd0⟩ := ht
  have ready : hostReady i t = .ok true t := by simp [hostReady, hup, hd0, hUP]
  simp only [writeFaultRing, run_bind, run_rd, chain_ok, hloc, if_true, ready, run_need]
  rw [← run_bind]
  exact (write _).out i t ⟨hloc, hup, hd0⟩

theorem total_recordLater : Total Always Always (recordLater die) :=
  total_bind total_dev fun _ => total_change <| total_each fun _ => total_always_modDev _

/-- A batch is written to such a ring at once. -/
theorem writeBatch_ends {c : FaultBatch} (h : HostRing die t.dev) : ∃ u, writeBatch die c i t = .ok () u := by
  obtain ⟨⟨⟩, u, hu, -⟩ := (total_bind
    (total_each (l := c.recs.zip (List.range c.recs.length)) fun r =>
      total_writeFaultRing (wrap32 (t.dev.rd F.trnFqTail_index (64 + die) + 1 + r.2)) r.1.bytes) fun _ =>
    total_writeFaultRing (t.dev.rd F.trnFqTail_index (64 + die)) (batchHeader c die (t.dev.batcher die).next
      (1 - t.dev.rd F.trnFqTail_index (64 + die) / 2 ^ (t.dev.rd F.trnFqCfg_size (64 + die) + 9) % 2))).out i t h
  rw [writeBatch, run_bind, run_dev, chain_ok, run_bind, run_caught hu, chain_ok]
  refine Total.ends ?_ i u
  exact total_change <| total_change <| total_change <| total_change <|
    total_bind total_recordLater fun _ => total_always_modDev _

theorem exec_faultBatchWrite_room {die : Fin 2} {c : FaultBatch} (hc : (s.dev.batcher die.val).closed = some c)
    (hp : s.dev.pow.phase = 0) (hl : (s.dev.batcher die.val).pending.length < 4)
    (hr : diff32 (s.dev.rd F.trnFqTail_index (64 + die.val)) (s.dev.rd F.trnFqHead_index (64 + die.val)) + 1 + c.recs.length ≤
      2 ^ (s.dev.rd F.trnFqCfg_size (64 + die.val) + 9)) :
    exec (.faultBatchWrite die) s = transact (writeBatch die.val c) s := by
  refine transact_congr ?_
  simp only [run_bind, run_dev, start_dev, chain_ok, hc, run_have_some, run_need, hp, beq_self_eq_true, hl, hr, decide_true,
    Bool.and_self, if_true]

/-! ### Heat epochs (R374) -/

theorem exec_heatEpoch_over {die : Fin 2}
    (h : SMap.get 0 s.dev.xl.epochEt die.val + s.dev.rd F.migCfg_epoch die.val * msTicks ≤ s.dev.time.et) :
    exec (.heatEpoch die) s = .next (s.put { s.dev with xl := { s.dev.xl with
      heat := s.dev.xl.heat.map fun h => if h.die == die.val then { h with count := h.count / 2, told := false } else h
      epochEt := SMap.set 0 s.dev.xl.epochEt die.val s.dev.time.et } }) := by
  refine transact_put ?_
  simp only [run_bind, run_dev, start_dev, start_log, chain_ok, run_need, h, decide_true, if_true, run_modDev]

/-- Settles O34: a walk's requests and the ring of a batch in host memory leave nothing to wait for; what else closes a batch or
begins an epoch is one change of the machine. -/
theorem translationEvents : Obligations.TranslationEvents := by
  unfold Obligations.TranslationEvents
  refine ⟨fun s die asid va k t hk => ⟨fun h => ?_, fun c e h => ?_⟩, fun s die o => exec_batchWindowExpiry_over,
    fun s die a => exec_trnBatchFlush_reaches, ?_, fun s die => exec_heatEpoch_over⟩
  · exact (exec_pageWalk_out hk).trans (transact_runs h)
  · exact (exec_pageWalk_out hk).trans (transact_runs (endWalk_ends h))
  · intro s die c t page hc hp hl hr
    have written := exec_faultBatchWrite_room hc hp hl hr
    exact ⟨fun h => written.trans (transact_runs h), fun hloc hopen =>
      written.trans (transact_after rfl (writeBatch_ends ⟨hloc, hopen⟩))⟩

end Sys2Proof.Machine
end

section
/-! MIGRATE: its next step, and the page that it holds next. -/

namespace Sys2Proof.Machine

variable {α : Type} {s : State} {x : Desc} {g : Migrate} {m : PageMove} {i : Image} {t u : Tx}

/-! ### After a step (R377) -/

theorem Steady.total {m : M α} (h : Steady m) : Total Always Always m := by
  refine ⟨fun i t _ => ?_⟩
  obtain ⟨a, u, e, -⟩ := h i t
  exact ⟨a, u, e, True.intro⟩

theorem total_endMigrate (x : Desc) (g : Migrate) (st rs : Nat) : Total Always Always (endMigrate x g st rs) :=
  total_change <| total_bind (steady_freeSlot _).total fun _ => total_bind (total_endWith ..) fun _ =>
    total_always_modDev _

theorem Total.unfailing {m : M α} (h : Total Always Always m) : Unfailing m := by
  refine ⟨fun i t st rs u e => ?_⟩
  obtain ⟨a, v, e'⟩ := h.answers i t
  rw [e] at e'
  cases e'

/-- Work that ends its MIGRATE where it fails does not fail. -/
theorem unfailing_orEndMigrate (x : Desc) (g : Migrate) (m : M Unit) : Unfailing (orEndMigrate x g m) := by
  refine unfailing_bind (unfailing_caught m) fun r => ?_
  cases r with
  | ok _ => exact unfailing_pure ()
  | error e => exact (total_endMigrate ..).unfailing

/-- A MIGRATE that is listed ends, or holds its next page where it can: neither waits. -/
theorem nextPage_ends (h : t.dev.desc x.q x.seq ≠ none) : ∃ u, nextPage x i t = .ok () u := by
  obtain ⟨y, hy⟩ := Option.ne_none_iff_exists'.mp h
  rw [nextPage, run_bind, run_getDesc hy, chain_ok]
  refine Total.ends ?_ i t
  split
  · exact total_ite (total_endMigrate ..) (total_attempt (unfailing_orEndMigrate ..))
  · exact total_pure ()

/-! ### The step (R376, R378) -/

/-- No resident slot is LOADING or LOADED (R163). -/
def Dev.noneResident (d : Dev) : Prop := ∀ n < 8, d.rd F.gclResCfg_state 64 n ≠ 1 ∧ d.rd F.gclResCfg_state 64 n ≠ 2

/-- No table's rows can then lie in a listed page. -/
theorem run_dropListed_none (list : List (Nat × Nat)) (h : t.dev.noneResident) : dropListed x list i t = .ok () t := by
  have empty : ((List.range 8).filter fun n =>
      t.dev.rd F.gclResCfg_state 64 n == 1 || t.dev.rd F.gclResCfg_state 64 n == 2) = [] := by
    refine List.filter_eq_nil_iff.mpr fun n hn => ?_
    simpa using h n (List.mem_range.mp hn)
  simp only [dropListed, run_bind, run_dev, chain_ok, empty, List.isEmpty_nil, Bool.not_true, Bool.false_eq_true, if_false,
    run_pure]

theorem total_setWork_noneResident (q n : Nat) (w : Work) : Total Dev.noneResident Dev.noneResident (setWork q n w) :=
  total_modDesc_within (fun _ _ h => h) ..

/-- The pages that the bytes of a MIGRATE's list name: of each its virtual address, and the physical one it moves to (R376). -/
def Desc.listOf (x : Desc) (bs : List Byte) : List (Nat × Nat) :=
  (List.range x.length).map fun i => (byteField (fromBytes bs) (16 * i) 8, bits (fromBytes bs) (128 * i + 64) 56)

theorem migrateStep_list {bs : List Byte} (hl : g.list = []) (h : s.listReads x bs t) (hn : t.dev.noneResident) :
    migrateStep x g s.image s.start =
      .ok () (ran (setWork x.q x.seq (.migrate { g with list := x.listOf bs })) s.image t) := by
  unfold State.listReads Runs at h
  obtain ⟨⟨⟩, u, hu, hnone⟩ :=
    (total_setWork_noneResident x.q x.seq (.migrate { g with list := x.listOf bs })).out s.image t hn
  rw [ran_runs hu]
  unfold Desc.listOf at hu
  simp only [migrateStep, hl, List.isEmpty_nil, if_true, readList, run_bind, run_dev, start_dev, chain_ok, h, hu]
  exact run_dropListed_none _ hnone

theorem total_endMove (x : Desc) (g : Migrate) (m : PageMove) : Total Always Always (endMove x g m) := by
  have taken (p : Tlb → Bool) : Total Always Always (takeTlbs p) :=
    total_bind total_dev fun _ => total_change (total_pure _)
  exact total_bind (taken _) fun _ => total_change <| total_change <| total_change <| total_bind total_now fun _ =>
    total_bind (total_progress ..) fun _ => total_setWork ..

theorem migrateStep_page (hx : s.dev.desc x.q x.seq = some x) (hg : x.mig = some g) (hl : g.list ≠ [])
    (hm : g.move = some m) (h : s.pageCopies x m t) :
    migrateStep x g s.image s.start = .ok () (ran (endMove x g m) s.image t) := by
  obtain ⟨t1, hcopy, hentry⟩ := h
  unfold Runs at hcopy hentry
  simp only [migrateStep, List.isEmpty_eq_false_iff.mpr hl, Bool.false_eq_true, if_false, hm, Option.isNone_some, run_bind,
    run_getDesc (t := s.start) hx, chain_ok, hg, run_have_some, movePage, hcopy, hentry]
  exact (total_endMove x g m).runs True.intro

/-! ### The command -/

theorem exec_migratePage_step {q : Fin 1024} {seq : BitVec 32} (hx : s.dev.desc q.val seq.toNat = some x)
    (he : x.ended = false) (hg : x.mig = some g) (h : migrateStep x g s.image s.start = .ok () t)
    (h' : nextPage x s.image t = .ok () u) : exec (.migratePage q seq) s = .next (settle s u) := by
  refine transact_runs ?_
  unfold Runs
  simp only [run_bind, run_getDesc (t := s.start) hx, chain_ok, run_need, he, Bool.not_false, if_true, hg, run_have_some,
    run_caught h, h']

/-- Settles O33: the step is the reading of the list, or the move of the page that is held; what follows a step runs to its end
while the MIGRATE is listed. -/
theorem migrateSteps : Obligations.MigrateSteps := by
  unfold Obligations.MigrateSteps
  intro s q seq x g t hx he hg
  refine ⟨fun h t' => exec_migratePage_step hx he hg h, ?_, ?_⟩
  · intro bs hl h hn list t1 hd
    exact exec_migratePage_step hx he hg (migrateStep_list hl h hn) (runs_ran (nextPage_ends hd))
  · intro m hl hm h t1 hd
    exact exec_migratePage_step hx he hg (migrateStep_page (Dev.desc_self hx) hg hl hm h) (runs_ran (nextPage_ends hd))

end Sys2Proof.Machine
end

section
/-! Register writes that are turned away before their register. -/

namespace Sys2Proof.Machine

/-- A mailbox writes to a page of a type that it does not reach (R512). -/
def RegAcc.abroad (w : RegAcc) : Prop :=
  w.agent = .mailbox ∧ w.page / 256 ≠ bEVR ∧ w.page / 256 ≠ bTIM ∧ w.page / 256 ≠ bPWR ∧ w.page / 256 ≠ bTRC

/-- A key outside SEC page 0 and EVR page 0. -/
def offViolation (k : Nat) : Prop := k / 4096 ≠ pg bSEC 0 ∧ k / 4096 ≠ pg bEVR 0

theorem sameRegs_mono {p q : Nat → Prop} {d e : Dev} (h : ∀ k, p k → q k) (g : SameRegs q d e) : SameRegs p d e :=
  fun x k hk => g x k (h k hk)

/-- A counter that no FREEZE governs counts. -/
theorem Dev.bump_unfrozen {f : Fld} {p : Nat} (d : Dev) (n : Nat) (h : freezeOf f.reg.info.blk p = none) :
    d.bump f p n = d.wr f p (d.rd f p + n) := by
  simp only [Dev.bump, h, Bool.false_eq_true, if_false]

/-- The write is stopped with no trace in the machine: E4, a page that sleeps, a mailbox abroad. -/
theorem RegAcc.passes_silent {w : RegAcc} {i : Image} {t : Tx}
    (h : t.dev.rd F.pwrState_state 0 = 4 ∨ (t.dev.asleep = true ∧ servedInSleep w.page = false) ∨ w.abroad) :
    w.passes i t = .ok false t := by
  unfold RegAcc.passes
  simp only [run_bind, run_ite, run_pure, run_rd, run_dev, chain_ok]
  by_cases ha : w.abroad
  · obtain ⟨h1, h2, h3, h4, h5⟩ := ha
    simp [h1, h2, h3, h4, h5]
  · have ha' : ¬((w.agent == .mailbox && !(w.page / 256 == bEVR || w.page / 256 == bTIM || w.page / 256 == bPWR ||
        w.page / 256 == bTRC)) = true) := by
      simpa [RegAcc.abroad, not_or, and_assoc] using ha
    rw [if_neg ha']
    rcases h with h | ⟨h, h'⟩ | h
    · simp [h]
    · by_cases h4 : t.dev.rd F.pwrState_state 0 = 4 <;> simp [h, h', h4]
    · exact absurd h ha

/-- A write of the other world ends as a violation. -/
theorem RegAcc.passes_violation {w : RegAcc} {i : Image} {t : Tx} (ha : ¬w.abroad) (hs : t.dev.asleep = false)
    (hp : populated w.page = true)
    (hw : if 8 ≤ w.off ∧ w.off < 12 then worldOf w.agent ≠ 1 else worldOf w.agent ≠ t.dev.pageWorld w.page) :
    w.passes i t = (violation 1 (worldOf w.agent) 1 none 0 (w.page * 4096 + w.off) w.page >>= fun _ => pure false) i t := by
  have ha' : ¬((w.agent == .mailbox && !(w.page / 256 == bEVR || w.page / 256 == bTIM || w.page / 256 == bPWR ||
      w.page / 256 == bTRC)) = true) := by
    simpa [RegAcc.abroad, not_or, and_assoc] using ha
  have h4 : t.dev.rd F.pwrState_state 0 ≠ 4 := fun h4 => by simp [Dev.asleep, h4] at hs
  have hok : (if 8 ≤ w.off ∧ w.off < 12 then worldOf w.agent == 1 else worldOf w.agent == t.dev.pageWorld w.page) = false := by
    split at hw <;> simp_all
  unfold RegAcc.passes
  simp only [run_bind, run_ite, run_pure, run_rd, run_dev, chain_ok, if_neg ha', if_neg h4, hs, hp, pageWorld,
    Bool.false_and, Bool.false_eq_true, if_false, Bool.not_true, hok, Bool.not_false, if_true]

/-- A violation is counted, and changes the registers of SEC page 0 and EVR page 0 alone. -/
theorem run_violation (source world kind : Nat) (region : Option Nat) (queue addr srcPage : Nat) (i : Image) (t : Tx) :
    ∃ d, violation source world kind region queue addr srcPage i t = .ok () ⟨d, t.log⟩ ∧
      d.rd F.secViolCount_count 0 = (t.dev.rd F.secViolCount_count 0 + 1) % 2 ^ 32 ∧ SameRegs offViolation d t.dev := by
  let d1 := t.dev.wr F.secViolCount_count 0 (t.dev.rd F.secViolCount_count 0 + 1)
  have hd1 : t.dev.bump F.secViolCount_count 0 1 = d1 := Dev.bump_unfrozen _ _ (by decide)
  have hc1 : d1.rd F.secViolCount_count 0 = (t.dev.rd F.secViolCount_count 0 + 1) % 2 ^ 32 :=
    Dev.rd_wr_same _ _ _ _ _ (by decide)
  have hs1 : SameRegs offViolation d1 t.dev := SameRegs.wr _ _ _ _ _ _ (by unfold offViolation; decide)
  have event (d : Dev) (code sev page payload : Nat) :
      (d.event code sev page payload).rd F.secViolCount_count 0 = d.rd F.secViolCount_count 0 ∧
        SameRegs offViolation (d.event code sev page payload) d :=
    ⟨Dev.rd_event d _ _ _ _ _ _ _ (by unfold offRecorder; decide),
     sameRegs_mono (fun k hk => hk.2) (SameRegs.event d _ _ _ _)⟩
  simp only [violation, run_bind, run_bump, chain_ok, run_rd, hd1, run_ite]
  split
  · simp only [run_bind, run_wr, run_modDev, run_now, run_raise, run_record, chain_ok]
    refine ⟨_, rfl, (event _ _ _ _ _).1.trans ?_, (event _ _ _ _ _).2.trans ?_⟩
    · rw [Dev.rd_raised _ _ _ _ _ _ (by unfold offIrq; decide), Dev.rd_wr_ne _ _ (by decide)]
      show bits ((Dev.setWord _ _ _ _ _).word _ _ _) _ _ = _
      rw [Dev.word_setWord_ne _ _ (by decide)]
      exact (Dev.rd_wr_ne _ _ (by decide)).trans hc1
    · refine (sameRegs_mono (fun k hk => ?_) (SameRegs.raised _ _ _)).trans ?_
      · obtain ⟨hk, -⟩ := hk
        constructor <;> rintro rfl <;> exact hk (by decide)
      refine (SameRegs.wr _ _ _ _ _ _ (by unfold offViolation; decide)).trans ?_
      refine (SameRegs.setWord _ _ _ _ _ _ (by unfold offViolation; decide)).trans ?_
      exact (SameRegs.wr _ _ _ _ _ _ (by unfold offViolation; decide)).trans hs1
  · simp only [run_record]
    exact ⟨_, rfl, (event _ _ _ _ _).1.trans hc1, (event _ _ _ _ _).2.trans hs1⟩

/-- Settles O57: what stops a write in `passes` leaves nothing, or a violation. -/
theorem writesTurnedAway : Obligations.WritesTurnedAway := by
  unfold Obligations.WritesTurnedAway
  intro s off size data a
  let w : RegAcc := ⟨off.toNat / 4096, off.toNat % 4096, size.toNat, data.toNat % 2 ^ (8 * 2 ^ size.toNat), a⟩
  have hx : exec (.registerWrite off size data a) s = transact (w.run (regWrite w)) s := rfl
  refine ⟨fun h => ?_, fun _ hs ha hp hw => ?_⟩
  · rw [hx]
    refine transact_put (d := s.dev) ?_
    rw [RegAcc.run, run_bind, RegAcc.passes_silent (by exact h)]
    rfl
  · obtain ⟨d, hv, hcount, hregs⟩ := run_violation 1 (worldOf a) 1 none 0 (w.page * 4096 + w.off) w.page s.image s.start
    refine ⟨s.put d, ?_, rfl, rfl, rfl, hcount, fun v k h1 h2 => hregs v k ⟨h1, h2⟩⟩
    rw [hx]
    refine transact_put ?_
    rw [RegAcc.run, run_bind, RegAcc.passes_violation (w := w) ha hs hp hw, run_bind, hv]
    rfl

end Sys2Proof.Machine
end

section
/-! TIM_CTL.SET steps a time base that has not been set. -/

namespace Sys2Proof.Machine

variable {d : Dev}

theorem Dev.rd_lt (d : Dev) (f : Fld) (p i : Nat) : d.rd f p i < 2 ^ f.len := Nat.mod_lt _ (Nat.two_pow_pos _)

/-- The shown rate word does not touch TIM_STATE. -/
theorem Dev.timState_syncRate (d : Dev) : d.syncRate.rd F.timState_state 0 = d.rd F.timState_state 0 :=
  (Dev.rd_wr_ne _ _ (by decide)).trans (Dev.rd_wr_ne _ _ (by decide))

@[simp] theorem Dev.time_syncRate (d : Dev) : d.syncRate.time = d.time := rfl

/-- A step in UNSET adds to ET and leaves the time base FREE. -/
theorem run_stepTime_unset (n : Nat) {i : Image} {t : Tx} (h : t.dev.rd F.timState_state 0 = tUNSET) :
    ∃ d, stepTime n i t = .ok () ⟨d, t.log⟩ ∧ d.time.et = (t.dev.time.et + n) % 2 ^ 64 ∧
      d.rd F.timState_state 0 = tFREE := by
  have free (d : Dev) (a b c e : Nat) : (d.event a b c e).rd F.timState_state 0 = d.rd F.timState_state 0 :=
    Dev.rd_event d _ _ _ _ _ _ _ (by unfold offRecorder; decide)
  simp only [stepTime, setSlew, timeStateRecord, run_bind, run_now, run_rd, chain_ok, h, run_modTime, run_modDev,
    run_bump, run_wr, run_record, run_dev, if_true]
  refine ⟨_, rfl, ?_, ?_⟩
  · simp only [Dev.time_event, Dev.time_wr, Dev.time_bump, Dev.time_syncRate]
  · rw [free, free]
    exact Dev.rd_wr_same _ _ _ _ _ (by decide)

/-- TIM_CTL.SET that reaches its page has the effect of `timeSet`. -/
theorem exec_timSet {s : State} {a : Agent} {d : Dev}
    (hr : (regAcc .timCtl 0 0 (1 + 2 * s.dev.rd F.timCtl_servo 0) a).reaches s.dev = true)
    (h : Machine.timeSet (regAcc .timCtl 0 0 (1 + 2 * s.dev.rd F.timCtl_servo 0) a) s.image s.start = .ok () ⟨d, []⟩) :
    exec (.timSet a) s = .next (s.put d) := by
  have hx : exec (.timSet a) s = execTimSet a s := rfl
  rw [hx, execTimSet]
  refine transact_put ?_
  rw [run_bind, run_rd, chain_ok, start_dev]
  exact (RegAcc.run_reaches (t := s.start) hr _).trans h

/-- Settles O18: in UNSET the correction is a step, and the rule that ignores the write captures it. -/
theorem timeSet_holds : Obligations.TimeSet := by
  refine ⟨fun s a hr hu hle hs => ?_, ?_⟩
  · have hlt : s.dev.rd F.timSet_et 0 < 2 ^ 64 := Dev.rd_lt ..
    obtain ⟨d, hd, het, hfree⟩ := run_stepTime_unset (s.dev.rd F.timSet_et 0 - s.dev.time.et) (i := s.image) (t := s.start) hu
    refine ⟨s.put d, exec_timSet hr ?_, ?_, hfree, rfl, rfl, rfl⟩
    · have h0 : (0 : Int) ≤ (s.dev.rd F.timSet_et 0 : Int) - s.dev.time.et := by omega
      have hn : ((s.dev.rd F.timSet_et 0 : Int) - s.dev.time.et).toNat = s.dev.rd F.timSet_et 0 - s.dev.time.et := by omega
      have hs' : ¬(tUNSET = tLOCKED || tUNSET = tSLEWING ||
          (s.dev.rd F.timCtl_servo 0 == 1 && s.dev.rd F.txpPtpClock_source_valid 8 == 1) ||
          (tUNSET == tUNSET && decide ((s.dev.rd F.timSet_et 0 : Int) - s.dev.time.et < 0))) = true := by
        simpa [tUNSET, tLOCKED, tSLEWING, hle] using hs
      simp only [Machine.timeSet, run_bind, run_dev, chain_ok, start_dev, run_ite, hu, if_neg hs', correctTime, run_rd, if_true,
        if_pos h0, hn]
      exact hd
    · show d.time.et = _
      rw [het, start_dev, Nat.add_sub_cancel' hle, Nat.mod_eq_of_lt hlt]
  · intro s a w hr hst
    refine exec_timSet hr ?_
    have hst' : (decide (s.dev.rd F.timState_state 0 = tLOCKED) || decide (s.dev.rd F.timState_state 0 = tSLEWING)) = true := by
      simpa using hst
    simp only [Machine.timeSet, run_bind, run_dev, chain_ok, start_dev, run_ite, hst', Bool.true_or, if_true]
    rfl

end Sys2Proof.Machine
end

section
/-! The IEEE 1588 ports, with none that has still to join or to leave. -/

namespace Sys2Proof.Machine

theorem filter_range_eq_nil {n : Nat} {p : Nat → Bool} (h : ∀ k, k < n → p k = false) : (List.range n).filter p = [] :=
  List.filter_eq_nil_iff.mpr fun k hk => by simp [h k (List.mem_range.mp hk)]

/-- Where every port that takes part has a state, and no other, no port joins and none leaves. -/
theorem run_syncPtp_settled {i : Image} {t : Tx} (h : t.dev.ptpSettled) : syncPtp i t = .ok () t := by
  have hj : (List.range 8).filter (fun p => t.dev.ptpOn p && t.dev.rd F.txpPtpState_state p == 0) = [] :=
    filter_range_eq_nil fun p hp => by
      by_cases hon : t.dev.ptpOn p = true
      · simp [(h p hp).mp hon]
      · simp [hon]
  have hl : (List.range 8).filter (fun p => !t.dev.ptpOn p && t.dev.rd F.txpPtpState_state p != 0) = [] :=
    filter_range_eq_nil fun p hp => by
      by_cases hon : t.dev.ptpOn p = true
      · simp [hon]
      · simp [hon, not_not.mp fun hs => hon ((h p hp).mpr hs)]
  simp only [syncPtp, run_bind, run_dev, chain_ok, hj, hl]
  rfl

/-- A meaning that begins with `syncPtp` goes on with the rest. -/
theorem transact_syncPtp {m : M Unit} {s : State} (h : s.dev.ptpSettled) :
    transact (syncPtp >>= fun _ => m) s = transact m s := by
  refine transact_congr ?_
  rw [run_bind, run_syncPtp_settled (t := s.start) h, chain_ok]

@[simp] theorem run_modPtp (p : Nat) (f : PtpPort → PtpPort) (i : Image) (t : Tx) :
    modPtp p f i t = .ok () { t with dev := { t.dev with ptp := SMap.set PtpPort.none t.dev.ptp p (f (t.dev.ptpPort p)) } } := rfl

theorem total_sourceLost : Total Always Always sourceLost :=
  total_bind (total_always_rd ..) fun _ => total_ite (total_setTimState _) (total_ite (total_always_modDev _) (total_pure ()))

/-- The best-master algorithm runs to its end. -/
theorem total_runBmca (late : Nat) : Total Always Always (runBmca late) := by
  refine total_bind total_dev fun d => total_bind (total_each fun p => total_always_modDev _) fun _ => total_change ?_
  refine total_change (total_ite ?_ (total_pure ()))
  dsimp only
  have hunlock {c : Bool} (f : Nat → TimeBase → TimeBase) :
      Total Always Always (now >>= fun et => modTime (f et) >>= fun _ => if c then sourceLost else pure ()) :=
    total_bind total_now fun et => total_change (total_ite total_sourceLost (total_pure ()))
  split
  · exact total_change (hunlock _)
  · exact hunlock _

/-- Settles O20: nothing waits in the messages and timers, and the best-master algorithm always ends. -/
theorem ptpCommands : Obligations.PtpCommands := by
  intro s p hs hon
  refine ⟨fun m t ht => ?_, fun n r hn hst => ?_, ?_, ?_⟩
  · show execPtpMessage p m s = _
    rw [execPtpMessage, transact_syncPtp hs]
    refine transact_runs ?_
    unfold Runs at ht ⊢
    simp only [run_bind, run_dev, chain_ok, start_dev, hon, run_need, if_true, ht]
  · show execPtpMessage p (.delayReq n r) s = _
    rw [execPtpMessage, transact_syncPtp hs]
    refine transact_put ?_
    simp only [ptpReceive, run_bind, run_dev, chain_ok, start_dev, hon, run_need, if_true, hn, hst, BEq.rfl, Bool.and_self,
      run_modDev]
    rfl
  · intro kind last hk hst hlast x y
    show execPtpMessageInterval p kind s = _
    rw [execPtpMessageInterval, transact_syncPtp hs]
    refine transact_put ?_
    have hl : (SMap.get 0 (s.dev.ptpPort p.val).sent (ptpNumber kind) == 0 ||
        decide (SMap.get 0 (s.dev.ptpPort p.val).sent (ptpNumber kind) + ptpInterval kind ≤ s.dev.time.et)) = true := by
      simpa using hlast
    simp only [run_bind, run_dev, chain_ok, start_dev, if_neg hk, hst, BEq.rfl, run_need, if_true, hl, run_modPtp,
      run_modDev]
    rfl
  · intro st hle hst y
    show execAnnounceReceiptTimeout p s = _
    rw [execAnnounceReceiptTimeout, transact_syncPtp hs]
    refine transact_after ?_ ((total_runBmca p.val).ends _ _)
    have h1 : (s.dev.rd F.txpPtpState_state p.val == ptpLISTENING || s.dev.rd F.txpPtpState_state p.val == ptpSLAVE ||
        s.dev.rd F.txpPtpState_state p.val == ptpPASSIVE) = true := by simpa [or_assoc] using hst
    simp only [run_bind, run_dev, chain_ok, start_dev, h1, decide_eq_true hle, run_need, if_true, run_modPtp]
    rfl

end Sys2Proof.Machine
end

section
/-! The journal of host writes. -/

namespace Sys2Proof.Machine

theorem run_hostReady {i : Image} {t : Tx} (h : t.dev.hostOpen) : hostReady i t = .ok true t := by
  obtain ⟨h1, h2⟩ := h
  simp [hostReady, h1, h2, hUP]

@[simp] theorem Dev.time_arrived (d : Dev) (p : Posted → Bool) : (d.arrived p).time = d.time := rfl

/-- Settles O32: each command comes down to the change of its entries. -/
theorem journalCommands : Obligations.JournalCommands := by
  unfold Obligations.JournalCommands
  intro freed
  refine ⟨fun s entry upto f t hf ho => ?_, fun s a j t hr => ?_, fun s a hr => ⟨fun h0 => ?_, fun t hn ht => ?_⟩⟩
  · intro d ht
    show execConfirmReadDone entry upto s = _
    refine transact_runs ?_
    have het : d.time.et = s.dev.time.et := by simp [d]
    unfold State.journalTakes Runs at ht
    unfold Runs
    simp only [run_bind, run_dev, chain_ok, start_dev, hf, run_have_some, run_hostReady (t := s.start) ho, run_need, if_true,
      run_modDev, run_bump, confirmJrn, run_now]
    rw [← ht, ← het]
    rfl
  · intro i hn hi hj h3 ht
    refine (transact_reaches (m := journalClear false _) (t := t) hr ?_)
    unfold State.journalTakes Runs at ht
    have hj' : readJrn (s.dev.rd F.cpeJrnSel_entry 16) s.image s.start = .ok j s.start := hj
    have hc : (s.dev.rd F.cpeJrnStat_unconfirmed 16 != 0 && decide (s.dev.rd F.cpeJrnSel_entry 16 < s.dev.rd F.cpeJrnCfg_entries 16) &&
        JrnEntry.state j == 3) = true := by simpa [hn, h3] using hi
    simp only [journalClear, Bool.false_eq_true, if_false, run_bind, run_dev, chain_ok, start_dev, hj', run_ite, hc, if_true]
    exact ht
  · refine transact_reaches (t := s.start) hr ?_
    simp only [journalClear, if_true, run_bind, run_dev, chain_ok, start_dev, h0]
    rfl
  · refine transact_reaches hr ?_
    simp only [journalClear, if_true, run_bind, run_dev, chain_ok, start_dev, if_neg hn]
    exact ht

end Sys2Proof.Machine
end

section
/-! A port comes up as far as it can; the key commands. -/

namespace Sys2Proof.Machine

/-- A port enters a state whatever it was in. -/
theorem total_setPortState (p st : Nat) : Total Always Always (setPortState p st) := by
  refine total_bind (total_always_rd ..) fun old => total_ite (total_pure ()) ?_
  exact total_bind total_dev fun d => total_change <| total_bind (ofSetup_always.total_portEdge ..) fun _ =>
    total_change <| total_always_modDev _

/-- A rung of a port's climb, and those above it. -/
theorem total_rung {p st : Nat} {c : Prop} [Decidable c] {k : M Unit} (h : Total Always Always k) :
    Total Always Always (if c then setPortState p st >>= fun _ => k else k) := total_when (total_setPortState p st) h

theorem total_climb (p : Nat) : Total Always Always (climb p) := by
  have rung {f g : Fld} {a b st : Nat} {k : M Unit} (h : Total Always Always k) :
      Total Always Always (rd f p 0 >>= fun x => rd g p 0 >>= fun y =>
        if x = a ∧ y = b then setPortState p st >>= fun _ => k else k) :=
    total_bind (total_always_rd ..) fun _ => total_bind (total_always_rd ..) fun _ => total_rung h
  refine total_bind (total_always_rd ..) fun _ => total_rung <| rung <| rung <| rung ?_
  exact total_bind (total_always_rd ..) fun _ => total_bind (total_always_rd ..) fun _ =>
    total_ite (total_setPortState ..) (total_pure ())

theorem total_endKey (ok : Bool) : Total Always Always (endKey ok) :=
  total_change <| total_change <| total_bind (total_each fun _ => total_always_modDev _) fun _ =>
    total_bind (total_each fun _ => total_always_modDev _) fun _ => total_always_modDev _

/-- A register write that reaches its register leaves what `after` says of a meaning that it comes to. -/
theorem transact_reaches_after {w : RegAcc} {m k : M Unit} {s : State} {d : Dev} (hr : w.reaches s.dev = true)
    (h : m s.image s.start = k s.image ⟨d, []⟩) (hk : Total Always Always k) : transact (w.run m) s = .next (s.after d k) :=
  transact_after ((RegAcc.run_reaches (t := s.start) hr m).trans h) (hk.ends _ _)

/-- Settles O40: each key command changes the associations and ends. -/
theorem keyCommands : Obligations.KeyCommands := by
  unfold Obligations.KeyCommands
  intro s a k others
  have install {d : Dev} {m : M Unit} (hr : (regAcc .secKeyCmd 0 0 1 a).reaches s.dev = true)
      (h : installKey s.image s.start = m s.image ⟨d, []⟩) (hm : Total Always Always m) :
      exec (.secKeyInstall a) s = .next (s.after d m) := transact_reaches_after hr h hm
  have remove {d : Dev} {m : M Unit} (hr : (regAcc .secKeyCmd 0 0 2 a).reaches s.dev = true)
      (h : removeKey s.image s.start = m s.image ⟨d, []⟩) (hm : Total Always Always m) :
      exec (.secKeyRemove a) s = .next (s.after d m) := transact_reaches_after hr h hm
  refine ⟨fun hr => ⟨fun hn => ?_, fun hn hrx => ?_, fun hn hrx hi => ?_⟩, fun hr => ⟨fun hn => ?_, fun hn hrx hi => ?_⟩⟩
  · refine install hr ?_ (total_endKey _)
    simp only [k] at hn
    simp [installKey, hn]
    rfl
  · refine install hr ?_ (total_endKey _)
    simp only [k] at hn hrx
    simp [installKey, hn, hrx, k, others]
  · refine install hr ?_ <|
      total_bind (ofSetup_always.total_portEdge ..) fun _ => total_bind (total_climb _) fun _ => total_endKey _
    simp only [k] at hn hrx hi
    simp [installKey, hn, hrx, hi, k]
  · refine remove hr ?_ (total_endKey _)
    simp only [k] at hn
    simp [removeKey, hn]
    rfl
  · refine remove hr ?_ (total_endKey _)
    simp only [k] at hn hrx hi
    simp [removeKey, hn, hrx, hi, k, others]

end Sys2Proof.Machine
end

section
/-! The states of a port. -/

namespace Sys2Proof.Machine

/-- A write leaves the other registers of its page as they are. -/
theorem Dev.rd_wr_off {f g : Fld} (d : Dev) (p v : Nat) (hb : f.reg.info.blk = g.reg.info.blk)
    (ho : f.reg.info.off ≠ g.reg.info.off) : (d.wr f p v).rd g p = d.rd g p := by
  refine Dev.rd_wr_ne d v fun h => ho ?_
  simp only [RegInfo.key, hb, Nat.zero_mul, Nat.add_zero] at h
  omega

/-- The module's register is not that of the state. -/
@[simp] theorem Dev.txpState_wr_module (d : Dev) (n p v lo len : Nat) :
    (d.wr ⟨.txpModule, lo, len⟩ p v).rd F.txpState_state n = d.rd F.txpState_state n :=
  Dev.rd_wr_ne d v (by simp only [RegInfo.key, RegName.info]; omega)

/-- ENABLE is beside the state in its register. -/
@[simp] theorem Dev.txpState_wr_enable (d : Dev) (p v : Nat) :
    (d.wr F.txpState_enable p v).rd F.txpState_state p = d.rd F.txpState_state p :=
  Dev.rd_wr_field d p v 0 rfl (by decide) (by decide)

@[simp] theorem Dev.txpCtrl_wr_enable (d : Dev) (p v : Nat) :
    (d.wr F.txpState_enable p v).rd F.pageCtrl_enable (pg bTXP p) = d.rd F.pageCtrl_enable (pg bTXP p) :=
  Dev.rd_wr_ne d v (by simp only [RegInfo.key, RegName.info, pg, bTXP]; omega)

@[simp] theorem Dev.peersOn_wr (d : Dev) (f : Fld) (p v n : Nat) : (d.wr f p v).peersOn n = d.peersOn n := rfl

/-- The loss of a node depends on the listed work alone. -/
theorem Dev.lossFree_wr {d : Dev} {n : Nat} (h : d.lossFree n) (f : Fld) (p v : Nat) : (d.wr f p v).lossFree n := h

theorem RegAcc.total_ignore (w : RegAcc) : Total Always Always w.ignore := by
  unfold RegAcc.ignore RegAcc.capture
  exact total_always_modDev _

/-- Settles O39: the writes of a port's own registers, and then its state. -/
theorem portStates : Obligations.PortStates := by
  unfold Obligations.PortStates
  intro s p t t' st present unlocked locked
  refine ⟨fun h0 hst => ?_, fun h0 hst hd => ?_, fun h1 h0 hst => ?_, fun h1 h0 hst => ?_, fun hst h1 => ?_,
    fun h1 hst => ?_, fun h1 hst => ?_, ?_, fun a hr => ?_⟩
  · simp only [st, present] at h0 hst
    exact transact_put (by simp [h0, hst, pOFF, pDOWN])
  · simp only [st, present] at h0 hst hd
    exact transact_after (by simp [h0, hst, hd]) ((total_climb p.val).ends _ _)
  · simp only [st, present] at h1 hst
    exact transact_put (by simp [h1, h0, hst])
  · simp only [st, present] at h1 hst
    exact transact_after (by simp [h1, h0, hst]) ((total_climb p.val).ends _ _)
  · simp only [st] at hst
    exact transact_after (by simp [hst, h1, locked])
      ((total_bind (total_setPortState ..) fun _ => total_climb p.val).ends _ _)
  · simp only [st, present] at h1 hst
    exact transact_after (by simp [h1, hst, unlocked]) ((total_setPortState ..).ends _ _)
  · simp only [st, present] at h1 hst
    exact transact_put (by simp [h1, hst, unlocked, pOFF, pUP, pNO_KEY])
  · intro a w hr
    refine ⟨fun h0 => ?_, fun h0 hst he => ?_⟩
    · exact transact_reaches_after hr (by simp [portEnable, h0, w]; rfl) (RegAcc.total_ignore w)
    · simp only [st] at hst
      exact transact_reaches_after hr (by simp [portEnable, h0, hst, he]) (total_climb p.val)
  · have disable {k : M Unit} (h : portEnable p.val false (regAcc .txpState p.val 0 0 a) s.image s.start =
        k s.image ⟨s.dev.wr F.txpState_enable p.val 0, []⟩)
        (hk : ∃ t, k s.image ⟨s.dev.wr F.txpState_enable p.val 0, []⟩ = .ok () t) :
        exec (.txpEnable p false a) s = .next (s.after (s.dev.wr F.txpState_enable p.val 0) k) :=
      transact_after ((RegAcc.run_reaches (t := s.start) hr _).trans h) hk
    refine ⟨fun hl hp => ?_, fun hn => ?_, fun e he hf => ?_⟩
    · refine transact_reaches hr ?_
      unfold Runs at hl hp
      simp only [portEnable, Bool.false_eq_true, if_false, run_bind, run_wr, chain_ok, start_dev, start_log, hl, hp]
    · exact disable (by simp [portEnable, losePort, hn, each]) ((total_setPortState ..).ends _ _)
    · refine disable (by simp [portEnable, losePort, he, each]) ?_
      have h : Total (·.lossFree e.1) Always (losePeer e.1 0 >>= fun _ => setPortState p.val pOFF) :=
        total_bind (total_losePeer e.1 0) fun _ => total_setPortState ..
      exact h.ends_at (Dev.lossFree_wr hf F.txpState_enable p.val 0)

end Sys2Proof.Machine
end

section
/-! Registers by their offset: what a write and a read of the window come to. -/

namespace Sys2Proof.Machine

variable {w : RegAcc} {i : Image} {t : Tx}

/-- A register that is only stored has no other effect. -/
theorem regEffect_storedOnly {r : RegName} (h : storedOnly r = true) (page idx v : Nat) (w : RegAcc) :
    regEffect r page idx v w = store r page idx v := by
  unfold regEffect
  split
  rotate_right
  · rfl
  all_goals exact absurd h Bool.false_ne_true

/-- A register of read-only fields takes nothing. -/
theorem run_regPut_readOnly {r : RegName} (h : (r.info.fields.all fun f => f.acc == .ro) = true) (page idx v : Nat) :
    regPut r page idx v w i t = .ok () t := by
  simp only [regPut, run_bind, run_dev, chain_ok, h, if_true, run_pure]

/-- Where the lock leaves the written value as it is, a register takes the write or ignores it. -/
theorem run_regPut_unlocked {r : RegName} {page idx v : Nat} (h : (r.info.fields.all fun f => f.acc == .ro) = false)
    (hl : t.dev.rd F.pageWorld_lock w.page = 0 ∨ r.locked (t.dev.word r page idx) v = v) :
    regPut r page idx v w i t =
      if t.dev.takes r page idx (t.dev.word r page idx) v then regEffect r page idx v w i t else w.ignore i t := by
  have hv : (if t.dev.rd F.pageWorld_lock w.page = 1 then r.locked (t.dev.word r page idx) v else v) = v := by
    rcases hl with hl | hl
    · rw [hl, if_neg (by decide)]
    · rw [hl, ite_self]
  simp only [regPut, run_bind, run_dev, chain_ok, h, Bool.false_eq_true, if_false, hv, ne_eq, not_true, run_ite]

/-- A read that passes the checks of its page goes on. -/
theorem RegAcc.passesRead_readable (h : w.readable t.dev = true) : w.passesRead i t = .ok true t := by
  simp only [RegAcc.readable, Bool.and_eq_true, Bool.or_eq_true, bne_iff_ne, ne_eq, beq_iff_eq, decide_eq_true_eq,
    Bool.not_eq_true'] at h
  obtain ⟨⟨⟨⟨h1, h2⟩, h3⟩, h4⟩, h5⟩ := h
  have home : ¬((w.agent == .mailbox && !(w.page / 256 == bEVR || w.page / 256 == bTIM || w.page / 256 == bPWR ||
      w.page / 256 == bTRC)) = true) := by
    simp only [Bool.and_eq_true, beq_iff_eq, Bool.not_eq_true', Bool.or_eq_false_iff, beq_eq_false_iff_ne, ne_eq, not_and]
    tauto
  have awake : ¬((t.dev.asleep && !servedInSleep w.page) = true) := by
    rcases h3 with h3 | h3 <;> simp [h3]
  have mine : ¬((decide (12 ≤ w.off) && worldOf w.agent != t.dev.pageWorld w.page) = true) := by
    rcases h5 with h5 | h5
    · simp; omega
    · simp [h5]
  simp only [RegAcc.passesRead, run_bind, run_ite, run_pure, run_rd, run_dev, chain_ok, if_neg home, if_neg h2, if_neg awake,
    h4, Bool.not_true, Bool.false_eq_true, if_false, pageWorld, if_neg mine]

/-- A read that has nothing to do with TIM_NOW returns what its offset shows, or enters the error capture. -/
theorem run_regRead (h : w.readable t.dev = true) (ht : w.readsTime = false) :
    regRead w i t = match t.dev.readAt (worldOf w.agent) w.page w.off w.size with
      | some v => .ok v t
      | none => .ok 0 ⟨t.dev.captured w.page kSIZE false (worldOf w.agent) (agentSource w.agent) (agentReq w.agent)
          (w.page * 4096 + w.off) w.size 0, t.log⟩ := by
  have h0 : (decide (w.page = pg bTIM 0) && w.size == 2 && w.off == 0x100) = false := by
    simp only [RegAcc.readsTime] at ht
    grind
  have h4 : (decide (w.page = pg bTIM 0) && w.size == 2 && w.off == 0x104) = false := by
    simp only [RegAcc.readsTime] at ht
    grind
  simp only [regRead, run_bind, RegAcc.passesRead_readable h, chain_ok, if_true, run_dev, h0, h4, Bool.false_eq_true, if_false]
  cases t.dev.readAt (worldOf w.agent) w.page w.off w.size <;> rfl

/-- A reserved offset reads zero. -/
theorem readAt_reserved {d : Dev} {world page off : Nat} (ha : off % 4 = 0) (h : regAt page off = none)
    (h' : off < 4 ∨ regAt page (off - 4) = none) : d.readAt world page off 2 = some 0 := by
  have hu : (if 4 ≤ off then regAt page (off - 4) else none) = none := by
    rcases h' with h' | h'
    · rw [if_neg (by omega)]
    · rw [h', ite_self]
  simp [Dev.readAt, ha, h, hu]

/-- A size or an alignment that is not supported has no value. -/
theorem readAt_misfit {d : Dev} {world page off size : Nat} (h : (size ≠ 2 ∧ size ≠ 3) ∨ off % 2 ^ size ≠ 0) :
    d.readAt world page off size = none := by
  unfold Dev.readAt
  by_cases h2 : size = 2
  · subst h2
    have : ¬off % 4 = 0 := by simpa using h
    simp [this]
  · rw [if_neg h2]
    by_cases h3 : size = 3
    · subst h3
      have : ¬off % 8 = 0 := by simpa using h
      simp [this]
    · simp [h3]

/-- The counters of a page are cleared whatever they hold. -/
theorem total_counterClear (page : Nat) : Total Always Always (counterClear page) := by
  refine total_ite (total_ite ?_ ?_) (total_pure ())
  · exact total_bind (total_each fun _ => total_always_modDev _) fun _ => total_each fun _ => total_always_modDev _
  · exact total_change (total_ite (total_always_modDev _) (total_pure ()))

/-- The type and the number of a page. -/
theorem pg_div {b k : Nat} (h : k < 256) : pg b k / 256 = b := by unfold pg; omega
theorem pg_mod {b k : Nat} (h : k < 256) : pg b k % 256 = k := by unfold pg; omega

/-- A register write that changes the machine alone. -/
theorem transact_reaches_put {m : M Unit} {s : State} {d : Dev} (hr : w.reaches s.dev = true)
    (h : m s.image s.start = .ok () ⟨d, []⟩) : transact (w.run m) s = .next (s.put d) :=
  transact_put ((RegAcc.run_reaches (t := s.start) hr m).trans h)

/-- Settles O50: a register access that reaches its page comes to the effect of what its offset names. -/
theorem pageRegisters : Obligations.PageRegisters := by
  unfold Obligations.PageRegisters
  refine ⟨fun s page v a => ?_, ⟨fun s page a r hc hr => ?_, fun s k page a => ?_, fun s off size data a t => ?_⟩,
    fun s w hr ht => ?_⟩
  · intro p stat en
    exact ⟨fun hr => transact_reaches_put hr rfl, fun hr => transact_reaches_put hr rfl, fun hr => transact_reaches_put hr rfl⟩
  · refine transact_after (k := counterClear page.val) (d := s.dev) ?_ ((total_counterClear _).ends _ _)
    simp only [run_bind, hc, run_dev, chain_ok, run_pure, start_dev]
    exact RegAcc.run_reaches (t := s.start) hr _
  · have hk : k.val < 256 := by omega
    refine ⟨fun hp hr => ?_, fun hp hr => ?_⟩
    · refine transact_put ?_
      simp only [run_bind, run_dev, chain_ok, start_dev, hp, pg_div hk, pg_mod hk, if_true]
      rw [hp] at hr
      exact (RegAcc.run_reaches (t := s.start) hr _).trans (by simp [peakClear, pg_div hk, pg_mod hk])
    · refine transact_put ?_
      have hne : ¬bCTP = bHBC := by decide
      simp only [run_bind, run_dev, chain_ok, start_dev, hp, pg_div hk, pg_mod hk, if_neg hne]
      rw [hp] at hr
      exact (RegAcc.run_reaches (t := s.start) hr _).trans (by simp [peakClear, pg_div hk, pg_mod hk, hne])
  · intro w place hr
    have write {u : Tx} (h : regWrite w s.image s.start = .ok () u) :
        exec (.registerWrite off size data a) s = .next (settle s u) := transact_reaches hr h
    refine ⟨write, fun hp => write ?_, fun hp => write (u := s.start) ?_, fun r p n v hp => ?_⟩
    · rw [regWrite, run_bind, run_dev, chain_ok, start_dev, show s.dev.target w.page w.off w.size w.data = none from hp]
      rfl
    · rw [regWrite, run_bind, run_dev, chain_ok, start_dev, show s.dev.target w.page w.off w.size w.data = some none from hp]
      rfl
    · intro old readOnly
      have put := RegAcc.run_regWrite (i := s.image) (t := s.start) (w := w) hp
      refine ⟨fun hro => write (put.trans (run_regPut_readOnly hro p n v)), fun hrw hl => ?_⟩
      have put' := put.trans (run_regPut_unlocked hrw hl)
      refine ⟨fun hk => write ?_, fun hk hso => write (u := ⟨s.dev.setWord r p n (r.after old v), []⟩) ?_⟩
      · exact put'.trans (if_neg (ne_true_of_eq_false hk))
      · exact (put'.trans (if_pos hk)).trans (by rw [regEffect_storedOnly hso]; rfl)
  · unfold Runs
    rw [run_regRead (t := s.start) hr ht]
    refine ⟨fun v hv => ?_, fun h2 ha hn hn' => ?_, fun h => ?_⟩
    · rw [start_dev, hv]
    · rw [start_dev, h2, readAt_reserved ha hn hn']
    · rw [start_dev, readAt_misfit h]
      rfl

end Sys2Proof.Machine
end

section
/-! Power states: requests, entries and exits. -/

namespace Sys2Proof.Machine

theorem total_emptyStaging : Total Always Always emptyStaging := by
  refine total_repeatM (total_bind total_dev fun d => ?_) 8192
  split
  · exact total_change (total_pure _)
  · exact total_pure _

theorem total_gateClusters : Total Always Always gateClusters := total_change (total_always_modDev _)

theorem total_sleepMemory : Total Always Always sleepMemory := by
  refine total_bind (total_each fun k => ?_) fun _ => total_change (total_each fun _ => total_always_modDev _)
  refine total_bind (total_always_rd ..) fun _ => total_when (total_always_modDev _) ?_
  exact total_bind (total_always_rd ..) fun _ => total_ite (total_always_modDev _) (total_pure ())

/-- The entry of a state neither waits nor fails. -/
theorem total_enterState (st : Nat) : Total Always Always (enterState st) := by
  refine total_when total_gateClusters <| total_when total_sleepMemory <| total_change <| total_change <| total_change ?_
  refine total_ite (total_change <| total_change <| total_bind total_emptyStaging fun _ => ?_) ?_
  all_goals exact total_always_modDev _

/-- Nor does the end of an exit. -/
theorem total_leaveState (st : Nat) : Total Always Always (leaveState st) := by
  refine total_bind total_dev fun d => total_change <| total_change <| total_change ?_
  refine total_ite (total_change <| total_change <| total_bind (steady_wipeEnds _).total fun _ => total_change ?_) ?_
  all_goals
    refine total_ite (total_bind (total_each fun k => ?_) fun _ => total_change <| total_change <| total_always_modDev _)
      (total_always_modDev _)
    refine total_bind (total_always_rd ..) fun _ => total_when (total_always_modDev _) ?_
    exact total_bind (total_always_rd ..) fun _ => total_ite (total_always_modDev _) (total_pure ())

/-- Settles O51: each command's conditions are those of the statement, and its work runs to its end. -/
theorem powerStates : Obligations.PowerStates := by
  unfold Obligations.PowerStates
  intro s a st p
  refine ⟨fun req hr h1 h4 h3 hne => ?_, fun n hw hph hx hm => ⟨?_, fun hn => ?_⟩, fun n hw hm hle => ?_,
    fun h1 h3 hx hle => ⟨?_, fun hst => ?_⟩⟩
  · simp only [st] at h3 hne
    exact transact_reaches_put hr (by simp [reqWrite, h3, hne, show ¬5 ≤ req.toNat by omega, show req.toNat ≠ 0 by omega, p])
  · simp only [p] at hw hph hx
    exact transact_after (by simp [hw, hph, hx, hm]; rfl) ((total_enterState n).ends _ _)
  · subst hn
    simp only [p] at hw hph hx
    exact transact_put (by simp [hw, hph, hx, hm, enterState, p])
  · simp only [p] at hw hle
    exact transact_put (by simp [hw, hm, hle, captureEngine, p, st])
  · simp only [st, p] at h1 h3 hx hle
    exact transact_after (by simp [h1, h3, hx, hle]; rfl) ((total_leaveState _).ends _ _)
  · simp only [st, p] at hst hx hle
    exact transact_put (by simp [hst, hx, hle, leaveState, p])

end Sys2Proof.Machine
end

section
/-! The steps of COPY and FILL. -/

namespace Sys2Proof.Machine

variable {α : Type} {i : Image} {t u : Tx}

/-- What a meaning leaves whose first part ends. -/
theorem ran_bind {m : M α} {k : α → M Unit} {a : α} (h : m i t = .ok a u) : ran (m >>= k) i t = ran (k a) i u := by
  simp only [ran, run_bind, h, chain_ok]

/-- Part of an engine's work neither waits nor gives up: the engine shows what it waits for. -/
theorem answered_engineTry (e : Nat) (w : Waiter) (m : M Unit) (i : Image) (t : Tx) : Answered (engineTry e w m i t) := by
  simp only [engineTry, run_bind, run_get, chain_ok, run_tryCatch]
  cases m i t with
  | ok a u => trivial
  | error x u => cases x <;> trivial

theorem answered_engineBlock (e : Nat) (x : Desc) (c : Copy) (i : Image) (t : Tx) : Answered (engineBlock e x c i t) := by
  rw [engineBlock, run_ite]
  split
  · exact answered_engineTry ..
  · trivial

/-- A descriptor without a host destination starts. -/
theorem total_startCopy {e : Nat} {x : Desc} {c : Copy} (h : x.cpDstSpace ≠ 1) (h' : c.dstHost ≠ some true) :
    Total Always Always (startCopy e x c) := by
  have hh : (x.cpDstSpace == 1 || c.dstHost == some true) = false := by simp [h, h']
  unfold startCopy
  simp only [hh, Bool.false_and, Bool.false_eq_true, if_false, pure_bind]
  exact total_bind (total_setWork ..) fun _ => total_change (total_always_modDev _)

/-- A complete batch that fits is taken by a COPY without a journal entry. -/
theorem total_takeBatch {x : Desc} {c : Copy} {b : IngestBatch} (h : b.state = 1) (hf : 64 + b.bytes ≤ x.length)
    (hj : c.jrn = none) : Total Always Always (takeBatch x c b) := by
  unfold takeBatch
  simp only [h, hf, hj, if_true]
  refine total_bind total_dev fun d => total_bind (total_setWork ..) fun _ => ?_
  exact total_bind (total_progress ..) fun _ => total_change (total_settlePort _)

/-- The work of a descriptor and its counts leave the time as it is. -/
theorem run_modDesc_time (q n : Nat) (f : Desc → Desc) (i : Image) (t : Tx) :
    ∃ u, modDesc q n f i t = .ok () u ∧ u.dev.time = t.dev.time := by
  obtain ⟨⟨⟩, u, h, ht⟩ := (total_modDesc_within (P := fun d => d.time = t.dev.time) (fun _ _ h => h) q n f).out i t rfl
  exact ⟨u, h, ht⟩

theorem total_finishCopy (x : Desc) : Total Always Always (finishCopy x) := by
  unfold finishCopy
  split
  · exact total_pure ()
  · exact total_change <| total_bind (total_endDesc ..) fun _ => total_always_modDev _

/-- Settles O31: a step is found by what its engine, its stream or its read is at, and comes to that. -/
theorem copySteps : Obligations.CopySteps := by
  unfold Obligations.CopySteps
  refine ⟨fun s e x c t hrun hc => ⟨fun hr hs hl => ?_, fun hn hw => ?_⟩, fun s q seq x c t hx hc he => ⟨?_, ?_, ?_⟩⟩
  · refine transact_answered ?_ (answered_engineBlock e.val x c s.image s.start)
    simp [hrun, hr, hc, hs, hl]
    rfl
  · have start : exec (.copyEngineStart e) s = transact (startCopy e.val x c) s :=
      transact_congr (by simp [hrun, hn, hw, hc])
    rw [start]
    exact ⟨transact_runs, fun h h' => transact_after rfl ((total_startCopy h h').ends _ _)⟩
  · intro b hi hr hd hs hrun hf hb
    have take : exec (.ingestBatchTake q seq) s = transact (takeBatch x c b) s :=
      transact_congr (by simp [run_getDesc (t := s.start) hx, hc, hi, he, hr, hd, hs, hrun, hf, hb])
    rw [take]
    exact ⟨transact_runs, fun h1 hl hj => transact_after rfl ((total_takeBatch h1 hl hj).ends _ _)⟩
  · intro hfl ho d t1 y ht hy
    have hp : progress x.q x.seq 0 0 s.dev.time.et s.image ⟨d, []⟩ = .ok () t1 := (total_progress ..).runs True.intro
    have hend : Total Always Always (do
        setCopy y.q y.seq { c with flushing := false }
        finishCopy y) := total_bind (total_setWork ..) fun _ => total_finishCopy y
    refine transact_runs ?_
    unfold Runs
    simp only [run_bind, run_getDesc (t := s.start) hx, chain_ok, hc, run_have_some, he, hfl, run_hostReady (t := s.start) ho,
      Bool.not_false, Bool.and_self, run_need, if_true, run_bump, run_modDev, run_now, start_dev, Dev.time_arrived, Dev.time_bump]
    change chain (progress x.q x.seq 0 0 s.dev.time.et s.image ⟨d, []⟩) _ _ = _
    rw [hp, chain_ok]
    obtain ⟨hj, rfl⟩ | ⟨i, hj, hi⟩ := ht
    · simp only [hj]
      rw [run_bind, run_getDesc hy, chain_ok, ← hj]
      exact hend.runs True.intro
    · simp only [hj]
      rw [run_bind, show confirmJrn i c.done s.image t1 = .ok () t from hi, chain_ok, run_bind, run_getDesc hy, chain_ok, ← hj]
      exact hend.runs True.intro
  · intro o rest ho hg hs hl d t1
    obtain ⟨u, hu, het⟩ := run_modDesc_time x.q x.seq (fun x => { x with work := .copy { c with gos := rest } }) s.image ⟨d, []⟩
    have hset : setCopy x.q x.seq { c with gos := rest } s.image ⟨d, []⟩ = .ok () u := hu
    have ht1 : progress x.q x.seq 0 0 u.dev.time.et s.image u = .ok () t1 := by
      rw [show t1 = _ from ran_bind hset, het]
      exact (total_progress ..).runs True.intro
    have go {k : Tx} (h : (match c.jrn with
        | some i => confirmJrn i o
        | none => pure ()) s.image t1 = .ok () k) : exec (.goResponse q seq) s = .next (settle s k) := by
      refine transact_runs ?_
      unfold Runs
      simp only [run_bind, run_getDesc (t := s.start) hx, chain_ok, hc, run_have_some, he, run_hostReady (t := s.start) ho,
        Bool.not_false, Bool.and_self, run_need, if_true, hg, run_modDev, start_dev]
      change chain (setCopy x.q x.seq { c with gos := rest } s.image ⟨d, []⟩) _ _ = _
      rw [hset, chain_ok, run_bind, run_now, chain_ok, run_bind, ht1, chain_ok]
      cases hj : c.jrn with
      | none =>
        rw [hj] at h
        simpa [hs, Nat.not_le.mpr hl] using h
      | some i =>
        rw [hj] at h
        simp only [run_bind]
        simp [h, hs, Nat.not_le.mpr hl]
    refine ⟨fun hj => go ?_, fun i hj hi => go ?_⟩
    · rw [hj]
      rfl
    · rw [hj]
      exact hi

end Sys2Proof.Machine
end

section
/-! Maintenance: what an activity leaves as it ends, and the compactions of the recorder. -/

namespace Sys2Proof.Machine

variable {α : Type}

/-- The share of an activity whose class may move is counted. -/
theorem total_maintShare (q seq r p n : Nat) : Total (·.capoLimit r p 4 ≠ 0) Always (maintShare q seq r p n) := by
  refine total_dev_bind fun d hd => ?_
  rw [if_neg hd]
  exact total_modDev fun _ _ => True.intro

/-- Counting the share of an activity that runs to its end, and what follows it. -/
theorem total_shared {d : Dev} {c : Prop} [Decidable c] {q seq r p n : Nat} {k : M α} (h : d.capoLimit r p 4 ≠ 0)
    (hk : Total Always Always k) : Total (· = d) Always (if c then maintShare q seq r p n >>= fun _ => k else k) := by
  refine total_ite (total_bind ⟨fun i t ht => ?_⟩ fun _ => hk) hk.anywhere
  exact (total_maintShare q seq r p n).out i t (ht ▸ h)

theorem total_always_freeValue (n : Nat) : Total Always Always (freeValue n) := total_freeValue n fun _ _ => True.intro

theorem total_covered (x : Desc) (units size : Nat) : Total Always Always (covered x units size) := by
  refine total_ite (total_bind (total_progress ..) fun _ => total_pure _) ?_
  exact total_bind (total_always_freeValue _) fun _ => total_bind (total_progress ..) fun _ => total_pure _

theorem total_tgRuns (x : Desc) (pcs : List Nat) (count : Nat) : Total Always Always (x.tgRuns pcs count) :=
  total_collect fun _ => total_ite (total_pure _) (total_bind (total_always_freeValue _) fun _ => total_pure _)

theorem total_writeGranule (stack pc k pattern seed : Nat) : Total Always Always (writeGranule stack pc k pattern seed) := by
  refine total_change <| total_bind (total_each fun n => ?_) fun _ => total_pokes ..
  exact total_bind total_dev fun _ => total_ite (total_always_modDev _) (total_pure ())

theorem total_checkGranule (stack pc k pattern seed : Nat) (check : Bool) :
    Total Always Always (checkGranule stack pc k pattern seed check) := by
  refine total_each fun n => total_bind total_dev fun d => total_ite (total_always_modDev _) (total_ite ?_ (total_pure ()))
  refine total_bind (total_peeks ..) fun bs => total_each fun j => ?_
  split
  · exact total_always_modDev _
  · exact total_pure ()

/-- What an activity leaves, where its class may move. -/
theorem total_activityEnd (x : Desc) (act target : Nat) (res : ActivityResult) :
    Total (·.maintMoves act target) Always (activityEnd x act target res) := by
  refine total_dev_bind fun d hd => ?_
  obtain ⟨h16, h2⟩ := hd
  have hmark (lls : Bool) : Total Always Always (each res.uncorrectable fun a =>
      if d.populatedAt a.toNat then markLine (a.toNat / 64) lls true else pure ()) :=
    total_each fun a => total_ite (total_markLine ..) (total_pure ())
  split
  · next h =>
    exact total_shared (h16 (.inl h)) <| total_change <| total_change <| total_bind (hmark false) fun _ =>
      total_bind (total_covered ..) fun _ => total_always_modDev _
  split
  · next h =>
    exact total_shared (h2 h) <| total_bind (total_each fun _ => total_always_modDev _) fun _ =>
      total_bind (hmark true) fun _ => total_bind (total_covered ..) fun _ => total_pure ()
  split
  · exact Total.anywhere <| total_ite (total_change <| total_always_modDev _) <|
      total_ite (total_change <| total_always_modDev _) (total_always_modDev _)
  split
  · next h =>
    refine total_shared (h16 (.inr h)) <| total_bind (total_tgRuns ..) fun runs => ?_
    refine total_ite (total_change <| total_bind (total_each fun _ => total_each fun _ => total_writeGranule ..) fun _ => ?_) ?_
    all_goals
      refine total_ite (total_change <| total_bind (total_each fun _ => total_each fun _ => total_checkGranule ..) fun _ =>
        total_bind (total_each fun _ => total_always_modDev _) fun _ => ?_) ?_
    all_goals
      refine total_when (hmark false) <| total_change <| total_bind (total_progress ..) fun _ => ?_
      exact total_when (total_always_modDev _) (total_ite (total_always_modDev _) (total_pure ()))
  · exact (total_pure ()).anywhere

theorem total_finishActivity (x : Desc) (n act target : Nat) (res : ActivityResult) :
    Total (·.maintMoves act target) Always (finishActivity x n act target res) := by
  have release : Total Always Always (releaseStack act target) :=
    total_ite (total_bind (total_always_rd ..) fun _ => total_ite
      (total_bind total_dev fun _ => total_always_modDev _) (total_pure ())) (total_pure ())
  exact total_bind (total_activityEnd ..) fun _ => total_bind (steady_freeSlot n).total fun _ => total_bind release fun _ =>
    total_endDesc ..

/-- The token of a start that is not refused is granted: a slot is free. -/
theorem exists_freeSlot {d : Dev} {act target ch : Nat} (h : d.refusesStart act target ch = false) :
    ∃ n, ((List.range 32).find? fun n => d.rd F.mntSlot_state 0 n == 0) = some n := by
  simp only [Dev.refusesStart, Bool.or_eq_false_iff, List.all_eq_false] at h
  obtain ⟨-, n, hn, h0⟩ := h
  refine Option.isSome_iff_exists.mp (List.find?_isSome.mpr ⟨n, hn, ?_⟩)
  simpa using h0

/-- A start that is not refused has its token. -/
theorem run_takeToken_granted {act target ch q : Nat} {i : Image} {t : Tx} (h : t.dev.refusesStart act target ch = false) :
    ∃ n u, takeToken act target ch q i t = .ok (some n) u := by
  obtain ⟨n, hn⟩ := exists_freeSlot h
  refine ⟨n, ?_⟩
  simp only [takeToken, run_bind, run_dev, chain_ok, h, Bool.false_eq_true, if_false, hn, run_bump, run_modDev, run_pure]
  exact ⟨_, rfl⟩

/-- One that is refused is counted, and has none. -/
theorem run_takeToken_refused {act target ch q : Nat} {i : Image} {t : Tx} (h : t.dev.refusesStart act target ch = true) :
    takeToken act target ch q i t = .ok none { t with dev := t.dev.bump F.mntRefused_count 0 1 } := by
  simp only [takeToken, run_bind, run_dev, chain_ok, h, if_true, run_bump, run_pure]

/-! ### Compactions stay in the recorder's page -/

theorem SameRegs.recorder_wr {d e : Dev} (f : Fld) (p v i : Nat) (h : f.reg.info.key p i / 4096 = 21 * 256)
    (hd : SameRegs offRecorder d e) : SameRegs offRecorder (d.wr f p v i) e :=
  SameRegs.trans (SameRegs.wr _ _ _ _ _ _ fun hk => hk h) hd

theorem SameRegs.putEvr {p : Nat → Prop} {d e : Dev} (h : SameRegs p d e) (v : Recorder) :
    SameRegs p { d with evr := v } e := h

theorem SameRegs.setSlot {p : Nat → Prop} {d e : Dev} (h : SameRegs p d e) (k v : Nat) : SameRegs p (d.setSlot k v) e := h

theorem SameRegs.copyLive (l : List (Nat × Nat)) (d : Dev) : SameRegs offRecorder (d.copyLive l) d := by
  induction l generalizing d with
  | nil => exact SameRegs.refl d _
  | cons e l ih =>
    have moved : SameRegs offRecorder ((d.setSlot (circKey d.evr.head) e.2).setSlot e.1 (e.2 - 2 ^ 47)) d :=
      ((SameRegs.refl d _).setSlot _ _).setSlot _ _
    rw [Dev.copyLive]
    refine (ih _).trans (SameRegs.putEvr (ite_keeps (SameRegs offRecorder · d) ?_ moved) _)
    exact moved.recorder_wr F.evrNewestSlot_slot 0 _ 0 (by decide)

theorem SameRegs.foldl_wr {p : Nat → Prop} {f : Fld} {q : Nat} {v : Nat → Nat} {l : List Nat}
    (h : ∀ n ∈ l, ¬p (f.reg.info.key q n)) (d : Dev) : SameRegs p (l.foldl (fun d n => d.wr f q (v n) n) d) d := by
  induction l generalizing d with
  | nil => exact SameRegs.refl d _
  | cons n l ih =>
    exact (ih (fun m hm => h m (List.mem_cons_of_mem n hm)) _).trans
      (SameRegs.wr _ _ _ _ _ _ (h n List.mem_cons_self))

theorem SameRegs.syncRdData (d : Dev) : SameRegs offRecorder d.syncRdData d :=
  SameRegs.foldl_wr (by unfold offRecorder; decide) d

theorem SameRegs.endCompaction (d : Dev) : SameRegs offRecorder d.endCompaction d := by
  unfold Dev.endCompaction
  refine ite_keeps (SameRegs offRecorder · d) ?_ ?_
  · exact (SameRegs.syncRecorder _).trans ((SameRegs.refl d _).putEvr _)
  · refine (SameRegs.syncRdData _).trans <| (SameRegs.syncRecorder _).trans <| (SameRegs.event _ _ _ _ _).trans ?_
    rw [Dev.bump_unfrozen _ _ (by decide)]
    refine SameRegs.recorder_wr F.evrCompacts_count 0 _ 0 (by decide) (SameRegs.putEvr ?_ _)
    exact (SameRegs.copyLive _ _).trans ((SameRegs.refl d _).putEvr _)

/-- Settles O46: an activity whose class may move ends, and the compactions come down to the token that they find. -/
theorem maintenance : Obligations.Maintenance := by
  unfold Obligations.Maintenance
  refine ⟨fun s slot res x t hx => ?_, fun s hr hf hc => ⟨fun h => ?_, fun h => ?_⟩, fun s hc hk hn => ?_⟩
  · intro act target h7 h8 hs
    have hq : (!(act == 7 && s.dev.ms.capoNext.contains target) && !(act == 8 && s.dev.evr.compacting) &&
        !s.dev.scrubHeld act target) = true := by grind
    have finish : exec (.maintActivityEnd slot res) s = transact (finishActivity x slot.val act target res) s := by
      refine transact_congr ?_
      rw [run_bind, run_dev, chain_ok, start_dev, hx, run_bind, run_have_some, chain_ok]
      exact (run_bind ..).trans (by rw [run_need, if_pos hq, chain_ok])
    rw [finish]
    exact ⟨transact_runs, fun hm => transact_after rfl ((total_finishActivity x slot.val act target res).ends_at hm)⟩
  · obtain ⟨n, u, hu⟩ := run_takeToken_granted (q := 0) (i := s.image) (t := s.start) h
    have hu' : takeToken 8 0 0 0 s.image ⟨s.dev, []⟩ = .ok (some n) u := hu
    exact transact_after (by simp [hr, hf, hc, hu, hu']) ⟨_, by rw [run_bind, hu', chain_ok, run_modDev]⟩
  · exact transact_put (by simp [hr, hf, hc, run_takeToken_refused (t := s.start) h])
  · have hnone : ((List.range 32).find? fun n => s.dev.rd F.mntSlot_activity 0 n == 8 && s.dev.rd F.mntSlot_state 0 n != 0) =
        none := by
      refine List.find?_eq_none.mpr fun n hn' => ?_
      have hslot := hn n (List.mem_range.mp hn')
      rw [(SameRegs.endCompaction s.dev).rd F.mntSlot_activity 0 n ?_] at hslot
      · simp [hslot]
      · have := List.mem_range.mp hn'
        simp only [offRecorder, RegInfo.key, RegName.info]
        omega
    exact transact_put (by simp [hc, hk, hnone])

end Sys2Proof.Machine
end

section
/-! A trace record that the regulator of class MAINT holds. -/

namespace Sys2Proof.Machine

/-- One trace record waits; the first block of region 0 is an ACTIVE memory region of the trace page's world, which may be
written, and its stacks are trained; class MAINT has a ceiling of 0 at the last-level store of region 0 (R317, R318). -/
def heldTraceDev : Dev :=
  { ((((((State.resetDev.wr F.hbcState_state 0 2).wr F.hbcState_state 1 2).wr F.secMrLimit_state 1 2 0).wr F.secMrBase_wr 1 1 0).wr
      F.secMrBase_world 1 1 0).wr F.rgnCapoAct_ceil 0 0 20) with trace := { State.resetDev.trace with buffer := [1] } }

/-- Such a machine, otherwise as it comes out of reset. -/
def heldTraceState : State := State.reset.put heldTraceDev

/-- Records that the trace unit still buffers. -/
def traceLeft (o : Host.Outcome State Fault Refusal) : Nat :=
  match o with
  | .next s => s.dev.trace.buffer.length
  | _ => 0

/-- Nothing of R27, R251, R306, R308, R309, R313, R326, R457 or R493 holds a write of the record. -/
theorem heldTrace_accessFree : heldTraceDev.accessFree .wr (heldTraceDev.pageWorld (pg bTRC 0))
    ((heldTraceDev.rd F.trcRingBase_base 0 * 4096 + heldTraceDev.rd F.trcRingTail_index 0 % heldTraceDev.traceEntries * 32) %
      2 ^ 46) 32 := by
  have at0 : (heldTraceDev.rd F.trcRingBase_base 0 * 4096 +
      heldTraceDev.rd F.trcRingTail_index 0 % heldTraceDev.traceEntries * 32) % 2 ^ 46 = 0 := by decide +kernel
  have blocks : ∀ b ∈ blocksOf 0 32, heldTraceDev.blockPasses (heldTraceDev.pageWorld (pg bTRC 0)) .wr b = true := by
    decide +kernel
  have cool : ∀ k, k < 32 → heldTraceDev.throttle k = none := by decide +kernel
  rw [at0]
  refine ⟨by decide +kernel, blocks, by decide +kernel, rfl, fun k => ?_⟩
  by_cases hk : k < 32
  · exact cool k hk
  · rw [Dev.throttle, if_neg (by omega), if_neg (by omega)]

/-- The write is held at the regulator, and the record stays where it was. -/
theorem exec_traceRingWrite_held : traceLeft (exec .traceRingWrite heldTraceState) = 1 := by decide +kernel

/-- Refutes O54, by its clause on the trace unit's oldest record. The unit's writes are of class MAINT, which the regulators
of R317 hold, and `accessFree` says nothing of those: in `heldTraceState` the write waits with its record still in the buffer,
while the statement has the record taken out. -/
theorem not_recorderAndTrace : ¬ Obligations.RecorderAndTrace := by
  unfold Obligations.RecorderAndTrace
  intro h
  obtain ⟨-, -, htrace⟩ := h
  have awake : heldTraceDev.asleep = false := by decide +kernel
  have shown : heldTraceDev.rd F.pageState_state (pg bTRC 0) ≠ 0 := by decide +kernel
  have room : heldTraceDev.ringFull = false := by decide +kernel
  obtain ⟨-, hwrite, -⟩ := htrace heldTraceState 1 [] heldTraceState.start awake shown rfl
  have stays := exec_traceRingWrite_held
  rw [(hwrite room rfl).2 heldTrace_accessFree] at stays
  exact absurd stays (by decide +kernel)

end Sys2Proof.Machine
end

section
/-! The host link: what the loss of a host leaves alone that nothing depends on. -/

namespace Sys2Proof.Machine

variable {α : Type} {P : Dev → Prop} {d e : Dev}

/-! ### What depends on the host -/

/-- The places of the registers that tell which queues have rings in host memory, and how many entries of the journal are in
use. -/
def hostKey (k : Nat) : Prop := (k / 2 ^ 20 = bQUE ∧ (k % 256 = 0x90 ∨ k % 256 = 0x94)) ∨ k = pg bCPE 16 * 4096 + 0x10C

/-- As much depends on the host as in another machine: the same descriptors, queues and journal. -/
def SameHost (d e : Dev) : Prop := e.descs = d.descs ∧ SameRegs hostKey e d

theorem SameHost.hostQueue (h : SameHost d e) {q : Nat} (hq : q < 1024) : e.hostQueue q = d.hostQueue q := by
  obtain ⟨-, hr⟩ := h
  have ring : hostKey (RegName.queRingCfg.info.key (1 + q / 16) (q % 16)) := by
    refine .inl ⟨?_, .inl ?_⟩ <;> simp only [RegInfo.key, RegName.info, bQUE] <;> omega
  have cpl : hostKey (RegName.queCplCfg.info.key (1 + q / 16) (q % 16)) := by
    refine .inl ⟨?_, .inr ?_⟩ <;> simp only [RegInfo.key, RegName.info, bQUE] <;> omega
  unfold Dev.hostQueue Dev.qrd
  rw [hr.rd F.queRingCfg_loc _ _ ring, hr.rd F.queCplCfg_loc _ _ cpl]

/-- A change of registers elsewhere leaves that as it is. -/
theorem SameHost.step {f : Dev → Dev} (hd : ∀ e, (f e).descs = e.descs) (hr : ∀ e, SameRegs hostKey (f e) e) (d e : Dev)
    (h : SameHost d e) : SameHost d (f e) := ⟨(hd e).trans h.1, (hr e).trans h.2⟩

theorem total_sameHost {f : Dev → Dev} (hd : ∀ e, (f e).descs = e.descs) (hr : ∀ e, SameRegs hostKey (f e) e) :
    Total (SameHost d) (SameHost d) (modDev f) := total_modDev fun e h => SameHost.step hd hr d e h

theorem sameHost_wr (f : Fld) (p v i : Nat) (h : ¬hostKey (f.reg.info.key p i)) :
    Total (SameHost d) (SameHost d) (wr f p v i) :=
  total_sameHost (fun _ => rfl) fun e => SameRegs.wr e _ f p v i h

/-! ### Posted writes -/

theorem total_peek (host : Bool) (a : Nat) : Total P P (peek host a) := by
  refine ⟨fun i t ht => ?_⟩
  simp only [peek, run_bind, run_read, run_get, chain_ok]
  cases logged host a t.log with
  | none => exact ⟨_, t, rfl, ht⟩
  | some b => exact ⟨b, t, rfl, ht⟩

theorem total_poke (host : Bool) (a : Nat) (b : Byte) : Total P P (poke host a b) := ⟨fun _ _ ht => ⟨(), _, rfl, ht⟩⟩

/-- Bytes, messages and free values are no part of what depends on the host. -/
theorem total_unput (w : Posted) : Total (SameHost d) (SameHost d) (unput w) := by
  refine total_bind (total_each fun i => ?_) fun _ => ?_
  · exact total_bind (total_peek ..) fun _ => total_ite (total_poke ..) (total_pure ())
  · split
    · exact total_sameHost (fun _ => rfl) fun e => SameRegs.refl e _
    · exact total_pure ()

theorem sameHost_freeValue (n : Nat) : Total (SameHost d) (SameHost d) (freeValue n) :=
  total_freeValue n fun _ h => h

theorem sameHost_cutLink : Total (SameHost d) (SameHost d) cutLink :=
  total_bind total_dev fun _ => total_bind (sameHost_freeValue _) fun _ => total_bind (total_each total_unput) fun _ =>
    total_sameHost (fun _ => rfl) fun e => SameRegs.refl e _

theorem total_cutLink : Total Always Always cutLink := by
  refine ⟨fun i t _ => ?_⟩
  obtain ⟨a, u, h, -⟩ := (sameHost_cutLink (d := t.dev)).out i t ⟨rfl, SameRegs.refl t.dev _⟩
  exact ⟨a, u, h, True.intro⟩

theorem sameHost_losePath : Total (SameHost d) (SameHost d) losePath := by
  have undone : Total (SameHost d) (SameHost d) (do
      each ((← dev).path.out.filter fun w => w.cache).reverse fun w => do
        if (← freeValue 1) = 1 then unput w
      modDev fun d => { d with path := ⟨[], [], [], false⟩ }) := by
    refine total_bind total_dev fun _ => total_bind (total_each fun w => ?_) fun _ =>
      total_sameHost (fun _ => rfl) fun e => SameRegs.refl e _
    exact total_bind (sameHost_freeValue _) fun _ => total_ite (total_unput w) (total_pure ())
  exact total_bind ⟨fun _ t h => ⟨_, t, rfl, h⟩⟩ fun _ => total_when sameHost_cutLink undone

theorem total_reput (w : Posted) : Total Always Always (reput w) := by
  refine total_bind (total_pokes ..) fun _ => ?_
  split
  · exact total_always_modDev _
  · exact total_pure ()

theorem total_replay : Total Always Always replay := by
  refine total_bind total_dev fun d => ?_
  refine total_ite (total_bind (total_each total_reput) fun _ => ?_) (total_always_modDev _)
  exact total_ite (total_bind (total_pure _) fun _ => total_change <| total_always_modDev _)
    (total_bind (total_always_freeValue _) fun _ => total_change <| total_always_modDev _)

/-! ### The loss of the host -/

theorem total_syncCopies (l : List Nat) : Total Always Always (each l syncCopy) := total_each fun _ => total_always_modDev _

theorem total_drainQueue (q : Nat) : Total Always Always (drainQueue q) :=
  total_bind (total_always_rd ..) fun _ => total_ite (total_bind (total_qwr ..) fun _ => total_always_modDev _) (total_pure ())

theorem total_detach (n : Nat) : Total Always Always (detach n) :=
  total_bind total_now fun _ => total_change <| total_change <| total_always_modDev _

theorem total_loseBatches (die : Nat) : Total Always Always (loseBatches die) := by
  refine total_bind (total_always_rd ..) fun _ => total_ite ?_ (total_pure ())
  refine total_bind total_now fun _ => total_change <| total_bind total_dev fun _ => ?_
  refine total_bind (total_each fun k => total_each fun r => ?_) fun _ => total_always_modDev _
  exact total_change (total_each fun _ => total_always_modDev _)

/-- A meaning begun in a machine that has the property. -/
theorem Total.from {Q : Dev → Prop} {m : M α} (h : Total P Q m) (he : P e) : Total (· = e) Q m :=
  ⟨fun i t ht => h.out i t (ht ▸ he)⟩

/-- No descriptor is listed in a queue with a ring in host memory. -/
theorem descsOf_hostQueue (h : d.hostQuiet) (he : SameHost d e) {q : Nat} (hq : q < 1024) (hh : e.hostQueue q = true) :
    e.descsOf q = [] := by
  refine List.filter_eq_nil_iff.mpr fun x hx hxq => ?_
  rw [he.1] at hx
  obtain ⟨-, hn⟩ := h.1 x hx
  rw [beq_iff_eq.mp hxq, ← he.hostQueue hq, hh] at hn
  cases hn

/-- The queues with host rings have nothing to stop and nothing unwritten. -/
theorem sameHost_loseQueues (h : d.hostQuiet) : Total (SameHost d) (SameHost d) loseQueues := by
  refine total_dev_bind fun e he => Total.from (total_each_mem fun q hq => ?_) he
  obtain ⟨hq, hh⟩ := List.mem_filter.mp hq
  rw [Bool.and_eq_true] at hh
  have hq := List.mem_range.mp hq
  have state (f : Fld) (v : Nat) (hf : f.reg = .queState) : Total (SameHost d) (SameHost d) (qwr f q v) := by
    refine sameHost_wr _ _ _ _ ?_
    simp only [hostKey, RegInfo.key, RegName.info, hf, pg, bCPE]
    omega
  refine total_bind (state F.queState_enable 0 rfl) fun _ => total_bind (state F.queState_state qLOST rfl) fun _ =>
    total_dev_bind fun g hg => ?_
  have hnil : g.descsOf q = [] :=
    descsOf_hostQueue h hg hq ((hg.hostQueue hq).trans ((he.hostQueue hq).symm.trans hh.1))
  rw [hnil]
  refine ⟨fun i t ht => ⟨(), t, ?_, ht ▸ hg⟩⟩
  rw [run_bind, show stopAll [] sHOST_LOST rNONE i t = .ok () t from rfl, chain_ok]
  exact run_dropUnwritten (.inr (by rw [ht, hnil]))

theorem sameHost_loseJournal (h : d.hostQuiet) : Total (SameHost d) (SameHost d) loseJournal := by
  refine total_dev_bind fun e he => ?_
  have h0 : e.rd F.cpeJrnStat_in_use 16 = 0 :=
    (he.2.rd F.cpeJrnStat_in_use 16 0 (.inr (by decide))).trans h.2
  rw [h0, if_neg (by decide)]
  exact (total_pure ()).from he

/-- Where nothing depends on the host, its loss neither waits nor fails. -/
theorem total_loseHost (cause : Nat) : Total Dev.hostQuiet Always (loseHost cause) := by
  refine ⟨fun i t h => ?_⟩
  refine Total.out (P := SameHost t.dev) ?_ i t ⟨rfl, SameRegs.refl t.dev _⟩
  refine total_bind sameHost_losePath fun _ => ?_
  refine total_bind (sameHost_wr F.hlkState_state 0 _ 0 (by unfold hostKey; decide)) fun _ => ?_
  refine total_bind (sameHost_wr F.hlkState_cause 0 _ 0 (by unfold hostKey; decide)) fun _ => total_bind total_now fun _ => ?_
  refine total_bind (sameHost_wr F.hlkLossEt_et 0 _ 0 (by unfold hostKey; decide)) fun _ => ?_
  refine total_bind (Q := SameHost t.dev) (total_sameHost (fun e => Dev.descs_bump ..) fun e => ?_) fun _ => ?_
  · rw [Dev.bump_unfrozen _ _ (by decide)]
    exact SameRegs.wr e _ F.hlkLosses_count 0 _ 0 (by unfold hostKey; decide)
  refine total_bind (Q := SameHost t.dev) (total_sameHost (fun e => Dev.descs_raised ..) fun e => ?_) fun _ => ?_
  · refine sameRegs_mono (fun k hk => ?_) (SameRegs.raised e _ _)
    simp only [hostKey, offIrq, pg, bQUE, bCPE, bHLK] at hk ⊢
    omega
  refine total_bind (Q := SameHost t.dev) (total_sameHost (fun e => Dev.descs_event ..) fun e => ?_) fun _ => ?_
  · refine sameRegs_mono (fun k hk => ?_) (SameRegs.event e _ _ _ _)
    simp only [hostKey, offRecorder, pg, bQUE, bCPE] at hk ⊢
    omega
  refine total_dev_bind fun e he => ?_
  have hnil : (e.descs.filter fun x => !x.ended && x.usesHost) = [] := by
    refine List.filter_eq_nil_iff.mpr fun x hx => ?_
    rw [he.1] at hx
    rcases (h.1 x hx).1 with hx | hx <;> simp [hx]
  rw [hnil]
  refine total_bind (Q := SameHost t.dev) ((total_pure ()).from he) fun _ => ?_
  refine total_bind (sameHost_loseQueues h) fun _ => total_bind (sameHost_loseJournal h) fun _ => Total.anywhere ?_
  refine total_change <| total_bind (total_each total_loseBatches) fun _ => total_bind (total_syncCopies _) fun _ => ?_
  refine total_bind (total_always_rd ..) fun _ => total_ite ?_ (total_pure ())
  exact total_bind (total_each total_drainQueue) fun _ => total_bind total_dev fun _ => total_each fun _ => total_detach _

/-- A link that goes down is HELD; it is cut unless only Bus Master Enable was cleared (R436, R437). -/
def linkHeld (cause : HostCause) (et : Nat) : M Unit := do
  if cause != .bmeClear then cutLink
  wr F.hlkState_state 0 hHELD
  modDev fun d => { d with heldEt := et }
  each (range' 0 16) syncCopy

theorem total_linkHeld (cause : HostCause) (et : Nat) : Total Always Always (linkHeld cause et) :=
  total_when total_cutLink <| total_change <| total_change (total_syncCopies _)

theorem exec_dlDown_up {s : State} (cause : HostCause) (h : s.dev.rd F.hlkState_state 0 = hUP) :
    exec (.dlDown cause) s = .next (s.after s.dev (linkHeld cause s.dev.time.et)) := by
  have down : exec (.dlDown cause) s = transact (linkHeld cause s.dev.time.et) s := by
    cases cause with
    | _ =>
      refine transact_congr ?_
      simp only [run_bind, run_rd, run_now, chain_ok, start_dev, h, if_true]
      rfl
  rw [down]
  exact transact_after rfl ((total_linkHeld cause s.dev.time.et).ends _ _)

/-- Settles O41: each event's condition is the state of the link, and what it does neither waits nor fails. -/
theorem hostLink : Obligations.HostLink := by
  unfold Obligations.HostLink
  intro s t st engines reset
  have syncs : Total Always Always engines := total_syncCopies _
  refine ⟨fun cause hst => ?_, fun cause hst => ?_, fun hst hd => ?_, fun hst => ?_, fun hst => ?_, fun hst => ?_,
    fun hst hd => ?_, fun cause => ?_, fun a => ?_, fun addr => rfl, fun on => rfl, fun on => rfl⟩
  · exact exec_dlDown_up cause hst
  · simp only [st] at hst
    cases cause with
    | _ => exact transact_put (by simp [hst, hWAIT, hUP])
  · simp only [st] at hst
    exact transact_after (by simp [hst, hd]; rfl) ((total_bind total_replay fun _ => total_change syncs).ends _ _)
  · simp only [st] at hst
    exact transact_put (by simp [hst, hLOST, hHELD])
  · simp only [st] at hst
    exact transact_put (by simp [hst, hDOWN, hLOST, hHELD])
  · simp only [st] at hst
    exact transact_put (by simp [hst])
  · simp only [st] at hst
    have lose : exec .heldTimeout s = transact (loseHost 1) s := transact_congr (by simp [hst, hd])
    rw [lose]
    exact ⟨transact_runs, fun h => transact_after rfl ((total_loseHost 1).ends_at h)⟩
  · have after : Total Always Always reset := total_change (total_always_modDev _)
    refine ⟨fun ht => transact_runs ?_, fun h => transact_after rfl ?_⟩
    · unfold Runs at ht ⊢
      rw [run_bind, ht, chain_ok]
      exact after.runs True.intro
    · exact (total_bind (total_loseHost _) fun _ => after).ends_at h
  · intro w hr
    simp only [st]
    refine ⟨fun hst => ?_, fun hst => ?_⟩
    · exact transact_reaches_after hr (by simp [hostResume, hst]; rfl) (total_change syncs)
    · exact transact_reaches_after hr (by simp [hostResume, hst]; rfl) (RegAcc.total_ignore w)

end Sys2Proof.Machine
end

section
/-! Meanings that leave the lists of work: accesses of local memory, the spill rings, frames, and a port's edge. -/

namespace Sys2Proof.Machine

variable {α β : Type} {P : Dev → Prop} {d e : Dev}

/-! ### Changes that leave the work of the machine -/

/-- The lists that a reset empties: descriptors, messages and batches to send, items to apply, merge tables. -/
def Dev.work (d : Dev) : List Desc × List OutMsg × List OutBatch × List RoItem × SMap (List Merge) :=
  (d.descs, d.outbox, d.batches, d.reorder, d.merge)

theorem Dev.work_bump (f : Fld) (p n : Nat) : (d.bump f p n).work = d.work := by simp [Dev.work]
theorem Dev.work_raised (p b : Nat) : (d.raised p b).work = d.work := by simp [Dev.work]
theorem Dev.work_event (code sev page payload : Nat) : (d.event code sev page payload).work = d.work := by simp [Dev.work]

theorem Dev.work_traced (k inst op world q n len addr : Nat) : (d.traced k inst op world q n len addr).work = d.work :=
  ite_keeps (Dev.work · = d.work) (ite_keeps (Dev.work · = d.work) rfl (Dev.work_bump ..)) rfl

theorem Dev.work_turnTo (pc dir : Nat) : (d.turnTo pc dir).work = d.work :=
  ite_keeps (Dev.work · = d.work) (Dev.work_bump ..) rfl

/-! ### Properties that they decide -/

/-- A property that those lists alone decide. -/
def OfLists (P : Dev → Prop) : Prop := ∀ d e : Dev, e.work = d.work → P d → P e

theorem ofLists_lossFree (n : Nat) : OfLists (·.lossFree n) := fun d e h =>
  ofWork_lossFree n d e ⟨congrArg (·.1) h, congrArg (·.2.1) h⟩

theorem ofLists_atRest : OfLists Dev.atRest := by
  intro d e h hd
  simp only [Dev.work, Prod.mk.injEq] at h
  obtain ⟨hx, ho, hb, hr, hm⟩ := h
  rw [Dev.atRest] at hd ⊢
  rw [hx, ho, hb, hr]
  simpa only [Dev.merges, hm] using hd

section
variable (hP : OfLists P)
include hP

theorem OfLists.modDev {f : Dev → Dev} (h : ∀ d, (f d).work = d.work) : Keeps P (modDev f) :=
  keeps_modDev fun d => hP d _ (h d)

theorem OfLists.waitFor {f : Dev → Dev} (h : ∀ d, (f d).work = d.work) : Keeps P (waitFor f : M α) :=
  keeps_waitFor fun d => hP d _ (h d)

theorem OfLists.total {f : Dev → Dev} (h : ∀ d, (f d).work = d.work) : Total P P (Machine.modDev f) :=
  total_modDev fun d => hP d _ (h d)

theorem OfLists.wr (f : Fld) (p v n : Nat) : Keeps P (wr f p v n) := hP.modDev fun _ => rfl
theorem OfLists.bump (f : Fld) (p n : Nat) : Keeps P (bump f p n) := hP.modDev fun _ => Dev.work_bump ..
theorem OfLists.tap (k inst op world q n len addr : Nat) : Keeps P (tap k inst op world q n len addr) :=
  hP.modDev fun _ => Dev.work_traced ..

theorem OfLists.total_wr (f : Fld) (p v n : Nat) : Total P P (Machine.wr f p v n) := hP.total fun _ => rfl
theorem OfLists.total_bump (f : Fld) (p n : Nat) : Total P P (Machine.bump f p n) := hP.total fun _ => Dev.work_bump ..
theorem OfLists.total_raise (p b : Nat) : Total P P (raise p b) := hP.total fun _ => Dev.work_raised ..
theorem OfLists.total_record (code sev page payload : Nat) : Total P P (record code sev page payload) :=
  hP.total fun _ => Dev.work_event ..

/-! ### Accesses of local memory, and the spill rings -/

theorem OfLists.violation (source world kind : Nat) (region : Option Nat) (queue addr srcPage : Nat) :
    Keeps P (violation source world kind region queue addr srcPage) :=
  keeps_bind (hP.bump ..) fun _ => keeps_bind (keeps_rd ..) fun _ =>
    keeps_branch (hP.modDev fun _ => Dev.work_event ..) fun recorded =>
    keeps_bind (hP.wr ..) fun _ => keeps_bind (hP.modDev fun _ => rfl) fun _ => keeps_bind keeps_now fun _ =>
    keeps_bind (hP.wr ..) fun _ => keeps_bind (hP.modDev fun _ => Dev.work_raised ..) fun _ => recorded

theorem OfLists.localCheck (w : Who) (n : Need) (a len : Nat) : Keeps P (localCheck w n a len) := by
  refine keeps_bind keeps_dev fun _ => keeps_ite (keeps_bind keeps_dev fun _ => ?_) (keeps_fail ..)
  dsimp only
  split
  · exact keeps_pure ()
  · exact keeps_bind (hP.violation ..) fun _ => keeps_fail ..

theorem OfLists.clear (w : Who) (isRead : Bool) (a len : Nat) : Keeps P (clear! w isRead a len) := by
  refine keeps_bind keeps_dev fun _ => keeps_ite ?_ (keeps_pure ())
  split
  · exact keeps_skip
  · exact keeps_ite keeps_skip <| hP.waitFor fun d =>
      ite_keeps (Dev.work · = d.work) (Dev.work_bump ..) rfl

theorem OfLists.regulate (w : Who) (key limit : Nat) (yields : Bool) (len : Nat) :
    Keeps P (regulate w key limit yields len) :=
  keeps_bind keeps_dev fun _ => keeps_ite (hP.modDev fun _ => rfl) (hP.waitFor fun _ => rfl)

theorem OfLists.capoIssue (w : Who) (r p c len : Nat) : Keeps P (capoIssue w r p c len) :=
  keeps_ite (keeps_pure ()) (keeps_bind keeps_dev fun _ => hP.regulate ..)

theorem OfLists.carry (src dst len : Nat) : Keeps P (carry src dst len) :=
  have count (f : Fld) (p n : Nat) : Keeps P (Machine.bump f p n) := hP.bump f p n
  keeps_ite (keeps_bind (count ..) fun _ => keeps_bind (count ..) fun _ =>
    keeps_ite (keeps_bind (count ..) fun _ => count ..) (keeps_pure ())) (keeps_pure ())

theorem OfLists.issue (w : Who) (op a len : Nat) : Keeps P (issue w op a len) := by
  refine keeps_bind (hP.capoIssue ..) fun _ => keeps_bind keeps_dev fun _ => keeps_branch
    (keeps_branch (keeps_bind (keeps_each fun _ => hP.tap ..) fun _ => ?_) fun rest =>
      keeps_bind (hP.tap ..) fun _ => rest) fun rest => keeps_bind (hP.capoIssue ..) fun _ => rest
  split
  · exact keeps_ite (hP.carry ..) (hP.carry ..)
  · exact keeps_pure ()

theorem OfLists.meter (w : Who) (hold : Bool) (a len : Nat) : Keeps P (meter w hold a len) := by
  have count {key n : Nat} : Keeps P (Machine.modDev (·.capoCount key n)) := hP.modDev fun _ => rfl
  refine keeps_each fun _ => keeps_bind keeps_dev fun _ => ?_
  split
  · exact keeps_ite (hP.regulate ..) count
  · exact count

theorem OfLists.homeTraffic (w : Who) (isWrite : Bool) (a len : Nat) :
    Keeps P (homeTraffic w isWrite a len) := by
  refine keeps_each fun g => ?_
  have turned {pc dir : Nat} {k : Unit → M Unit} (h : Keeps P (k ())) :
      Keeps P (Machine.modDev (·.turnTo pc dir) >>= k) :=
    keeps_bind (hP.modDev fun _ => Dev.work_turnTo ..) fun _ => h
  have taken {f : Fld} {p n : Nat} {k : Unit → M Unit} (h : Keeps P (k ())) : Keeps P (Machine.bump f p n >>= k) :=
    keeps_bind (hP.bump ..) fun _ => h
  dsimp only
  cases homeOf g.1 with
  | hbm r o => exact keeps_ite (taken (turned (hP.tap ..))) (taken (turned (hP.tap ..)))
  | cap r o => exact keeps_ite (taken (hP.tap ..)) (taken (hP.tap ..))
  | _ => exact keeps_pure ()

theorem OfLists.writeLocal (w : Who) (a : Nat) (bs : List Byte) : Keeps P (writeLocal w a bs) := by
  have marks (len : Nat) : Keeps P (clearMarks a len) :=
    hP.modDev fun d => ite_keeps (Dev.work · = d.work) rfl rfl
  refine keeps_bind (hP.localCheck ..) fun _ => keeps_bind (hP.clear ..) fun _ =>
    keeps_bind keeps_dev fun _ => keeps_bind (keeps_need _) fun _ => keeps_bind (hP.issue ..) fun _ => keeps_bind
    (keeps_bind keeps_dev fun _ => keeps_bind (hP.bump ..) fun _ => keeps_pure _) fun _ =>
    keeps_bind (hP.meter ..) fun _ => keeps_bind (hP.homeTraffic ..) fun _ => keeps_bind keeps_dev fun _ =>
    keeps_ite (keeps_pure ()) <| keeps_bind (marks _) fun _ =>
    keeps_bind (keeps_each fun n => keeps_bind keeps_dev fun d => ?_) fun _ => keeps_pokes ..
  split
  · exact hP.modDev fun _ => rfl
  · exact keeps_pure ()

theorem OfLists.spill (r : Nat) (x : Delta) (refused : Bool) : Keeps P (spill r x refused) :=
  keeps_bind keeps_dev fun _ => keeps_bind keeps_dev fun _ => keeps_ite (keeps_pure _) <|
    keeps_bind (keeps_same fun _ _ => ⟨_, rfl⟩) fun _ => keeps_bind (keeps_each fun _ => keeps_bind keeps_dev fun _ =>
      keeps_bind (hP.writeLocal ..) fun _ => keeps_bind (hP.wr ..) fun _ => hP.bump ..)
    fun _ => keeps_pure _

theorem OfLists.spillOwed (n : Nat) (us : List Delta) : Keeps P (spillOwed n us) := by
  induction us with
  | nil => exact keeps_pure ()
  | cons u us ih =>
    exact keeps_bind keeps_dev fun _ => keeps_bind (hP.spill ..) fun _ => keeps_ite
      (keeps_bind (hP.modDev fun _ => rfl) fun _ => ih) (keeps_pure ())

/-! ### Ports and frames -/

theorem OfLists.total_portEdge (p : Nat) (before : Bool) : Total P P (portEdge p before) :=
  total_bind total_dev fun _ => total_ite (hP.total fun _ => rfl) <|
    total_ite (total_bind (hP.total fun _ => rfl) fun _ => total_each fun _ => hP.total fun _ => rfl) (total_pure ())

theorem OfLists.total_spendPn (p : Nat) : Total P P (spendPn p) := by
  refine total_bind total_dev fun d => ?_
  split
  · exact total_pure ()
  · exact total_bind total_dev fun _ => total_bind (hP.total fun _ => rfl) fun _ =>
      total_branch (hP.total_portEdge ..) fun rest => total_bind (hP.total_wr ..) fun _ =>
        total_bind (hP.total_raise ..) fun _ => rest

theorem OfLists.total_sendControl (n kind : Nat) (body : List Byte) : Total P P (sendControl n kind body) :=
  total_bind total_dev fun _ => total_bind total_dev fun _ => total_ite (total_pure ()) <|
    total_bind (hP.total fun _ => rfl) fun _ => total_bind (hP.total_bump ..) fun _ =>
    total_bind (hP.total fun _ => rfl) fun _ => hP.total_spendPn _

theorem OfLists.total_sendNak (n : Nat) : Total P P (sendNak n) :=
  total_bind total_dev fun _ => total_ite (hP.total fun _ => rfl) <|
    total_bind (hP.total_sendControl ..) fun _ => total_bind total_now fun _ => hP.total fun _ => rfl

theorem OfLists.total_closeTear (n : Nat) (byLoss : Bool) : Total P P (closeTear n byLoss) := by
  refine total_bind total_dev fun d => ?_
  dsimp only
  split
  · exact total_pure ()
  · exact total_bind (hP.total_record ..) fun _ => total_bind (hP.total_raise ..) fun _ =>
      total_bind (hP.total_bump ..) fun _ => total_bind (hP.total_bump ..) fun _ => hP.total fun _ => rfl

theorem OfLists.total_settlePort (p : Nat) : Total P P (settlePort p) := by
  have repaired {c : Prop} [Decidable c] {l : List (Nat × Peer)} : Total P P (do if c then
      each l fun e =>
        if e.2.tear.isSome && e.2.live != some true then do
          closeTear e.1 false
          if (← dev).portRuns p then sendNak e.1
        else pure ()) := by
    refine total_ite (total_each fun e => total_ite ?_ (total_pure ())) (total_pure ())
    exact total_bind (hP.total_closeTear ..) fun _ => total_bind total_dev fun _ =>
      total_ite (hP.total_sendNak _) (total_pure ())
  have shown {f : Fld} {v : Nat} {k : Unit → M Unit} (h : Total P P (k ())) : Total P P (Machine.wr f p v 0 >>= k) :=
    total_bind (hP.total_wr ..) fun _ => h
  exact total_bind total_dev fun d => shown <| shown <| shown <| shown <|
    total_ite (shown repaired) (total_branch repaired fun rest => shown rest)

end

end Sys2Proof.Machine
end

section
/-! The life of a session: what a port that goes down and a peer command leave. -/

namespace Sys2Proof.Machine

variable {P : Dev → Prop}

/-! ### A field that already holds what is written -/

/-- The same value written twice stands once. -/
theorem SMap.set_set_self {α : Type} [DecidableEq α] (d : α) (m : SMap α) (a : Nat) (v : α) :
    SMap.set d (SMap.set d m a v) a v = SMap.set d m a v := by
  unfold SMap.set
  split
  · induction m with
    | nil => rfl
    | cons e m ih => by_cases h : e.1 = a <;> simp [SMap.remove, h, ih]
  · induction m with
    | nil => simp [SMap.insert]
    | cons e m ih =>
      by_cases hk : e.1 = a
      · simp [SMap.insert, hk]
      · by_cases hl : a < e.1 <;> simp [SMap.insert, hk, hl, ih]

theorem setBits_self {n lo len v : Nat} (h : bits n lo len = v % 2 ^ len) : setBits n lo len v = n := by
  simp only [setBits, ← h]
  have := bits_le n lo len
  omega

/-- A field that a written word already holds is not changed by writing it. -/
theorem Dev.wr_self {d e : Dev} {f : Fld} {p i v x : Nat} (he : e = d.setWord f.reg p i v)
    (h : e.rd f p i = x % 2 ^ f.len) : e.wr f p x i = e := by
  have word : BitVec.ofNat 64 (v % 2 ^ 64) = BitVec.ofNat 64 v := BitVec.eq_of_toNat_eq (by simp)
  subst he
  rw [Dev.wr, setBits_self h, Dev.word_setWord_same]
  simp only [Dev.setWord, word, SMap.set_set_self]

theorem Dev.rd_syncPeer_node (d : Dev) : d.syncPeer.rd F.txpPeerCmd_node 8 = d.rd F.txpPeerCmd_node 8 := by
  rw [Dev.syncPeer, Dev.rd_wr_ne _ _ (by decide), Dev.rd_wr_ne _ _ (by decide)]

/-- To show the selected node again changes nothing. -/
theorem Dev.syncPeer_syncPeer (d : Dev) : d.syncPeer.syncPeer = d.syncPeer := by
  have node : d.syncPeer.peer (d.syncPeer.rd F.txpPeerCmd_node 8) = d.peer (d.rd F.txpPeerCmd_node 8) :=
    congrArg d.peer d.rd_syncPeer_node
  rw [Dev.syncPeer, node]
  have state := Dev.wr_self (e := d.syncPeer) (f := F.txpPeerStat_state) (i := 0)
    (x := (d.peer (d.rd F.txpPeerCmd_node 8)).state) rfl
    (by rw [Dev.syncPeer, Dev.rd_wr_field (f := F.txpPeerStat_session) (g := F.txpPeerStat_state) _ _ _ _ rfl (by decide) (by decide),
      Dev.rd_wr_same _ _ _ _ _ (by decide)])
  rw [state]
  exact Dev.wr_self rfl (by rw [Dev.syncPeer, Dev.rd_wr_same _ _ _ _ _ (by decide)])

/-! ### A port that no node is routed to -/

theorem total_rd (f : Fld) (p n : Nat) : Total P P (rd f p n) := ⟨fun _ _ h => ⟨_, _, rfl, h⟩⟩

theorem total_portEdge_empty (p : Nat) (before : Bool) :
    Total (·.peersOn p = []) (·.peersOn p = []) (portEdge p before) := by
  refine total_dev_bind fun d hd => ?_
  have changed {f : Dev → Dev} (hf : (f d).peersOn p = d.peersOn p) : Total (· = d) (·.peersOn p = []) (modDev f) :=
    total_modDev fun e he => by rw [he, hf, hd]
  rw [hd]
  exact total_ite (changed rfl) <| total_ite (total_bind (changed rfl) fun _ => total_pure ()) <|
    (total_pure ()).mono fun _ he => he ▸ hd

/-- A port that no node is routed to changes its state, and none is routed to it. -/
theorem total_setPortState_empty (p st : Nat) : Total (·.peersOn p = []) (·.peersOn p = []) (setPortState p st) := by
  refine total_bind (total_rd ..) fun old => total_ite (total_pure ()) ?_
  refine total_bind total_dev fun d => total_bind (total_modDev fun _ h => h) fun _ =>
    total_bind (total_portEdge_empty ..) fun _ =>
    total_bind (Q := (·.peersOn p = [])) (total_modDev fun _ h => h) fun _ => total_modDev fun d h => ?_
  rw [Dev.peersOn, Dev.peers_event]
  exact h

@[simp] theorem Dev.peer_wr (d : Dev) (f : Fld) (p v i n : Nat) : (d.wr f p v i).peer n = d.peer n :=
  congrArg (fun l => SMap.get Peer.none l n) (d.peers_wr f p v i)

theorem total_newSession (last : Nat) : Total Always Always (newSession last) :=
  total_bind (total_always_freeValue _) fun _ => total_pure _

/-- HELLO carries what has been applied. -/
theorem run_sendHello {n kind v : Nat} {i : Image} {t t' : Tx} (h : appliedFrom n i t = .ok v t') :
    sendHello n kind i t = .ok () (ran (sendControl n kind (toBytes 16 (2 ^ 64 * v))) i t') := by
  simp only [sendHello, run_bind, h, chain_ok]
  exact runs_ran ((total_sendControl ..).ends ..)

/-- A port in a state other than UP does not run. -/
theorem Dev.portRuns_of_down {d : Dev} {p : Nat} (h : d.rd F.txpState_state p = pDOWN) : d.portRuns p = false := by
  simp [Dev.portRuns, h, pDOWN, pUP]

/-- Settles O37: each command and timer of a session does what it names, and a node that nothing waits for is lost whole. -/
theorem sessions : Obligations.Sessions := by
  unfold Obligations.Sessions
  refine ⟨fun s n a ent t => ?_, fun s n p t t' => ?_⟩
  · intro shown st x
    refine ⟨?_, ?_⟩
    · intro w hr he
      have entry : peerEntry n.toNat s.image ⟨shown 1, []⟩ = .ok ent t := he
      simp only [shown] at entry
      refine ⟨fun hb hs => ?_, fun hb => ?_⟩
      · intro d
        refine transact_reaches hr ?_
        simp only [st] at hs
        simp [peerCommand, entry, hb, hs, modPeer, d]
        rfl
      · refine transact_reaches hr ((?_ : _ = _).trans
          (runs_ran ((total_bind (RegAcc.total_ignore w) fun _ => total_always_modDev _).ends _ _)))
        simp [peerCommand, entry, hb]
        rfl
    · intro w hr he hb hu d
      have entry : peerEntry n.toNat s.image ⟨shown 2, []⟩ = .ok ent t := he
      refine transact_reaches hr ?_
      simp only [shown] at entry
      simp only [st] at hu
      simp [peerCommand, entry, hb, hu, detach, modPeer, d, Dev.syncPeer_syncPeer]
      rfl
  · intro x et
    refine ⟨fun v hc hp => ⟨fun hx ht ha => ?_, fun hx ha => ?_⟩, fun hs ht => ⟨fun hl => ?_, fun hf => ?_⟩,
      fun u hd hp hu hst => ⟨fun hl => ?_, fun e he hf => ?_⟩, fun u hd hst hu he => ?_,
      fun hst hend => ⟨fun hp hc hl => ?_, fun hf => ?_⟩⟩
    · simp only [x, et] at hc hp hx ht ha
      refine transact_runs (Eq.trans ?_ (run_sendHello ha))
      simp [hc, hp, hx, ht, modPeer]
    · simp only [x, et] at hc hp hx ha
      obtain ⟨k, u, session, -⟩ := (total_newSession (s.dev.peer n.toNat).lastSession).out s.image s.start True.intro
      simp only [ran_bind session, modPeer] at ha
      refine transact_runs (Eq.trans ?_ (run_sendHello ha))
      simp [hc, hp, hx, modPeer, session]
      rfl
    · unfold Runs at hl
      refine transact_runs (Eq.trans ?_ hl)
      simp [run_sessionOf (t := s.start) hs, ht, x, et]
    · refine transact_after (?_ : _ = _) ((total_losePeer ..).ends_at hf)
      simp [run_sessionOf (t := s.start) hs, ht, x, et]
      rfl
    · unfold Runs at hl
      refine transact_runs (Eq.trans ?_ hl)
      simp [hd, hp, show _ ≤ s.dev.time.et from hu, hst]
    · obtain ⟨⟨⟩, v, lost, -⟩ := (total_losePeer e.1 0).out s.image s.start hf
      refine transact_after (Eq.trans (b := .ok () v) ?_ lost.symm) ⟨v, lost⟩
      simp [hd, hp, show _ ≤ s.dev.time.et from hu, hst, losePort, he, each, lost]
    · have enter := total_setPortState_empty p.val
        (if s.dev.rd F.txpModule_present p.val = 1 then pTRAINING else pNO_MODULE)
      obtain ⟨⟨⟩, v, entered, none'⟩ := enter.out s.image s.start he
      refine transact_after (Eq.trans (b := .ok () v) ?_ entered.symm) ⟨v, entered⟩
      simp [hd, Dev.portRuns_of_down hst, hst, show _ ≤ s.dev.time.et from hu, entered, losePort, none', each]
    · simp only [x, et] at hst hend hp
      have sent : sendControl n.toNat 6 [0#8] s.image s.start = .ok () t := hc
      have lost : losePeer n.toNat 5 s.image t = .ok () t' := hl
      refine transact_runs (show _ = _ from ?_)
      simp [hst, hend, hp, sent, lost]
    · have lost : Total (·.lossFree n.toNat) Always (do
          if s.dev.portRuns x.port then sendControl n.toNat 0x06 [0]
          losePeer n.toNat 5
          raise (pg bTXP 8) 0) :=
        have rest : Total (·.lossFree n.toNat) Always (losePeer n.toNat 5 >>= fun _ => raise (pg bTXP 8) 0) :=
          total_bind (total_losePeer ..) fun _ => total_always_modDev _
        total_ite (total_bind ((ofLists_lossFree _).total_sendControl ..) fun _ => rest) rest
      refine transact_after (?_ : _ = _) (lost.ends_at hf)
      simp only [x, et] at hst hend
      simp [hst, hend, x]
      rfl

end Sys2Proof.Machine
end

section
/-! A reset begins: with nothing left of the work, phases 2 and 3 have nothing to wait for. -/

namespace Sys2Proof.Machine

variable {P : Dev → Prop} {d : Dev} {s : State} {t : Tx}

/-- What the machine tells, the rest may use. -/
theorem total_rest_dev {β : Type} {Q : Dev → Prop} {f : Dev → M β} (h : ∀ d, d.atRest → Total Dev.atRest Q (f d)) :
    Total Dev.atRest Q (dev >>= f) :=
  total_dev_bind fun d hd => (h d hd).from hd

/-- A machine at rest has no descriptor to change. -/
theorem total_atRest_modDesc (q n : Nat) (f : Desc → Desc) : Total Dev.atRest Dev.atRest (modDesc q n f) :=
  total_rest_dev fun d hd => by
    rw [Dev.desc, hd.1]
    exact total_pure ()

/-- A machine at rest goes through its descriptors at once. -/
theorem total_atRest_descs {f : Desc → M Unit} (p : Desc → Bool) :
    Total Dev.atRest Dev.atRest (do each ((← dev).descs.filter p) f) :=
  total_rest_dev fun d hd => by
    rw [hd.1]
    exact total_pure ()

theorem total_atRest_usersLost (us : List (Nat × Nat)) : Total Dev.atRest Dev.atRest (usersLost us) :=
  total_each fun _ => total_atRest_modDesc ..

theorem total_atRest_spillAll (k : Nat) (us : List Delta) : Total Dev.atRest Dev.atRest (spillAll k us) := by
  have hP := ofLists_atRest
  refine total_bind (hP.total fun _ => rfl) fun _ => total_bind (total_each fun u => total_atRest_usersLost _) fun _ =>
    total_bind (total_tried ?_ ?_) fun _ => total_pure ()
  · refine keeps_bind keeps_dev fun d => keeps_bind (keeps_caught (hP.spillOwed ..)) fun r => ?_
    cases r with
    | ok _ => exact keeps_pure ()
    | error _ => exact keeps_skip
  · refine unfailing_bind unfailing_dev fun d => unfailing_bind (unfailing_caught _) fun r => ?_
    cases r with
    | ok _ => exact unfailing_pure ()
    | error _ => exact unfailing_skip

/-- At rest no item waits in a reorder store, whatever is done to each. -/
theorem total_atRest_reorder (f : RoItem → RoItem) :
    Total Dev.atRest Dev.atRest (modDev fun d => { d with reorder := d.reorder.map f }) := by
  refine total_modDev fun d hd => ?_
  obtain ⟨hx, hb, hr, ho, hm⟩ := hd
  exact ⟨hx, hb, by rw [hr]; rfl, ho, hm⟩

theorem total_atRest_releaseItems : Total Dev.atRest Dev.atRest releaseItems := by
  refine total_bind (total_modDev fun d hd => ?_) fun _ => total_each fun p =>
    total_repeatM (total_bind total_dev fun d => total_ite ?_ (total_pure _)) _
  · obtain ⟨hx, hb, hr, ho, hm⟩ := hd
    exact ⟨hx, hb, by rw [hr]; rfl, ho, hm⟩
  · split
    · exact total_bind (total_atRest_reorder _) fun _ => total_bind (ofLists_atRest.total_bump ..) fun _ => total_pure _
    · exact total_pure _

/-- At rest the loss of a node has nothing to wait for, and leaves the machine at rest. -/
theorem total_atRest_losePeer (n reason : Nat) : Total Dev.atRest Dev.atRest (losePeer n reason) := by
  have hP := ofLists_atRest
  refine total_bind total_dev fun before => total_ite (total_pure ()) ?_
  refine total_bind (hP.total_bump ..) fun _ => total_bind (hP.total_raise ..) fun _ =>
    total_bind (hP.total_record ..) fun _ => total_bind (hP.total_closeTear ..) fun _ =>
    total_bind total_dev fun _ => total_bind (hP.total fun _ => rfl) fun _ => total_rest_dev fun d hd => ?_
  obtain ⟨-, -, -, none', -⟩ := id hd
  rw [none']
  refine total_bind (total_modDev fun e he => ?_) fun _ => total_bind (total_atRest_spillAll ..) fun _ =>
    total_bind (total_pure ()) fun _ => total_bind (total_pure ()) fun _ => total_bind (total_atRest_descs _) fun _ =>
    total_bind (total_atRest_descs _) fun _ => total_bind (hP.total fun _ => rfl) fun _ =>
    total_bind total_atRest_releaseItems fun _ => total_bind (total_bind total_dev fun _ => hP.total_wr ..) fun _ =>
    hP.total_settlePort _
  obtain ⟨hx, hb, hr, ho, hm⟩ := he
  exact ⟨hx, hb, hr, by rw [ho]; rfl, hm⟩

/-! ### Quiesce and write-back (R482, R483) -/

/-- What is tried and cannot go on leaves the machine as it was. -/
theorem total_tried_skips {m : M Unit} (h : ∀ i t, P t.dev → ∃ u, m i t = .error .skip u) : Total P P (tried m) := by
  refine ⟨fun i t ht => ?_⟩
  obtain ⟨u, e⟩ := h i t ht
  exact ⟨false, t, by simp only [tried, run_bind, run_get, chain_ok, run_tryCatch, e]; rfl, ht⟩

theorem total_atRest_drainPass : Total Dev.atRest Dev.atRest drainPass := by
  refine total_bind (total_bind total_dev fun _ => total_pure _) fun before =>
    total_bind (total_each_mem fun r hr => total_rest_dev fun d hd => ?_) fun _ =>
    total_bind (total_bind total_dev fun _ => total_pure _) fun _ => total_pure _
  obtain ⟨-, -, -, -, none'⟩ := id hd
  rw [none' r (List.mem_range.mp hr)]
  exact total_pure ()

theorem total_atRest_applyPass : Total Dev.atRest Dev.atRest applyPass := by
  refine total_bind (total_collect fun r => total_tried_skips fun i t ht => ?_) fun _ => total_pure _
  obtain ⟨-, -, none', -, -⟩ := id ht
  simp only [applyItem, run_bind, run_dev, chain_ok, none']
  cases t.dev.stageRuns r with
  | false => exact ⟨_, rfl⟩
  | true => exact ⟨_, rfl⟩

/-- What goes through the descriptors has nothing to do at rest. -/
theorem total_rest_descs {β : Type} {Q : Dev → Prop} {f : List Desc → M Unit} {k : Unit → M β} (hf : f [] = pure ())
    (h : Total Dev.atRest Q (k ())) : Total Dev.atRest Q (dev >>= fun d => f d.descs >>= k) :=
  total_rest_dev fun d hd => by
    rw [hd.1, hf]
    exact total_bind (total_pure ()) fun _ => h

theorem total_rest_batches {β : Type} {Q : Dev → Prop} {k : Unit → M β} (h : Total Dev.atRest Q (k ())) :
    Total Dev.atRest Q (dev >>= fun d => each d.batches closeBatch >>= k) :=
  total_rest_dev fun d hd => by
    rw [hd.2.1]
    exact total_bind (total_pure ()) fun _ => h

theorem total_atRest_retireAll : Total Dev.atRest Dev.atRest retireAll :=
  total_rest_dev fun d hd => by
    rw [hd.1]
    exact total_pure ()

/-- At rest phase 2 loses the peers, and has nothing else to end. -/
theorem total_atRest_quiesce : Total Dev.atRest Dev.atRest quiesce := by
  refine total_bind (total_atRest_descs _) fun _ => total_rest_descs (f := (stopAll · sCANCELLED rNONE)) rfl <|
    total_rest_batches <| total_bind total_dev fun _ => total_bind (total_each fun n => total_atRest_losePeer n 5) fun _ =>
    total_bind (total_rest_dev fun d hd => ?_) fun _ => total_bind (total_repeatM total_atRest_drainPass _) fun _ =>
    total_bind (total_atRest_reorder _) fun _ => total_bind (total_repeatM total_atRest_applyPass _) fun _ =>
    total_rest_batches <| total_bind total_dev fun _ => total_bind
      (total_each fun _ => total_ite (total_pure ()) (total_atRest_spillAll ..)) fun _ =>
    total_bind total_atRest_retireAll fun _ => total_bind total_atRest_retireAll fun _ => total_bind total_dev fun _ =>
    total_pure _
  rw [hd.1]
  exact total_pure ()

theorem total_writeAll : Total Always Always writeAll :=
  total_bind total_dev fun _ => total_bind (total_each fun n => (steady_writeBack n).total) fun _ =>
    total_bind total_dev fun _ => total_pure _

theorem total_resetSleep : Total Always Always resetSleep := by
  refine total_change <| total_each fun s => total_bind (total_always_rd ..) fun st => ?_
  have port : Total Always Always (do if (← rd F.ctpState_state s) = 2 then wr F.ctpState_state s 3) :=
    total_bind (total_always_rd ..) fun _ => total_ite (total_always_modDev _) (total_pure ())
  exact total_ite (total_change port) port

theorem total_advanceReset : Total Dev.atRest Always advanceReset :=
  total_bind (ofLists_atRest.total fun _ => rfl) fun _ => total_bind total_atRest_quiesce fun _ =>
    Total.anywhere <| total_bind total_writeAll fun _ => total_ite total_resetSleep (total_always_modDev _)

/-- A machine at rest begins a reset, whatever its kind and cause. -/
theorem total_beginReset (kind cause : Nat) (next : Option Nat) : Total Dev.atRest Always (beginReset kind cause next) := by
  have hP := ofLists_atRest
  refine total_bind total_now fun et => total_bind (hP.total_record ..) fun _ =>
    total_bind (total_bind (hP.total_wr ..) fun _ => hP.total_wr ..) fun _ =>
    total_branch ?_ fun rest => total_bind (hP.total_bump ..) fun _ => rest
  exact total_bind (hP.total_wr ..) fun _ => total_bind (hP.total_wr ..) fun _ =>
    total_bind (hP.total fun d => ite_keeps (fun e : Dev => e.syncRecorder.work = d.work) rfl rfl) fun _ =>
    total_bind (hP.total fun _ => rfl) fun _ => total_bind total_dev fun _ =>
    total_bind (total_each fun n => total_bind total_dev fun _ => total_bind total_dev fun _ =>
      total_ite (hP.total_sendControl ..) (total_pure ())) fun _ => total_advanceReset

theorem total_readyWrite (w : RegAcc) : Total Always Always (readyWrite w) := by
  refine total_bind total_dev fun d => total_ite (total_pure ()) <| total_ite (RegAcc.total_ignore w) <|
    total_change <| total_change <| total_change <|
    total_bind (total_each fun b => total_bind (total_always_rd ..) fun _ => total_ite (total_always_modDev _) (total_pure ()))
      fun _ => total_bind (total_each fun k => ?_) fun _ => total_bind (total_each fun page => ?_) fun _ =>
        total_always_modDev _
  · exact total_bind (total_always_rd ..) fun _ => total_ite (total_change (total_always_modDev _)) (total_pure ())
  · exact total_bind (total_always_rd ..) fun _ => total_ite (total_always_modDev _) (total_pure ())

/-- What a core's heartbeat shows is not its state. -/
theorem Dev.rd_ccxState_heartbeat (d : Dev) (k : Fin 8) (v : Nat) :
    (d.wr F.ccxHeartbeat_value k.val v).rd F.ccxState_state k.val = d.rd F.ccxState_state k.val := by
  have apart : ∀ k : Fin 8, F.ccxHeartbeat_value.reg.info.key k.val 0 ≠ F.ccxState_state.reg.info.key k.val 0 := by decide
  exact Dev.rd_wr_ne _ _ (apart k)

/-- The state of a bridge tells neither whether rung 3 is automatic nor how far a reset is. -/
theorem Dev.rd_autoReset_bridge (d : Dev) (die : Fin 2) (v : Nat) :
    (d.wr F.brgState_state die.val v).rd F.pwrCfg_auto_reset 0 = d.rd F.pwrCfg_auto_reset 0 := by
  have apart : ∀ k : Fin 2, F.brgState_state.reg.info.key k.val 0 ≠ F.pwrCfg_auto_reset.reg.info.key 0 0 := by decide
  exact Dev.rd_wr_ne _ _ (apart die)

/-- Settles O53: each event of the supplies, the cores and the bridges does what it names. -/
theorem powerEvents : Obligations.PowerEvents := by
  unfold Obligations.PowerEvents
  intro s k a t core failed
  refine ⟨?_, fun hr => ⟨fun h => ?_, ?_⟩, ?_, fun hc => ?_, fun v hr hc hv => ?_, ?_⟩
  · intro die mv avs h1 h2
    refine transact_put ?_
    simp only [avs] at h1 h2
    simp [-Fin.val_eq_zero_iff, h1, h2, modPow]
  · refine (transact_reaches_put (d := s.dev) hr ?_ : _ = Host.Outcome.next s)
    simp [readyWrite, h]
    rfl
  · exact transact_reaches_after hr rfl (total_readyWrite _)
  · intro limit hc hl ht
    refine transact_put ?_
    simp only [core, limit] at hc hl ht
    simp [hc, hl, ht, coreFault, failed]
  · refine transact_put ?_
    simp only [core] at hc
    simp [hc, coreFault, failed]
  · refine transact_reaches_put hr ?_
    simp only [core] at hc
    simp [heartbeatWrite, hv, modPow, Dev.rd_ccxState_heartbeat]
    intro h
    have low : s.dev.rd F.ccxState_state k.val ≤ 1 := h
    omega
  · intro die used hs
    refine ⟨fun hu => ?_, fun hu => ?_⟩
    · refine transact_put ?_
      simp only [used] at hu
      simp [hs, hu, used]
    · intro d
      simp only [used] at hu
      have failing {m : M Unit} (h : rungThree s.image ⟨d, []⟩ = m s.image ⟨d, []⟩) (hm : ∃ u, m s.image ⟨d, []⟩ = .ok () u) :
          exec (.bridgeLaneFail die) s = .next (s.after d m) := by
        refine transact_after (Eq.trans ?_ h) hm
        simp [hs, Nat.not_lt.mpr hu, d]
      have auto : d.rd F.pwrCfg_auto_reset 0 = s.dev.rd F.pwrCfg_auto_reset 0 := Dev.rd_autoReset_bridge ..
      have phase : d.pow = s.dev.pow := Dev.pow_wr ..
      refine ⟨fun h => ?_, fun h => ?_, fun ha hp hrest => ?_⟩
      · exact (failing rfl ⟨t, h⟩).trans (by rw [State.after, ran_runs h])
      · have none' : ¬(d.rd F.pwrCfg_auto_reset 0 = 1 ∧ d.pow.phase = 0) := by
          rw [auto, phase]
          exact fun hc => h.elim (· hc.1) (· hc.2)
        refine (failing (m := pure ()) ?_ ⟨_, rfl⟩).trans (congrArg _ (settle_put s d))
        simp only [rungThree, run_bind, run_rd, run_dev, chain_ok, none', if_false]
      · refine failing ?_ ((total_beginReset ..).ends_at (ofLists_atRest s.dev d rfl hrest))
        simp [rungThree, auto, phase, ha, hp]

end Sys2Proof.Machine
end

section
/-! Resets: an engine reset begins or is ignored, a cold reset runs, and power that is lost leaves E4. -/

namespace Sys2Proof.Machine

variable {d : Dev} {s : State} {t : Tx}

theorem total_resetWipe (kind : Nat) : Total Always Always (resetWipe kind) :=
  total_bind total_now fun _ => total_change <| total_change <| total_change <| total_change <| total_change <|
    total_always_modDev _

/-- A cold reset runs to its end, or to the wipe that a life-cycle change has still to do. -/
theorem total_coldReset (cause : Nat) : Total Always Always (coldReset cause) := by
  refine total_bind ?_ fun _ => total_change <| total_bind (total_change (total_always_modDev _)) fun _ => ?_
  · exact ⟨fun _ _ _ => ⟨_, _, rfl, True.intro⟩⟩
  have rest : Total Always Always (do
      if (← dev).pow.lcOld.isSome then
        wr F.secLcState_pending 0 1
        wr F.pwrState_busy 0 1
        modPow fun p => { p with phase := 5 }
      else resetWipe rkCOLD) :=
    total_bind total_dev fun _ => total_ite (total_change (total_change (total_always_modDev _))) (total_resetWipe _)
  exact total_when (total_always_modDev _) rest

@[simp] theorem run_pwrAcc (bitSet : Nat) (a : Agent) (i : Image) (t : Tx) :
    pwrAcc bitSet a i t = .ok (regAcc .pwrCtl 0 0 (t.dev.rd F.pwrCtl_req 0 + bitSet) a) t := rfl

section
variable {a : Agent} {bitSet : Nat} {m : RegAcc → M Unit} {k : M Unit}

/-- A request that reaches PWR_CTL comes to its meaning. -/
theorem transact_pwrCtl (hr : (regAcc .pwrCtl 0 0 (s.dev.rd F.pwrCtl_req 0 + bitSet) a).reaches s.dev = true)
    (h : m (regAcc .pwrCtl 0 0 (s.dev.rd F.pwrCtl_req 0 + bitSet) a) s.image s.start = k s.image ⟨d, []⟩)
    (hk : ∃ u, k s.image ⟨d, []⟩ = .ok () u) :
    transact (do let w ← pwrAcc bitSet a; w.run (m w)) s = .next (s.after d k) := by
  refine transact_after (Eq.trans ?_ ((RegAcc.run_reaches (t := s.start) hr _).trans h)) hk
  simp

/-- What only the secure world asks is done while no reset runs. -/
theorem run_secureOnly_taken {w : RegAcc} {i : Image} (ha : worldOf a = 1) (hp : t.dev.pow.phase = 0) (hm : M Unit) :
    secureOnly a w (do if (← dev).pow.phase ≠ 0 then w.ignore else hm) i t = hm i t := by
  simp [secureOnly, ha, hp]

/-- Of another world, or while a reset runs, it is ignored. -/
theorem run_secureOnly_ignored {w : RegAcc} {i : Image} (h : worldOf a = 0 ∨ t.dev.pow.phase ≠ 0) (hm : M Unit) :
    secureOnly a w (do if (← dev).pow.phase ≠ 0 then w.ignore else hm) i t = w.ignore i t := by
  by_cases hw : worldOf a = 1
  · have hp := h.resolve_left fun h => by omega
    simp [secureOnly, hw, hp]
  · simp [secureOnly, hw]

end

/-- Settles O52: each reset begins, runs or is ignored as its cause and the machine say. -/
theorem resets : Obligations.Resets := by
  unfold Obligations.Resets
  intro s a t st p w rebooted begun
  have asked {m : M Unit} (hr : (w 0x100).reaches s.dev = true)
      (h : engRequest (w 0x100) s.image s.start = m s.image ⟨s.dev, []⟩) (hm : ∃ u, m s.image ⟨s.dev, []⟩ = .ok () u) :
      exec (.engReset (.request a)) s = .next (s.after s.dev m) := transact_pwrCtl hr h hm
  have told {d : Dev} {m : M Unit} (hr : (w 0x200).reaches s.dev = true)
      (h : coldRequest (w 0x200) s.image s.start = m s.image ⟨d, []⟩) (hm : ∃ u, m s.image ⟨d, []⟩ = .ok () u) :
      exec (.coldReset (.request a)) s = .next (s.after d m) := transact_pwrCtl hr h hm
  refine ⟨fun hr => ⟨fun ha hp => ?_, fun hn => ?_⟩,
    fun ha hp hg hs => ?_, fun hp ht => ?_, fun hr => ⟨fun ha hp => ?_, fun hn => ?_⟩,
    fun hg hs => ?_, fun hg => ⟨fun hl => ?_, ?_⟩, fun hg => ⟨fun hs => ?_, ?_⟩⟩
  · have h : engRequest (w 0x100) s.image s.start = begun rcREQUEST s.image ⟨s.dev, []⟩ :=
      run_secureOnly_taken (t := s.start) ha hp _
    exact ⟨fun ht => (asked hr h ⟨t, ht⟩).trans (congrArg (fun u => Host.Outcome.next (settle s u)) (ran_runs ht)),
      fun hrest => asked hr h ((total_beginReset ..).ends_at hrest)⟩
  · exact asked hr (run_secureOnly_ignored hn _) ((RegAcc.total_ignore _).ends _ _)
  · simp only [st, p] at hp hg hs
    have begins : exec (.engReset .rung3) s = transact (begun rcFATAL) s := by
      refine transact_congr ?_
      simp [rungThree, ha, hp, hg, hs, begun]
    exact ⟨fun h => begins.trans (transact_runs h), fun hrest => begins.trans
      (transact_after rfl ((total_beginReset ..).ends_at hrest))⟩
  · simp only [p] at hp ht
    refine transact_after ?_ (total_resetSleep.ends _ _)
    simp [hp, ht]
    rfl
  · refine told hr ((run_secureOnly_taken (t := s.start) ha hp _).trans ?_) ((total_coldReset _).ends _ _)
    simp [rebooted]
  · exact told hr (run_secureOnly_ignored hn _) ((RegAcc.total_ignore _).ends _ _)
  · simp only [st, p] at hg hs
    refine transact_after ?_ ((total_coldReset _).ends _ _)
    simp [hg, hs, rebooted]
  · simp only [st, p] at hg hl
    refine transact_after ?_ ((total_bind (total_coldReset _) fun _ => total_always_modDev _).ends _ _)
    simp [hg, hl, rebooted]
    rfl
  · intro hl e
    simp only [st, p] at hg hl
    refine transact_after ?_ ((total_bind (total_coldReset _) fun _ => total_change (total_always_modDev _)).ends _ _)
    simp [hg, hl, rebooted, e]
  · simp only [st, p] at hg hs
    refine transact_put ?_
    simp [hg, hs, modPow, p]
  · intro hs d
    simp only [st, p] at hg hs
    refine transact_put ?_
    simp [hg, hs, modPow, p, d]

end Sys2Proof.Machine
end

section
/-! Memory regions: enables, drains and wipes. -/

namespace Sys2Proof.Machine

variable {d : Dev} {s : State} {t : Tx}

theorem total_setRegion (i st : Nat) : Total Always Always (setRegion i st) := (steady_setRegion i st).total

theorem total_beginWipes : Total Always Always beginWipes :=
  total_bind total_dev fun _ => total_ite (total_bind total_dev fun _ => total_each fun _ =>
    total_change <| total_change <| total_change <| total_bind total_now fun _ => total_change <| total_always_modDev _)
    (total_pure ())

theorem total_refuseRegion (i : Nat) (w : RegAcc) : Total Always Always (do setRegion i 4; w.refuse) :=
  total_bind (total_setRegion ..) fun _ => by
    unfold RegAcc.refuse RegAcc.capture
    exact total_always_modDev _

/-- ENABLE of a region and its state, written together. -/
theorem total_enableAs (i on st : Nat) :
    Total Always Always (do wrMr F.secMrBase_enable i on; setRegion i st) :=
  total_bind (by unfold wrMr; exact total_always_modDev _) fun _ => total_setRegion ..

/-! ### Tokens and aborts (R491) -/

/-- What the slots show of their activities decides whether a wipe aborts one. -/
theorem Dev.noneAborts_congr {e : Dev} (h : ∀ n, e.word .mntSlot 0 n = d.word .mntSlot 0 n) (hd : d.noneAborts) :
    e.noneAborts := by
  intro n hn hs
  have state : e.rd F.mntSlot_state 0 n = d.rd F.mntSlot_state 0 n := congrArg (bits · _ _) (h n)
  have activity : e.rd F.mntSlot_activity 0 n = d.rd F.mntSlot_activity 0 n := congrArg (bits · _ _) (h n)
  rw [activity]
  exact hd n hn (state ▸ hs)

/-- A change of one register beside the slots leaves what they show. -/
theorem Dev.noneAborts_wr {f : Fld} {p v i : Nat} (h : ∀ n, f.reg.info.key p i ≠ RegName.mntSlot.info.key 0 n)
    (hd : d.noneAborts) : (d.wr f p v i).noneAborts := Dev.noneAborts_congr (fun n => Dev.word_wr_ne d v (h n)) hd

theorem total_noneAborts_bump {f : Fld} {p n : Nat} (h : ∀ k, f.reg.info.key p 0 ≠ RegName.mntSlot.info.key 0 k) :
    Total (·.noneAborts) (·.noneAborts) (bump f p n) :=
  total_modDev fun _ hd => ite_keeps Dev.noneAborts hd (Dev.noneAborts_wr h hd)

theorem total_noneAborts_wrMr {f : Fld} {i v : Nat} (hi : i < 256) (h : f.reg = .secMrBase ∨ f.reg = .secMrLimit) :
    Total (·.noneAborts) (·.noneAborts) (wrMr f i v) := by
  refine total_modDev fun _ hd => Dev.noneAborts_wr (fun n => ?_) hd
  rcases h with h | h <;> simp only [h, RegInfo.key, RegName.info, mrPage] <;> omega

theorem total_noneAborts_setRegion {i : Nat} (hi : i < 256) (st : Nat) :
    Total (·.noneAborts) (·.noneAborts) (setRegion i st) :=
  total_bind (total_noneAborts_wrMr hi (.inr rfl)) fun _ => total_modDev fun _ hd => hd

/-- The token of a wipe aborts nothing itself. -/
theorem total_takeToken (target ch q : Nat) : Total (·.noneAborts) (·.noneAborts) (takeToken 11 target ch q) := by
  have counted {f : Fld} (h : f.reg = .mntRefused ∨ f.reg = .mntGrants) (n : Nat) :
      Total (·.noneAborts) (·.noneAborts) (bump f 0 n) := by
    refine total_noneAborts_bump fun k => ?_
    rcases h with h | h <;> simp only [h, RegInfo.key, RegName.info] <;> omega
  refine total_bind total_dev fun d => total_ite (total_bind (counted (.inl rfl) _) fun _ => total_pure _) ?_
  split
  · exact total_pure _
  · rename_i n _
    refine total_bind (counted (.inr rfl) _) fun _ => total_bind (total_modDev fun e he => ?_) fun _ => total_pure _
    intro k hk hs
    by_cases hn : k = n
    · subst hn
      rw [Dev.rd, Dev.word_setWord_same, bits_mod _ _ _ _ (by decide)]
      simp only [bits]
      omega
    · have apart : RegName.mntSlot.info.key 0 n ≠ RegName.mntSlot.info.key 0 k := by
        simp only [RegInfo.key, RegName.info]
        omega
      rw [Dev.rd, Dev.word_setWord_ne _ _ apart] at hs ⊢
      exact he k hk hs

/-- Where no activity has to be aborted, a wipe begins at once. -/
theorem total_startWipe {i : Nat} (hi : i < 256) (n : Nat) : Total (·.noneAborts) Always (startWipe i n) := by
  refine total_bind (total_modDev fun _ h => h) fun _ => total_bind (total_noneAborts_setRegion hi _) fun _ =>
    total_dev_bind fun d hd => ?_
  have none' : ((List.range 32).filter fun n => d.rd F.mntSlot_state 0 n == 1 && d.rd F.mntSlot_activity 0 n != 11) = [] :=
    List.filter_eq_nil_iff.mpr fun n hn => by
      simpa using hd n (List.mem_range.mp hn)
  rw [none']
  exact total_bind (total_pure ()) fun _ => total_beginWipes.anywhere

/-- A region of the secure world that takes its token is enabled. -/
theorem total_enableRegion {i : Nat} (hi : i < 256) (w : RegAcc) : Total (·.noneAborts) Always (enableRegion i w) := by
  have refuse : Total (·.noneAborts) Always (do setRegion i 4; w.refuse) := (total_refuseRegion i w).anywhere
  refine total_bind total_dev fun d => total_ite refuse <| total_ite
    (total_bind (total_noneAborts_wrMr hi (.inl rfl)) fun _ => (total_setRegion ..).anywhere) <|
    total_bind (total_takeToken ..) fun r => ?_
  cases r with
  | none => exact refuse
  | some n => exact total_bind (total_noneAborts_wrMr hi (.inl rfl)) fun _ => total_startWipe hi n

section
variable {w : RegAcc} {target confirm : Nat} {i : Image}

/-- A transition that the life cycle has, confirmed from the secure world, begins a reset. -/
theorem run_lcWrite_begins (ha : worldOf w.agent = 1) (hp : t.dev.pow.phase = 0)
    (hl : lcTransition t.dev.pow.lifeCycle target = true) :
    lcWrite target 0x5A w i t = beginReset rkLC rcLIFE_CYCLE (some target) i t := by
  simp [lcWrite, ha, hp, hl]

/-- Any other is ignored. -/
theorem run_lcWrite_ignored (h : ¬(worldOf w.agent = 1 ∧ t.dev.pow.phase = 0 ∧
    lcTransition t.dev.pow.lifeCycle target = true) ∨ confirm ≠ 0x5A) : lcWrite target confirm w i t = w.ignore i t := by
  simp only [lcWrite, run_bind, run_dev, chain_ok]
  split
  · rfl
  · rename_i open'
    refine congrArg (fun m : M Unit => m i t) (if_neg fun hc => ?_)
    obtain ⟨ha, hp⟩ := not_or.mp open'
    exact h.elim (fun h => h ⟨not_not.mp ha, not_not.mp hp, hc.2⟩) (fun h => h hc.1)

end

/-- Settles O47: each region command and life-cycle request does what the region's or the machine's state lets it. -/
theorem regionCommands : Obligations.RegionCommands := by
  unfold Obligations.RegionCommands
  refine ⟨fun s i v a t => ?_, fun s i a => ?_, fun s i hs hidle => ⟨fun hw => ?_, fun n t hw ht hn => ?_⟩,
    fun s i w hp hw => ?_, fun s target a t => ?_⟩
  · intro v' w st hr
    refine ⟨fun h => transact_reaches hr h, fun hst => ?_, fun hst => ?_⟩
    · refine transact_reaches_after hr ?_ (RegAcc.total_ignore w)
      simp only [st] at hst
      simp [mrWrite, hst]
      rfl
    · intro fields d refused
      have enabled : bit v' 0 = true := by
        have low : bits v' 0 1 = 1 := bits_setBits_same v.toNat 0 1 1
        simpa [bit, bits] using low
      have run : mrWrite i.val v' w s.image s.start = enableRegion i.val w s.image ⟨d, []⟩ := by
        simp only [st] at hst
        have off : ¬(s.dev.mr F.secMrLimit_state i.val = 1 ∨ s.dev.mr F.secMrLimit_state i.val = 3) := by omega
        have on : s.dev.mr F.secMrLimit_state i.val ≠ 2 := by omega
        simp only [mrWrite, run_bind, run_dev, chain_ok, start_dev, off, on, if_false, enabled, if_true]
        rfl
      have enable {e : Dev} {m : M Unit} (h : enableRegion i.val w s.image ⟨d, []⟩ = m s.image ⟨e, []⟩)
          (hm : Total (· = e) Always m) : exec (.mrEnable i v a) s = .next (s.after e m) :=
        transact_after ((RegAcc.run_reaches (t := s.start) hr _).trans (run.trans h)) (hm.ends_at rfl)
      refine ⟨fun hm => ?_, fun hm hz => ?_, fun hm hz hf => ?_, fun hm hz hf hn => ?_⟩
      · exact enable (by simp [enableRegion, hm, refused]) (total_refuseRegion ..).anywhere
      · exact enable (by simp [enableRegion, hm, hz]) (total_enableAs ..).anywhere
      · refine enable ?_ (total_refuseRegion ..).anywhere
        simp [enableRegion, hm, hz, run_takeToken_refused (t := ⟨d, []⟩) hf, refused]
      · exact enable rfl ((total_enableRegion i.isLt w).from hn)
  · intro v' w st hr
    have disable {d : Dev} {m : M Unit} (h : mrWrite i.val v' w s.image s.start = m s.image ⟨d, []⟩)
        (hm : Total Always Always m) : exec (.mrDisable i a) s = .next (s.after d m) := by
      refine transact_after (Eq.trans ?_ ((RegAcc.run_reaches (t := s.start) hr _).trans h)) (hm.ends _ _)
      simp [v', w]
    refine ⟨fun hst => ?_, fun hst => ?_⟩
    · refine disable ?_ (total_enableAs ..)
      simp only [st] at hst
      have off : bit v' 0 = false := by
        have low : bits v' 0 1 = 0 := bits_setBits_same _ 0 1 0
        simpa [bit, bits] using low
      have kept {f : Fld} (hf : f.reg = .secMrBase) (h : 1 ≤ f.lo) : bits v' f.lo f.len = s.dev.mr f i.val := by
        rw [Dev.mr, Dev.rd, hf]
        exact bits_setBits_other _ 0 1 0 _ _ (.inl h)
      have base := kept (f := F.secMrBase_base) rfl (by decide)
      have world := kept (f := F.secMrBase_world) rfl (by decide)
      have reads := kept (f := F.secMrBase_rd) rfl (by decide)
      have writes := kept (f := F.secMrBase_wr) rfl (by decide)
      have atomics := kept (f := F.secMrBase_at) rfl (by decide)
      simp [mrWrite, hst, off, base, world, reads, writes, atomics]
      rfl
    · refine disable ?_ (RegAcc.total_ignore w)
      simp only [st] at hst
      simp [mrWrite, hst]
      rfl
  · refine transact_after ?_ ((total_setRegion ..).ends _ _)
    simp [hs, hidle, hw]
    rfl
  · have took := (total_takeToken i.val 0 0).out s.image s.start hn
    unfold Runs at ht
    refine transact_runs ((?_ : _ = _).trans (runs_ran ((total_startWipe i.isLt n).ends_at ?_)))
    · simp [hs, hidle, hw, ht]
    · obtain ⟨r, u, e, hu⟩ := took
      obtain ⟨rfl, rfl⟩ : some n = r ∧ t = u := by simpa [ht] using e
      exact hu
  · obtain ⟨_, u, e, -⟩ := run_finishWipe i.val w s.image s.start
    refine transact_after ?_ ⟨u, e⟩
    simp [hp, hw]
    rfl
  · intro w begins reset
    have asked {confirm : BitVec 8} {m : M Unit} (hr : (w confirm).reaches s.dev = true)
        (h : lcWrite target.toNat confirm.toNat (w confirm) s.image s.start = m s.image s.start) :
        exec (.lcTransition target confirm a) s = transact m s :=
      transact_congr ((RegAcc.run_reaches (t := s.start) hr _).trans h)
    refine ⟨fun hr hb => ?_, fun confirm hr hb => ?_⟩
    · obtain ⟨ha, hp, hl⟩ := hb
      have begun : exec (.lcTransition target 0x5A a) s = transact reset s :=
        asked hr (run_lcWrite_begins (t := s.start) ha hp hl)
      exact ⟨fun h => begun.trans (transact_runs h), fun hrest => begun.trans
        (transact_after rfl ((total_beginReset ..).ends_at hrest))⟩
    · refine (asked hr (run_lcWrite_ignored (t := s.start) ?_)).trans
        (transact_after rfl ((RegAcc.total_ignore _).ends _ _))
      exact hb.imp_right fun h hc => h (BitVec.eq_of_toNat_eq hc)

end Sys2Proof.Machine
end

section
/-! The world of a page: the work of a block that nothing uses ends at once, and its registers return to their reset
values. -/

namespace Sys2Proof.Machine

variable {d e : Dev} {s : State} {t : Tx}

/-! ### What decides the users of a page -/

/-- Two machines with the same descriptors, nodes and clusters, whose maintenance slots show the same. -/
structure SameUsers (e d : Dev) : Prop where
  descs : e.descs = d.descs
  peers : e.peers = d.peers
  clusters : e.clusters = d.clusters
  slots : ∀ n, e.word .mntSlot 0 n = d.word .mntSlot 0 n

theorem SameUsers.refl (d : Dev) : SameUsers d d := ⟨rfl, rfl, rfl, fun _ => rfl⟩

theorem SameUsers.trans {f : Dev} (h : SameUsers f e) (g : SameUsers e d) : SameUsers f d :=
  ⟨h.descs.trans g.descs, h.peers.trans g.peers, h.clusters.trans g.clusters, fun n => (h.slots n).trans (g.slots n)⟩

theorem SameUsers.users (h : SameUsers e d) (page : Nat) : e.users page = d.users page := by
  have slot (f : Fld) (hf : f.reg = .mntSlot) (n : Nat) : e.rd f 0 n = d.rd f 0 n := by
    rw [Dev.rd, Dev.rd, hf, h.slots]
  have node (n : Nat) : e.peer n = d.peer n := congrArg (fun l => SMap.get Peer.none l n) h.peers
  have uses : e.uses page = d.uses page := by
    funext x
    simp only [Dev.uses, slot F.mntSlot_activity rfl, slot F.mntSlot_target rfl, node]
  rw [Dev.users, Dev.users, h.descs, uses]

theorem SameUsers.peersOn (h : SameUsers e d) (p : Nat) : e.peersOn p = d.peersOn p := by
  rw [Dev.peersOn, Dev.peersOn, h.peers]

theorem SameUsers.cl (h : SameUsers e d) (c : Nat) : e.cl c = d.cl c := by
  rw [Dev.cl, Dev.cl, h.clusters]

/-- The registers of the blocks before MNT are no slots. -/
theorem sameUsers_setWord {r : RegName} {p i v : Nat} (h : r.info.key p i < 22 * 256 * 4096) :
    SameUsers (d.setWord r p i v) d := by
  refine ⟨rfl, rfl, rfl, fun n => Dev.word_setWord_ne d v fun hk => ?_⟩
  rw [hk] at h
  simp only [RegInfo.key, RegName.info] at h
  omega

theorem sameUsers_wr {f : Fld} {p v i : Nat} (h : f.reg.info.key p i < 22 * 256 * 4096) : SameUsers (d.wr f p v i) d :=
  sameUsers_setWord h

theorem sameUsers_foldl {β : Type} {f : Dev → β → Dev} {l : List β} (h : ∀ b ∈ l, ∀ d, SameUsers (f d b) d) (d : Dev) :
    SameUsers (l.foldl f d) d := by
  induction l generalizing d with
  | nil => exact SameUsers.refl d
  | cons b l ih =>
    exact (ih (fun c hc => h c (List.mem_cons_of_mem b hc)) (f d b)).trans (h b List.mem_cons_self d)

theorem sameUsers_setBatcher {die : Nat} (hd : die < 2) (b : Batcher) : SameUsers (d.setBatcher die b) d := by
  have put : SameUsers
      (if die = 0 then { d with xl := { d.xl with b0 := b } } else { d with xl := { d.xl with b1 := b } }) d :=
    ite_keeps (SameUsers · d) ⟨rfl, rfl, rfl, fun _ => rfl⟩ ⟨rfl, rfl, rfl, fun _ => rfl⟩
  have shown {f : Fld} {v : Nat} {d : Dev} (hf : f.reg = .trnBatchState) : SameUsers (d.wr f (64 + die) v) d := by
    refine sameUsers_wr ?_
    simp only [hf, RegInfo.key, RegName.info]
    omega
  unfold Dev.setBatcher
  exact (shown rfl).trans <| (shown rfl).trans <| (shown rfl).trans put

theorem sameUsers_dropWaiters (p : Waiter → Bool) : SameUsers (d.dropWaiters p) d := by
  have zero {d : Dev} {b : Batcher} : SameUsers (d.setBatcher 0 b) d := sameUsers_setBatcher (by decide) b
  have one {d : Dev} {b : Batcher} : SameUsers (d.setBatcher 1 b) d := sameUsers_setBatcher (by decide) b
  have walked (x : Xlat) (d : Dev) : SameUsers { d with xl := x } d := ⟨rfl, rfl, rfl, fun _ => rfl⟩
  unfold Dev.dropWaiters
  dsimp only
  exact one.trans <| zero.trans <| (walked _ _).trans <| one.trans zero

theorem sameUsers_setOwner {tile : Nat} (h : tile < 2 ^ 18) (o : Option (Nat × Bool)) : SameUsers (d.setOwner tile o) d := by
  refine (sameUsers_wr ?_).trans ⟨rfl, rfl, rfl, fun _ => rfl⟩
  simp only [RegInfo.key, RegName.info]
  omega

/-! ### The work of a block ends -/

theorem total_same {f : Dev → Dev} (h : ∀ e, SameUsers (f e) e) : Total (SameUsers · d) (SameUsers · d) (modDev f) :=
  total_modDev fun e he => (h e).trans he

theorem mem_range' {lo n k : Nat} : k ∈ range' lo n ↔ lo ≤ k ∧ k < lo + n := by
  simp only [range', List.mem_range'_1]

theorem total_loseTiles {c : Nat} (hc : c < 2048) : Total (SameUsers · d) (SameUsers · d) (loseTiles c) := by
  refine total_bind (total_each_mem fun tile ht => total_same fun _ => sameUsers_setOwner ?_ none) fun _ =>
    total_bind (total_same fun _ => ⟨rfl, rfl, rfl, fun _ => rfl⟩) fun _ =>
    total_same fun e => sameUsers_foldl (fun n hn e => sameUsers_setWord ?_) e
  · have := (mem_range'.mp ht).2
    omega
  · simp only [RegInfo.key, RegName.info]
    have := List.mem_range.mp hn
    omega

theorem total_endCluster {c : Nat} (hc : c < 2048) (hs : (d.cl c).slice = none) (hu : d.users (pg bGCL c) = []) :
    Total (SameUsers · d) (SameUsers · d) (endCluster c) := by
  refine total_dev_bind fun e he => Total.from (P := (SameUsers · d)) ?_ he
  rw [he.users, hu]
  refine total_bind (total_pure ()) fun _ => total_bind (total_dev_bind fun e he => Total.from (P := (SameUsers · d)) ?_ he) fun _ =>
    total_bind (total_same fun _ => sameUsers_dropWaiters _) fun _ => total_loseTiles hc
  rw [he.cl, hs]
  exact total_pure ()

theorem total_losePort_empty {p : Nat} (h : d.peersOn p = []) : Total (SameUsers · d) (SameUsers · d) (losePort p) :=
  total_dev_bind fun e he => Total.from (P := (SameUsers · d)) (by rw [he.peersOn, h]; exact total_pure ()) he

/-- Where no descriptor uses a page, none is stopped. -/
theorem total_stopAll_users {page st rs : Nat} (h : d.users page = []) :
    Total (SameUsers · d) (SameUsers · d) (do stopAll ((← dev).users page) st rs) :=
  total_dev_bind fun e he => Total.from (P := (SameUsers · d)) (by rw [he.users, h]; exact total_pure ()) he

/-- No descriptor is of a queue of the page. -/
def Dev.noneQueued (i : Nat) (d : Dev) : Prop := ∀ x ∈ d.descs, x.q / 16 + 1 ≠ i

theorem Dev.noneQueued.descsOf {i q : Nat} (h : d.noneQueued i) (hq : q / 16 + 1 = i) : d.descsOf q = [] :=
  List.filter_eq_nil_iff.mpr fun x hx => by
    have := h x hx
    simp only [beq_iff_eq]
    omega

theorem descs_dropKept (d : Dev) (q : Nat) : (d.dropKept q).descs = d.descs :=
  (like_foldl (fun _ _ => like_setOwner ..) _ d).descs

/-- A queue that lists no descriptor is reset. -/
theorem total_resetQueue {i q : Nat} (hq : q / 16 + 1 = i) :
    Total (Dev.noneQueued i) (Dev.noneQueued i) (resetQueue q) := by
  have same {f : Dev → Dev} (h : ∀ d, (f d).descs = d.descs) : Total (Dev.noneQueued i) (Dev.noneQueued i) (modDev f) :=
    total_modDev fun d hd => by rwa [Dev.noneQueued, h]
  have disabled : Total (Dev.noneQueued i) (Dev.noneQueued i) (qwr F.queState_enable q 0) :=
    same (f := fun d => d.wr F.queState_enable (1 + q / 16) 0 (q % 16)) fun _ => rfl
  refine total_bind (total_rd ..) fun st => total_ite ?_ (total_pure ())
  refine total_bind disabled fun _ => total_bind (same fun d => by simp) fun _ => total_dev_bind fun d hd => ?_
  rw [hd.descsOf hq]
  refine Total.from (total_bind (total_pure ()) fun _ => total_bind ⟨fun i t ht => ?_⟩ fun _ => same fun d => ?_) hd
  · exact ⟨(), t, run_dropUnwritten (.inr (ht.descsOf hq)), ht⟩
  · rw [← descs_dropKept d q]
    exact ite_keeps (Dev.descs · = (d.dropKept q).descs) (by simp) rfl

/-- The work of a region that nothing uses ends at once: its clusters' and stages', and its port's sessions. -/
theorem total_endRegion {page i : Nat} (hi : i < 256) (hu : d.users page = []) (hp : d.peersOn i = [])
    (hs : d.users (pg bINT i) = []) (hc : ∀ c, c / 8 = i → (d.cl c).slice = none ∧ d.users (pg bGCL c) = []) :
    Total (SameUsers · d) (SameUsers · d) (do
      each (range' (8 * i) 8) endCluster
      stopAll ((← dev).users (pg bINT i)) sCANCELLED rNONE
      losePort i
      stopAll ((← dev).users page) sCANCELLED rNONE) := by
  refine total_bind (total_each_mem fun c hm => ?_) fun _ =>
    total_dev_bind fun e he => Total.from (P := (SameUsers · d)) ?_ he
  · have hb := mem_range'.mp hm
    obtain ⟨slice, users⟩ := hc c (by omega)
    exact total_endCluster (by omega) slice users
  · rw [he.users, hs]
    exact total_bind (total_pure ()) fun _ => total_bind (total_losePort_empty hp) fun _ => total_stopAll_users hu

theorem total_endPort {p : Nat} (h : d.peersOn p = []) : Total (· = d) Always (endPort p) :=
  total_bind ((total_losePort_empty h).from (SameUsers.refl d)) fun _ =>
    Total.anywhere <| total_bind (total_setPortState ..) fun _ => total_always_modDev _

theorem total_endLoad (st err : Nat) : Total Always Always (endLoad st err) :=
  total_bind (total_change (total_always_modDev _)) fun _ => total_change <| total_bind total_now fun _ =>
    total_change <| total_always_modDev _

/-- The work of a block that nothing uses ends at once. -/
theorem total_endWork {page : Nat} (h : d.workFree page) : Total (· = d) Always (endWork page) := by
  have hi : page % 256 < 256 := Nat.mod_lt _ (by decide)
  have none' : Total (· = d) Always (pure ()) := (total_pure ()).mono fun _ _ => True.intro
  obtain ⟨hu, hq, hc, hpeer, hr, hcp⟩ := h
  have unused : Total (· = d) Always (do stopAll ((← dev).users page) sCANCELLED rNONE) :=
    ((total_stopAll_users hu).from (SameUsers.refl d)).mono fun _ _ => True.intro
  unfold endWork
  dsimp only
  split
  · rename_i ht
    split
    · exact none'
    · rename_i hz
      refine ((total_each_mem fun q hm => total_resetQueue ?_).from (hq ht)).mono fun _ _ => True.intro
      have hb := mem_range'.mp hm
      omega
  split
  · rename_i ht
    obtain ⟨slice, users⟩ := hc (by tauto)
    exact ((total_endCluster (by omega) slice users).from (SameUsers.refl d)).mono fun _ _ => True.intro
  split
  · rename_i ht
    exact total_ite (total_endPort (hpeer (.inl ht))) none'
  split
  · rename_i ht
    obtain ⟨stages, clusters⟩ := hr ht
    exact ((total_endRegion hi hu (hpeer (.inr ht)) stages clusters).from (SameUsers.refl d)).mono fun _ _ => True.intro
  split
  · exact total_bind (total_rd ..) fun _ => total_ite (total_endLoad ..).anywhere none'
  split
  · rename_i ht
    refine total_dev_bind fun e he => ?_
    subst he
    rw [hcp ht]
    exact none'
  · exact total_ite none' unused

/-! ### What the block shows, and its new world -/

theorem total_syncPtp : Total Always Always syncPtp := by
  have changed {l : List Nat} {f g : Nat → Dev → Dev} :
      Total Always Always (each l fun p => do modDev (f p); modDev (g p)) :=
    total_each fun p => total_change (total_always_modDev _)
  exact total_bind total_dev fun d => total_bind changed fun _ => total_bind changed fun _ =>
    total_ite (total_runBmca _) (total_pure ())

theorem total_readJrn (i : Nat) : Total Always Always (readJrn i) :=
  total_bind total_dev fun _ => total_bind (total_peeks ..) fun _ => total_pure _

theorem total_showJrn : Total Always Always showJrn := by
  refine total_bind total_dev fun d => ?_
  dsimp only
  exact total_ite (total_bind (total_readJrn _) fun _ => total_always_modDev _)
    (total_bind (total_pure _) fun _ => total_always_modDev _)

theorem total_reshow (page : Nat) : Total Always Always (reshow page) := by
  have shown {f : Dev → Dev} {m : M Unit} {c : Prop} [Decidable c] (h : Total Always Always m) :
      Total Always Always (if c then modDev f else m) := total_ite (total_always_modDev f) h
  unfold reshow
  dsimp only
  refine total_ite ?_ <| shown <| total_ite (total_ite (total_always_modDev _) total_showJrn) <| total_ite ?_ <|
    total_ite (total_always_modDev _) <| shown <| shown <| shown <| total_ite ?_ (total_pure ())
  · refine total_change <| total_change <| total_change <| total_bind total_syncPtp fun _ =>
      total_bind (total_always_rd ..) fun _ => total_bind (total_always_rd ..) fun _ =>
      total_ite (total_climb _) (total_pure ())
  · exact total_change <| total_bind total_now fun _ => total_always_modDev _
  · refine total_bind total_dev fun d => ?_
    split
    · exact total_pure ()
    · exact total_always_modDev _

theorem total_rest (page : Nat) : Total Always Always (rest page) := total_always_modDev _

theorem total_functionReset {page : Nat} (h : d.workFree page) : Total (· = d) Always (functionReset page) :=
  total_bind (total_endWork h) fun _ => total_change <| total_bind (total_reshow _) fun _ => total_rest _

theorem total_flushLines (p : Nat → Bool) : Total Always Always (flushLines p) :=
  total_bind total_dev fun _ => total_each fun n => total_bind (steady_writeBack n).total fun _ => total_always_modDev _

theorem total_setWays (r cache scratch pinned : Nat) : Total Always Always (setWays r cache scratch pinned) := by
  have parts {p a b c : Nat} : Total Always Always (do
      wr F.llsPart_cache p a; wr F.llsPart_scratch p b; wr F.llsPart_pinned p c) :=
    total_change <| total_change <| total_always_modDev _
  have wiped {lo hi : Nat → Nat} {l : List Nat} : Total Always Always (each l fun s => wipeRange (lo s) (hi s)) :=
    total_each fun s => ⟨fun _ _ _ => ⟨_, _, rfl, True.intro⟩⟩
  have released : Total Always Always (each (List.range 16) fun n => releasePin r n) :=
    total_each fun n => (steady_releasePin r n).total
  have dropped : Total Always Always (each (List.range 8) fun m => do
      let st ← rd F.gclResCfg_state 64 m
      if st = 1 ∨ st = 2 then setSlot m 3) :=
    total_each fun m => total_bind (total_always_rd ..) fun _ => total_ite (steady_setSlot m 3).total (total_pure ())
  refine total_bind total_dev fun d => total_branch ?_ fun rest =>
    total_bind released fun _ => total_bind dropped fun _ => rest
  refine total_branch ?_ fun rest => total_bind total_dev fun _ => total_bind (total_flushLines _) fun _ => rest
  exact total_branch parts fun rest => total_bind wiped fun _ => rest

/-- A page that nothing uses changes its world. -/
theorem total_changeWorld {page : Nat} (h : d.workFree page) (world : Nat) :
    Total (· = d) Always (changeWorld page world) := by
  have after : Total Always Always (afterWorld page) :=
    total_ite (total_change (total_reshow page)) <| total_ite (total_change (total_reshow page)) <|
      total_bind (total_pure ()) fun _ => total_reshow page
  have ends {f : Dev → Dev} : Total Always Always (do
      modDev f
      afterWorld page
      wr F.pageWorld_world page world
      rest page) :=
    total_change <| total_bind after fun _ => total_change <| total_rest _
  exact total_bind (total_functionReset h) fun _ => Total.anywhere <| total_branch ends fun ends =>
    total_bind (total_each fun n => (steady_releasePin _ _).total) fun _ => total_bind (total_setWays ..) fun _ => ends

section
variable {page v : Nat} {w : RegAcc} {i : Image}

/-- The world that a page has is no change of it. -/
theorem run_worldWrite_same (h : bits v 0 1 = t.dev.pageWorld page) :
    worldWrite page v w i t = (if bit v 1 then wr F.pageWorld_lock page 1 else pure ()) i t := by
  simp [worldWrite, h]

/-- Another world: what the page's lock and its conditions make of it. -/
theorem run_worldWrite_other (hf : worldFixed page = false) (h : t.dev.pageWorld page ≠ bits v 0 1) (hl : bit v 1 = false) :
    worldWrite page v w i t = (if t.dev.rd F.pageWorld_lock page = 1 then w.capture kLOCKED
      else if !t.dev.worldFree page then w.ignore else changeWorld page (bits v 0 1)) i t := by
  simp [worldWrite, h.symm, hf, hl]

end

/-- Settles O48: a page takes a world that it may take, and its lock. -/
theorem pageWorlds : Obligations.PageWorlds := by
  unfold Obligations.PageWorlds
  intro s page a t p locked
  refine ⟨fun secure => ?_, fun hr => ?_⟩
  · intro w hr
    have world : bits (b2n secure) 0 1 = b2n secure := by cases secure <;> rfl
    have unlocked : bit (b2n secure) 1 = false := by cases secure <;> rfl
    refine ⟨fun h => ?_, fun hf h => ?_⟩
    · have same := run_worldWrite_same (t := s.start) (w := w) (i := s.image) (world.trans h.symm)
      rw [unlocked] at same
      exact transact_reaches_put (d := s.dev) hr same
    · have other := run_worldWrite_other (t := s.start) (w := w) (i := s.image) hf (by rwa [world]) unlocked
      rw [world] at other
      have becomes {m : M Unit} (hm : (if s.dev.rd F.pageWorld_lock p = 1 then w.capture kLOCKED
          else if !s.dev.worldFree p then w.ignore else changeWorld p (b2n secure)) = m) :
          exec (.pageWorldWrite page secure a) s = transact m s := by
        subst hm
        exact transact_congr ((RegAcc.run_reaches (t := s.start) hr _).trans other)
      refine ⟨fun hl => ?_, fun hl hw => ?_, fun hl hw => ?_⟩
      · exact (becomes (if_pos hl)).trans
          (transact_after rfl ((by unfold RegAcc.capture; exact total_always_modDev _ : Total _ _ _).ends _ _))
      · have ignored := becomes ((if_neg hl).trans (if_pos (by simp [hw])))
        exact ignored.trans (transact_after rfl ((RegAcc.total_ignore w).ends _ _))
      · have changes := becomes ((if_neg hl).trans (if_neg (by simp [hw])))
        exact ⟨fun ht => changes.trans (transact_runs ht),
          fun hfree => changes.trans (transact_after rfl ((total_changeWorld hfree _).ends_at rfl))⟩
  · have small : s.dev.pageWorld p < 2 := Dev.rd_lt ..
    have world : bits (2 + s.dev.pageWorld p) 0 1 = s.dev.pageWorld p := by
      simp only [bits]
      omega
    have locks : bit (2 + s.dev.pageWorld p) 1 = true := by
      simp only [bit, beq_iff_eq]
      omega
    have same := run_worldWrite_same (t := s.start) (w := pageAcc p 8 (2 + s.dev.pageWorld p) a) (i := s.image) world
    rw [locks] at same
    refine transact_put (Eq.trans ?_ ((RegAcc.run_reaches (t := s.start) hr _).trans same))
    simp [pageWorld, p]

end Sys2Proof.Machine
end

section
/-! Frames received: one that passes its checks takes effect at once. -/

namespace Sys2Proof.Machine

variable {P : Dev → Prop} {d : Dev} {s : State} {t : Tx}

/-! ### Headers and frames in sequence (R394 to R401) -/

theorem OfLists.total_takeHeader (hP : OfLists P) (n : Nat) (f : Frame) : Total P P (takeHeader n f) := by
  refine total_bind total_dev fun d => ?_
  dsimp only
  refine total_branch (total_ite (hP.total fun _ => rfl) (total_pure ())) fun rest => ?_
  exact total_bind (hP.total fun _ => rfl) fun _ =>
    total_bind (total_bind total_dev fun _ => hP.total_wr ..) fun _ => rest

theorem total_measureDelay (p n sent : Nat) : Total Always Always (measureDelay p n sent) := by
  refine total_bind total_dev fun d => total_ite ?_ (total_pure ())
  exact total_ite (total_change <| total_change <| total_change <| total_always_modDev _) (total_always_modDev _)

theorem total_controlMark (p n : Nat) (f : Frame) : Total Always Always (controlMark p n f) :=
  total_bind total_dev fun _ => total_change <| total_ite (total_change (total_measureDelay ..)) (total_pure ())

theorem total_takeFrame (p n : Nat) (f : RxFrame) : Total Always Always (takeFrame p n f) := by
  refine total_change <| total_ite (total_always_modDev _) <| total_bind total_dev fun d => ?_
  dsimp only
  refine total_ite (total_change ?_) (total_always_modDev _)
  split
  · exact total_pure ()
  · exact total_always_modDev _

theorem total_advanceFlow (p n : Nat) : Total Always Always (advanceFlow p n) := by
  refine total_repeatM (total_bind total_dev fun d => ?_) _
  dsimp only
  split
  · exact total_pure _
  · exact total_ite (total_change <| total_bind (total_takeFrame ..) fun _ => total_pure _) (total_pure _)

theorem total_tearFrame (p n : Nat) (f : Frame) (charge : Nat) : Total Always Always (tearFrame p n f charge) :=
  total_bind total_now fun _ => total_bind total_dev fun _ => total_change <|
    total_ite (total_change (total_advanceFlow ..)) (total_pure ())

theorem total_receiveData (p kind : Nat) (f : Frame) : Total Always Always (receiveData p kind f) := by
  refine total_bind total_dev fun d => ?_
  dsimp only
  refine total_ite (total_always_modDev _) <| total_ite (total_always_modDev _) <| total_change ?_
  refine total_branch ?_ fun rest => total_change rest
  refine total_branch ?_ fun rest => total_bind (total_measureDelay ..) fun _ => rest
  refine total_branch ?_ fun rest => total_bind (ofWork_always.total_closeTear ..) fun _ => rest
  refine total_ite (total_bind (total_tearFrame ..) fun _ => total_settlePort _) <| total_change <| total_change <|
    total_change <| total_bind (total_advanceFlow ..) fun _ => total_bind total_dev fun _ => ?_
  exact total_ite (total_change (total_settlePort _)) <|
    total_when (total_sendNak _) (total_settlePort _)

theorem total_receiveNak (n : Nat) (body : List Byte) : Total Always Always (receiveNak n body) :=
  total_each fun _ => total_bind total_dev fun _ => total_each fun _ => total_resend ..

theorem total_dropApplied (n upto : Nat) : Total Always Always (dropApplied n upto) :=
  total_change <| total_bind total_dev fun _ => total_bind total_dev fun _ => total_always_modDev _

/-! ### Messages taken (R403, R404) -/

theorem keeps_always {α : Type} (m : M α) : Keeps Always m := by
  refine ⟨fun i t _ => ?_⟩
  split
  · trivial
  · trivial
  · exact fun _ _ => trivial
  · trivial

theorem total_serveAll (held ms : List InMsg) : Total Always Always (serveAll held ms) := by
  induction ms generalizing held with
  | nil => exact total_pure _
  | cons m ms ih =>
    have served : Total Always Always (tried do
        match ← caught (serve m) with
        | .ok _ => pure ()
        | .error _ => pure ()) := by
      refine total_tried (keeps_always _) (unfailing_bind (unfailing_caught _) fun r => ?_)
      cases r with
      | ok _ => exact unfailing_pure ()
      | error _ => exact unfailing_pure ()
    have rest (done : Bool) : Total Always Always (if done then serveAll held ms else do
        let rest ← serveAll (m :: held) ms
        return m :: rest) := total_ite (ih held) (total_bind (ih _) fun _ => total_pure _)
    exact total_bind total_dev fun d => total_ite (total_bind (total_pure _) rest) (total_bind served rest)

theorem total_pump : Total Always Always pump :=
  total_bind total_dev fun _ => total_change <| total_bind (total_serveAll ..) fun _ => total_change <|
    total_each fun _ => total_settlePort _

/-- A frame other than HELLO and HELLO_ACK takes effect at once; BYE, where its node can be lost whole. -/
theorem total_acceptFrame {p kind : Nat} {f : Frame} (h4 : kind ≠ 0x04) (h5 : kind ≠ 0x05)
    (h6 : kind = 0x06 → d.lossFree f.src.toNat) : Total (· = d) Always (acceptFrame p kind f) := by
  have hP : OfLists fun e : Dev => kind = 0x06 → e.lossFree f.src.toNat :=
    fun d e h hd hk => ofLists_lossFree _ d e h (hd hk)
  have taken : Total Always Always (do releaseItems; pump) := total_bind total_releaseItems fun _ => total_pump
  have dropped := fun a => total_bind (total_dropApplied f.src.toNat a) fun _ => taken
  have nak := total_bind (total_receiveNak f.src.toNat f.body) fun _ => taken
  refine Total.from (P := fun e => kind = 0x06 → e.lossFree f.src.toNat) (total_bind total_now fun et => ?_) h6
  dsimp only
  rw [if_neg h4, if_neg h5]
  refine total_branch ?_ fun rest => total_bind (hP.total_bump ..) fun _ => rest
  refine total_bind (hP.total fun _ => rfl) fun _ => total_bind (hP.total_takeHeader ..) fun _ => ?_
  split
  · rename_i hk
    exact total_bind ⟨fun i t ht => (total_losePeer ..).out i t (ht hk)⟩ fun _ => taken
  · refine Total.anywhere <| total_ite (total_bind (total_controlMark ..) fun _ => ?_)
      (total_bind (total_receiveData ..) fun _ => taken)
    exact total_ite (dropped _) (total_ite nak taken)

/-! ### HELLO and HELLO_ACK (R393) -/

/-- A value that is no default, written over by another such, is gone. -/
theorem SMap.set_set {α : Type} [DecidableEq α] {d v w : α} (m : SMap α) (a : Nat) (hv : v ≠ d) (hw : w ≠ d) :
    SMap.set d (SMap.set d m a v) a w = SMap.set d m a w := by
  rw [SMap.set, SMap.set, SMap.set, if_neg hv, if_neg hw, if_neg hw]
  induction m with
  | nil => simp [SMap.insert]
  | cons e m ih =>
    by_cases hk : e.1 = a
    · simp [SMap.insert, hk]
    · by_cases hl : a < e.1 <;> simp [SMap.insert, hk, hl, ih]

theorem Dev.peer_setPeer (d : Dev) (n : Nat) (x : Peer) : (d.setPeer n x).peer n = x := SMap.get_set_same ..

/-- A node that is known, changed twice. -/
theorem Dev.setPeer_setPeer (d : Dev) (n : Nat) {x y : Peer} (hx : x.state ≠ nNONE) (hy : y.state ≠ nNONE) :
    (d.setPeer n x).setPeer n y = d.setPeer n y := by
  have known {x : Peer} (h : x.state ≠ nNONE) : x ≠ Peer.none := fun e => h (e ▸ rfl)
  simp only [Dev.setPeer, SMap.set_set d.peers n (known hx) (known hy)]

theorem total_sessionBegins (n applied : Nat) : Total Always Always (sessionBegins n applied) :=
  total_bind total_dev fun _ => total_change <| total_change <| total_change <| total_change <| total_bind total_dev fun _ =>
    total_change <| total_change <| total_dropApplied ..

/-- A node that a HELLO or a HELLO_ACK has told its session. -/
def Peer.met' (x : Peer) (f : Frame) : Peer :=
  { x with peerSession := f.session.toNat, mark := if f.seq.toNat = 0 then f.sentEt.toNat else x.mark }

section
variable {i : Image} {p n : Nat} {f : Frame}

/-- A HELLO of no new session is answered with what has been applied. -/
theorem run_receiveHello {v : Nat} {u : Tx} (hc : (t.dev.peer n).state = nCONNECTING) (hs : (t.dev.peer n).session ≠ 0)
    (ha : appliedFrom n i
      { t with dev := t.dev.setPeer n { (t.dev.peer n).met' f with lastRxEt := t.dev.time.et } } = .ok v u) :
    receiveHello p n f i t = .ok () (ran (sendControl n 0x05 (toBytes 16 (2 ^ 64 * v))) i u) := by
  refine Eq.trans ?_ (run_sendHello ha)
  have up : ¬(t.dev.peer n).state = nUP := by rw [hc]; decide
  have known : (t.dev.peer n).state ≠ nNONE := by rw [hc]; decide
  simp only [receiveHello, run_bind, run_dev, chain_ok, eq_true hc, hs, up, false_and, if_false, true_and, true_or, if_true,
    not_false_eq_true, ne_eq, run_now, run_modPeer, Dev.peer_setPeer]
  rw [Dev.setPeer_setPeer _ _ (by exact known) (by exact known)]
  rfl

theorem run_receiveHelloAck (hc : (t.dev.peer n).state = nCONNECTING) :
    receiveHelloAck n f i t = peerUp n (byteField (fromBytes f.body) 8 8) i
      { t with dev := t.dev.setPeer n ((t.dev.peer n).met' f) } := by
  simp only [receiveHelloAck, run_bind, run_dev, chain_ok, eq_true hc, if_true, run_modPeer, Peer.met']

end

/-- Each command of a frame receives a frame of its KIND. -/
theorem exec_frame {e : Nat × (Fin 8 → Frame → Instr)} (he : e ∈ frameCommands) (p : Fin 8) (f : Frame) (s : State) :
    exec (e.2 p f) s = transact (receiveFrame p.val e.1 f) s := by
  fin_cases he <;> rfl

/-- A frame that its checks let pass, or not. -/
theorem run_receiveFrame {p kind : Nat} {f : Frame} {ok : Bool} (hl : s.dev.linkUp p = true) (hc : s.frameChecks p kind f ok t) :
    receiveFrame p kind f s.image s.start =
      (if ok then acceptFrame p kind f else bump F.txpRxDiscard_count p) s.image t := by
  have checked : frameOk p kind f s.image ⟨s.dev.bump F.txpRxBytes_count p (frameBytes f.start f.body.length), []⟩ = .ok ok t :=
    hc
  cases ok <;> simp [receiveFrame, hl, checked]

section
variable {i : Image} {p : Nat} {f : Frame}

theorem run_acceptFrame_hello (ht : f.sentEt.toNat < t.dev.time.et) :
    acceptFrame p 0x04 f i t = receiveHello p f.src.toNat f i t := by
  simp [acceptFrame, Nat.not_le.mpr ht]

theorem run_acceptFrame_helloAck (ht : f.sentEt.toNat < t.dev.time.et) :
    acceptFrame p 0x05 f i t = receiveHelloAck f.src.toNat f i t := by
  simp [acceptFrame, Nat.not_le.mpr ht]

end

/-- Settles O35: a frame is counted, and what its checks find decides whether it takes effect. -/
theorem framesReceived : Obligations.FramesReceived := by
  unfold Obligations.FramesReceived
  refine ⟨fun e he s p f ok t hl hchecks => ?_, fun s p hl => ⟨fun bytes => ?_, ?_, fun body => ?_⟩⟩
  · intro n x et met
    have accepts {u : Tx} (ho : ok = true) (h : acceptFrame p.val e.1 f s.image t = .ok () u) :
        exec (e.2 p f) s = .next (settle s u) := by
      rw [exec_frame he]
      exact transact_runs ((run_receiveFrame hl hchecks).trans (by rw [ho]; exact h))
    refine ⟨fun ho => ?_, fun t' ho h => accepts ho h, fun ho h4 h5 h6 => ?_, fun v t' ho h4 ht hc hs ha => ?_, ?_⟩
    · rw [exec_frame he]
      exact transact_runs ((run_receiveFrame hl hchecks).trans (by rw [ho]; rfl))
    · exact accepts ho (runs_ran ((total_acceptFrame h4 h5 h6).ends_at rfl))
    · refine accepts ho ?_
      rw [h4, run_acceptFrame_hello ht]
      exact run_receiveHello hc hs ha
    · intro applied begun ho h5 ht hc
      have begins : sessionBegins n applied s.image { t with dev := t.dev.setPeer n met } = .ok () begun :=
        runs_ran ((total_sessionBegins ..).ends ..)
      have answers {u : Tx} (h : peerUp n applied s.image { t with dev := t.dev.setPeer n met } = .ok () u) :
          exec (e.2 p f) s = .next (settle s u) := by
        refine accepts ho ?_
        rw [h5, run_acceptFrame_helloAck ht, run_receiveHelloAck hc]
        exact h
      refine ⟨fun hr => ?_, fun v t' hr hv hle hn => ?_⟩
      · refine answers ?_
        simp only [peerUp, run_bind, begins, chain_ok, run_dev, hr, Bool.false_eq_true, if_false, run_pure]
      · refine answers ?_
        have sent : rmtRead n 8 s.image begun = .ok v t' := hv
        simp only [peerUp, run_bind, begins, chain_ok, run_dev, hr, if_true, sent, Nat.not_lt.mpr hle, if_false,
          run_sendOwed_none hn]
  · refine transact_after ?_ ((total_countOpen _).ends _ _)
    simp [hl]
  · refine transact_put ?_
    simp [hl]
  · refine transact_put ?_
    simp [hl]

end Sys2Proof.Machine
end
